-- ==== Sys2Proof/Word.lean ====
section
/-! DEFINITION. The words of the QH7: bytes, registers, vector registers and addresses, and their plainest arithmetic. -/
namespace Sys2Proof

/-- One byte of any storage. -/
abbrev Byte := BitVec 8
/-- A 64-bit register word. -/
abbrev Word := BitVec 64
/-- The 2,048 bits of a vector register, byte 0 in the low bits (R230). -/
abbrev VWord := BitVec 2048
/-- A 56-bit program counter (R267). -/
abbrev Pc := BitVec 56

/-- Bits `hi` to `lo` of a number, as a number. -/
def bits (n hi lo : Nat) : Nat := n / 2 ^ lo % 2 ^ (hi + 1 - lo)

/-- One bit of a number. -/
def bit (n i : Nat) : Nat := n / 2 ^ i % 2

/-- The signed value of the low `w` bits of a number. -/
def sval (w n : Nat) : Int :=
  if (n % 2 ^ w) * 2 < 2 ^ w then (n % 2 ^ w : Nat) else ((n % 2 ^ w : Nat) : Int) - ((2 ^ w : Nat) : Int)

/-- The low `w` bits of an integer, as a number. -/
def wrap (w : Nat) (v : Int) : Nat := (v % ((2 ^ w : Nat) : Int)).toNat

/-- A number rounded up to a multiple of `g`. -/
def alignUp (n g : Nat) : Nat := (n + g - 1) / g * g

/-- The number of blocks of `g` that cover `n`. -/
def ceilDiv (n g : Nat) : Nat := (n + g - 1) / g

end Sys2Proof
end

