-- ==== Sys2Proof/Config.lean ====
section
/-! DEFINITION. What an implementation fixes, and the free values: constants without a body, so that no proof can use what they are (log 3, 9). -/
namespace Sys2Proof

/-- A byte whose value the manual leaves unspecified (R9), one for each value of the state's counter `fresh`. -/
opaque Config.freeByte : Nat → BitVec 8

/-- A 64-bit word whose value the manual leaves unspecified (R9). -/
opaque Config.freeWord : Nat → BitVec 64

/-- A choice among alternatives that the manual leaves to firmware, below the given bound when it is not zero. -/
opaque Config.freeChoice : Nat → Nat → Nat

/-- The 57 bytes of the secret of a package's alias key, which the root of trust derives from the measurements of the firmware image and of the board
configuration (R92). -/
opaque Config.aliasSecret : Nat → List (BitVec 8) → List (BitVec 8)

/-- The stepping of the part, and the row repairs that its LPDDR6 devices allow (R85, R94). -/
opaque Config.stepping : Nat
/-- The row repairs that the LPDDR6 devices of the package allow (R94). -/
opaque Config.dramSpares : Nat

/-- The 57 bytes of a public key of the package, by its number: 0 device, 1 owner, 3 to 6 the vendor's firmware keys,
7 the test key (R91, R92, R95). -/
opaque Config.publicKey : Nat → List (BitVec 8)

/-- The 64 bytes of a measurement: 0 firmware image, 1 board configuration (R92, R93). -/
opaque Config.measurement : Nat → List (BitVec 8)

/-- The bytes of QUERY items 0, 2 and 3 from their contents, whose places in the item R85 does not give (log 16). -/
opaque Config.queryLayout : Nat → List Nat → List (BitVec 8)

/-- The device certificate chain of a package, from the device key to the alias key that those measurements give (R85, R92). -/
opaque Config.certificate : Nat → List (BitVec 8) → List (BitVec 8)

end Sys2Proof
end

