-- ==== Sys2Proof/Syntax.lean ====
section
/-! DEFINITION. The instructions of the QH7 and the operations of its package, one constructor for each row of the opcode table. -/
namespace Sys2Proof

/-- A scalar-class register specifier (R235). -/
abbrev SReg := BitVec 6
/-- A vector register (R235). -/
abbrev VReg := BitVec 4
/-- A pointer register, specifier 32 + i (R235). -/
abbrev PReg := BitVec 4
/-- A shape register, specifier 56 + i (R352). -/
abbrev ShReg := BitVec 2
/-- A tile register (R370). -/
abbrev TReg := BitVec 3
/-- An accumulator, tile-class specifier 8 + i (R370). -/
abbrev CReg := BitVec 2

/-- The element types of R275. -/
inductive Ty where
  | i8 | u8 | i16 | i32 | i64 | i4 | n4x | f8e4 | f8e5 | bf16 | f16 | f32 | u16 | u32
  deriving DecidableEq, Repr

/-- A type, or the format of the operand's bank (code 15, R275). -/
inductive TyB where
  | ty (t : Ty)
  | bank
  deriving DecidableEq, Repr

/-- Landing-pad kinds (R272). -/
inductive PadKind where
  | call | jump | ret | handler | firing | trap
  deriving DecidableEq, Repr

/-- Conditions (R304). -/
inductive Cond where
  | eq | ne | lt | ge | le | gt | un
  deriving DecidableEq, Repr

/-- Rounding modes in the order of R305. -/
inductive Rm where
  | rne | rtz | rdn | rup
  deriving DecidableEq, Repr

/-- Fence and release scopes (R219). -/
inductive Scope where
  | core | die | dev | sys
  deriving DecidableEq, Repr

/-- The stall count and the predicate of a slot (R273). -/
structure Ctl where
  stall : BitVec 4
  pk    : BitVec 3
  pn    : Bool
  deriving DecidableEq, Repr

/-- A second source: a register, or the 48-bit immediate (R311). -/
inductive SrcB where
  | reg (r : SReg)
  | imm (v : BitVec 48)
  deriving DecidableEq, Repr

/-- The increment of a post-increment access (R328, R330). -/
inductive Inc where
  | size
  | imm (v : BitVec 48)
  | reg (r : SReg)
  deriving DecidableEq, Repr

/-- The count of BINIT (R338, R345). -/
inductive BinitArg where
  | reg (r : SReg)
  | imm (v : BitVec 32)
  | group (g : BitVec 8)
  deriving DecidableEq, Repr

/-- The requested extents of SHAPE (R357). -/
inductive ShapeArg where
  | imm (m n k : BitVec 16)
  | regs (a b c : SReg)
  deriving DecidableEq, Repr

/-- The second operand of a vector operation (R362). -/
inductive VB where
  | vec (v : VReg)
  | scal (s : SReg)
  deriving DecidableEq, Repr

/-- The source of VBCAST (R362). -/
inductive BcastSrc where
  | scal (s : SReg)
  | elem (v : VReg) (idx : BitVec 16)
  deriving DecidableEq, Repr

/-- The direction and operands of VMOVS (R362). -/
inductive MovsDir where
  | extract (d : SReg) (a : VReg)
  | insert (d : VReg) (a : SReg)
  deriving DecidableEq, Repr

/-- A matrix operand in a tile register or in memory (R378). -/
inductive MatOp where
  | tile (t : TReg)
  | mem (s : SReg)
  deriving DecidableEq, Repr

/-- A tile-class register (R235). -/
inductive TileReg where
  | t (r : TReg)
  | c (r : CReg)
  deriving DecidableEq, Repr

/-- The source of KSET (R369). -/
inductive KsetArg where
  | extent (ty : Ty) (a : SReg) (sh : ShReg) (x : SReg)
  | imm (v : BitVec 48)
  deriving DecidableEq, Repr

/-- The target of RACK (R428). -/
inductive RackArg where
  | imm (v : BitVec 3)
  | reg (r : SReg)
  deriving DecidableEq, Repr

/-- The token count of PORT (R429). -/
inductive PortArg where
  | reg (r : SReg)
  | imm (v : BitVec 8)
  deriving DecidableEq, Repr

/-- The modifier word (R283). -/
structure ModWord where
  sat  : Bool
  neg  : Bool
  abs  : Bool
  scl  : Bool
  clmp : Bool
  e    : BitVec 8
  clo  : BitVec 32
  chi  : BitVec 32
  deriving DecidableEq, Repr

/-- The matrix control word (R372). -/
structure MCtl where
  x     : SReg
  sa    : SReg
  sb    : SReg
  bar   : SReg
  trapf : Bool
  acq   : Bool
  rel   : Bool
  scope : Scope
  rm    : Rm
  mt    : BitVec 4
  sp    : BitVec 3
  deriving DecidableEq, Repr

/-- The engine control word (R406). -/
structure ECtl where
  eng   : BitVec 3
  arv   : Bool
  bar   : SReg
  trapf : Bool
  acq   : Bool
  rel   : Bool
  scope : Scope
  rm    : Rm
  ch2   : BitVec 4
  ch    : BitVec 4
  deriving DecidableEq, Repr

/-- A host agent's access: the agent (0 an application core, 1 an endpoint's host), and whether it writes (R32, R35). -/
structure HostOp where
  agent : Nat
  write : Bool
  deriving DecidableEq, Repr

/-- One direction of a link (R16). -/
structure LinkDir where
  link : Nat
  tx   : Bool
  deriving DecidableEq, Repr

/-- The instructions of the cores (R286) and the operations and events of the package, one for each row of the opcode table. -/
inductive Instr where
  -- operations of the package that name what they act upon
  | lifeCycleTransition (target : Nat)
  | wakeTail (q v : Nat)
  | enable (q v : Nat)
  | chead (q v : Nat)
  | registerWrite (addr size v : Nat)
  | packetRead (q : Nat)
  | hostDramAccess (op : HostOp) (pa len v : Nat)
  | writeBack (line : Nat)
  | deferredTrapDelivery (core ctx : Nat)
  | flashReadDone (ok : Bool)
  | flashWriteDone
  | marketClear
  | flitReplay (link : LinkDir) (failed : Bool)
  | meshClockSample (domain occ : Nat)
  | peerLinkDown (link : Nat)
  | peerLaneShed (link : Nat) (shed : Bool)
  | k1Entry (die : Nat)
  | k1Exit (die : Nat)
  | k2IdleEntry (die : Nat)
  | k3Entry (die : Nat)
  | dieWake (die : Nat)
  | dieReady (die : Nat)
  | criticalTrip (cluster : Nat)
  | criticalTripEnd (cluster : Nat)
  | currentLimit (die : Nat)
  | thermalWatch (cluster temp : Nat)
  | thermalSample (cluster : Nat)
  | thrtStep (cluster v : Nat)
  | firingDispatch (core ctx : Nat)
  | runListSpill (core : Nat)
  | homedRecall (core : Nat)
  | runListAging (core : Nat)
  | yieldDeadline (core ctx : Nat)
  | fenced (core v : Nat)
  | pcmdResume (die : Nat)
  | pcmdEnd (die : Nat)
  | switchTimeNotice (core time : Nat)
  | gangSwitch (core : Nat)
  | partitionPaging (core part : Nat)
  | cellarEmulation (core : Nat)
  | logicalTimeTick (core : Nat)
  | matrixCommandRun (core : Nat)
  | factorisationRun (core : Nat)
  | matrixPageInWait (core : Nat)
  | copyBeat (core ch : Nat)
  | copyComplete (core ch : Nat)
  | streamChannelBeat (core ch : Nat)
  | lauterCommandRun (die : Nat)
  | watermarkRelease (core ch : Nat)
  | fenceComplete (core ctx : Nat)
  | waitdComplete (core ctx : Nat)
  | composeComplete (core ctx : Nat)
  | wfmReread (core ctx : Nat)
  | variableLatencyResult (core ctx n : Nat)
  | loggedInputReplay (core : Nat)
  -- control (R307)
  | nop (stall : BitVec 4)
  | mod (m : ModWord)
  | lpad (stall : BitVec 4) (k : PadKind)
  | j (stall : BitVec 4) (imm : Word)
  | jal (stall : BitVec 4) (d : SReg) (imm : Word)
  | jr (c : Ctl) (a : SReg) (imm : BitVec 48)
  | jalr (c : Ctl) (d a : SReg) (imm : BitVec 48)
  | ret (c : Ctl) (a : SReg)
  | brc (c : Ctl) (ty : Ty) (cond : Cond) (a b : SReg) (imm : BitVec 48)
  | brz (c : Ctl) (ne : Bool) (a : SReg) (imm : BitVec 48)
  | loop (c : Ctl) (d : SReg) (imm : BitVec 48)
  | trap (c : Ctl) (imm : BitVec 48)
  | eret (c : Ctl)
  -- scalar integer (R311)
  | add (c : Ctl) (ty : Ty) (d a : SReg) (b : SrcB)
  | sub (c : Ctl) (ty : Ty) (d a : SReg) (b : SrcB)
  | mul (c : Ctl) (ty : Ty) (d a : SReg) (b : SrcB)
  | mulh (c : Ctl) (ty : Ty) (d a : SReg) (b : SrcB)
  | div (c : Ctl) (ty : Ty) (d a : SReg) (b : SrcB)
  | rem (c : Ctl) (ty : Ty) (d a : SReg) (b : SrcB)
  | and (c : Ctl) (ty : Ty) (d a : SReg) (b : SrcB)
  | or (c : Ctl) (ty : Ty) (d a : SReg) (b : SrcB)
  | xor (c : Ctl) (ty : Ty) (d a : SReg) (b : SrcB)
  | andn (c : Ctl) (ty : Ty) (d a : SReg) (b : SrcB)
  | shl (c : Ctl) (ty : Ty) (d a : SReg) (b : SrcB)
  | shr (c : Ctl) (ty : Ty) (d a : SReg) (b : SrcB)
  | sra (c : Ctl) (ty : Ty) (d a : SReg) (b : SrcB)
  | rol (c : Ctl) (ty : Ty) (d a : SReg) (b : SrcB)
  | clz (c : Ctl) (ty : Ty) (d a : SReg)
  | ctz (c : Ctl) (ty : Ty) (d a : SReg)
  | popc (c : Ctl) (ty : Ty) (d a : SReg)
  | min (c : Ctl) (ty : Ty) (d a : SReg) (b : SrcB)
  | max (c : Ctl) (ty : Ty) (d a : SReg) (b : SrcB)
  | sel (c : Ctl) (d a b r : SReg)
  | cmp (c : Ctl) (ty : Ty) (cond : Cond) (d a : SReg) (b : SrcB)
  | movi (stall : BitVec 4) (d : SReg) (imm : Word)
  | ext (c : Ctl) (ty : Ty) (d a : SReg)
  | bfx (c : Ctl) (sx : Bool) (d a : SReg) (pos : BitVec 6) (len : BitVec 7)
  | bfi (c : Ctl) (d a b : SReg) (pos : BitVec 6) (len : BitVec 7)
  -- scalar floating point (R316)
  | fadd (c : Ctl) (ty : Ty) (d a b : SReg)
  | fmul (c : Ctl) (ty : Ty) (d a b : SReg)
  | ffma (c : Ctl) (ty : Ty) (d a b r : SReg)
  | fdiv (c : Ctl) (ty : Ty) (d a b : SReg)
  | fsqrt (c : Ctl) (ty : Ty) (d a : SReg)
  | fcmp (c : Ctl) (ty : Ty) (cond : Cond) (d a b : SReg)
  | fcvt (c : Ctl) (ty : Ty) (d a : SReg) (src : Ty) (rm : Rm)
  -- pointer (R320)
  | padd (c : Ctl) (d a : SReg) (b : SrcB)
  | pset (c : Ctl) (core : Bool) (d a b : SReg)
  | pget (c : Ctl) (field : BitVec 2) (d a : SReg)
  | pwalk (c : Ctl) (d a : SReg) (b : SrcB)
  | lea (c : Ctl) (scale : BitVec 2) (d a b : SReg) (disp : BitVec 48)
  -- memory (R328)
  | ld (c : Ctl) (ty : Ty) (d a b : SReg) (disp : BitVec 48)
  | st (c : Ctl) (ty : Ty) (a b r : SReg) (disp : BitVec 48)
  | ldp (c : Ctl) (ty : Ty) (d : SReg) (p : PReg) (inc : Inc)
  | stp (c : Ctl) (ty : Ty) (p : PReg) (inc : Inc) (r : SReg)
  | ldv (c : Ctl) (ty : Ty) (d : VReg) (a : SReg) (sh : ShReg) (x : Option SReg) (disp : BitVec 48)
  | stv (c : Ctl) (ty : Ty) (d : VReg) (a : SReg) (sh : ShReg) (x : Option SReg) (disp : BitVec 48)
  | ldvg (c : Ctl) (ty : Ty) (d : VReg) (a : SReg) (b : VReg) (sh : ShReg) (disp : BitVec 48)
  | stvs (c : Ctl) (ty : Ty) (d : VReg) (a : SReg) (b : VReg) (sh : ShReg) (disp : BitVec 48)
  | pref (c : Ctl) (die : Bool) (a b : SReg) (disp : BitVec 48)
  | amo (c : Ctl) (ty : Ty) (op : BitVec 3) (far : Bool) (d a b : SReg) (disp : BitVec 48)
  | cas (c : Ctl) (ty : Ty) (far : Bool) (d a b r : SReg) (disp : BitVec 48)
  | fence (c : Ctl) (scope : Scope)
  -- synchronisation (R338)
  | msgH (c : Ctl) (a b r : SReg)
  | msgD (c : Ctl) (a b : SReg)
  | msggS (c : Ctl) (self : Bool) (gid : BitVec 8) (a b : SReg)
  | msggD (c : Ctl) (self : Bool) (gid : BitVec 8) (a b : SReg)
  | waitd (c : Ctl) (d : SReg) (b : SrcB) (r : SReg)
  | binit (c : Ctl) (a : SReg) (cnt : BinitArg)
  | barr (c : Ctl) (d a : SReg) (b : SrcB)
  | expect (c : Ctl) (a : SReg) (b : SrcB)
  | bwait (c : Ctl) (chk : Bool) (d a b : SReg)
  | waitw (c : Ctl) (d b : SReg) (ch : BitVec 4)
  | sbind (c : Ctl) (out vreg portb : Bool) (d a : SReg) (sh : ShReg) (ch : BitVec 4) (slot : BitVec 2)
  | sfree (c : Ctl) (d : SReg) (slot : BitVec 2)
  -- shapes and vectors (R357, R358, R362)
  | shape (c : Ctl) (tu : Bool) (kind : BitVec 2) (ty : Ty) (d : ShReg) (req : ShapeArg)
  | shget (c : Ctl) (field : BitVec 4) (d : SReg) (a : ShReg)
  | vadd (c : Ctl) (ty : Ty) (d a : VReg) (b : VB) (sh : ShReg) (x : SReg)
  | vsub (c : Ctl) (ty : Ty) (d a : VReg) (b : VB) (sh : ShReg) (x : SReg)
  | vmul (c : Ctl) (ty : Ty) (d a : VReg) (b : VB) (sh : ShReg) (x : SReg)
  | vfma (c : Ctl) (ty : Ty) (d a : VReg) (b : VB) (sh : ShReg) (x : SReg)
  | vmin (c : Ctl) (ty : Ty) (d a : VReg) (b : VB) (sh : ShReg) (x : SReg)
  | vmax (c : Ctl) (ty : Ty) (d a : VReg) (b : VB) (sh : ShReg) (x : SReg)
  | vand (c : Ctl) (ty : Ty) (d a : VReg) (b : VB) (sh : ShReg) (x : SReg)
  | vor (c : Ctl) (ty : Ty) (d a : VReg) (b : VB) (sh : ShReg) (x : SReg)
  | vxor (c : Ctl) (ty : Ty) (d a : VReg) (b : VB) (sh : ShReg) (x : SReg)
  | vshl (c : Ctl) (ty : Ty) (d a : VReg) (b : VB) (sh : ShReg) (x : SReg)
  | vshr (c : Ctl) (ty : Ty) (d a : VReg) (b : VB) (sh : ShReg) (x : SReg)
  | vsra (c : Ctl) (ty : Ty) (d a : VReg) (b : VB) (sh : ShReg) (x : SReg)
  | vcmp (c : Ctl) (ty : Ty) (cond : Cond) (d : SReg) (a : VReg) (b : VB) (sh : ShReg) (x : SReg)
  | vsel (c : Ctl) (ty : Ty) (d a b : VReg) (sh : ShReg) (x : SReg)
  | vcvt (c : Ctl) (ty : Ty) (d a : VReg) (sh : ShReg) (src : Ty) (rm : Rm) (x : SReg)
  | vqnt (c : Ctl) (ty : Ty) (d a : VReg) (b : SReg) (sh : ShReg) (src : Ty) (rm : Rm) (x : SReg)
  | vdq (c : Ctl) (ty : Ty) (d a : VReg) (b : SReg) (sh : ShReg) (src : Ty) (x : SReg)
  | vreds (c : Ctl) (ty : Ty) (d : SReg) (a : VReg) (b : SReg) (sh : ShReg) (x : SReg)
  | vredm (c : Ctl) (ty : Ty) (index max : Bool) (d : SReg) (a : VReg) (sh : ShReg) (x : SReg)
  | vscan (c : Ctl) (ty : Ty) (d a : VReg) (sh : ShReg) (x : SReg)
  | vperm (c : Ctl) (ty : Ty) (d a b : VReg) (sh : ShReg) (x : SReg)
  | vslide (c : Ctl) (ty : Ty) (dn : Bool) (d a : VReg) (b : SReg) (sh : ShReg) (x : SReg)
  | vbcast (c : Ctl) (ty : Ty) (d : VReg) (src : BcastSrc) (sh : ShReg) (x : SReg)
  | viota (c : Ctl) (ty : Ty) (d : VReg) (a b : SReg) (sh : ShReg) (x : SReg)
  | vexp2 (c : Ctl) (ty : Ty) (d a : VReg) (sh : ShReg) (x : SReg)
  | vlog2 (c : Ctl) (ty : Ty) (d a : VReg) (sh : ShReg) (x : SReg)
  | vrcp (c : Ctl) (ty : Ty) (d a : VReg) (sh : ShReg) (x : SReg)
  | vrsq (c : Ctl) (ty : Ty) (d a : VReg) (sh : ShReg) (x : SReg)
  | vmovs (c : Ctl) (ty : Ty) (dir : MovsDir) (b : SReg)
  -- masks (R369)
  | kand (c : Ctl) (d a b : SReg)
  | kor (c : Ctl) (d a b : SReg)
  | kxor (c : Ctl) (d a b : SReg)
  | knot (c : Ctl) (d a : SReg)
  | kpopc (c : Ctl) (d a : SReg)
  | kfirst (c : Ctl) (d a : SReg)
  | kset (c : Ctl) (d : SReg) (src : KsetArg)
  | kmov (c : Ctl) (d a : SReg)
  -- matrix (R378)
  | tld (c : Ctl) (ty : Ty) (rowsN : Bool) (d : TReg) (a : SReg) (sh : ShReg) (m : MCtl)
  | tst (c : Ctl) (ty : Ty) (rowsN : Bool) (a : SReg) (b : TReg) (sh : ShReg) (m : MCtl)
  | tzero (c : Ctl) (d : TReg) (m : MCtl)
  | tmov (c : Ctl) (d a : TileReg) (m : MCtl)
  | ttr (c : Ctl) (ty : Ty) (d a : TReg) (sh : ShReg) (m : MCtl)
  | cld (c : Ctl) (ty : Ty) (d : CReg) (a : SReg) (sh : ShReg) (m : MCtl)
  | cst (c : Ctl) (ty : Ty) (a : SReg) (b : CReg) (sh : ShReg) (m : MCtl)
  | czero (c : Ctl) (d : CReg) (m : MCtl)
  | mma (c : Ctl) (ty : TyB) (iacc : Bool) (d : CReg) (a b : MatOp) (sh : ShReg) (m : MCtl)
  | mmas (c : Ctl) (ty : Ty) (iacc : Bool) (d : CReg) (a b : MatOp) (sh : ShReg) (m : MCtl)
  | mmam (c : Ctl) (ty : TyB) (iacc : Bool) (d : CReg) (a b : MatOp) (sh : ShReg) (m : MCtl)
  | mpbl (c : Ctl) (d : TReg) (a : SReg) (m : MCtl)
  | ccvt (c : Ctl) (ty : Ty) (isrc : Bool) (d : TReg) (a : CReg) (sh : ShReg) (m : MCtl)
  | bfmt (c : Ctl) (a : SReg) (bank : BitVec 4)
  | bfmtRd (c : Ctl) (d : SReg) (bank : BitVec 4)
  | bcpy (c : Ctl) (a b r : SReg) (m : MCtl)
  -- factorisation (R395)
  | mlu (c : Ctl) (d : CReg) (sh : ShReg) (m : MCtl)
  | mchol (c : Ctl) (d : CReg) (sh : ShReg) (m : MCtl)
  | mqr (c : Ctl) (d a : CReg) (sh : ShReg) (m : MCtl)
  | mqapp (c : Ctl) (qt right : Bool) (d a b : CReg) (sh : ShReg) (m : MCtl)
  | mtrs (c : Ctl) (right up unit tr : Bool) (d a : CReg) (sh : ShReg) (m : MCtl)
  | mperm (c : Ctl) (inv : Bool) (d a : CReg) (sh : ShReg) (m : MCtl)
  | mfstPerm (c : Ctl) (d : VReg)
  | mfstGrow (c : Ctl) (d : SReg)
  | mfstStat (c : Ctl) (d : SReg)
  -- engines (R405)
  | cpy (c : Ctl) (a : VReg) (e : ECtl)
  | cpyf (c : Ctl) (a : VReg) (e : ECtl)
  | csrg (c : Ctl) (d : SReg) (a : VReg) (e : ECtl)
  | wmarkArm (c : Ctl) (a b : SReg) (ch : BitVec 4)
  | wmarkAdv (c : Ctl) (a : SReg) (ch : BitVec 4)
  | wmarkClr (c : Ctl) (ch : BitVec 4)
  | wmarkRd (c : Ctl) (d : SReg) (ch : BitVec 4)
  | lautLoad (c : Ctl) (d a b : SReg) (e : ECtl)
  | lautReset (c : Ctl) (d a b : SReg) (e : ECtl)
  | lautMask (c : Ctl) (ty : Ty) (d a b : SReg) (e : ECtl)
  | lautAdv (c : Ctl) (d a b : SReg) (e : ECtl)
  -- actors (R421)
  | spawn (c : Ctl) (d a b r : SReg)
  | decr (c : Ctl) (wait : Bool) (a : SReg) (b : SrcB)
  | retire (c : Ctl) (a : SReg)
  | yield (c : Ctl)
  | compose (c : Ctl) (d : SReg) (code : BitVec 3) (b : SReg)
  | decomp (c : Ctl)
  | pitch (c : Ctl) (level : BitVec 2) (die : BitVec 3) (a : SReg)
  | rack (c : Ctl) (d : SReg) (target : RackArg) (a b : SReg)
  | port (c : Ctl) (d : PReg) (port : BitVec 3) (cnt : PortArg)
  -- system (R430)
  | mfs (c : Ctl) (d : SReg) (num : BitVec 12)
  | mts (c : Ctl) (num : BitVec 12) (a : SReg)
  | cacheIinv (c : Ctl) (a : SReg) (disp : BitVec 48)
  | cacheIall (c : Ctl)
  | cacheDwb (c : Ctl) (a : SReg) (disp : BitVec 48)
  | cacheDinv (c : Ctl) (a : SReg) (disp : BitVec 48)
  | cacheDwbinv (c : Ctl) (a : SReg) (disp : BitVec 48)
  | tlbiPage (c : Ctl) (a : SReg)
  | tlbiAll (c : Ctl)
  | park (c : Ctl) (a : SReg)
  | wfm (c : Ctl) (d a b r : SReg)
  -- operations of the package that act upon the message, command or record that the state's focus names
  | coldReset
  | reducedService
  | lpddr6Trained
  | computeDiesTrained
  | fullService
  | launch
  | signal
  | wait
  | waitTimeout
  | map
  | unmap
  | partitionCreate
  | partitionChange
  | partitionDestroy
  | caskRetain
  | caskPageOut
  | caskPageIn
  | rackCommand
  | contract
  | power
  | load
  | attest
  | query
  | readWithLease
  | writeThroughToHome
  | farAtomic
  | dataWithWriteTime
  | writeAcknowledgement
  | farAtomicResult
  | coherentNack
  | remoteScratchpadLoad
  | remoteLoadData
  | remoteScratchpadStore
  | remoteStoreAcknowledgement
  | registerDeposit
  | activeMessage
  | portCountAdvance
  | dependenceDecrement
  | windowNack
  | placement
  | trapOrFaultMessage
  | engineReply
  | kettleReadyMessage
  | serviceCoreCommandStep
  | pageInRequest
  | pageInDone
  | badFlitDiscard
  | cellarC1Entry
  | cellarWake
  | selfRefreshEntry
  | selfRefreshExit
  | appCoreSleepRequest
  | appCoreWake
  | pitchTrigger
  | contractInForce
  | watchdogStep1
  | watchdogKill
  | watchdogFence
  | killFinished
  | terminationWave
  | timeRenumbering
  | rackDrain
  | rackCask
  | rackWake
  | rackInstall
  | rackDone
  | messageForward
  | barrierInitialise
  | barrierArrive
  | barrierLanded
  | barrierExpect
  | barrierStatusWrite
  | barrierWaitRegister
  | bwaitResend
  | bwaitReply
  | dramAcceptsAccesses
  | cellarC0Reached
  deriving DecidableEq, Repr

end Sys2Proof
end

