-- ==== Sys2Proof/WellFormed.lean ====
section
/-! DEFINITION. The field checks of an instruction: the values that its description lets each field take (R274, R275). -/
namespace Sys2Proof

/-- The integer set of R307. -/
def Ty.isInt : Ty → Bool
  | .i8 | .u8 | .i16 | .i32 | .i64 | .u16 | .u32 => true
  | .i4 | .n4x | .f8e4 | .f8e5 | .bf16 | .f16 | .f32 => false

/-- The scalar floating types of R316, codes 9 to 11. -/
def Ty.isFloat : Ty → Bool
  | .bf16 | .f16 | .f32 => true
  | .i8 | .u8 | .i16 | .i32 | .i64 | .u16 | .u32 | .i4 | .n4x | .f8e4 | .f8e5 => false

/-- The packed types of R249. -/
def Ty.isPacked (t : Ty) : Bool := t == .i4 || t == .n4x

/-- The Arith set of R362. -/
def Ty.isArith (t : Ty) : Bool := t.isInt || t.isFloat

/-- The scalar set of R328, and the sources and destinations of FCVT (R318). -/
def Ty.isScalar (t : Ty) : Bool := !t.isPacked

/-- The dense tile types of R378, codes 0, 1 and 5 to 11. -/
def Ty.isTile : Ty → Bool
  | .i8 | .u8 | .i4 | .n4x | .f8e4 | .f8e5 | .bf16 | .f16 | .f32 => true
  | .i16 | .i32 | .i64 | .u16 | .u32 => false

/-- The narrow types of VQNT and VDQ, codes 0, 1, 2, 5, 6, 7, 8 and 12 (R362). -/
def Ty.isNarrow : Ty → Bool
  | .i8 | .u8 | .i16 | .i4 | .n4x | .f8e4 | .f8e5 | .u16 => true
  | .i32 | .i64 | .bf16 | .f16 | .f32 | .u32 => false

/-- The types CCVT writes, codes 0, 1, 2, 5 to 10 and 12 (R378). -/
def Ty.isCcvt (t : Ty) : Bool := t.isNarrow || t == .bf16 || t == .f16

/-- The types a shape of a kind accepts (R354). -/
def shapeAccepts (kind : BitVec 2) (t : Ty) : Bool :=
  if kind = 0 then true
  else if kind = 1 then t.isTile
  else if kind = 2 then t.isPacked
  else t == .f32

/-- A comparison accepts UN only for floating types (R304). -/
def condOk (c : Cond) (t : Ty) : Bool := c != .un || t.isFloat

/-- A bit field of BFX and BFI (R311). -/
def fieldOk (pos : BitVec 6) (len : BitVec 7) : Bool :=
  decide (1 ≤ len.toNat ∧ len.toNat ≤ 64 ∧ pos.toNat + len.toNat ≤ 64)

/-- A count immediate takes IMM48[31:0] (R338). -/
def cntOk : SrcB → Bool
  | .reg _ => true
  | .imm v => decide (v.toNat < 2 ^ 32)

/-- A memory-operand register of a matrix instruction is one of specifiers 1 to 47 (R373). -/
def memOk (s : SReg) : Bool := decide (1 ≤ s.toNat ∧ s.toNat ≤ 47)

/-- A matrix operand held in memory satisfies R373. -/
def opOk : MatOp → Bool
  | .tile _ => true
  | .mem s => memOk s

/-- The fields of a matrix control word that an instruction uses; the others are zero (R372). -/
structure MUse where
  x  : Bool := false
  sa : Bool := false
  sb : Bool := false
  fl : Bool := false
  rm : Bool := false
  mt : Bool := false
  sp : Bool := false
  deriving DecidableEq, Repr

/-- The checks of a matrix control word made at issue on its fields alone (R372, R373). -/
def MCtl.ok (m : MCtl) (u : MUse) : Bool :=
  (u.x || m.x == 0) && (u.sa || m.sa == 0) && (u.sb || m.sb == 0)
  && (u.fl || (!m.acq && !m.rel && m.scope == .core))
  && (u.rm || m.rm == .rne) && (u.mt || m.mt == 0) && (u.sp || m.sp == 0)
  && decide (m.sa.toNat ≤ 47) && decide (m.sb.toNat ≤ 47)
  && (!m.trapf || m.bar != 0)
  && (m.scope == .core || m.acq || m.rel)
  && decide (m.mt.toNat ≤ 7) && decide (m.sp.toNat ≤ 4)

/-- The checks of an engine control word made at issue on its fields alone (R406, R407).
`laut` and `csrg` name the two instructions with fields of their own. -/
def ECtl.ok (e : ECtl) (laut csrg : Bool) : Bool :=
  (laut || e.eng == 0) && decide (e.eng.toNat ≤ 4)
  && (!(e.arv || e.trapf) || e.bar != 0)
  && (e.scope == .core || e.acq || e.rel)
  && (csrg || e.ch2 == 0) && (!csrg || e.ch2 != e.ch)
  && (!laut || (e.rm == .rne && e.ch == 0))

/-- The system-register numbers of R289. -/
def sysRegOk (n : BitVec 12) : Bool :=
  let n := n.toNat
  decide (n ≤ 0x00B) || decide (0x010 ≤ n ∧ n ≤ 0x017) || n == 0x020 || n == 0x021
  || decide (0x030 ≤ n ∧ n ≤ 0x037) || n == 0x040

/-- A tile move keeps one register kind (R381). -/
def sameKind : TileReg → TileReg → Bool
  | .t _, .t _ => true
  | .c _, .c _ => true
  | .t _, .c _ => false
  | .c _, .t _ => false

/-- A record form SP goes with the shape kind that TLD and TST name by it: 4-bit types only (R379). -/
def spOk (t : Ty) (m : MCtl) : Bool := m.sp == 0 || t.isPacked

/-- The unscaled integer operand types of an I32 accumulator (R261, R382). -/
def Ty.isIntOp : Ty → Bool
  | .i8 | .u8 | .i4 | .n4x => true
  | .i16 | .i32 | .i64 | .u16 | .u32 | .f8e4 | .f8e5 | .bf16 | .f16 | .f32 => false

/-- The type and operand rules of MMA and MMAM that the slot alone decides (R373, R378, R382). -/
def mmaOk (ty : TyB) (iacc : Bool) (a b : MatOp) (m : MCtl) : Bool :=
  (match ty with
   | .ty t => t.isTile && (!iacc || t.isIntOp)
   | .bank => (match a, b with
     | .mem _, .mem _ => true
     | .tile _, _ => false
     | .mem _, .tile _ => false))
  && opOk a && opOk b
  && (match a with | .mem _ => true | .tile _ => m.sa == 0)
  && (match b with | .mem _ => true | .tile _ => m.sb == 0)

/-- An instruction whose fields its description accepts, so that its slot decodes (R274).
Operations of the package have no slot and pass. -/
def Instr.wf : Instr → Bool
  | .mod m => m.sat || m.neg || m.abs || m.scl || m.clmp
  | .brc _ ty cond _ _ _ => ty.isInt && cond != .un
  | .add _ ty _ _ _ | .sub _ ty _ _ _ | .mul _ ty _ _ _ | .mulh _ ty _ _ _ | .div _ ty _ _ _
  | .rem _ ty _ _ _ | .and _ ty _ _ _ | .or _ ty _ _ _ | .xor _ ty _ _ _ | .andn _ ty _ _ _
  | .shl _ ty _ _ _ | .shr _ ty _ _ _ | .sra _ ty _ _ _ | .rol _ ty _ _ _ => ty.isInt
  | .clz _ ty _ _ | .ctz _ ty _ _ | .popc _ ty _ _ | .ext _ ty _ _ => ty.isInt
  | .min _ ty _ _ b | .max _ ty _ _ b =>
    ty.isInt || (ty.isFloat && (match b with | .reg _ => true | .imm _ => false))
  | .cmp _ ty cond _ _ _ => ty.isInt && cond != .un
  | .bfx _ _ _ _ pos len => fieldOk pos len
  | .bfi _ _ _ _ pos len => fieldOk pos len
  | .fadd _ ty _ _ _ | .fmul _ ty _ _ _ | .fdiv _ ty _ _ _ => ty.isFloat
  | .ffma _ ty _ _ _ _ => ty.isFloat
  | .fsqrt _ ty _ _ => ty.isFloat
  | .fcmp _ ty _ _ _ _ => ty.isFloat
  | .fcvt _ ty _ _ src _ => ty.isScalar && src.isScalar
  | .pget _ f _ _ => f != 3
  | .pwalk _ _ _ b => (match b with
    | .reg _ => true
    | .imm v => decide (v.toNat < 2 ^ 16) && v.extractLsb' 12 2 == 0 && decide ((v.extractLsb' 4 2).toNat ≤ 1))
  | .ld _ ty _ _ _ _ | .st _ ty _ _ _ _ => ty.isScalar
  | .ldp _ ty _ _ _ | .stp _ ty _ _ _ => ty.isScalar
  | .amo _ ty op _ _ _ _ _ =>
    if op = 7 then ty == .f32 else ty == .i32 || ty == .i64 || ty == .u32
  | .cas _ ty _ _ _ _ _ _ => ty == .i32 || ty == .i64 || ty == .u32
  | .barr _ _ _ b | .expect _ _ b => cntOk b
  | .sbind _ out vreg portb d _ sh _ _ =>
    !(out && portb) && (if vreg then decide (d.toNat ≤ 15) else decide (1 ≤ d.toNat ∧ d.toNat ≤ 31) && sh == 0)
  | .shape _ _ kind ty _ _ => shapeAccepts kind ty
  | .shget _ f _ _ => decide (f.toNat ≤ 5)
  | .vadd _ ty _ _ _ _ _ | .vsub _ ty _ _ _ _ _ | .vmul _ ty _ _ _ _ _ | .vfma _ ty _ _ _ _ _
  | .vmin _ ty _ _ _ _ _ | .vmax _ ty _ _ _ _ _ => ty.isArith
  | .vshl _ ty _ _ _ _ _ | .vshr _ ty _ _ _ _ _ | .vsra _ ty _ _ _ _ _ => ty.isInt
  | .vcmp _ ty cond _ _ _ _ _ => ty.isArith && condOk cond ty
  | .vqnt _ ty _ _ _ _ src _ _ => ty.isNarrow && src.isFloat
  | .vdq _ ty _ _ _ _ src _ => ty.isFloat && src.isNarrow
  | .vreds _ ty _ _ _ _ _ => ty.isArith
  | .vredm _ ty _ _ _ _ _ _ => ty.isArith
  | .vscan _ ty _ _ _ _ => ty.isArith
  | .vperm _ ty _ _ _ _ _ => ty.isScalar
  | .vslide _ ty _ _ _ _ _ _ => ty.isScalar
  | .vbcast _ ty _ _ _ _ => ty.isScalar
  | .viota _ ty _ _ _ _ _ => ty.isInt
  | .vexp2 _ ty _ _ _ _ | .vlog2 _ ty _ _ _ _ | .vrcp _ ty _ _ _ _ | .vrsq _ ty _ _ _ _ => ty.isFloat
  | .vmovs _ ty _ _ => ty.isScalar
  | .tld _ ty _ _ a _ m | .tst _ ty _ a _ _ m =>
    ty.isTile && memOk a && spOk ty m && m.ok { x := true, sa := true, fl := true, sp := true }
  | .tzero _ _ m => m.ok {}
  | .tmov _ d a m => sameKind d a && m.ok {}
  | .ttr _ ty _ _ _ m => ty.isTile && !ty.isPacked && m.ok { x := true }
  | .cld _ ty _ a _ m | .cst _ ty a _ _ m =>
    (ty == .i32 || ty == .f32) && memOk a && m.ok { x := true, sa := true, fl := true }
  | .czero _ _ m => m.ok {}
  | .mma _ ty iacc _ a b _ m => mmaOk ty iacc a b m && m.ok { x := true, sa := true, sb := true, fl := true }
  | .mmas _ ty iacc _ a b _ m =>
    ty.isPacked && m.sp != 0 && mmaOk (.ty ty) iacc a b m
    && m.ok { x := true, sa := true, sb := true, fl := true, sp := true }
  | .mmam _ ty iacc _ a b _ m =>
    mmaOk ty iacc a b m && m.ok { x := true, sa := true, sb := true, fl := true, mt := true }
  | .mpbl _ _ _ m => m.ok { fl := true }
  | .ccvt _ ty _ _ _ _ m => ty.isCcvt && m.ok { x := true, rm := true }
  | .bcpy _ _ _ _ m => m.ok { fl := true, rm := true }
  | .mlu _ _ _ m | .mchol _ _ _ m => m.ok { x := true }
  | .mqr _ d a _ m => d != a && m.ok { x := true }
  | .mqapp _ _ _ d a b _ m => d != a && d != b && a != b && m.ok { x := true }
  | .mtrs _ _ _ _ _ d a _ m => d != a && m.ok { x := true }
  | .mperm _ _ d a _ m => d != a && m.ok { x := true }
  | .cpy _ _ e | .cpyf _ _ e => e.ok false false
  | .csrg _ _ _ e => e.ok false true
  | .lautLoad _ _ _ _ e | .lautReset _ _ _ _ e | .lautAdv _ _ _ _ e => e.ok true false
  | .lautMask _ ty _ _ _ e => ty.isFloat && e.ok true false
  | .decr _ _ _ b => cntOk b
  | .pitch _ level die _ =>
    level != 0 && (if level = 2 then decide (die.toNat ≤ 3) else die == 0)
  | .port _ _ _ cnt => (match cnt with | .reg _ => true | .imm v => decide (v.toNat ≤ 127))
  | .mfs _ _ n => sysRegOk n
  | .mts _ n _ => sysRegOk n
  | _ => true

end Sys2Proof
end

