-- ==== Sys2Proof/Decode.lean ====
section
/-! DEFINITION. Decoding a 96-bit slot into an instruction or a named refusal, and encoding an instruction into its slot (R273 to R287). -/
namespace Sys2Proof

/-- The fields of a slot (R273). -/
structure Slot where
  maj   : BitVec 8
  stall : BitVec 4
  fn    : BitVec 4
  d     : BitVec 6
  a     : BitVec 6
  b     : BitVec 6
  c     : BitVec 6
  pk    : BitVec 3
  pn    : BitVec 1
  ty    : BitVec 4
  imm   : BitVec 48
  deriving DecidableEq, Repr

/-- Why a slot names no instruction (R274, R287). -/
inductive DecodeError where
  /-- RESERVED_CODE: an unassigned major, FN or type code, a nonzero unused field or a reserved value. -/
  | reservedCode
  /-- FUTURE_OPCODE: a major of the growth space 0xC0 to 0xEF. -/
  | futureOpcode
  deriving DecidableEq, Repr

/-- What decoding a slot answers. -/
inductive Decoded where
  | ok (i : Instr)
  | error (e : DecodeError)
  deriving DecidableEq, Repr

/-- The 96 bits of a slot (R273). -/
def Slot.toBits (s : Slot) : BitVec 96 :=
  s.imm ++ s.ty ++ s.pn ++ s.pk ++ s.c ++ s.b ++ s.a ++ s.d ++ s.fn ++ s.stall ++ s.maj

/-- The fields of 96 slot bits (R273). -/
def Slot.ofBits (w : BitVec 96) : Slot where
  maj   := w.extractLsb' 0 8
  stall := w.extractLsb' 8 4
  fn    := w.extractLsb' 12 4
  d     := w.extractLsb' 16 6
  a     := w.extractLsb' 22 6
  b     := w.extractLsb' 28 6
  c     := w.extractLsb' 34 6
  pk    := w.extractLsb' 40 3
  pn    := w.extractLsb' 43 1
  ty    := w.extractLsb' 44 4
  imm   := w.extractLsb' 48 48

/-- The 64-bit immediate of the long form, slot bits [95:32] (R277). -/
def Slot.imm64 (s : Slot) : Word := (s.imm ++ s.ty ++ s.pn ++ s.pk ++ s.c ++ s.b).extractLsb' 4 64

/-- Code of an element type (R275). -/
def Ty.code : Ty → BitVec 4
  | .i8 => 0 | .u8 => 1 | .i16 => 2 | .i32 => 3 | .i64 => 4 | .i4 => 5 | .n4x => 6 | .f8e4 => 7
  | .f8e5 => 8 | .bf16 => 9 | .f16 => 10 | .f32 => 11 | .u16 => 12 | .u32 => 13

/-- The element type of a code; 14 and 15 name none (R275). -/
def Ty.ofCode (c : BitVec 4) : Option Ty :=
  match c.toNat with
  | 0 => some .i8 | 1 => some .u8 | 2 => some .i16 | 3 => some .i32 | 4 => some .i64 | 5 => some .i4
  | 6 => some .n4x | 7 => some .f8e4 | 8 => some .f8e5 | 9 => some .bf16 | 10 => some .f16
  | 11 => some .f32 | 12 => some .u16 | 13 => some .u32 | _ => none

/-- Code of a type or of a bank's format, 15 (R275). -/
def TyB.code : TyB → BitVec 4
  | .ty t => t.code
  | .bank => 15

/-- The type or bank format of a code (R275). -/
def TyB.ofCode (c : BitVec 4) : Option TyB :=
  if c = 15 then some .bank else (Ty.ofCode c).map .ty

/-- FN of a landing-pad kind (R272). -/
def PadKind.code : PadKind → BitVec 4
  | .call => 0 | .jump => 1 | .ret => 2 | .handler => 3 | .firing => 4 | .trap => 5

/-- The landing-pad kind of an FN value (R272). -/
def PadKind.ofCode (c : BitVec 4) : Option PadKind :=
  match c.toNat with
  | 0 => some .call | 1 => some .jump | 2 => some .ret | 3 => some .handler | 4 => some .firing
  | 5 => some .trap | _ => none

/-- Code of a condition (R304). -/
def Cond.code : Cond → BitVec 3
  | .eq => 0 | .ne => 1 | .lt => 2 | .ge => 3 | .le => 4 | .gt => 5 | .un => 6

/-- The condition of a code; 7 is reserved (R304). -/
def Cond.ofCode (c : BitVec 3) : Option Cond :=
  match c.toNat with
  | 0 => some .eq | 1 => some .ne | 2 => some .lt | 3 => some .ge | 4 => some .le | 5 => some .gt
  | 6 => some .un | _ => none

/-- Code of a rounding mode (R254). -/
def Rm.code : Rm → BitVec 2
  | .rne => 0 | .rtz => 1 | .rdn => 2 | .rup => 3

/-- The rounding mode of a code (R254). -/
def Rm.ofCode (c : BitVec 2) : Rm :=
  match c.toNat with
  | 0 => .rne | 1 => .rtz | 2 => .rdn | _ => .rup

/-- Code of a scope (R219). -/
def Scope.code : Scope → BitVec 2
  | .core => 0 | .die => 1 | .dev => 2 | .sys => 3

/-- The scope of a code (R219). -/
def Scope.ofCode (c : BitVec 2) : Scope :=
  match c.toNat with
  | 0 => .core | 1 => .die | 2 => .dev | _ => .sys

/-- Scalar-class specifier of a pointer register (R235). -/
def PReg.spec (p : PReg) : SReg := (2 : BitVec 2) ++ p
/-- Scalar-class specifier of a shape register (R235). -/
def ShReg.spec (s : ShReg) : SReg := (14 : BitVec 4) ++ s
/-- Specifier of a vector register (R235). -/
def VReg.spec (v : VReg) : BitVec 6 := (0 : BitVec 2) ++ v
/-- Tile-class specifier of a tile register (R235). -/
def TReg.spec (t : TReg) : BitVec 6 := (0 : BitVec 3) ++ t
/-- Tile-class specifier of an accumulator (R235). -/
def CReg.spec (c : CReg) : BitVec 6 := (2 : BitVec 4) ++ c
/-- Tile-class specifier of either kind (R235). -/
def TileReg.spec : TileReg → BitVec 6
  | .t r => TReg.spec r
  | .c r => CReg.spec r
/-- Specifier of a matrix operand (R378). -/
def MatOp.spec : MatOp → BitVec 6
  | .tile t => TReg.spec t
  | .mem s => s
/-- FN bit of a matrix operand: 1 for memory (R378). -/
def MatOp.isMem : MatOp → Bool
  | .tile _ => false
  | .mem _ => true

/-- The low bits of a specifier that name a pointer register. -/
def pOf (f : BitVec 6) : PReg := f.extractLsb' 0 4
/-- The low bits of a specifier that name a shape register. -/
def shOf (f : BitVec 6) : ShReg := f.extractLsb' 0 2
/-- The low bits of a specifier that name a vector register. -/
def vOf (f : BitVec 6) : VReg := f.extractLsb' 0 4
/-- The low bits of a specifier that name a tile register. -/
def tOf (f : BitVec 6) : TReg := f.extractLsb' 0 3
/-- The low bits of a specifier that name an accumulator. -/
def cOf (f : BitVec 6) : CReg := f.extractLsb' 0 2
/-- The tile-class register of a specifier. -/
def tileOf (f : BitVec 6) : TileReg := if f.getLsbD 3 then .c (cOf f) else .t (tOf f)
/-- The matrix operand of a field, by its FN bit. -/
def opOf (mem : Bool) (f : BitVec 6) : MatOp := if mem then .mem f else .tile (tOf f)

/-- One bit as a bit vector. -/
def b1 (b : Bool) : BitVec 1 := if b then 1 else 0

/-- IMM48 of a matrix control word (R372). -/
def MCtl.bits (m : MCtl) : BitVec 48 :=
  m.x ++ m.sa ++ m.sb ++ m.bar ++ b1 m.trapf ++ b1 m.acq ++ b1 m.rel ++ m.scope.code ++ (0 : BitVec 1)
    ++ m.rm.code ++ m.mt ++ (0 : BitVec 9) ++ m.sp

/-- The matrix control word of IMM48 (R372). -/
def MCtl.ofBits (i : BitVec 48) : MCtl where
  x     := i.extractLsb' 42 6
  sa    := i.extractLsb' 36 6
  sb    := i.extractLsb' 30 6
  bar   := i.extractLsb' 24 6
  trapf := i.getLsbD 23
  acq   := i.getLsbD 22
  rel   := i.getLsbD 21
  scope := Scope.ofCode (i.extractLsb' 19 2)
  rm    := Rm.ofCode (i.extractLsb' 16 2)
  mt    := i.extractLsb' 12 4
  sp    := i.extractLsb' 0 3

/-- IMM48 of an engine control word (R406). -/
def ECtl.bits (e : ECtl) : BitVec 48 :=
  (0 : BitVec 12) ++ e.eng ++ b1 e.arv ++ (0 : BitVec 2) ++ e.bar ++ b1 e.trapf ++ b1 e.acq ++ b1 e.rel
    ++ e.scope.code ++ (0 : BitVec 1) ++ e.rm.code ++ (0 : BitVec 8) ++ e.ch2 ++ e.ch

/-- The engine control word of IMM48 (R406). -/
def ECtl.ofBits (i : BitVec 48) : ECtl where
  eng   := i.extractLsb' 33 3
  arv   := i.getLsbD 32
  bar   := i.extractLsb' 24 6
  trapf := i.getLsbD 23
  acq   := i.getLsbD 22
  rel   := i.getLsbD 21
  scope := Scope.ofCode (i.extractLsb' 19 2)
  rm    := Rm.ofCode (i.extractLsb' 16 2)
  ch2   := i.extractLsb' 4 4
  ch    := i.extractLsb' 0 4

/-! ### Encoding -/

/-- A slot with a major, FN and the stall count and predicate of `c`; the other fields zero. -/
def Slot.mk0 (maj : BitVec 8) (fn : BitVec 4) (c : Ctl) : Slot :=
  { maj := maj, stall := c.stall, fn := fn, d := 0, a := 0, b := 0, c := 0, pk := c.pk, pn := b1 c.pn, ty := 0, imm := 0 }

/-- The stall count and predicate of a slot without a predicate. -/
def Ctl.plain (stall : BitVec 4) : Ctl := { stall := stall, pk := 0, pn := false }

/-- A slot of the long-immediate form (R277). -/
def Slot.long (maj : BitVec 8) (stall : BitVec 4) (d : SReg) (imm : Word) : Slot :=
  { maj := maj, stall := stall, fn := 0, d := d, a := 0, b := imm.extractLsb' 0 2 ++ (0 : BitVec 4)
    c := imm.extractLsb' 2 6, pk := imm.extractLsb' 8 3, pn := imm.extractLsb' 11 1
    ty := imm.extractLsb' 12 4, imm := imm.extractLsb' 16 48 }

/-- The R or I form of a binary integer instruction (R311). -/
def Slot.binary (maj : BitVec 8) (c : Ctl) (ty : BitVec 4) (d a : SReg) (b : SrcB) : Slot :=
  match b with
  | .reg r => { Slot.mk0 maj 0 c with ty := ty, d := d, a := a, b := r }
  | .imm v => { Slot.mk0 maj 1 c with ty := ty, d := d, a := a, imm := v }

/-- The extent specifier in IMM48[47:42] (R359). -/
def xImm (x : SReg) : BitVec 48 := x ++ (0 : BitVec 42)

/-- An element-wise vector slot with a vector or scalar B (R362). -/
def Slot.vbin (maj : BitVec 8) (c : Ctl) (ty : Ty) (d a : VReg) (b : VB) (sh : ShReg) (x : SReg) : Slot :=
  match b with
  | .vec v => { Slot.mk0 maj 0 c with ty := ty.code, d := VReg.spec d, a := VReg.spec a, b := VReg.spec v, c := ShReg.spec sh, imm := xImm x }
  | .scal r => { Slot.mk0 maj 1 c with ty := ty.code, d := VReg.spec d, a := VReg.spec a, b := r, c := ShReg.spec sh, imm := xImm x }

/-- A one-source vector slot (R362). -/
def Slot.vun (maj : BitVec 8) (c : Ctl) (ty : Ty) (d a : VReg) (sh : ShReg) (x : SReg) : Slot :=
  { Slot.mk0 maj 0 c with ty := ty.code, d := VReg.spec d, a := VReg.spec a, c := ShReg.spec sh, imm := xImm x }

/-- The slot bits of a modifier word below bit 32, above its MAJ (R283). -/
def ModWord.flags (m : ModWord) : BitVec 24 :=
  m.e ++ (0 : BitVec 7) ++ b1 m.clmp ++ b1 m.scl ++ b1 m.abs ++ b1 m.neg ++ b1 m.sat ++ (0 : BitVec 4)

/-- The slot of a modifier word (R283). -/
def ModWord.slot (m : ModWord) : Slot := Slot.ofBits (m.chi ++ m.clo ++ m.flags ++ (1 : BitVec 8))

/-- The modifier word of a slot (R283). -/
def ModWord.ofSlot (s : Slot) : ModWord :=
  let w := s.toBits
  { sat := w.getLsbD 12, neg := w.getLsbD 13, abs := w.getLsbD 14, scl := w.getLsbD 15, clmp := w.getLsbD 16
    e := w.extractLsb' 24 8, clo := w.extractLsb' 32 32, chi := w.extractLsb' 64 32 }

/-- FN of an optional active extent, and its register in B (R328). -/
def extFn : Option SReg → BitVec 4
  | none => 0
  | some _ => 1

/-- B of an optional active extent. -/
def extB : Option SReg → SReg
  | none => 0
  | some r => r

/-- FN of a post-increment form (R328). -/
def Inc.fn : Inc → BitVec 4
  | .size => 0
  | .imm _ => 1
  | .reg _ => 2

/-- B of a post-increment form. -/
def Inc.b : Inc → SReg
  | .size => 0
  | .imm _ => 0
  | .reg r => r

/-- IMM48 of a post-increment form. -/
def Inc.immOf : Inc → BitVec 48
  | .size => 0
  | .imm v => v
  | .reg _ => 0

/-- FN of a matrix product: A in memory, B in memory, I32 accumulator (R378). -/
def mmaFn (iacc : Bool) (a b : MatOp) : BitVec 4 :=
  (0 : BitVec 1) ++ b1 iacc ++ b1 b.isMem ++ b1 a.isMem

/-- The slot of a matrix product (R378). -/
def Slot.prod (maj : BitVec 8) (c : Ctl) (ty : BitVec 4) (iacc : Bool) (d : CReg) (a b : MatOp) (sh : ShReg)
    (m : MCtl) : Slot :=
  { Slot.mk0 maj (mmaFn iacc a b) c with ty := ty, d := CReg.spec d, a := a.spec, b := b.spec, c := ShReg.spec sh, imm := m.bits }

/-- The slot of a LAUT form (R405). -/
def Slot.laut (fn : BitVec 4) (c : Ctl) (ty : BitVec 4) (d a b : SReg) (e : ECtl) : Slot :=
  { Slot.mk0 0x9C fn c with ty := ty, d := d, a := a, b := b, imm := e.bits }

/-- The slot of a control instruction; operations of the package have none. -/
def encodeControl : Instr → Option Slot
  | .nop st => some (Slot.mk0 0x00 0 (.plain st))
  | .mod m => some m.slot
  | .lpad st k => some (Slot.mk0 0x02 k.code (.plain st))
  | .j st i => some (Slot.long 0x03 st 0 i)
  | .jal st d i => some (Slot.long 0x04 st d i)
  | .jr c a i => some { Slot.mk0 0x05 0 c with a := a, imm := i }
  | .jalr c d a i => some { Slot.mk0 0x06 0 c with d := d, a := a, imm := i }
  | .ret c a => some { Slot.mk0 0x07 0 c with a := a }
  | .brc c ty cond a b i => some { Slot.mk0 0x08 ((0 : BitVec 1) ++ cond.code) c with ty := ty.code, a := a, b := b, imm := i }
  | .brz c ne a i => some { Slot.mk0 0x09 ((0 : BitVec 3) ++ b1 ne) c with a := a, imm := i }
  | .loop c d i => some { Slot.mk0 0x0A 0 c with d := d, imm := i }
  | .trap c i => some { Slot.mk0 0x0B 0 c with imm := i }
  | .eret c => some (Slot.mk0 0x0C 0 c)
  | _ => none

/-- The slot of a scalar or pointer instruction (R311, R316, R320). -/
def encodeScalar : Instr → Option Slot
  | .add c ty d a b => some (Slot.binary 0x10 c ty.code d a b)
  | .sub c ty d a b => some (Slot.binary 0x11 c ty.code d a b)
  | .mul c ty d a b => some (Slot.binary 0x12 c ty.code d a b)
  | .mulh c ty d a b => some (Slot.binary 0x13 c ty.code d a b)
  | .div c ty d a b => some (Slot.binary 0x14 c ty.code d a b)
  | .rem c ty d a b => some (Slot.binary 0x15 c ty.code d a b)
  | .and c ty d a b => some (Slot.binary 0x16 c ty.code d a b)
  | .or c ty d a b => some (Slot.binary 0x17 c ty.code d a b)
  | .xor c ty d a b => some (Slot.binary 0x18 c ty.code d a b)
  | .andn c ty d a b => some (Slot.binary 0x19 c ty.code d a b)
  | .shl c ty d a b => some (Slot.binary 0x1A c ty.code d a b)
  | .shr c ty d a b => some (Slot.binary 0x1B c ty.code d a b)
  | .sra c ty d a b => some (Slot.binary 0x1C c ty.code d a b)
  | .rol c ty d a b => some (Slot.binary 0x1D c ty.code d a b)
  | .clz c ty d a => some { Slot.mk0 0x1E 0 c with ty := ty.code, d := d, a := a }
  | .ctz c ty d a => some { Slot.mk0 0x1F 0 c with ty := ty.code, d := d, a := a }
  | .popc c ty d a => some { Slot.mk0 0x20 0 c with ty := ty.code, d := d, a := a }
  | .min c ty d a b => some (Slot.binary 0x21 c ty.code d a b)
  | .max c ty d a b => some (Slot.binary 0x22 c ty.code d a b)
  | .sel c d a b r => some { Slot.mk0 0x23 0 c with d := d, a := a, b := b, c := r }
  | .cmp c ty cond d a b => some (match b with
    | .reg r => { Slot.mk0 0x24 ((0 : BitVec 1) ++ cond.code) c with ty := ty.code, d := d, a := a, b := r }
    | .imm v => { Slot.mk0 0x24 ((1 : BitVec 1) ++ cond.code) c with ty := ty.code, d := d, a := a, imm := v })
  | .movi st d i => some (Slot.long 0x25 st d i)
  | .ext c ty d a => some { Slot.mk0 0x26 0 c with ty := ty.code, d := d, a := a }
  | .bfx c sx d a pos len => some { Slot.mk0 0x27 ((0 : BitVec 3) ++ b1 sx) c with d := d, a := a, imm := (0 : BitVec 35) ++ len ++ pos }
  | .bfi c d a b pos len => some { Slot.mk0 0x28 0 c with d := d, a := a, b := b, imm := (0 : BitVec 35) ++ len ++ pos }
  | .fadd c ty d a b => some { Slot.mk0 0x29 0 c with ty := ty.code, d := d, a := a, b := b }
  | .fmul c ty d a b => some { Slot.mk0 0x2A 0 c with ty := ty.code, d := d, a := a, b := b }
  | .ffma c ty d a b r => some { Slot.mk0 0x2B 0 c with ty := ty.code, d := d, a := a, b := b, c := r }
  | .fdiv c ty d a b => some { Slot.mk0 0x2C 0 c with ty := ty.code, d := d, a := a, b := b }
  | .fsqrt c ty d a => some { Slot.mk0 0x2D 0 c with ty := ty.code, d := d, a := a }
  | .fcmp c ty cond d a b => some { Slot.mk0 0x2E ((0 : BitVec 1) ++ cond.code) c with ty := ty.code, d := d, a := a, b := b }
  | .fcvt c ty d a src rm => some { Slot.mk0 0x2F 0 c with ty := ty.code, d := d, a := a, imm := (0 : BitVec 42) ++ rm.code ++ src.code }
  | .padd c d a b => some (Slot.binary 0x30 c 0 d a b)
  | .pset c core d a b => some { Slot.mk0 0x31 ((0 : BitVec 3) ++ b1 core) c with d := d, a := a, b := b }
  | .pget c f d a => some { Slot.mk0 0x32 ((0 : BitVec 2) ++ f) c with d := d, a := a }
  | .pwalk c d a b => some (Slot.binary 0x33 c 0 d a b)
  | .lea c sc d a b disp => some { Slot.mk0 0x34 ((0 : BitVec 2) ++ sc) c with d := d, a := a, b := b, imm := disp }
  | _ => none

/-- The slot of a memory or synchronisation instruction (R328, R338). -/
def encodeMemory : Instr → Option Slot
  | .ld c ty d a b i => some { Slot.mk0 0x38 0 c with ty := ty.code, d := d, a := a, b := b, imm := i }
  | .st c ty a b r i => some { Slot.mk0 0x39 0 c with ty := ty.code, a := a, b := b, c := r, imm := i }
  | .ldp c ty d p inc => some { Slot.mk0 0x3A inc.fn c with ty := ty.code, d := d, a := PReg.spec p, b := inc.b, imm := inc.immOf }
  | .stp c ty p inc r => some { Slot.mk0 0x3B inc.fn c with ty := ty.code, a := PReg.spec p, b := inc.b, c := r, imm := inc.immOf }
  | .ldv c ty d a sh x i => some { Slot.mk0 0x3C (extFn x) c with ty := ty.code, d := VReg.spec d, a := a, b := extB x, c := ShReg.spec sh, imm := i }
  | .stv c ty d a sh x i => some { Slot.mk0 0x3D (extFn x) c with ty := ty.code, d := VReg.spec d, a := a, b := extB x, c := ShReg.spec sh, imm := i }
  | .ldvg c ty d a b sh i => some { Slot.mk0 0x3E 0 c with ty := ty.code, d := VReg.spec d, a := a, b := VReg.spec b, c := ShReg.spec sh, imm := i }
  | .stvs c ty d a b sh i => some { Slot.mk0 0x3F 0 c with ty := ty.code, d := VReg.spec d, a := a, b := VReg.spec b, c := ShReg.spec sh, imm := i }
  | .pref c die a b i => some { Slot.mk0 0x40 ((0 : BitVec 3) ++ b1 die) c with a := a, b := b, imm := i }
  | .amo c ty op far d a b i => some { Slot.mk0 0x41 (b1 far ++ op) c with ty := ty.code, d := d, a := a, b := b, imm := i }
  | .cas c ty far d a b r i => some { Slot.mk0 0x42 (b1 far ++ (0 : BitVec 3)) c with ty := ty.code, d := d, a := a, b := b, c := r, imm := i }
  | .fence c sc => some (Slot.mk0 0x43 ((0 : BitVec 2) ++ sc.code) c)
  | .msgH c a b r => some { Slot.mk0 0x48 0 c with a := a, b := b, c := r }
  | .msgD c a b => some { Slot.mk0 0x48 1 c with a := a, b := b }
  | .msggS c self g a b => some { Slot.mk0 0x49 0 c with a := a, b := b, imm := (0 : BitVec 39) ++ b1 self ++ g }
  | .msggD c self g a b => some { Slot.mk0 0x49 1 c with a := a, b := b, imm := (0 : BitVec 39) ++ b1 self ++ g }
  | .waitd c d b r => some (match b with
    | .reg m => { Slot.mk0 0x4A 0 c with d := d, b := m, c := r }
    | .imm v => { Slot.mk0 0x4A 1 c with d := d, c := r, imm := v })
  | .binit c a n => some (match n with
    | .reg r => { Slot.mk0 0x4B 0 c with a := a, b := r }
    | .imm v => { Slot.mk0 0x4B 1 c with a := a, imm := (0 : BitVec 16) ++ v }
    | .group g => { Slot.mk0 0x4B 2 c with a := a, imm := (0 : BitVec 40) ++ g })
  | .barr c d a b => some (Slot.binary 0x4C c 0 d a b)
  | .expect c a b => some (Slot.binary 0x4D c 0 0 a b)
  | .bwait c chk d a b => some { Slot.mk0 0x4E ((0 : BitVec 3) ++ b1 chk) c with d := d, a := a, b := b }
  | .waitw c d b ch => some { Slot.mk0 0x4F 0 c with d := d, b := b, imm := (0 : BitVec 44) ++ ch }
  | .sbind c out vreg portb d a sh ch slot =>
    some { Slot.mk0 0x50 ((0 : BitVec 1) ++ b1 portb ++ b1 vreg ++ b1 out) c with
      d := d, a := a, c := if vreg then ShReg.spec sh else 0, imm := (0 : BitVec 42) ++ slot ++ ch }
  | .sfree c d slot => some { Slot.mk0 0x51 0 c with d := d, imm := (0 : BitVec 46) ++ slot }
  | _ => none

/-- The slot of a shape, vector or mask instruction (R357, R358, R362, R369). -/
def encodeVector : Instr → Option Slot
  | .shape c tu kind ty d req => some (match req with
    | .imm m n k => { Slot.mk0 0x58 ((0 : BitVec 1) ++ b1 tu ++ kind) c with ty := ty.code, d := ShReg.spec d, imm := k ++ n ++ m }
    | .regs a b r => { Slot.mk0 0x58 ((1 : BitVec 1) ++ b1 tu ++ kind) c with ty := ty.code, d := ShReg.spec d, a := a, b := b, c := r })
  | .shget c f d a => some { Slot.mk0 0x59 f c with d := d, a := ShReg.spec a }
  | .vadd c ty d a b sh x => some (Slot.vbin 0x5A c ty d a b sh x)
  | .vsub c ty d a b sh x => some (Slot.vbin 0x5B c ty d a b sh x)
  | .vmul c ty d a b sh x => some (Slot.vbin 0x5C c ty d a b sh x)
  | .vfma c ty d a b sh x => some (Slot.vbin 0x5D c ty d a b sh x)
  | .vmin c ty d a b sh x => some (Slot.vbin 0x5E c ty d a b sh x)
  | .vmax c ty d a b sh x => some (Slot.vbin 0x5F c ty d a b sh x)
  | .vand c ty d a b sh x => some (Slot.vbin 0x60 c ty d a b sh x)
  | .vor c ty d a b sh x => some (Slot.vbin 0x61 c ty d a b sh x)
  | .vxor c ty d a b sh x => some (Slot.vbin 0x62 c ty d a b sh x)
  | .vshl c ty d a b sh x => some (Slot.vbin 0x63 c ty d a b sh x)
  | .vshr c ty d a b sh x => some (Slot.vbin 0x64 c ty d a b sh x)
  | .vsra c ty d a b sh x => some (Slot.vbin 0x65 c ty d a b sh x)
  | .vcmp c ty cond d a b sh x => some (match b with
    | .vec v => { Slot.mk0 0x66 ((0 : BitVec 1) ++ cond.code) c with ty := ty.code, d := d, a := VReg.spec a, b := VReg.spec v, c := ShReg.spec sh, imm := xImm x }
    | .scal r => { Slot.mk0 0x66 ((1 : BitVec 1) ++ cond.code) c with ty := ty.code, d := d, a := VReg.spec a, b := r, c := ShReg.spec sh, imm := xImm x })
  | .vsel c ty d a b sh x => some (Slot.vbin 0x67 c ty d a (.vec b) sh x)
  | .vcvt c ty d a sh src rm x => some { Slot.vun 0x68 c ty d a sh x with imm := x ++ (0 : BitVec 36) ++ rm.code ++ src.code }
  | .vqnt c ty d a b sh src rm x => some { Slot.vun 0x69 c ty d a sh x with b := b, imm := x ++ (0 : BitVec 36) ++ rm.code ++ src.code }
  | .vdq c ty d a b sh src x => some { Slot.vun 0x6A c ty d a sh x with b := b, imm := x ++ (0 : BitVec 38) ++ src.code }
  | .vreds c ty d a b sh x => some { Slot.mk0 0x6B 0 c with ty := ty.code, d := d, a := VReg.spec a, b := b, c := ShReg.spec sh, imm := xImm x }
  | .vredm c ty idx mx d a sh x => some { Slot.mk0 0x6C ((0 : BitVec 2) ++ b1 idx ++ b1 mx) c with ty := ty.code, d := d, a := VReg.spec a, c := ShReg.spec sh, imm := xImm x }
  | .vscan c ty d a sh x => some (Slot.vun 0x6D c ty d a sh x)
  | .vperm c ty d a b sh x => some (Slot.vbin 0x6E c ty d a (.vec b) sh x)
  | .vslide c ty dn d a b sh x => some { Slot.vun 0x6F c ty d a sh x with fn := (0 : BitVec 3) ++ b1 dn, b := b }
  | .vbcast c ty d src sh x => some (match src with
    | .scal r => { Slot.mk0 0x70 0 c with ty := ty.code, d := VReg.spec d, a := r, c := ShReg.spec sh, imm := xImm x }
    | .elem v idx => { Slot.mk0 0x70 1 c with ty := ty.code, d := VReg.spec d, a := VReg.spec v, c := ShReg.spec sh, imm := x ++ (0 : BitVec 26) ++ idx })
  | .viota c ty d a b sh x => some { Slot.mk0 0x71 0 c with ty := ty.code, d := VReg.spec d, a := a, b := b, c := ShReg.spec sh, imm := xImm x }
  | .vexp2 c ty d a sh x => some (Slot.vun 0x72 c ty d a sh x)
  | .vlog2 c ty d a sh x => some (Slot.vun 0x73 c ty d a sh x)
  | .vrcp c ty d a sh x => some (Slot.vun 0x74 c ty d a sh x)
  | .vrsq c ty d a sh x => some (Slot.vun 0x75 c ty d a sh x)
  | .vmovs c ty dir b => some (match dir with
    | .extract d a => { Slot.mk0 0x76 0 c with ty := ty.code, d := d, a := VReg.spec a, b := b }
    | .insert d a => { Slot.mk0 0x76 1 c with ty := ty.code, d := VReg.spec d, a := a, b := b })
  | .kand c d a b => some { Slot.mk0 0x78 0 c with d := d, a := a, b := b }
  | .kor c d a b => some { Slot.mk0 0x79 0 c with d := d, a := a, b := b }
  | .kxor c d a b => some { Slot.mk0 0x7A 0 c with d := d, a := a, b := b }
  | .knot c d a => some { Slot.mk0 0x7B 0 c with d := d, a := a }
  | .kpopc c d a => some { Slot.mk0 0x7C 0 c with d := d, a := a }
  | .kfirst c d a => some { Slot.mk0 0x7D 0 c with d := d, a := a }
  | .kset c d src => some (match src with
    | .extent ty a sh x => { Slot.mk0 0x7E 0 c with ty := ty.code, d := d, a := a, c := ShReg.spec sh, imm := xImm x }
    | .imm v => { Slot.mk0 0x7E 1 c with d := d, imm := v })
  | .kmov c d a => some { Slot.mk0 0x7F 0 c with d := d, a := a }
  | _ => none

/-- The slot of a matrix or factorisation instruction (R378, R395). -/
def encodeMatrix : Instr → Option Slot
  | .tld c ty n d a sh m => some { Slot.mk0 0x80 ((0 : BitVec 3) ++ b1 n) c with ty := ty.code, d := TReg.spec d, a := a, c := ShReg.spec sh, imm := m.bits }
  | .tst c ty n a b sh m => some { Slot.mk0 0x81 ((0 : BitVec 3) ++ b1 n) c with ty := ty.code, a := a, b := TReg.spec b, c := ShReg.spec sh, imm := m.bits }
  | .tzero c d m => some { Slot.mk0 0x82 0 c with d := TReg.spec d, imm := m.bits }
  | .tmov c d a m => some { Slot.mk0 0x83 0 c with d := d.spec, a := a.spec, imm := m.bits }
  | .ttr c ty d a sh m => some { Slot.mk0 0x84 0 c with ty := ty.code, d := TReg.spec d, a := TReg.spec a, c := ShReg.spec sh, imm := m.bits }
  | .cld c ty d a sh m => some { Slot.mk0 0x85 0 c with ty := ty.code, d := CReg.spec d, a := a, c := ShReg.spec sh, imm := m.bits }
  | .cst c ty a b sh m => some { Slot.mk0 0x86 0 c with ty := ty.code, a := a, b := CReg.spec b, c := ShReg.spec sh, imm := m.bits }
  | .czero c d m => some { Slot.mk0 0x87 0 c with d := CReg.spec d, imm := m.bits }
  | .mma c ty i d a b sh m => some (Slot.prod 0x88 c ty.code i d a b sh m)
  | .mmas c ty i d a b sh m => some (Slot.prod 0x89 c ty.code i d a b sh m)
  | .mmam c ty i d a b sh m => some (Slot.prod 0x8A c ty.code i d a b sh m)
  | .mpbl c d a m => some { Slot.mk0 0x8B 0 c with d := TReg.spec d, a := a, imm := m.bits }
  | .ccvt c ty i d a sh m => some { Slot.mk0 0x8C ((0 : BitVec 3) ++ b1 i) c with ty := ty.code, d := TReg.spec d, a := CReg.spec a, c := ShReg.spec sh, imm := m.bits }
  | .bfmt c a bank => some { Slot.mk0 0x8D 0 c with a := a, imm := (0 : BitVec 44) ++ bank }
  | .bfmtRd c d bank => some { Slot.mk0 0x8D 1 c with d := d, imm := (0 : BitVec 44) ++ bank }
  | .bcpy c a b r m => some { Slot.mk0 0x8E 0 c with ty := 15, a := a, b := b, c := r, imm := m.bits }
  | .mlu c d sh m => some { Slot.mk0 0x90 0 c with ty := 11, d := CReg.spec d, c := ShReg.spec sh, imm := m.bits }
  | .mchol c d sh m => some { Slot.mk0 0x91 0 c with ty := 11, d := CReg.spec d, c := ShReg.spec sh, imm := m.bits }
  | .mqr c d a sh m => some { Slot.mk0 0x92 0 c with ty := 11, d := CReg.spec d, a := CReg.spec a, c := ShReg.spec sh, imm := m.bits }
  | .mqapp c qt r d a b sh m => some { Slot.mk0 0x93 ((0 : BitVec 2) ++ b1 r ++ b1 qt) c with ty := 11, d := CReg.spec d, a := CReg.spec a, b := CReg.spec b, c := ShReg.spec sh, imm := m.bits }
  | .mtrs c r up u tr d a sh m => some { Slot.mk0 0x94 (b1 tr ++ b1 u ++ b1 up ++ b1 r) c with ty := 11, d := CReg.spec d, a := CReg.spec a, c := ShReg.spec sh, imm := m.bits }
  | .mperm c inv d a sh m => some { Slot.mk0 0x95 ((0 : BitVec 3) ++ b1 inv) c with ty := 11, d := CReg.spec d, a := CReg.spec a, c := ShReg.spec sh, imm := m.bits }
  | .mfstPerm c d => some { Slot.mk0 0x96 0 c with d := VReg.spec d }
  | .mfstGrow c d => some { Slot.mk0 0x96 1 c with d := d }
  | .mfstStat c d => some { Slot.mk0 0x96 2 c with d := d }
  | _ => none

/-- The slot of an engine, actor or system instruction (R405, R421, R430). -/
def encodeSystem : Instr → Option Slot
  | .cpy c a e => some { Slot.mk0 0x98 0 c with a := VReg.spec a, imm := e.bits }
  | .cpyf c a e => some { Slot.mk0 0x99 0 c with a := VReg.spec a, imm := e.bits }
  | .csrg c d a e => some { Slot.mk0 0x9A 0 c with d := d, a := VReg.spec a, imm := e.bits }
  | .wmarkArm c a b ch => some { Slot.mk0 0x9B 0 c with a := a, b := b, imm := (0 : BitVec 44) ++ ch }
  | .wmarkAdv c a ch => some { Slot.mk0 0x9B 1 c with a := a, imm := (0 : BitVec 44) ++ ch }
  | .wmarkClr c ch => some { Slot.mk0 0x9B 2 c with imm := (0 : BitVec 44) ++ ch }
  | .wmarkRd c d ch => some { Slot.mk0 0x9B 3 c with d := d, imm := (0 : BitVec 44) ++ ch }
  | .lautLoad c d a b e => some (Slot.laut 0 c 0 d a b e)
  | .lautReset c d a b e => some (Slot.laut 1 c 0 d a b e)
  | .lautMask c ty d a b e => some (Slot.laut 2 c ty.code d a b e)
  | .lautAdv c d a b e => some (Slot.laut 3 c 0 d a b e)
  | .spawn c d a b r => some { Slot.mk0 0xA0 0 c with d := d, a := a, b := b, c := r }
  | .decr c w a b => some (match b with
    | .reg r => { Slot.mk0 0xA1 ((0 : BitVec 2) ++ b1 w ++ (0 : BitVec 1)) c with a := a, b := r }
    | .imm v => { Slot.mk0 0xA1 ((0 : BitVec 2) ++ b1 w ++ (1 : BitVec 1)) c with a := a, imm := v })
  | .retire c a => some { Slot.mk0 0xA2 0 c with a := a }
  | .yield c => some (Slot.mk0 0xA3 0 c)
  | .compose c d k b => some { Slot.mk0 0xA4 0 c with d := d, b := b, imm := (0 : BitVec 45) ++ k }
  | .decomp c => some (Slot.mk0 0xA5 0 c)
  | .pitch c l die a => some { Slot.mk0 0xA6 0 c with a := a, imm := (0 : BitVec 43) ++ die ++ l }
  | .rack c d t a b => some (match t with
    | .imm v => { Slot.mk0 0xA7 0 c with d := d, a := a, b := b, imm := (0 : BitVec 45) ++ v }
    | .reg r => { Slot.mk0 0xA7 1 c with d := d, a := a, b := b, c := r })
  | .port c d p n => some (match n with
    | .reg r => { Slot.mk0 0xA8 0 c with d := PReg.spec d, b := r, imm := (0 : BitVec 45) ++ p }
    | .imm v => { Slot.mk0 0xA8 1 c with d := PReg.spec d, imm := (0 : BitVec 32) ++ v ++ (0 : BitVec 5) ++ p })
  | .mfs c d n => some { Slot.mk0 0xB0 0 c with d := d, imm := (0 : BitVec 36) ++ n }
  | .mts c n a => some { Slot.mk0 0xB1 0 c with a := a, imm := (0 : BitVec 36) ++ n }
  | .cacheIinv c a i => some { Slot.mk0 0xB2 0 c with a := a, imm := i }
  | .cacheIall c => some (Slot.mk0 0xB2 1 c)
  | .cacheDwb c a i => some { Slot.mk0 0xB2 2 c with a := a, imm := i }
  | .cacheDinv c a i => some { Slot.mk0 0xB2 3 c with a := a, imm := i }
  | .cacheDwbinv c a i => some { Slot.mk0 0xB2 4 c with a := a, imm := i }
  | .tlbiPage c a => some { Slot.mk0 0xB3 0 c with a := a }
  | .tlbiAll c => some (Slot.mk0 0xB3 1 c)
  | .park c a => some { Slot.mk0 0xB4 0 c with a := a }
  | .wfm c d a b r => some { Slot.mk0 0xB5 0 c with d := d, a := a, b := b, c := r }
  | _ => none

/-- The slot of an instruction; an operation of the package has none. -/
def encodeSlot (i : Instr) : Option Slot :=
  encodeControl i <|> encodeScalar i <|> encodeMemory i <|> encodeVector i <|> encodeMatrix i <|> encodeSystem i

/-- The 96 bits of an instruction (R273); an operation of the package has none. -/
def encode (i : Instr) : Option (BitVec 96) := (encodeSlot i).map Slot.toBits

/-! ### Decoding: the instruction whose fields a slot holds, by its major (R286) -/

/-- The stall count and predicate of a slot. -/
def Slot.ctl (s : Slot) : Ctl := { stall := s.stall, pk := s.pk, pn := s.pn == 1 }

/-- The second source that FN bit `i` chooses (R311). -/
def Slot.srcB (s : Slot) (i : Nat) : SrcB := if s.fn.getLsbD i then .imm s.imm else .reg s.b

/-- The second vector operand that FN bit `i` chooses (R362). -/
def Slot.vb (s : Slot) (i : Nat) : VB := if s.fn.getLsbD i then .scal s.b else .vec (vOf s.b)

/-- The extent specifier (R359). -/
def Slot.x (s : Slot) : SReg := s.imm.extractLsb' 42 6

/-- The active extent register of LDV and STV (R328). -/
def Slot.ext (s : Slot) : Option SReg := if s.fn.getLsbD 0 then some s.b else none

/-- The post-increment form (R328). -/
def Slot.inc (s : Slot) : Inc :=
  if s.fn = 0 then .size else if s.fn = 1 then .imm s.imm else .reg s.b

/-- The condition in FN[2:0] (R304). -/
def Slot.cond (s : Slot) : Option Cond := Cond.ofCode (s.fn.extractLsb' 0 3)

/-- The type of a slot (R275). -/
def Slot.tyOf (s : Slot) : Option Ty := Ty.ofCode s.ty

/-- Source type and mode of a conversion, IMM48[5:0] (R318). -/
def Slot.srcTy (s : Slot) : Option Ty := Ty.ofCode (s.imm.extractLsb' 0 4)
/-- Rounding mode of a conversion, IMM48[5:4] (R318). -/
def Slot.rmOf (s : Slot) : Rm := Rm.ofCode (s.imm.extractLsb' 4 2)

/-- The control family, majors 0x00 to 0x0C. -/
def readControl (s : Slot) : Option Instr :=
  match s.maj.toNat with
  | 0x00 => some (.nop s.stall)
  | 0x01 => some (.mod (.ofSlot s))
  | 0x02 => (PadKind.ofCode s.fn).map (.lpad s.stall)
  | 0x03 => some (.j s.stall s.imm64)
  | 0x04 => some (.jal s.stall s.d s.imm64)
  | 0x05 => some (.jr s.ctl s.a s.imm)
  | 0x06 => some (.jalr s.ctl s.d s.a s.imm)
  | 0x07 => some (.ret s.ctl s.a)
  | 0x08 => s.tyOf.bind fun ty => s.cond.map fun cd => .brc s.ctl ty cd s.a s.b s.imm
  | 0x09 => some (.brz s.ctl (s.fn.getLsbD 0) s.a s.imm)
  | 0x0A => some (.loop s.ctl s.d s.imm)
  | 0x0B => some (.trap s.ctl s.imm)
  | 0x0C => some (.eret s.ctl)
  | _ => none

/-- The scalar and pointer families, majors 0x10 to 0x34. -/
def readScalar (s : Slot) : Option Instr :=
  match s.maj.toNat with
  | 0x10 => s.tyOf.map fun ty => .add s.ctl ty s.d s.a (s.srcB 0)
  | 0x11 => s.tyOf.map fun ty => .sub s.ctl ty s.d s.a (s.srcB 0)
  | 0x12 => s.tyOf.map fun ty => .mul s.ctl ty s.d s.a (s.srcB 0)
  | 0x13 => s.tyOf.map fun ty => .mulh s.ctl ty s.d s.a (s.srcB 0)
  | 0x14 => s.tyOf.map fun ty => .div s.ctl ty s.d s.a (s.srcB 0)
  | 0x15 => s.tyOf.map fun ty => .rem s.ctl ty s.d s.a (s.srcB 0)
  | 0x16 => s.tyOf.map fun ty => .and s.ctl ty s.d s.a (s.srcB 0)
  | 0x17 => s.tyOf.map fun ty => .or s.ctl ty s.d s.a (s.srcB 0)
  | 0x18 => s.tyOf.map fun ty => .xor s.ctl ty s.d s.a (s.srcB 0)
  | 0x19 => s.tyOf.map fun ty => .andn s.ctl ty s.d s.a (s.srcB 0)
  | 0x1A => s.tyOf.map fun ty => .shl s.ctl ty s.d s.a (s.srcB 0)
  | 0x1B => s.tyOf.map fun ty => .shr s.ctl ty s.d s.a (s.srcB 0)
  | 0x1C => s.tyOf.map fun ty => .sra s.ctl ty s.d s.a (s.srcB 0)
  | 0x1D => s.tyOf.map fun ty => .rol s.ctl ty s.d s.a (s.srcB 0)
  | 0x1E => s.tyOf.map fun ty => .clz s.ctl ty s.d s.a
  | 0x1F => s.tyOf.map fun ty => .ctz s.ctl ty s.d s.a
  | 0x20 => s.tyOf.map fun ty => .popc s.ctl ty s.d s.a
  | 0x21 => s.tyOf.map fun ty => .min s.ctl ty s.d s.a (s.srcB 0)
  | 0x22 => s.tyOf.map fun ty => .max s.ctl ty s.d s.a (s.srcB 0)
  | 0x23 => some (.sel s.ctl s.d s.a s.b s.c)
  | 0x24 => s.tyOf.bind fun ty => s.cond.map fun cd => .cmp s.ctl ty cd s.d s.a (s.srcB 3)
  | 0x25 => some (.movi s.stall s.d s.imm64)
  | 0x26 => s.tyOf.map fun ty => .ext s.ctl ty s.d s.a
  | 0x27 => some (.bfx s.ctl (s.fn.getLsbD 0) s.d s.a (s.imm.extractLsb' 0 6) (s.imm.extractLsb' 6 7))
  | 0x28 => some (.bfi s.ctl s.d s.a s.b (s.imm.extractLsb' 0 6) (s.imm.extractLsb' 6 7))
  | 0x29 => s.tyOf.map fun ty => .fadd s.ctl ty s.d s.a s.b
  | 0x2A => s.tyOf.map fun ty => .fmul s.ctl ty s.d s.a s.b
  | 0x2B => s.tyOf.map fun ty => .ffma s.ctl ty s.d s.a s.b s.c
  | 0x2C => s.tyOf.map fun ty => .fdiv s.ctl ty s.d s.a s.b
  | 0x2D => s.tyOf.map fun ty => .fsqrt s.ctl ty s.d s.a
  | 0x2E => s.tyOf.bind fun ty => s.cond.map fun cd => .fcmp s.ctl ty cd s.d s.a s.b
  | 0x2F => s.tyOf.bind fun ty => s.srcTy.map fun src => .fcvt s.ctl ty s.d s.a src s.rmOf
  | 0x30 => some (.padd s.ctl s.d s.a (s.srcB 0))
  | 0x31 => some (.pset s.ctl (s.fn.getLsbD 0) s.d s.a s.b)
  | 0x32 => some (.pget s.ctl (s.fn.extractLsb' 0 2) s.d s.a)
  | 0x33 => some (.pwalk s.ctl s.d s.a (s.srcB 0))
  | 0x34 => some (.lea s.ctl (s.fn.extractLsb' 0 2) s.d s.a s.b s.imm)
  | _ => none

/-- The memory and synchronisation families, majors 0x38 to 0x51. -/
def readMemory (s : Slot) : Option Instr :=
  match s.maj.toNat with
  | 0x38 => s.tyOf.map fun ty => .ld s.ctl ty s.d s.a s.b s.imm
  | 0x39 => s.tyOf.map fun ty => .st s.ctl ty s.a s.b s.c s.imm
  | 0x3A => s.tyOf.map fun ty => .ldp s.ctl ty s.d (pOf s.a) s.inc
  | 0x3B => s.tyOf.map fun ty => .stp s.ctl ty (pOf s.a) s.inc s.c
  | 0x3C => s.tyOf.map fun ty => .ldv s.ctl ty (vOf s.d) s.a (shOf s.c) s.ext s.imm
  | 0x3D => s.tyOf.map fun ty => .stv s.ctl ty (vOf s.d) s.a (shOf s.c) s.ext s.imm
  | 0x3E => s.tyOf.map fun ty => .ldvg s.ctl ty (vOf s.d) s.a (vOf s.b) (shOf s.c) s.imm
  | 0x3F => s.tyOf.map fun ty => .stvs s.ctl ty (vOf s.d) s.a (vOf s.b) (shOf s.c) s.imm
  | 0x40 => some (.pref s.ctl (s.fn.getLsbD 0) s.a s.b s.imm)
  | 0x41 => s.tyOf.map fun ty => .amo s.ctl ty (s.fn.extractLsb' 0 3) (s.fn.getLsbD 3) s.d s.a s.b s.imm
  | 0x42 => s.tyOf.map fun ty => .cas s.ctl ty (s.fn.getLsbD 3) s.d s.a s.b s.c s.imm
  | 0x43 => some (.fence s.ctl (Scope.ofCode (s.fn.extractLsb' 0 2)))
  | 0x48 => some (if s.fn.getLsbD 0 then .msgD s.ctl s.a s.b else .msgH s.ctl s.a s.b s.c)
  | 0x49 => some (if s.fn.getLsbD 0 then .msggD s.ctl (s.imm.getLsbD 8) (s.imm.extractLsb' 0 8) s.a s.b
                  else .msggS s.ctl (s.imm.getLsbD 8) (s.imm.extractLsb' 0 8) s.a s.b)
  | 0x4A => some (.waitd s.ctl s.d (s.srcB 0) s.c)
  | 0x4B => some (.binit s.ctl s.a (if s.fn = 0 then .reg s.b else if s.fn = 1 then .imm (s.imm.extractLsb' 0 32)
                                    else .group (s.imm.extractLsb' 0 8)))
  | 0x4C => some (.barr s.ctl s.d s.a (s.srcB 0))
  | 0x4D => some (.expect s.ctl s.a (s.srcB 0))
  | 0x4E => some (.bwait s.ctl (s.fn.getLsbD 0) s.d s.a s.b)
  | 0x4F => some (.waitw s.ctl s.d s.b (s.imm.extractLsb' 0 4))
  | 0x50 => some (.sbind s.ctl (s.fn.getLsbD 0) (s.fn.getLsbD 1) (s.fn.getLsbD 2) s.d s.a (shOf s.c)
                  (s.imm.extractLsb' 0 4) (s.imm.extractLsb' 4 2))
  | 0x51 => some (.sfree s.ctl s.d (s.imm.extractLsb' 0 2))
  | _ => none

/-- The shape, vector and mask families, majors 0x58 to 0x7F. -/
def readVector (s : Slot) : Option Instr :=
  match s.maj.toNat with
  | 0x58 => s.tyOf.map fun ty => .shape s.ctl (s.fn.getLsbD 2) (s.fn.extractLsb' 0 2) ty (shOf s.d)
      (if s.fn.getLsbD 3 then .regs s.a s.b s.c
       else .imm (s.imm.extractLsb' 0 16) (s.imm.extractLsb' 16 16) (s.imm.extractLsb' 32 16))
  | 0x59 => some (.shget s.ctl s.fn s.d (shOf s.a))
  | 0x5A => s.tyOf.map fun ty => .vadd s.ctl ty (vOf s.d) (vOf s.a) (s.vb 0) (shOf s.c) s.x
  | 0x5B => s.tyOf.map fun ty => .vsub s.ctl ty (vOf s.d) (vOf s.a) (s.vb 0) (shOf s.c) s.x
  | 0x5C => s.tyOf.map fun ty => .vmul s.ctl ty (vOf s.d) (vOf s.a) (s.vb 0) (shOf s.c) s.x
  | 0x5D => s.tyOf.map fun ty => .vfma s.ctl ty (vOf s.d) (vOf s.a) (s.vb 0) (shOf s.c) s.x
  | 0x5E => s.tyOf.map fun ty => .vmin s.ctl ty (vOf s.d) (vOf s.a) (s.vb 0) (shOf s.c) s.x
  | 0x5F => s.tyOf.map fun ty => .vmax s.ctl ty (vOf s.d) (vOf s.a) (s.vb 0) (shOf s.c) s.x
  | 0x60 => s.tyOf.map fun ty => .vand s.ctl ty (vOf s.d) (vOf s.a) (s.vb 0) (shOf s.c) s.x
  | 0x61 => s.tyOf.map fun ty => .vor s.ctl ty (vOf s.d) (vOf s.a) (s.vb 0) (shOf s.c) s.x
  | 0x62 => s.tyOf.map fun ty => .vxor s.ctl ty (vOf s.d) (vOf s.a) (s.vb 0) (shOf s.c) s.x
  | 0x63 => s.tyOf.map fun ty => .vshl s.ctl ty (vOf s.d) (vOf s.a) (s.vb 0) (shOf s.c) s.x
  | 0x64 => s.tyOf.map fun ty => .vshr s.ctl ty (vOf s.d) (vOf s.a) (s.vb 0) (shOf s.c) s.x
  | 0x65 => s.tyOf.map fun ty => .vsra s.ctl ty (vOf s.d) (vOf s.a) (s.vb 0) (shOf s.c) s.x
  | 0x66 => s.tyOf.bind fun ty => s.cond.map fun cd => .vcmp s.ctl ty cd s.d (vOf s.a) (s.vb 3) (shOf s.c) s.x
  | 0x67 => s.tyOf.map fun ty => .vsel s.ctl ty (vOf s.d) (vOf s.a) (vOf s.b) (shOf s.c) s.x
  | 0x68 => s.tyOf.bind fun ty => s.srcTy.map fun src => .vcvt s.ctl ty (vOf s.d) (vOf s.a) (shOf s.c) src s.rmOf s.x
  | 0x69 => s.tyOf.bind fun ty => s.srcTy.map fun src => .vqnt s.ctl ty (vOf s.d) (vOf s.a) s.b (shOf s.c) src s.rmOf s.x
  | 0x6A => s.tyOf.bind fun ty => s.srcTy.map fun src => .vdq s.ctl ty (vOf s.d) (vOf s.a) s.b (shOf s.c) src s.x
  | 0x6B => s.tyOf.map fun ty => .vreds s.ctl ty s.d (vOf s.a) s.b (shOf s.c) s.x
  | 0x6C => s.tyOf.map fun ty => .vredm s.ctl ty (s.fn.getLsbD 1) (s.fn.getLsbD 0) s.d (vOf s.a) (shOf s.c) s.x
  | 0x6D => s.tyOf.map fun ty => .vscan s.ctl ty (vOf s.d) (vOf s.a) (shOf s.c) s.x
  | 0x6E => s.tyOf.map fun ty => .vperm s.ctl ty (vOf s.d) (vOf s.a) (vOf s.b) (shOf s.c) s.x
  | 0x6F => s.tyOf.map fun ty => .vslide s.ctl ty (s.fn.getLsbD 0) (vOf s.d) (vOf s.a) s.b (shOf s.c) s.x
  | 0x70 => s.tyOf.map fun ty => .vbcast s.ctl ty (vOf s.d)
      (if s.fn.getLsbD 0 then .elem (vOf s.a) (s.imm.extractLsb' 0 16) else .scal s.a) (shOf s.c) s.x
  | 0x71 => s.tyOf.map fun ty => .viota s.ctl ty (vOf s.d) s.a s.b (shOf s.c) s.x
  | 0x72 => s.tyOf.map fun ty => .vexp2 s.ctl ty (vOf s.d) (vOf s.a) (shOf s.c) s.x
  | 0x73 => s.tyOf.map fun ty => .vlog2 s.ctl ty (vOf s.d) (vOf s.a) (shOf s.c) s.x
  | 0x74 => s.tyOf.map fun ty => .vrcp s.ctl ty (vOf s.d) (vOf s.a) (shOf s.c) s.x
  | 0x75 => s.tyOf.map fun ty => .vrsq s.ctl ty (vOf s.d) (vOf s.a) (shOf s.c) s.x
  | 0x76 => s.tyOf.map fun ty => .vmovs s.ctl ty
      (if s.fn.getLsbD 0 then .insert (vOf s.d) s.a else .extract s.d (vOf s.a)) s.b
  | 0x78 => some (.kand s.ctl s.d s.a s.b)
  | 0x79 => some (.kor s.ctl s.d s.a s.b)
  | 0x7A => some (.kxor s.ctl s.d s.a s.b)
  | 0x7B => some (.knot s.ctl s.d s.a)
  | 0x7C => some (.kpopc s.ctl s.d s.a)
  | 0x7D => some (.kfirst s.ctl s.d s.a)
  | 0x7E =>
    if s.fn.getLsbD 0 then some (.kset s.ctl s.d (.imm s.imm))
    else s.tyOf.map fun ty => .kset s.ctl s.d (.extent ty s.a (shOf s.c) s.x)
  | 0x7F => some (.kmov s.ctl s.d s.a)
  | _ => none

/-- The matrix and factorisation families, majors 0x80 to 0x96. -/
def readMatrix (s : Slot) : Option Instr :=
  let m := MCtl.ofBits s.imm
  match s.maj.toNat with
  | 0x80 => s.tyOf.map fun ty => .tld s.ctl ty (s.fn.getLsbD 0) (tOf s.d) s.a (shOf s.c) m
  | 0x81 => s.tyOf.map fun ty => .tst s.ctl ty (s.fn.getLsbD 0) s.a (tOf s.b) (shOf s.c) m
  | 0x82 => some (.tzero s.ctl (tOf s.d) m)
  | 0x83 => some (.tmov s.ctl (tileOf s.d) (tileOf s.a) m)
  | 0x84 => s.tyOf.map fun ty => .ttr s.ctl ty (tOf s.d) (tOf s.a) (shOf s.c) m
  | 0x85 => s.tyOf.map fun ty => .cld s.ctl ty (cOf s.d) s.a (shOf s.c) m
  | 0x86 => s.tyOf.map fun ty => .cst s.ctl ty s.a (cOf s.b) (shOf s.c) m
  | 0x87 => some (.czero s.ctl (cOf s.d) m)
  | 0x88 => (TyB.ofCode s.ty).map fun ty => .mma s.ctl ty (s.fn.getLsbD 2) (cOf s.d)
      (opOf (s.fn.getLsbD 0) s.a) (opOf (s.fn.getLsbD 1) s.b) (shOf s.c) m
  | 0x89 => s.tyOf.map fun ty => .mmas s.ctl ty (s.fn.getLsbD 2) (cOf s.d)
      (opOf (s.fn.getLsbD 0) s.a) (opOf (s.fn.getLsbD 1) s.b) (shOf s.c) m
  | 0x8A => (TyB.ofCode s.ty).map fun ty => .mmam s.ctl ty (s.fn.getLsbD 2) (cOf s.d)
      (opOf (s.fn.getLsbD 0) s.a) (opOf (s.fn.getLsbD 1) s.b) (shOf s.c) m
  | 0x8B => some (.mpbl s.ctl (tOf s.d) s.a m)
  | 0x8C => s.tyOf.map fun ty => .ccvt s.ctl ty (s.fn.getLsbD 0) (tOf s.d) (cOf s.a) (shOf s.c) m
  | 0x8D => some (if s.fn.getLsbD 0 then .bfmtRd s.ctl s.d (s.imm.extractLsb' 0 4)
                  else .bfmt s.ctl s.a (s.imm.extractLsb' 0 4))
  | 0x8E => some (.bcpy s.ctl s.a s.b s.c m)
  | 0x90 => some (.mlu s.ctl (cOf s.d) (shOf s.c) m)
  | 0x91 => some (.mchol s.ctl (cOf s.d) (shOf s.c) m)
  | 0x92 => some (.mqr s.ctl (cOf s.d) (cOf s.a) (shOf s.c) m)
  | 0x93 => some (.mqapp s.ctl (s.fn.getLsbD 0) (s.fn.getLsbD 1) (cOf s.d) (cOf s.a) (cOf s.b) (shOf s.c) m)
  | 0x94 => some (.mtrs s.ctl (s.fn.getLsbD 0) (s.fn.getLsbD 1) (s.fn.getLsbD 2) (s.fn.getLsbD 3) (cOf s.d) (cOf s.a) (shOf s.c) m)
  | 0x95 => some (.mperm s.ctl (s.fn.getLsbD 0) (cOf s.d) (cOf s.a) (shOf s.c) m)
  | 0x96 => some (if s.fn = 0 then .mfstPerm s.ctl (vOf s.d) else if s.fn = 1 then .mfstGrow s.ctl s.d
                  else .mfstStat s.ctl s.d)
  | _ => none

/-- The engine, actor and system families, majors 0x98 to 0xB5. -/
def readSystem (s : Slot) : Option Instr :=
  let e := ECtl.ofBits s.imm
  match s.maj.toNat with
  | 0x98 => some (.cpy s.ctl (vOf s.a) e)
  | 0x99 => some (.cpyf s.ctl (vOf s.a) e)
  | 0x9A => some (.csrg s.ctl s.d (vOf s.a) e)
  | 0x9B =>
    let ch := s.imm.extractLsb' 0 4
    some (if s.fn = 0 then .wmarkArm s.ctl s.a s.b ch else if s.fn = 1 then .wmarkAdv s.ctl s.a ch
          else if s.fn = 2 then .wmarkClr s.ctl ch else .wmarkRd s.ctl s.d ch)
  | 0x9C =>
    if s.fn = 0 then some (.lautLoad s.ctl s.d s.a s.b e)
    else if s.fn = 1 then some (.lautReset s.ctl s.d s.a s.b e)
    else if s.fn = 2 then s.tyOf.map fun ty => .lautMask s.ctl ty s.d s.a s.b e
    else some (.lautAdv s.ctl s.d s.a s.b e)
  | 0xA0 => some (.spawn s.ctl s.d s.a s.b s.c)
  | 0xA1 => some (.decr s.ctl (s.fn.getLsbD 1) s.a (s.srcB 0))
  | 0xA2 => some (.retire s.ctl s.a)
  | 0xA3 => some (.yield s.ctl)
  | 0xA4 => some (.compose s.ctl s.d (s.imm.extractLsb' 0 3) s.b)
  | 0xA5 => some (.decomp s.ctl)
  | 0xA6 => some (.pitch s.ctl (s.imm.extractLsb' 0 2) (s.imm.extractLsb' 2 3) s.a)
  | 0xA7 => some (.rack s.ctl s.d (if s.fn.getLsbD 0 then .reg s.c else .imm (s.imm.extractLsb' 0 3)) s.a s.b)
  | 0xA8 => some (.port s.ctl (pOf s.d) (s.imm.extractLsb' 0 3)
                  (if s.fn.getLsbD 0 then .imm (s.imm.extractLsb' 8 8) else .reg s.b))
  | 0xB0 => some (.mfs s.ctl s.d (s.imm.extractLsb' 0 12))
  | 0xB1 => some (.mts s.ctl (s.imm.extractLsb' 0 12) s.a)
  | 0xB2 => some (if s.fn = 0 then .cacheIinv s.ctl s.a s.imm else if s.fn = 1 then .cacheIall s.ctl
                  else if s.fn = 2 then .cacheDwb s.ctl s.a s.imm else if s.fn = 3 then .cacheDinv s.ctl s.a s.imm
                  else .cacheDwbinv s.ctl s.a s.imm)
  | 0xB3 => some (if s.fn.getLsbD 0 then .tlbiAll s.ctl else .tlbiPage s.ctl s.a)
  | 0xB4 => some (.park s.ctl s.a)
  | 0xB5 => some (.wfm s.ctl s.d s.a s.b s.c)
  | _ => none

/-- The instruction whose fields a slot holds, by family; none for an unassigned code. -/
def readSlot (s : Slot) : Option Instr :=
  let n := s.maj.toNat
  if n < 0x10 then readControl s
  else if n < 0x38 then readScalar s
  else if n < 0x58 then readMemory s
  else if n < 0x80 then readVector s
  else if n < 0x98 then readMatrix s
  else readSystem s

/-- Decoding of a slot.
It answers the instruction that reads from the slot when its fields satisfy its description and its own encoding gives
the slot back, so that every field the instruction does not use is zero (R274); otherwise RESERVED_CODE, or
FUTURE_OPCODE for the growth space (R287). -/
def decodeSlot (s : Slot) : Decoded :=
  if 0xC0 ≤ s.maj.toNat ∧ s.maj.toNat ≤ 0xEF then .error .futureOpcode
  else match readSlot s with
    | none => .error .reservedCode
    | some i => if i.wf && encodeSlot i == some s then .ok i else .error .reservedCode

/-- Decoding of 96 slot bits. -/
def decode (w : BitVec 96) : Decoded := decodeSlot (Slot.ofBits w)

/-- The instruction that the decoder reads from a word of the opcode table; the bits above `nbits` are zero. -/
def decodeTableWord (nbits w : Nat) : Option Instr :=
  match decode (BitVec.ofNat 96 (w % 2 ^ nbits)) with
  | .ok i => some i
  | .error _ => none

end Sys2Proof
end

