-- ==== Sys2Proof/Machine/State.lean ====
section
/-! DEFINITION. The state of the package, as plain data, and the state after a cold reset. -/
namespace Sys2Proof.Machine

/-! ### Sparse tables -/

/-- A table by number, in ascending order of its keys. -/
abbrev SMap (α : Type) := List (Nat × α)

/-- The entry of a key. -/
def SMap.find? {α : Type} : SMap α → Nat → Option α
  | [], _ => none
  | (k, v) :: m, i => if i = k then some v else if i < k then none else SMap.find? m i

/-- The entry of a key, or the default of the table. -/
def SMap.get {α : Type} (d : α) (m : SMap α) (i : Nat) : α := (SMap.find? m i).getD d

/-- The table with an entry put at a key. -/
def SMap.put {α : Type} : SMap α → Nat → α → SMap α
  | [], i, v => [(i, v)]
  | (k, w) :: m, i, v =>
    if i = k then (i, v) :: m else if i < k then (i, v) :: (k, w) :: m else (k, w) :: SMap.put m i v

/-- The table without a key. -/
def SMap.del {α : Type} : SMap α → Nat → SMap α
  | [], _ => []
  | (k, w) :: m, i => if i = k then m else if i < k then (k, w) :: m else (k, w) :: SMap.del m i

/-! ### Memory -/

/-- All byte storage: DRAM and cellar SRAM at their physical addresses, scratchpads above 2^60 (log 7), flash above 2^62.
Addresses rise strictly and no entry is zero, which is what an unlisted byte reads as (log 1). -/
abbrev Memory := List Host.Cell

/-- The byte at an address; an unlisted byte is zero (log 1). -/
def Memory.get : Memory → Nat → Byte
  | [], _ => 0
  | (k, v) :: m, i => if i = k then v else if i < k then 0 else Memory.get m i

/-- Memory with one byte written, in canonical form. -/
def Memory.set : Memory → Nat → Byte → Memory
  | [], i, v => if v = 0 then [] else [(i, v)]
  | (k, w) :: m, i, v =>
    if i = k then (if v = 0 then m else (i, v) :: m)
    else if i < k then (if v = 0 then (k, w) :: m else (i, v) :: (k, w) :: m)
    else (k, w) :: Memory.set m i v

/-- The canonical form above a lower bound on the addresses. -/
def Memory.wfFrom : Nat → Memory → Bool
  | _, [] => true
  | lo, (k, v) :: m => decide (lo ≤ k) && v != 0 && Memory.wfFrom (k + 1) m

/-- The canonical form: addresses strictly rising and no listed zero. -/
def Memory.wf (m : Memory) : Bool := Memory.wfFrom 0 m

/-! ### Outcomes -/

/-- Reasons for which the machine stops.
The manual leaves no behaviour undefined (R9): every case ends in a value, a trap or a status, so there is none. -/
inductive Fault where
  deriving DecidableEq, Repr

/-- Reasons for which an instruction has no meaning in the model. -/
inductive Refusal where
  /-- Raised by an arm of `exec` whose meaning is not written; safe, since nothing follows from it. -/
  | notModelled (mnemonic : String)
  deriving DecidableEq, Repr

/-- Trap causes (R134). -/
inductive Cause where
  | reservedCode | futureOpcode | illegalLine | cfTarget | cfLpad | misalign | page | prot | windowNack | stallCheck
  | divZero | engineStatus | lauter | numFactor | eccUncorr | priv | exitedTarget | shape | brk | watchdogKill
  deriving DecidableEq, Repr

/-- Code of a trap cause (R134). -/
def Cause.code : Cause → Nat
  | .reservedCode => 0x01 | .futureOpcode => 0x02 | .illegalLine => 0x03 | .cfTarget => 0x04 | .cfLpad => 0x05
  | .misalign => 0x06 | .page => 0x07 | .prot => 0x08 | .windowNack => 0x09 | .stallCheck => 0x0A | .divZero => 0x0B
  | .engineStatus => 0x0C | .lauter => 0x0D | .numFactor => 0x0E | .eccUncorr => 0x0F | .priv => 0x10
  | .exitedTarget => 0x11 | .shape => 0x12 | .brk => 0x13 | .watchdogKill => 0x14

/-! ### Contexts -/

/-- Where a result on its way to a register will land. -/
inductive Dest where
  | scal (r : SReg)
  | vec (v : VReg)
  | shape (s : ShReg)
  deriving DecidableEq, Repr

/-- A result of an issued instruction that has not reached its register (R279, R280). -/
structure Pend where
  /-- The register. -/
  dst   : Dest
  /-- The bits of the register that it writes. -/
  mask  : Nat
  /-- The value, in the width of the register. -/
  val   : Nat
  /-- The core cycle from which it can be read; for a variable-latency result, the cycle at which the default schedule lands it. -/
  due   : Nat
  /-- A fixed-latency result. -/
  fixed : Bool
  deriving DecidableEq, Repr

/-- One part of a load that another party answers: the request's message number and where its bytes go. -/
structure Piece where
  id  : Nat
  off : Nat
  len : Nat
  /-- 0 whole bytes; 1 the low nibble of the byte, 2 the high nibble, put at bit offset `off`. -/
  nib : Nat
  deriving DecidableEq, Repr

/-- A coherent part of a load that is read once the part before it has its answer (R208, R209): physical and virtual address, bytes, place in
the register, nibble, uncached or not, and the partition that reads. -/
structure Todo where
  pa   : Nat
  va   : Nat
  len  : Nat
  off  : Nat
  nib  : Nat
  uc   : Bool
  part : Nat
  deriving DecidableEq, Repr

/-- What becomes of the answer that a context waits for. -/
inductive Finish where
  /-- The value, extended by its type, goes to a scalar-class register. -/
  | scal (d : SReg) (ty : Ty)
  /-- As `scal`, and the pointer register A takes its walked value with it (R330). -/
  | ptr (d : SReg) (ty : Ty) (a : SReg) (q : Nat)
  /-- The bits under the mask go to a vector register. -/
  | vec (d : VReg) (mask : Nat)
  /-- Nothing is written. -/
  | none
  deriving DecidableEq, Repr

/-- What a context waits for after its instruction has issued (R117, R327, R342 to R347, R435). -/
inductive Wait where
  /-- FENCE at a scope (R222). -/
  | fence (scope : Nat)
  /-- WAITD: mask, timeout and issue cycle (R342). -/
  | waitd (mask timeout since : Nat) (d : SReg)
  /-- BWAIT: the number of the request it sent (R347). -/
  | bwait (id : Nat) (chk : Bool) (gen : Nat) (d : SReg)
  /-- WFM: word, compare value, timeout, issue cycle, cycle of the last read, and the number of a read on its way to cellar SRAM, 0 for none
  (R190, R435). -/
  | wfm (addr cmp timeout since lastRead : Nat) (d : SReg) (ask : Nat)
  /-- COMPOSE: code, timeout and issue cycle (R243). -/
  | compose (code timeout since : Nat) (d : SReg)
  /-- RACK: the racking engine's answer (R428). -/
  | rack (d : SReg)
  /-- Answers to messages: the parts outstanding, the bits so far, and the result.
  `redo` marks a remote scratchpad load, which a pre-emption abandons (R327); `todo` the coherent parts not yet asked for (R208). -/
  | reply (pieces : List Piece) (acc : Nat) (fin : Finish) (redo : Bool) (todo : List Todo)
  /-- A coherent line on its way; the instruction executes again when it comes (R210). -/
  | line (id : Nat)
  /-- A page-in on its way; the instruction executes again (R200). -/
  | pageIn (leaf : Nat)
  /-- An F8E5 or N4X operation that the policy core emulates (R142). -/
  | emulate (slot : Nat)
  deriving DecidableEq, Repr

/-- What a stream binding gave to an instruction that may yet be abandoned (R327, R350): the slot and its word, the register and what it held,
and the channel's position, each as before. -/
structure Popped where
  slot : Nat
  dst  : Dest
  reg  : Nat
  word : Nat
  pos  : Nat
  deriving DecidableEq, Repr

/-- A wait with the place at which the context goes on when it ends without executing the instruction again. -/
structure WaitRec where
  kind  : Wait
  pc    : Nat
  after : Nat
  stall : Nat
  /-- What the stream bindings gave to the waiting instruction; it is taken back where the instruction is abandoned (R350). -/
  pops  : List Popped := []
  deriving DecidableEq, Repr

/-- A deferred refusal: cause detail, reason and originating PC (R137, R143). -/
structure Nack where
  addr   : Nat
  reason : Nat
  pc     : Nat
  deriving DecidableEq, Repr

/-- The firing that a context holds (R96). -/
structure Firing where
  handle  : Nat
  lid     : Nat
  part    : Nat
  /-- A handler firing (R340). -/
  handler : Bool
  /-- Workspace size in 64-byte units. -/
  wsize   : Nat
  /-- Yield deadline, 0 for none (R118). -/
  ydl     : Nat
  deriving DecidableEq, Repr

/-- A hardware context, apart from its register area, which is in the scratchpad (R230, log 7). -/
structure Ctx where
  firing  : Option Firing := none
  pc      : Pc := 0
  wptr    : Nat := 0
  asid    : Nat := 0
  /-- The earliest core cycle of the next issue (R279). -/
  next    : Nat := 0
  pend    : List Pend := []
  wait    : Option WaitRec := none
  /-- The line whose checks have passed (R270). -/
  line    : Option Nat := none
  /-- A handler, firing or trap entry whose landing checks are due at the first fetch (R271). -/
  entry   : Option PadKind := none
  /-- The core cycle of the firing's first issue since it got its context (R118). -/
  start   : Option Nat := none
  nacks   : List Nack := []
  /-- The bytes of a line that the instruction waited for, with which it executes again (R349). -/
  got     : Option Nat := none
  /-- A trap record is live, between entry and ERET (R137). -/
  live    : Bool := false
  /-- A pre-emption falls due at the next boundary: 1 yield deadline, 2 watchdog (R118, R127). -/
  preempt : Nat := 0
  /-- Pitch comparator words 0 and 1 (R60). -/
  pitch0  : Nat := 0x30000002
  pitch1  : Nat := 0
  deriving DecidableEq, Repr

/-! ### Network -/

/-- A message in flight or held (R24, R26). -/
structure Msg where
  id    : Nat
  src   : Nat
  dst   : Nat
  spkg  : Nat := 0
  dpkg  : Nat := 0
  part  : Nat
  ch    : Nat
  op    : Nat
  seq   : Nat := 0
  arg   : Nat := 0
  taddr : Nat := 0
  raddr : Nat := 0
  data  : List Byte := []
  keepLo : Bool := false
  keepHi : Bool := false
  poison : Bool := false
  ack   : Bool := false
  /-- Sending context and launch. -/
  ctx   : Nat := 0
  lid   : Nat := 0
  /-- The message that this one answers. -/
  re    : Nat := 0
  /-- The sender's logical time (R210). -/
  pts   : Nat := 0
  /-- Asked size in bytes of a read. -/
  size  : Nat := 0
  /-- Lease end of a data reply; the leaf entry that a compare and swap dirties. -/
  aux   : Nat := 0
  /-- The operation that sends it names the destination package (R24, R36). -/
  far   : Bool := false
  /-- Waits: 0 in flight, 1 parked for a partition, 2 fallen out at a gang switch (R150), 3 parked for a racked actor until its move is installed. -/
  held  : Nat := 0
  /-- The racked actor for which it is parked, or, back on its old home, sent on (R167). -/
  forH  : Nat := 0
  /-- A held remote access is not performed before this time: the owner's next cycle (R205). -/
  after : Nat := 0
  deriving DecidableEq, Repr

/-! ### Cores -/

/-- A cached copy of a coherent line with its write time, lease end and the global time at which it left its home (R209). -/
structure Copy where
  data : Nat
  wts  : Nat
  rts  : Nat
  left : Nat
  part : Nat
  deriving DecidableEq, Repr

/-- A translation held by a TLB (R197). -/
structure TlbEnt where
  part  : Nat
  va    : Nat
  size  : Nat
  pa    : Nat
  /-- Entry bits [10:2]: D, A, LEAF, CONT, UC, S, X, W, RD. -/
  bits  : Nat
  /-- Page-table entry kind: 1 memory, 3 peer. -/
  kind  : Nat
  /-- Package of a peer page. -/
  pkg   : Nat
  /-- Physical address of the entry. -/
  leaf  : Nat
  deriving DecidableEq, Repr

/-- A run-list entry (R113, R114). -/
structure RunEnt where
  handle : Nat
  level  : Nat
  /-- The core cycle at which it came to its level. -/
  since  : Nat
  deriving DecidableEq, Repr

/-- A region of a scratchpad that the hardware has given out (R177). -/
structure Alloc where
  part   : Nat
  start  : Nat
  len    : Nat
  /-- 0 workspace, 1 readiness record, 2 span. -/
  kind   : Nat
  handle : Nat
  deriving DecidableEq, Repr

/-- A message that awaits its answer (R125, R222). -/
structure Out where
  id   : Nat
  ctx  : Nat
  op   : Nat
  lid  : Nat
  part : Nat
  pc   : Nat
  dst  : Nat
  /-- The message is counted in S (R125). -/
  counted : Bool
  /-- Address that a refusal names. -/
  addr : Nat
  /-- Handle of the firing that sent it, or for which an engine command sent it. -/
  handle : Nat := 0
  /-- How many firings that actor had completed by then (R143, R424). -/
  fired  : Nat := 0
  /-- The partition active on the core when it was sent, for which its answer waits (R130). -/
  own    : Nat := 0
  /-- The engine that sent it: 100 + a copy channel, 200 + a matrix inbox slot; 0 for a context (R184, R218). -/
  who    : Nat := 0
  deriving DecidableEq, Repr

/-- A coherent store that waits until the stores of its firing before it are ordered (R208 to R210): physical address, uncached or not, bytes,
value, kept nibbles, and the record of its message. -/
structure LateStore where
  pa     : Nat
  uc     : Bool
  len    : Nat
  val    : Nat
  keepLo : Bool
  keepHi : Bool
  part   : Nat
  out    : Out
  deriving DecidableEq, Repr

/-- A posted arrival that waits for its release: the barrier message and its record, the messages that must first be acknowledged and sent, and how many
stores of its firing have yet to be sent before it (R223, R346). -/
structure LateArr where
  msg   : Msg
  out   : Out
  acked : List Nat
  sent  : List Nat
  lates : Nat
  deriving DecidableEq, Repr

/-- A forwarding record of a racked actor (R167). -/
structure Fwd where
  handle : Nat
  dst    : Nat
  ws     : Nat
  wlen   : Nat
  newWs  : Nat
  until_ : Nat
  deriving DecidableEq, Repr

/-- A wait registered at a barrier's home (R347). -/
structure Waiter where
  addr : Nat
  gen  : Nat
  /-- The request's message number, the waiting core's endpoint and context. -/
  id   : Nat
  src  : Nat
  ctx  : Nat
  part : Nat
  lid  : Nat
  /-- The time at which a wait that found no entry is sent again, 256 cycles of its home's clock after it came back (R347). -/
  due  : Nat := 0
  deriving DecidableEq, Repr

/-- The log control block of a core (R152). -/
structure LogBlock where
  base : Nat := 0
  size : Nat := 0
  head : Nat := 0
  ovf  : Bool := false
  replay : Bool := false
  wrap : Bool := false
  en   : Bool := false
  /-- Core cycle of the last checkpoint mark, and the entries written up to it (R153, R154). -/
  mark : Nat := 0
  markHead : Nat := 0
  /-- Replay's next entry, and the TIME value that it has given (R154). -/
  next : Nat := 0
  clock : Option Nat := none
  deriving DecidableEq, Repr

/-- One core outside the state that belongs to a partition. -/
structure Core where
  /-- Cycles counted up to the time `since`. -/
  base    : Nat := 0
  since   : Nat := 0
  /-- Cycles per 336 ns unit of the running clock: the period in units of 1/336 ns; 0 while stopped. -/
  period  : Nat := 0
  /-- One past the cycle of the last issue. -/
  free    : Nat := 0
  /-- The last issuer (R117). -/
  last    : Nat := 0
  /-- The context whose second slot of a pair issues in the present cycle, with that cycle (R237). -/
  pair    : Option (Nat × Nat) := none
  /-- The register area of that context as it stood when the first slot issued, from which the second reads (R239). -/
  snap    : Memory := []
  pts     : Nat := 0
  acqTime : Nat := 0
  /-- The number of 64-cycle windows that pts has counted (R210). -/
  windows : Nat := 0
  l1      : SMap Copy := []
  icache  : SMap Nat := []
  /-- The L1 TLB, and the micro-TLB of the matrix array (R197). -/
  tlb     : List TlbEnt := []
  utlb    : List TlbEnt := []
  active  : Nat := 0
  shadow  : Option Nat := none
  /-- The next switch time and the partition it brings in (R146). -/
  switch  : Option (Nat × Nat) := none
  /-- Time in ns from which the active partition's slice counts: the switch that brought it in, or the command that made shares overlap (R146). -/
  activeAt : Nat := 0
  runList : List RunEnt := []
  /-- Bottom entry first. -/
  deque   : List Nat := []
  spill   : List Nat := []
  /-- The last victim tried in each tier (R116). -/
  victim1 : Nat := 0
  victim2 : Nat := 0
  victim3 : Nat := 0
  allocs  : List Alloc := []
  /-- The entry at the head of the run list, with the firings completed on the core since it came there (R131). -/
  headWait : Nat × Nat := (0, 0)
  /-- The next fetch meets a parity failure that a refetch does not mend (R155, R268). -/
  parity  : Bool := false
  fenced  : Bool := false
  dlmiss  : Nat := 0
  /-- The home of the composition that holds this core, and its context (R243). -/
  frozen  : Option (Nat × Nat) := none
  /-- Sent and answered counts of each launch (R125). -/
  sent    : SMap Nat := []
  answered : SMap Nat := []
  out     : List Out := []
  /-- Counted messages that the network interface holds back, oldest first (R130). -/
  backlog : List Msg := []
  /-- Coherent stores not yet sent, oldest first (R209). -/
  late    : List LateStore := []
  /-- Posted arrivals not yet sent, oldest first (R346). -/
  arrivals : List LateArr := []
  fwds    : List Fwd := []
  waiters : List Waiter := []
  /-- Waits that found no entry, to be re-sent (R347). -/
  resend  : List Waiter := []
  log     : LogBlock := {}
  deriving DecidableEq, Repr

/-- Watermark of a copy channel (R204). -/
structure Mark where
  act : Bool := false
  lo  : Nat := 0
  hi  : Nat := 0
  wm  : Nat := 0
  deriving DecidableEq, Repr

/-- An operand range of the issuing core's scratchpad that a command guards (R241). -/
structure Guard where
  lo : Nat
  hi : Nat
  deriving DecidableEq, Repr

/-- The barrier side of an engine command (R372, R406). -/
structure CmdCtl where
  /-- Barrier address. -/
  bar    : Option Nat := none
  trapf  : Bool := false
  acq    : Bool := false
  rel    : Bool := false
  scope  : Nat := 0
  arv    : Bool := false
  /-- Issuing context, partition, launch, handle and PC. -/
  ctx    : Nat := 0
  part   : Nat := 0
  asid   : Nat := 0
  priv   : Bool := false
  lid    : Nat := 0
  handle : Nat := 0
  /-- How many firings the issuing actor had completed (R407, R424). -/
  fired  : Nat := 0
  pc     : Nat := 0
  /-- Global time of issue, which is the engine's acqTime under ACQ (R220). -/
  time   : Nat := 0
  /-- A command without a barrier has added its error to the launch (R376, R408). -/
  told   : Bool := false
  deriving DecidableEq, Repr

/-- A command in the matrix inbox with what it staged at issue (R240, R371). -/
structure MCmd where
  instr : Instr
  ctl   : CmdCtl
  mods  : Option ModWord := none
  /-- Order of issue. -/
  seq   : Nat
  /-- Addresses and row strides of operands A and B (R375). -/
  addrA : Nat := 0
  addrB : Nat := 0
  strA  : Int := 0
  strB  : Int := 0
  /-- Active extent (R374), with the reflector count of MQAPP in `rk`. -/
  m     : Nat := 0
  n     : Nat := 0
  k     : Nat := 0
  rk    : Nat := 0
  tail  : Bool := false
  /-- BFRs taken at issue for A, B or source and destination (R182). -/
  bfrs  : SMap Nat := []
  /-- Staged scalar: the PIVTHR word, or BCPY's count. -/
  arg   : Nat := 0
  guards : List Guard := []
  /-- Mask header and rows of MMAM (R385). -/
  mask  : Nat := 0
  /-- TTR's source as it stood at the first row (R381). -/
  stage : Nat := 0
  /-- Progress: state, rows and k-blocks (R389). -/
  st    : Nat := 0
  rows  : Nat := 0
  kb    : Nat := 0
  /-- A follow-on of CPYF: the channel of its copy, until the last beat lands (R412). -/
  follow : Option Nat := none
  /-- A copy that ended early left this status for its follow-on. -/
  failed : Option Nat := none
  /-- The policy core emulates it (R142). -/
  emul  : Bool := false
  /-- A zero, infinite or NaN destination scale has been reported (R181). -/
  badScale : Bool := false
  deriving DecidableEq, Repr

/-- A copy channel's command (R409, R413). -/
structure CCmd where
  /-- 0 CPY or CPYF, 1 CSRG, 2 stream. -/
  kind  : Nat
  ctl   : CmdCtl
  seq   : Nat := 0
  src   : Nat := 0
  dst   : Nat := 0
  /-- Source type code; 15 through the bank. -/
  sty   : Nat := 0
  cnt0  : Nat := 1
  cnt1  : Nat := 1
  cnt2  : Nat := 1
  str0  : Int := 0
  str1  : Int := 0
  str2  : Int := 0
  rm    : Rm := .rne
  /-- Destination bank's BFR when typed, and the source banks' (R182). -/
  dbfr  : Option Nat := none
  bfrs  : SMap Nat := []
  /-- Elements done. -/
  done  : Nat := 0
  /-- Granules not yet landed. -/
  beats : Nat := 0
  guards : List Guard := []
  /-- Status that ended it early. -/
  failed : Option Nat := none
  ended : Bool := false
  /-- CSRG: second channel, destinations, capacity, rows and result register. -/
  ch2   : Nat := 0
  dst2  : Nat := 0
  vty   : Nat := 0
  cap   : Nat := 0
  row0  : Nat := 0
  nrows : Nat := 0
  colidx : Nat := 0
  values : Nat := 0
  /-- The specifier of the register that takes CSRG's count; 0 for none. -/
  wid   : Nat := 0
  /-- Bytes of the destination range and of CSRG's second range. -/
  bytes : Nat := 0
  bytes2 : Nat := 0
  /-- CSRG: 0 before the row pointers are read, then 1 + first nonzero. -/
  first : Nat := 0
  /-- Stream: slot, ring offset and size, head and tail counts, elements in the pattern. -/
  slot  : Nat := 0
  ring  : Nat := 0
  rsize : Nat := 0
  head  : Nat := 0
  tailc : Nat := 0
  total : Nat := 0
  out   : Bool := false
  portb : Bool := false
  /-- Elements of a strip, its bits up to the granted length, and its tail policy (R349, R359). -/
  strip : Nat := 0
  ext   : Nat := 0
  tu    : Bool := false
  /-- A zero, infinite or NaN destination scale has been reported (R181). -/
  badScale : Bool := false
  deriving DecidableEq, Repr

/-- An access of an engine by message: what it asked for, its number, and its answer: 0 outstanding, 1 answered with a value, 2 refused
with a reason, 3 uncorrectable (R184, R190, R218). -/
structure EngAsk where
  who   : Nat
  va    : Nat
  n     : Nat
  write : Bool
  id    : Nat
  st    : Nat := 0
  val   : Nat := 0
  deriving DecidableEq, Repr

/-- The state of a core that belongs to a partition and is exchanged at a gang switch (R148). -/
structure CorePart where
  /-- t0 to t7, each frame as one number, row 0 in the low bits (R370). -/
  tiles  : SMap Nat := []
  /-- c0 to c3. -/
  accs   : SMap Nat := []
  /-- Granted rows and row bytes of t0 to t7 and of c0 to c3 (8 to 11): those of the last command that wrote the register, or of the move that
  installed it (R164, R169). -/
  dims   : SMap (Nat × Nat) := []
  /-- Rows of t0 to t7 and of c0 to c3 (8 to 11) that hold uncorrectable data (R155). -/
  badRows : List (Nat × Nat) := []
  inbox  : SMap MCmd := []
  perm   : SMap Nat := []
  grow   : Nat := 0
  fstat  : Nat := 0
  /-- BFRs by bank; a bank not listed holds TYPE 15 (R180). -/
  bfr    : SMap Nat := []
  rwin   : SMap Nat := []
  marks  : SMap Mark := []
  chans  : SMap CCmd := []
  /-- Commands issued so far, which orders the inboxes. -/
  seq    : Nat := 0
  /-- The channel that the copy engine serves next (R240). -/
  turn   : Nat := 0
  /-- Accesses of the engines by message in the present beats and steps. -/
  asked  : List EngAsk := []
  deriving DecidableEq, Repr

/-! ### Homes, pager and flash -/

/-- Logical times of a line at its home (R209). -/
structure HomeLine where
  wts : Nat := 0
  rts : Nat := 0
  /-- The kettle core whose L1 holds the line for writing (R210). -/
  holder : Option Nat := none
  deriving DecidableEq, Repr

/-- A line held dirty by an L2 or by the cellar cache, with the tag it will be written back under (R31, R187, R189). -/
structure Dirty where
  data   : Nat
  ptag   : Nat
  cellar : Bool
  /-- Part of the line was known uncorrectable when the rest was written (R30). -/
  poison : Bool := false
  deriving DecidableEq, Repr

/-- A line in the application cores' shared cache: its data, and whether a store there is not yet ordered at the line's home (R226). -/
structure HostLine where
  data  : Nat
  dirty : Bool
  /-- Part of the line was known uncorrectable when the rest was stored (R30). -/
  poison : Bool := false
  deriving DecidableEq, Repr

/-- An access of a host agent that waits for the DRAM: the agent, a write or a read, address, bytes and value (R32, R50). -/
structure HostAcc where
  agent : Nat
  write : Bool
  pa    : Nat
  len   : Nat
  val   : Nat
  deriving DecidableEq, Repr

/-- Metadata of a DRAM line: PTAG and POISON (R30), and what its check symbols find at the next read: 0 clean, 1 correctable symbol errors,
2 uncorrectable ones (R30, R31); a line not listed is unowned and clean. -/
structure LineMeta where
  ptag   : Nat := 16
  poison : Bool := false
  err    : Nat := 0
  deriving DecidableEq, Repr

/-- A page-in under way at the flash pager (R200). -/
structure PageIn where
  /-- Address of the leaf entry; of a CONT leaf, of the first entry of its group (R195). -/
  leaf   : Nat
  va     : Nat
  part   : Nat
  size   : Nat
  write  : Bool
  /-- Reply addresses: endpoint, context and command of each held access. -/
  askers : List (Nat × Nat × Nat)
  /-- 0 requested, 1 read submitted. -/
  st     : Nat := 0
  /-- For a CASK page-in: the frame that its list names, and the command (R203). -/
  frame  : Nat := 0
  cmd    : Option Nat := none
  deriving DecidableEq, Repr

/-- The entries of the leaf of a page of a size: those of its group of 16 where the size is one of a CONT leaf's (R83, R195). -/
def leafGroup (leaf size : Nat) : List Nat :=
  if size = 2 ^ 16 || size = 2 ^ 25 || size = 2 ^ 34 then (List.range 16).map fun i => leaf / 128 * 128 + 8 * i else [leaf]

/-- The address by which the pager knows the leaf of a page of a size: that of the first entry of its group. -/
def leafHead (leaf size : Nat) : Nat := (leafGroup leaf size).headD leaf

/-- A page-in reads the page of a leaf entry. -/
def PageIn.covers (x : PageIn) (leaf : Nat) : Bool := (leafGroup x.leaf x.size).contains leaf

/-- A page that the pager installed (R201). -/
structure Paged where
  /-- Address of the leaf entry; of a CONT leaf, of the first entry of its group (R195). -/
  leaf  : Nat
  part  : Nat
  va    : Nat
  size  : Nat
  frame : Nat
  /-- The entries that name it: each with its first flash block and its place in the frame (R195, R201). -/
  blks  : List (Nat × Nat × Nat)
  /-- Its eviction's write to flash is under way (R201). -/
  out   : Bool := false
  deriving DecidableEq, Repr

/-- A page with one of its entries taken off it, unless its eviction is under way: none where that was the last. -/
def Paged.without (x : Paged) (ea : Nat) : Option Paged :=
  if x.out || !(x.blks.any fun b => b.1 == ea) then some x
  else
    let l := x.blks.filter fun b => b.1 != ea
    if l.isEmpty then none else some { x with blks := l }

/-! ### Actors and launches -/

/-- A placement directory entry (R103). -/
structure DirEnt where
  home   : Nat := 0
  part   : Nat := 0
  gen    : Nat := 0
  /-- 0 FREE, 1 POOL, 2 PLACED, 3 EXITED. -/
  loc    : Nat := 0
  /-- Readiness record offset and workspace offset while placed. -/
  record : Nat := 0
  ws     : Nat := 0
  desc   : Nat := 0
  lid    : Nat := 0
  deriving DecidableEq, Repr

/-- What the hardware keeps of an actor beside its readiness record (R101, R105, R109, R158, R438). -/
structure Kept where
  /-- Words 0 and 1 of an unplaced actor's readiness record (R112); a placed actor's are in its home scratchpad. -/
  word0   : Nat := 0
  word1   : Nat := 0
  /-- The 64 descriptor bytes read at creation, as one number (R100). -/
  desc    : Nat := 0
  /-- Token index of input ports 0 to 7 and output ports 8 to 15 (R101). -/
  pos     : SMap Nat := []
  /-- The producer's port of each input port, once found (R109). -/
  credit  : SMap Nat := []
  arg     : Nat := 0
  fired   : Nat := 0
  base    : Nat := 0
  lid     : Nat := 0
  /-- A saved context stands in the workspace: its PC, ASID and kept NACKs (R98, R143). -/
  saved   : Option (Nat × Nat) := none
  nacks   : List Nack := []
  live    : Bool := false
  /-- The landing checks of the saved context's entry are still due (R136, R271). -/
  entry   : Option PadKind := none
  pitch0  : Nat := 0
  pitch1  : Nat := 0
  /-- A reply that the saved firing still waits for (R143, R149). -/
  wait    : Option WaitRec := none
  /-- Pending target of a host RACK command, with its command (R158). -/
  target  : Option (Nat × Nat) := none
  /-- A handler firing that waits with the record: handler PC, argument, sender (R340). -/
  handlers : List (Nat × Nat × Nat) := []
  /-- A handler firing of another actor: its target's handle; 0 otherwise. -/
  handlerOf : Nat := 0
  /-- It waited with its target's pool record, and comes before the target's first firing (R340). -/
  early   : Bool := false
  /-- The workspace and the span of an actor in a pool that no core holds, after it had begun on a fenced core (R128, log 81). -/
  image   : Option (Nat × Nat) := none
  /-- The saved firing has left its core, and acquires where it resumes (R224). -/
  moved   : Bool := false
  deriving DecidableEq, Repr

/-- A ready-pool record, beside the actor's kept words (R112). -/
structure PoolRec where
  handle : Nat
  die    : Nat
  home   : Nat
  homed  : Bool
  /-- Global time of entry in ns. -/
  enq    : Nat
  cls    : Nat
  deriving DecidableEq, Repr

/-- A group-table entry and the launch that holds it (R119). -/
structure GroupEnt where
  kettle : Nat := 0
  cellar : Nat := 0
  lid    : Nat := 0
  deriving DecidableEq, Repr

/-- A launch (R82, R118, R126, R127). -/
structure Launch where
  root   : Nat
  part   : Nat
  svc    : Nat
  cmd    : Nat
  prio   : Nat
  tbar   : Nat := 0
  wd1    : Nat := 0
  wd2    : Nat := 0
  wd3    : Nat := 0
  ydl    : Nat := 0
  errors : Nat := 0
  misses : Nat := 0
  /-- Watchdog state 0 ARMED, 1 STEP1, 2 STEP2, 3 STEP3, or 4 once the launch is quiescent and completes, and the time in ns that it
  has counted from. -/
  wd     : Nat := 0
  wdFrom : Nat := 0
  /-- Sum of S that the last wave reported with every core idle (R126), and the time in ns of that wave. -/
  wave   : Option Nat := none
  waveAt : Nat := 0
  /-- Time in ns since which the partition is active on none of the launch's cores, so that the watchdog does not count (R127). -/
  wdHold : Option Nat := none
  killed : Bool := false
  deriving DecidableEq, Repr

/-- A partition (R72, R83, R146). -/
structure Partition where
  root   : Nat
  kettle : Nat
  cellar : Nat
  slice  : Nat := 0
  /-- Base frames of the areas that firmware reserves (R130, R161, R201, R472). -/
  area   : Nat := 0
  /-- The page-table pool: its areas, each with its start, the next frame never used and its end, and the frames returned (R472). -/
  ptRanges : List (Nat × Nat × Nat) := []
  ptFree : List Nat := []
  /-- Start of the 256 MiB pager pool; 0 before it is reserved (R201). -/
  pager  : Nat := 0
  /-- Opnobex modules that LOAD has emitted, and the addresses of their actors' descriptors with the number of firings after which each
  exits, where its module has a period limit (R447, R448). -/
  emitted : Nat := 0
  limits : List (Nat × Nat) := []
  /-- The inline encryption key that create draws and destroy erases (R84). -/
  inlineKey : Nat := 0
  /-- Registered Ed448 key (R442). -/
  key    : List Byte := []
  /-- Ranges of installed segments, defined symbols with digests, load sequence and bundle digests (R443, R445). -/
  ranges : List (Nat × Nat) := []
  names  : List (List Byte × Nat × Bool × List Byte) := []
  loads  : Nat := 0
  digests : List Byte := []
  deriving DecidableEq, Repr

/-! ### Queues and commands -/

/-- A command queue's registers (R70). -/
structure Queue where
  tail   : Nat := 0
  head   : Nat := 0
  rbase  : Nat := 0
  enable : Bool := false
  log2n  : Nat := 0
  svc    : Nat := 0
  part   : Nat := 0
  cbase  : Nat := 0
  ctail  : Nat := 0
  chead  : Nat := 0
  qrwin  : Nat := 0
  badcfg : Bool := false
  ovr    : Bool := false
  stall  : Bool := false
  /-- Wake contract bound to the queue (R55). -/
  contract : Nat := 0x0503
  /-- The queue's interrupts raised so far (R77). -/
  irqs   : Nat := 0
  deriving DecidableEq, Repr

/-- A command that a service core has read and not completed (R77, R78). -/
structure Cmd where
  q     : Nat
  svc   : Nat
  part  : Nat
  seq   : Nat
  code  : Nat
  irq   : Bool
  ser   : Bool
  /-- The block's bytes, zero beyond what was read. -/
  block : List Byte
  /-- 0 read, 1 begun, 2 accepted, 3 handed to another core, 4 done and waiting for its record. -/
  st    : Nat := 0
  /-- Progress of a command of several steps. -/
  step  : Nat := 0
  bytes : Nat := 0
  status : Nat := 0
  result : Nat := 0
  /-- Absolute time in ns of a timeout; 0 none. -/
  limit : Nat := 0
  deriving DecidableEq, Repr

/-! ### Lauters, power, racking -/

/-- A grammar slot of a lauter engine (R416, R417). -/
structure Grammar where
  part : Nat
  nclass : Nat
  depth : Nat
  nsym : Nat
  nstates : Nat
  start : Nat
  vocab : Nat
  classmap : Nat
  trans : Nat
  midx : Nat
  deriving DecidableEq, Repr

/-- An automaton instance (R417). -/
structure Automaton where
  slot  : Nat
  part  : Nat
  state : Nat
  stack : List Nat
  deriving DecidableEq, Repr

/-- A command in a lauter engine's inbox (R415). -/
structure LCmd where
  fn   : Nat
  ty   : Ty
  a    : Nat
  b    : Nat
  ctl  : CmdCtl
  src  : Nat
  /-- The number that its reply answers; whether a reply is due. -/
  msg  : Nat
  reply : Bool
  pts  : Nat
  /-- Address of a table page whose flash read failed (R202). -/
  failed : Option Nat := none
  /-- MASK: beats of 512 tokens whose logits have been written, and the mask that it follows (R418). -/
  beats : Nat := 0
  mask  : Option Nat := none
  deriving DecidableEq, Repr

/-- A lauter engine (R415, R417). -/
structure Lauter where
  inbox : List LCmd := []
  /-- Its accesses by message for the command that it runs (R184). -/
  asked : List EngAsk := []
  slots : SMap Grammar := []
  insts : SMap Automaton := []
  /-- Mask cache: (slot, state, top) with the mask's bits, most recently used first. -/
  cache : List ((Nat × Nat × Nat) × Nat) := []
  deriving DecidableEq, Repr

/-- A power cluster (R62 to R68). -/
structure Cluster where
  temp  : Nat := 0
  step  : Nat := 0
  /-- THRT writes that take effect at later issue windows, in order: (core cycle of the cluster's first core, value) (R66). -/
  pendingSteps : List (Nat × Nat) := []
  inStep : Nat := 0
  cap   : Nat := 0
  grant : Nat := 1
  mstep : Nat := 0
  cause : Nat := 0
  eff   : Nat := 0
  refund : Bool := false
  boost : Nat := 0
  lo    : Nat := 1408
  hi    : Nat := 1520
  evCrit : Bool := false
  evClim : Bool := false
  evTherm : Bool := false
  evRefund : Bool := false
  clim  : Bool := false
  therm : Bool := false
  trip  : Bool := false
  sampling : Bool := false
  high  : Bool := false
  deriving DecidableEq, Repr

/-- A pitch trigger pending at the power controller (R57 to R59). -/
structure Trigger where
  level : Nat
  die   : Nat
  rtgt  : Nat
  part  : Nat
  /-- Time in ns at which it reached the controller, and whether its level was ready then. -/
  time  : Nat
  already : Bool
  voided : Bool := false
  /-- The power controller has it: PITCH_TRIGGER has come about for it. -/
  arrived : Bool := false
  /-- A component that it asks for did not wake (R58). -/
  failed : Bool := false
  deriving DecidableEq, Repr

/-- The power controller and the components it moves (R43). -/
structure Power where
  /-- State of each compute die, 0 to 3. -/
  die    : SMap Nat := []
  /-- A die in transition: 1 entering K2, 2 entering K3, 3 waking; with the step reached. -/
  trans  : SMap Nat := []
  /-- Time in ns since which the die's idle condition or state has held. -/
  dieSince : SMap Nat := []
  cellarC1 : Bool := false
  /-- The cellar is returning to C0. -/
  cellarWaking : Bool := false
  cellarSince : Nat := 0
  /-- DRAM: 0 active, 1 self-refresh, 2 leaving self-refresh. -/
  dram   : Nat := 1
  dramSince : Nat := 0
  /-- An access waits for the DRAM to leave self-refresh (R50). -/
  dramWant : Bool := false
  appAsleep : Bool := false
  /-- The application cores wake once the DRAM accepts accesses (R51). -/
  appWaking : Bool := false
  /-- The platform power interface gave the busy indication to the last sleep request (R51). -/
  appBusy : Bool := false
  /-- Components with an uncorrectable fault: 0 to 3 dies, 4 cellar, 5 DRAM, 6 application cores (R53). -/
  faulty : List Nat := []
  /-- Time in ns at which a logical time was found at 2^62 or above, and of the last entry into S1 (R212). -/
  timesHighAt : Option Nat := none
  s1At   : Option Nat := none
  /-- A renumbering has begun: no core issues until it is done (R212). -/
  renum  : Bool := false
  /-- Contracts in force: (0 actor or 1 queue, handle or queue, partition, value), oldest first (R55). -/
  contracts : List (Nat × Nat × Nat × Nat) := []
  triggers : List Trigger := []
  clusters : SMap Cluster := []
  /-- Burst reservoir in units of 1/8 W for 10 µs; 20 J when full. -/
  reservoir : Nat := 16000000
  refunds : Nat := 0
  kidle2 : Nat := 1000000
  kidle3 : Nat := 10000000000
  didle  : Nat := 100000
  /-- Latest lease end that each gated die's L2 passed on (R188). -/
  leaseEnd : SMap Nat := []
  /-- Bids and measured draw of the interval, which firmware forms (R63): cluster to (w, L, H), and P in 1/8 W. -/
  bids   : SMap (Nat × Nat × Nat) := []
  draw   : Nat := 0
  /-- Time in ns of the last market clear, and that the next one is not complete when its interval begins (R63). -/
  marketAt : Nat := 0
  marketLate : Bool := false
  /-- Mesh clock of dies 0 to 3 and of the base fabric (4) in MHz (R18). -/
  mesh   : SMap Nat := []
  deriving DecidableEq, Repr

/-- One direction of a link: spare lanes left, and failed replays of the present flit (R16). -/
structure Lanes where
  spares : Nat := 2
  fails  : Nat := 0
  deriving DecidableEq, Repr

/-- A link: its two directions, half width, down, lanes (R16, R38, R39); of a port, its mode: 0 root port, 1 endpoint, 2 peer link (R34). -/
structure Link where
  tx     : Lanes := {}
  rx     : Lanes := {}
  half   : Bool := false
  down   : Bool := false
  lanes  : Nat := 16
  mode   : Nat := 0
  /-- Of a port in peer mode: the logical time of the accesses that it has performed for other packages (R228). -/
  pts    : Nat := 0
  deriving DecidableEq, Repr

/-- A move that the racking engine holds (R157, R166). -/
structure Move where
  handle : Nat
  part   : Nat
  /-- The old home and the context of the racking point. -/
  core   : Nat
  ctx    : Nat
  target : Nat
  cask   : Nat
  live   : Nat
  d      : SReg
  /-- Host command whose target this move uses. -/
  cmd    : Option Nat
  /-- 1 DRAIN, 2 CASK, 3 WAKE, 4 INSTALL, 5 a fault of CASK, 6 DONE. -/
  st     : Nat := 1
  /-- Pages that CASK moved: entry address, its old value, and its new one. -/
  rewrites : List (Nat × Nat × Nat) := []
  /-- Reason of a refused or abandoned move. -/
  reason : Nat := 0
  /-- The firing's stream channels, which go with it (R207). -/
  streams : SMap CCmd := []
  /-- A watchdog's first step takes effect at the first boundary after the move (R171). -/
  preempt : Bool := false
  deriving DecidableEq, Repr

/-- The firmware complex (R71, R85 to R95). -/
structure Firmware where
  /-- Bring-up: 0 in reset, 2 after step 2 and 3, 4 reduced service, 5 DRAM, 6 dies, 7 full service. -/
  step   : Nat := 0
  lifecycle : Nat := 2
  /-- The board configuration (R34, R36): this package's number, how many packages are joined, and the modes of ports 0 and 1. -/
  package : Nat := 0
  packages : Nat := 1
  port0  : Nat := 0
  port1  : Nat := 0
  version : Nat := 1
  rollback : Nat := 0
  /-- The firmware update image in flash with its version: bytes with the signature last; and whether bring-up took it (R86, R89, R91). -/
  image : List Byte := []
  imageVersion : Nat := 0
  updated : Bool := false
  /-- The signed repair map in flash, and as bring-up applied it: kettle cores that have failed (R94). -/
  repairMap : List Nat := []
  repaired : List Nat := []
  /-- Corrections of on-die and DRAM rows since the cold reset, rows marked for remapping, and rows remapped: by row (R94, R156). -/
  rowFixes : SMap Nat := []
  rowMarks : List Nat := []
  rowsUsed : List Nat := []
  /-- Cores and rows for which no spare was left: they stay out of service (R94). -/
  coresOut : List Nat := []
  rowsOut : List Nat := []
  /-- Revocation fuses of the four vendor keys (R91). -/
  revoked : Nat := 0
  /-- The mailbox ring, where R450 places it, and further addresses from the signed board configuration (log 13). -/
  mailbox : Nat := 0x10000000010
  root0  : Nat := 0x10000100000
  rbase0 : Nat := 0x10000240000
  cbase0 : Nat := 0x10000241000
  /-- The supervisor image of the boot bundle: its bytes from `superBase` on, of which the first line is its entry (R453, log 4). -/
  superBase : Nat := 0x10000210000
  superImage : List Byte := []
  /-- Bytes of its `.text`, from its start (R450). -/
  superText : Nat := 0
  /-- Code that firmware places in cellar SRAM beside it: virtual and physical address and bytes (R450, R467). -/
  codeMaps : List (Nat × Nat × Nat) := []
  /-- Wake order of each service core: queues with the tail each wake made available (R78). -/
  wakes  : SMap (List (Nat × Nat)) := []
  nextCmd : Nat := 1
  nextLid : Nat := 1
  mailSeq : Nat := 0
  /-- Tag-mismatch, soft-error and uncorrectable counts of each channel (R31). -/
  mismatch : SMap Nat := []
  soft   : SMap Nat := []
  uncorr : SMap Nat := []
  /-- Error counters of each die: CORR.SPAD, CORR.CACHE, CORR.REG, UNCORR, ROWMARK at 8 × die + k (R156). -/
  errs   : SMap Nat := []
  /-- PHANDLE, the command in progress and PSTAT.RES of each die (R140). -/
  phandle : SMap Nat := []
  pcmd   : SMap Nat := []
  pstat  : SMap Nat := []
  /-- Accesses of host agents that wait for the DRAM (R32, R50). -/
  hostWait : List HostAcc := []
  /-- What the host agents' last read returned (R32). -/
  hostRead : Nat := 0
  /-- The next write to flash that ends fails (R203). -/
  flashFails : Bool := false
  /-- Words of scratchpads and cellar SRAM known uncorrectable, by where they are stored (R155). -/
  badWords : List Nat := []
  /-- Logical time of the firmware agents, whose accesses it puts in order (R209). -/
  pts    : Nat := 0
  deriving DecidableEq, Repr

/-- An operation that happens next, with the message, command or record it acts upon (log 5). -/
structure Act where
  instr : Instr
  focus : Nat := 0
  deriving DecidableEq, Repr

/-- The slot being executed: its core and context, how many slots it takes, its bits [47:0] and its modifiers (log 5). -/
structure Issue where
  core : Nat := 0
  ctx  : Nat := 0
  len  : Nat := 1
  slot : Nat := 0
  mods : Option ModWord := none
  /-- The slot after it in its line, for MOD and CPYF (R285, R412). -/
  nextSlot : Option (BitVec 96) := none
  deriving DecidableEq, Repr

/-- What happens to the package from outside or by physical accident, apart from the operations of the table (log 5). -/
inductive Input where
  /-- An uncorrectable flit error in a message in flight (R28). -/
  | flitError (id : Nat)
  /-- Symbol errors in a DRAM line, which its code can correct or not (R30, R31). -/
  | dramError (line : Nat) (correctable : Bool)
  /-- A message that arrives at a peer port (R36). -/
  | fromPeer (port : Nat) (m : Msg)
  /-- Uncorrectable data in a word of a core's scratchpad or of cellar SRAM, by where it is stored (R155). -/
  | wordError (key : Nat)
  /-- Uncorrectable data in a row of a tile (0 to 7) or accumulator (8 to 11) (R155). -/
  | frameError (core part reg row : Nat)
  /-- Uncorrectable data in a cached line: in a clean copy, or in one that is held dirty (R155). -/
  | cacheError (line : Nat) (dirty : Bool)
  /-- A parity failure of a core's next fetch line that a refetch does not mend (R155). -/
  | lineParity (core : Nat)
  /-- A soft error that its code corrects, on a die: 0 scratchpad, shadow or SRAM in a row, 1 cache, 2 register cache, tile or accumulator (R155, R156). -/
  | softError (die kind row : Nat)
  /-- An uncorrectable fault of a component, which the power controller reports; the component does not wake where `failed` (R53, R58). -/
  | powerFault (component : Nat) (failed : Bool)
  /-- A new signed repair map in flash (R94). -/
  | repairMap (cores : List Nat)
  /-- The market's next clearing is not complete when its interval begins (R63). -/
  | marketLate
  /-- The next write to flash that ends fails (R203). -/
  | flashFails
  /-- A new firmware update image in flash (R91). -/
  | updateImage (version : Nat) (image : List Byte)
  deriving DecidableEq, Repr

/-- The package. -/
structure State where
  mem     : Memory := []
  tags    : SMap LineMeta := []
  dirty   : SMap Dirty := []
  /-- Clean lines that the L2 of their quadrant holds, or, true, the cellar cache as part of their home (R187, R189). -/
  held    : SMap Bool := []
  homes   : SMap HomeLine := []
  /-- The application cores' shared cache (R3, R226). -/
  hostLines : SMap HostLine := []
  /-- Remote-data caches and the cellar cache's leased copies, by (die code + 1) × 2^52 + line (R187). -/
  rdc     : SMap Copy := []
  /-- Shared TLB of each die code (R197). -/
  stlb    : SMap (List TlbEnt) := []
  cores   : SMap Core := []
  ctxs    : SMap Ctx := []
  parts   : SMap CorePart := []
  /-- Engine and window state of the partitions that were paged out of a core before its die was turned off, by 16 × core + partition (R46, R148). -/
  away    : SMap CorePart := []
  net     : List Msg := []
  nextMsg : Nat := 1
  seqs    : SMap Nat := []
  /-- Messages that left over a peer link, with the port, oldest first (R36). -/
  peerOut : List (Nat × Msg) := []
  /-- Messages parked for a partition, oldest first (R130). -/
  parked  : List Msg := []
  /-- Barrier waits registered at L2 and memory-controller homes, by quadrant or 4 for cellar SRAM (R347). -/
  homeWaiters : SMap (List Waiter) := []
  dirs    : SMap DirEnt := []
  kept    : SMap Kept := []
  pool    : List PoolRec := []
  groups  : SMap GroupEnt := []
  launches : SMap Launch := []
  partitions : SMap Partition := []
  queues  : SMap Queue := []
  cmds    : SMap Cmd := []
  lauters : SMap Lauter := []
  power   : Power := {}
  links   : SMap Link := []
  rackQueue : List Move := []
  pageIns : List PageIn := []
  paged   : List Paged := []
  /-- Pages pinned against eviction: partition and leaf entry (R203). -/
  pins    : List (Nat × Nat) := []
  /-- CASK page-outs whose flash write is under way: leaf entry, command and frame (R203). -/
  pageOuts : List (Nat × Nat × Nat) := []
  fw      : Firmware := {}
  /-- Global time in units of 1/336 ns (log 6). -/
  now     : Nat := 0
  /-- Operations chosen to happen next (log 5). -/
  agenda  : List Act := []
  /-- Inputs that come next, after the agenda (log 5). -/
  inputs  : List Input := []
  focus   : Nat := 0
  issue   : Issue := {}
  /-- Free values taken so far (log 3). -/
  fresh   : Nat := 0
  deriving DecidableEq, Repr

/-- Queue 0 as it stands after reset: enabled, with SVC 4 and LOG2N 4 and the board configuration's rings (R71). -/
def Queue.reset0 (fw : Firmware) : Queue :=
  { enable := true, svc := 4, log2n := 4, part := 0, rbase := fw.rbase0, cbase := fw.cbase0 }

/-- The package right after a cold reset (R9, R71, R89, R212): nothing in memory, no firing, every logical time zero,
the dies off and the DRAM not yet active; the fields without a reset value as log 2 gives. -/
def State.reset : State :=
  { queues := [(0, Queue.reset0 {})]
    power := { die := [(0, 3), (1, 3), (2, 3), (3, 3)] } }

end Sys2Proof.Machine
end

