-- ==== Sys2Proof/Machine/Place.lean ====
section
/-! DEFINITION. Places and plain accessors: core codes, endpoints, bytes of storage, core clocks, and sending a message. -/
namespace Sys2Proof.Machine

/-! ### Cores (R14, R229); a core code is die [10:8], y [7:4], x [3:0] -/

/-- Die code of a core; 4 is the cellar island. -/
def coreDie (c : Nat) : Nat := c / 256
/-- x coordinate of a core. -/
def coreX (c : Nat) : Nat := c % 16
/-- y coordinate of a core. -/
def coreY (c : Nat) : Nat := c / 16 % 16
/-- The core code of a die, x and y. -/
def mkCore (die x y : Nat) : Nat := die * 256 + y * 16 + x
/-- A cellar core. -/
def isCellar (c : Nat) : Bool := coreDie c == 4
/-- Coordinates inside a die's mesh (R179). -/
def meshOk (die x y : Nat) : Bool :=
  (decide (die < 4) && decide (x < 8) && decide (y < 8)) || (die == 4 && decide (x < 4) && decide (y < 2))
/-- A core code that names a core. -/
def coreOk (c : Nat) : Bool := meshOk (coreDie c) (coreX c) (coreY c)
/-- Contexts of a core (R229). -/
def nctx (c : Nat) : Nat := if isCellar c then 4 else 16
/-- Bytes of a core's scratchpad (R176). -/
def spadSize (c : Nat) : Nat := if isCellar c then 0x40000 else 0x100000
/-- Banks of a core's scratchpad (R176). -/
def nbanks (c : Nat) : Nat := if isCellar c then 8 else 16
/-- Bytes of a bank (R176). -/
def bankSize (c : Nat) : Nat := if isCellar c then 0x8000 else 0x10000
/-- Position of a core in its die's list, 8y + x. -/
def coreRank (c : Nat) : Nat := 8 * coreY c + coreX c
/-- The cluster of a core (R41). -/
def clusterOf (c : Nat) : Nat :=
  if isCellar c then 64 + coreX c / 2 else 16 * coreDie c + 4 * (coreY c / 2) + coreX c / 2
/-- The cores of a die in ascending 8y + x. -/
def dieCores (die : Nat) : List Nat :=
  if die = 4 then [0x400, 0x401, 0x402, 0x403, 0x410, 0x411, 0x412, 0x413]
  else (List.range 64).map fun i => mkCore die (i % 8) (i / 8)
/-- Every core in ascending die code, then 8y + x. -/
def allCores : List Nat := [0, 1, 2, 3, 4].flatMap dieCores

/-! ### Endpoints, in the coding of the routing word bits [10:0] (R25) -/

/-- Network interface of a core. -/
def epCore (c : Nat) : Nat := coreDie c + coreX c * 8 + coreY c * 128
/-- Core of an endpoint code. -/
def coreOfEp (e : Nat) : Nat := mkCore (e % 8) (e / 8 % 16) (e / 128 % 16)
/-- The endpoint is a core's network interface. -/
def epIsCore (e : Nat) : Bool := meshOk (e % 8) (e / 8 % 16) (e / 128 % 16)
/-- L2 of a compute die. -/
def epL2 (q : Nat) : Nat := q + 8 * 128
/-- Lauter engine of a die code. -/
def epLauter (d : Nat) : Nat := d + 8 + 8 * 128
/-- Cellar cache, the controller of cellar SRAM. -/
def epSram : Nat := 4 + 2 * 8 + 8 * 128
/-- Dispatch core 0 to 5, and the agents 6 policy core, 7 racking engine, 8 flash pager, 9 power controller. -/
def epAgent (i : Nat) : Nat := 5 + i * 8
/-- Memory-controller home of a quadrant. -/
def epMc (q : Nat) : Nat := 5 + 10 * 8 + q * 128
/-- Combinations that R25 lists. -/
def epOk (e : Nat) : Bool :=
  let d := e % 8
  let x := e / 8 % 16
  let y := e / 128 % 16
  epIsCore e || (decide (d < 4) && y == 8 && decide (x ≤ 1)) || (d == 4 && y == 8 && (x == 1 || x == 2))
    || (d == 5 && y == 0 && decide (x ≤ 10)) || (d == 5 && decide (y ≤ 3) && x == 10) || (d == 6 && y == 0 && decide (x ≤ 1))

/-! ### Bytes -/

/-- The `n` bytes from an address as a little-endian number (R7). -/
def Memory.readN (m : Memory) (a : Nat) : Nat → Nat
  | 0 => 0
  | n + 1 => (Memory.get m a).toNat + 256 * Memory.readN m (a + 1) n

/-- Memory with the low `n` bytes of a number written little-endian (R7). -/
def Memory.writeN (m : Memory) (a : Nat) : Nat → Nat → Memory
  | 0, _ => m
  | n + 1, v => Memory.writeN (Memory.set m a (BitVec.ofNat 8 v)) (a + 1) n (v / 256)

/-- A number as `n` little-endian bytes. -/
def toBytes : Nat → Nat → List Byte
  | 0, _ => []
  | n + 1, v => BitVec.ofNat 8 v :: toBytes n (v / 256)

/-- Little-endian bytes as a number. -/
def ofBytes : List Byte → Nat
  | [] => 0
  | b :: l => b.toNat + 256 * ofBytes l

/-- Storage key of a scratchpad byte of a core and partition (log 7). -/
def spadKey (core part off : Nat) : Nat := 2 ^ 60 + (core * 16 + part) * 2 ^ 20 + off

/-- Storage key of a flash byte. -/
def flashKey (blk off : Nat) : Nat := 2 ^ 62 + blk * 4096 + off

/-- First byte of cellar SRAM (R174). -/
def sramBase : Nat := 0x10000000000

/-- A physical address in cellar SRAM (R174). -/
def isSram (pa : Nat) : Bool := decide (sramBase ≤ pa ∧ pa < sramBase + 0x3000000)

/-- A physical address in DRAM (R174). -/
def isDram (pa : Nat) : Bool := decide (pa < 0x10000000000)

/-- Quadrant of a DRAM address (R33). -/
def quadrant (pa : Nat) : Nat := pa / 2 ^ 38 % 4

/-- Memory channel of a DRAM address (R33). -/
def channelOf (pa : Nat) : Nat := 24 * quadrant pa + bits pa 37 8 % 24

/-! ### Accessors of the state -/

/-- A core. -/
def State.core (s : State) (c : Nat) : Core := SMap.get {} s.cores c
/-- The state with a core replaced. -/
def State.setCore (s : State) (c : Nat) (k : Core) : State := { s with cores := SMap.put s.cores c k }
/-- The state with a core changed. -/
def State.modCore (s : State) (c : Nat) (f : Core → Core) : State := s.setCore c (f (s.core c))
/-- A context. -/
def State.ctx (s : State) (c k : Nat) : Ctx := SMap.get {} s.ctxs (c * 16 + k)
/-- The state with a context replaced. -/
def State.setCtx (s : State) (c k : Nat) (x : Ctx) : State := { s with ctxs := SMap.put s.ctxs (c * 16 + k) x }
/-- The state with a context changed. -/
def State.modCtx (s : State) (c k : Nat) (f : Ctx → Ctx) : State := s.setCtx c k (f (s.ctx c k))
/-- The partition state of a core. -/
def State.cpart (s : State) (c p : Nat) : CorePart := SMap.get {} s.parts (c * 16 + p)
/-- The state with a core's partition state changed. -/
def State.modPart (s : State) (c p : Nat) (f : CorePart → CorePart) : State :=
  { s with parts := SMap.put s.parts (c * 16 + p) (f (s.cpart c p)) }
/-- The partition state that is active on a core (R147). -/
def State.apart (s : State) (c : Nat) : CorePart := s.cpart c (s.core c).active
/-- The state with a core's active partition state changed. -/
def State.modApart (s : State) (c : Nat) (f : CorePart → CorePart) : State := s.modPart c (s.core c).active f

/-- Bytes of a core's active scratchpad. -/
def State.spadRead (s : State) (c off n : Nat) : Nat := Memory.readN s.mem (spadKey c (s.core c).active off) n
/-- The state with bytes of a core's active scratchpad written. -/
def State.spadWrite (s : State) (c off n v : Nat) : State :=
  { s with mem := Memory.writeN s.mem (spadKey c (s.core c).active off) n v }

/-- Some of `n` bytes of scratchpads or cellar SRAM, by where they are stored, lie in a word known to be uncorrectable (R155). -/
def State.wordsBad (s : State) (key n : Nat) : Bool := s.fw.badWords.any fun w => decide (w < key + n) && decide (key < w + 8)

/-- The state with the words that a store of `n` bytes covers whole no longer uncorrectable (R155). -/
def State.mend (s : State) (key n : Nat) : State :=
  { s with fw := { s.fw with badWords := s.fw.badWords.filter fun w => !(decide (key ≤ w) && decide (w + 8 ≤ key + n)) } }

/-- Global time in ns (R5). -/
def State.time (s : State) : Nat := s.now / 336

/-- Cycles that a core's clock has counted (R279). -/
def State.cycle (s : State) (c : Nat) : Nat :=
  let k := s.core c
  if k.period = 0 then k.base else k.base + (s.now - k.since) / k.period

/-- The time at which a core's clock reaches a cycle. -/
def State.timeOf (s : State) (c n : Nat) : Nat :=
  let m := s.core c
  m.since + (n - m.base) * m.period

/-- The thread of a core is composed: it is the home of a composed core (R244). -/
def State.composedAt (s : State) (c : Nat) : Bool :=
  match (s.core c).frozen with
  | some (h, k) => h == c && bit (s.spadRead c ((s.ctx c k).wptr + 0x200) 8) 3 == 1
  | none => false

/-- TIME as a core reads it: global time in ns; in replay, the value logged (R154); in a composed core the cycles of its clock, which go on from those its
home has counted (R244, log 87). -/
def State.timeAt (s : State) (c : Nat) : Nat :=
  match (s.core c).log.clock with
  | some t => t
  | none => if s.composedAt c then s.cycle c else s.time

/-- The state with a core's clock set to a period, 0 to stop it; the cycles counted so far stand. -/
def State.setPeriod (s : State) (c p : Nat) : State :=
  let n := s.cycle c
  s.modCore c fun k => { k with base := n, since := s.now, period := p }

/-- A free byte, and the state that has taken it (log 3). -/
def State.takeByte (s : State) : Byte × State := (Config.freeByte s.fresh, { s with fresh := s.fresh + 1 })

/-- A free word, and the state that has taken it (log 3). -/
def State.takeWord (s : State) : Word × State := (Config.freeWord s.fresh, { s with fresh := s.fresh + 1 })

/-! ### Sending (R21 to R26) -/

/-- Key of an ordered triple: source, destination and channel, with the packages of the source and the destination (R22, R24). -/
def tripleKey (m : Msg) : Nat := (m.src * 2048 + m.dst) * 4 + m.ch + (m.spkg * 4 + m.dpkg) * 2 ^ 24

/-- The 56-bit reply address of an endpoint: the mesh-window address with its die, y and x, at offset 0 (R26, log 61). -/
def replyAddr (e : Nat) : Nat := 0xFE * 2 ^ 48 + e % 8 * 2 ^ 40 + e / 128 % 16 * 2 ^ 36 + e / 8 % 16 * 2 ^ 32

/-- The endpoint of a reply address (log 61). -/
def replyEp (a : Nat) : Nat := bits a 42 40 + bits a 35 32 * 8 + bits a 39 36 * 128

/-- A core replays its receive log: it is fenced, in replay mode, and its own messages are discarded (R154). -/
def State.replaying (s : State) (c : Nat) : Bool := (s.core c).fenced && (s.core c).log.replay

/-- The state with a message injected under its number of the model: it takes the next number of its triple; SPKG is the own package, and DPKG too
unless the operation names another (R22, R24, R154). -/
def State.inject (s : State) (m : Msg) : State :=
  let m := { m with spkg := s.fw.package, dpkg := if m.far then m.dpkg else s.fw.package }
  let key := tripleKey m
  let q := SMap.get 0 s.seqs key
  { s with
    net := if epIsCore m.src && s.replaying (coreOfEp m.src) && m.dst != m.src then s.net else s.net ++ [{ m with seq := q }]
    seqs := SMap.put s.seqs key ((q + 1) % 256) }

/-- The state with a message sent: it takes the next number of the model. -/
def State.send (s : State) (m : Msg) : State := { s.inject { m with id := s.nextMsg } with nextMsg := s.nextMsg + 1 }

/-- A handle with its reserved bits zero, as they read (R8, R102). -/
def canonHandle (h : Nat) : Nat := bits h 63 57 * 2 ^ 57 + bits h 47 24 * 2 ^ 24 + bits h 19 0

/-- A channel 2 or far-atomic message is counted, as every channel 3 engine reply is (R125). -/
def countedOp (ch op : Nat) : Bool :=
  (ch == 2 && op != 0x22 && op != 0x24 && op != 0x29) || (ch == 3 && op == 0x33)

/-- Handle of the firing in a context; 0 where there is none. -/
def State.firingOf (s : State) (c k : Nat) : Nat :=
  match (s.ctx c k).firing with
  | some f => f.handle
  | none => 0

/-- Counted messages of a partition that await their answers are at the limit of a core's interface (R130). -/
def State.countFull (s : State) (c p : Nat) : Bool :=
  decide (4096 ≤ ((s.core c).out.filter fun o => o.counted && o.part == p).length)

/-- The state with a message sent from a core that is recorded until its answer comes; one that is counted beyond the limit of the interface is
held back (R125, R130). -/
def State.sendCounted (s : State) (c : Nat) (m : Msg) (o : Out) : State :=
  let h := if o.handle = 0 then s.firingOf c m.ctx else o.handle
  let o : Out :=
    { o with id := s.nextMsg, op := m.op, own := (s.core c).active, lid := m.lid, part := m.part, dst := m.dst, ctx := m.ctx,
             handle := h, fired := (SMap.get {} s.kept (canonHandle h)).fired }
  let full := o.counted && s.countFull c m.part
  let m := { m with ack := true, id := s.nextMsg }
  let s := { s with nextMsg := s.nextMsg + 1 }
  let s := s.modCore c fun k =>
    { k with out := k.out ++ [o], backlog := if full then k.backlog ++ [m] else k.backlog
             sent := if o.counted then SMap.put k.sent m.lid (SMap.get 0 k.sent m.lid + 1) else k.sent }
  if full then s else s.inject m

/-- The state with the oldest message of a partition that a core's interface held back injected (R130). -/
def State.sendHeld (s : State) (c p : Nat) : State :=
  match (s.core c).backlog.find? fun m => m.part == p with
  | none => s
  | some m => (s.modCore c fun k => { k with backlog := k.backlog.filter fun x => x.id != m.id }).inject m

/-- The state with a core's waiting request taken back, as a context that is pre-empted, switched or trapped takes back its BWAIT: what is on its way or
registered under its number goes, and its answer no longer comes (R125, R347). -/
def State.withdraw (s : State) (c id : Nat) : State :=
  let keep (l : List Waiter) : List Waiter := l.filter fun w => w.id != id
  let s : State :=
    { s with net := s.net.filter fun m => m.id != id
             homeWaiters := List.map (fun (e : Nat × List Waiter) => (e.1, keep e.2)) s.homeWaiters
             cores := List.map (fun (e : Nat × Core) => (e.1, { e.2 with waiters := keep e.2.waiters, resend := keep e.2.resend })) s.cores }
  match (s.core c).out.find? fun o => o.id == id with
  | none => s
  | some o =>
    (s.modCore c fun k =>
      { k with out := k.out.filter fun x => x.id != id, backlog := k.backlog.filter fun m => m.id != id
               answered := if o.counted then SMap.put k.answered o.lid (SMap.get 0 k.answered o.lid + 1) else k.answered }).sendHeld c o.part

/-- An empty record of an unanswered message. -/
def Out.blank (counted : Bool) (pc addr handle : Nat) : Out :=
  { id := 0, ctx := 0, op := 0, lid := 0, part := 0, pc := pc, dst := 0, counted := counted, addr := addr, handle := handle }

/-- A trap, fault, sample or report message to the supervisor mailbox (R88, R141); `kind` is the entry's KIND. -/
def State.report (s : State) (src kind arg info : Nat) : State :=
  s.send { id := 0, src := src, dst := epCore 0x400, part := 0, ch := 3, op := 0x32, arg := arg, data := toBytes 8 info, size := kind }

/-- The state with a correction in a row counted; the fourth since the cold reset marks the row for repair, and one entry tells the supervisor
(R94, R156, log 74). -/
def State.noteFix (s : State) (row : Nat) : State :=
  if s.fw.rowsOut.contains row then s
  else
  let n := SMap.get 0 s.fw.rowFixes row + 1
  let t := { s with fw := { s.fw with rowFixes := SMap.put s.fw.rowFixes row n } }
  if n = 4 then { t with fw := { t.fw with rowMarks := t.fw.rowMarks ++ [row] } }.report (epAgent 9) 6 row 0 else t

/-! ### Handles and directories (R102, R103, R104) -/

/-- Directory key of a handle: die and index. -/
def handleKey (h : Nat) : Nat := bits h 59 57 * 2 ^ 20 + bits h 19 0
/-- Partition of a handle. -/
def handlePart (h : Nat) : Nat := bits h 63 60
/-- Generation of a handle. -/
def handleGen (h : Nat) : Nat := bits h 47 24
/-- The handle of a partition, directory die, generation and index. -/
def mkHandle (part die gen idx : Nat) : Nat := part * 2 ^ 60 + die * 2 ^ 57 + gen * 2 ^ 24 + idx

/-- The directory entry that a handle names, if its partition and generation agree (R104). -/
def State.dirOf (s : State) (h : Nat) : Option DirEnt :=
  match SMap.find? s.dirs (handleKey h) with
  | none => none
  | some e => if h ≠ 0 ∧ e.part = handlePart h ∧ e.gen = handleGen h ∧ e.loc ≠ 0 then some e else none

/-- The state with a handle's directory entry changed. -/
def State.modDir (s : State) (h : Nat) (f : DirEnt → DirEnt) : State :=
  { s with dirs := SMap.put s.dirs (handleKey h) (f (SMap.get {} s.dirs (handleKey h))) }

/-- What is kept of an actor. -/
def State.keep (s : State) (h : Nat) : Kept := SMap.get {} s.kept (canonHandle h)
/-- The state with what is kept of an actor changed. -/
def State.modKept (s : State) (h : Nat) (f : Kept → Kept) : State := { s with kept := SMap.put s.kept (canonHandle h) (f (s.keep h)) }

/-- A word of an actor's readiness record: in its home scratchpad while placed, else in its pool record (R105, R112). -/
def State.recWord (s : State) (h i : Nat) : Nat :=
  match s.dirOf h with
  | none => 0
  | some e =>
    if e.loc = 2 then Memory.readN s.mem (spadKey e.home e.part (e.record + 8 * i)) 8
    else if i = 0 then (s.keep h).word0 else (s.keep h).word1

/-- The state with a word of an actor's readiness record written. -/
def State.setRecWord (s : State) (h i v : Nat) : State :=
  match s.dirOf h with
  | none => s
  | some e =>
    if e.loc = 2 then { s with mem := Memory.writeN s.mem (spadKey e.home e.part (e.record + 8 * i)) 8 v }
    else s.modKept h fun k => if i = 0 then { k with word0 := v } else { k with word1 := v }

/-- A number with bits `hi` to `lo` replaced. -/
def setBits (n hi lo v : Nat) : Nat := n - bits n hi lo * 2 ^ lo + v % 2 ^ (hi + 1 - lo) * 2 ^ lo

/-- STATE of a readiness record (R105). -/
def State.actorState (s : State) (h : Nat) : Nat := bits (s.recWord h 0) 2 0
/-- The state with STATE of a readiness record written. -/
def State.setActorState (s : State) (h v : Nat) : State := s.setRecWord h 0 (setBits (s.recWord h 0) 2 0 v)
/-- LEVEL of a readiness record. -/
def State.actorLevel (s : State) (h : Nat) : Nat := bits (s.recWord h 0) 6 4
/-- The state with LEVEL of a readiness record written. -/
def State.setActorLevel (s : State) (h v : Nat) : State := s.setRecWord h 0 (setBits (s.recWord h 0) 6 4 v)

/-- The state with one more error of a launch (R108). -/
def State.addError (s : State) (lid : Nat) : State :=
  match SMap.find? s.launches lid with
  | none => s
  | some l => { s with launches := SMap.put s.launches lid { l with errors := l.errors + 1 } }

/-- The state with an entry at the tail of a level of a core's run list (R113). -/
def State.enqueue (s : State) (c h level : Nat) : State :=
  let s := (s.setActorState h 2).setActorLevel h level
  s.modCore c fun k => { k with runList := k.runList ++ [{ handle := h, level := level, since := s.cycle c }] }

end Sys2Proof.Machine
end

