-- ==== Sys2Proof/Machine/Translate.lean ====
section
/-! DEFINITION. Coherent lines at their homes, partition tags, and the page-table walk (R30 to R33, R192 to R200, R209, R210). -/
namespace Sys2Proof.Machine

/-! ### Lines at their homes -/

/-- A line with a store that the application cores' shared cache holds and no home has ordered (R226). -/
def State.hostDirty (s : State) (line : Nat) : Option Nat :=
  match SMap.find? s.hostLines line with
  | some x => if x.dirty then some x.data else none
  | none => none

/-- A partition's page-table pool in DRAM holds a line (R472). -/
def Partition.poolLine (x : Partition) (line : Nat) : Bool :=
  isDram (line * 64) && x.ptRanges.any fun r => decide (r.1 ≤ line * 64) && decide (line * 64 < r.2.2)

/-- The metadata of a DRAM line: one that is not listed is unowned and clean, or under its partition's tag in a page-table pool (R30, R472). -/
def State.metaOf (s : State) (line : Nat) : LineMeta :=
  match SMap.find? s.tags line with
  | some t => t
  | none =>
    match List.find? (fun (e : Nat × Partition) => e.2.poolLine line) s.partitions with
    | some e => { ptag := e.1 }
    | none => {}

/-- The data and tag of a line as its home finds them: a store in the application cores' shared cache, the dirty copy at the home, else DRAM;
cellar SRAM has no tag (R30, R32, R175, R226). -/
def State.lineData (s : State) (line : Nat) : Nat × Nat :=
  match SMap.find? s.dirty line with
  | some d => ((s.hostDirty line).getD d.data, d.ptag)
  | none => ((s.hostDirty line).getD (Memory.readN s.mem (line * 64) 64), (s.metaOf line).ptag)

/-- The line as partition `p` reads it: zero under another partition's tag (R31). -/
def State.lineFor (s : State) (p line : Nat) : Nat :=
  let (d, t) := s.lineData line
  if isSram (line * 64) || t == p || t == 16 then d else 0

/-- A read by partition `p` counts a tag mismatch of its channel (R31). -/
def State.countMismatch (s : State) (p line : Nat) : State :=
  let t := (s.lineData line).2
  if isSram (line * 64) || t == p || t == 16 then s
  else
    let ch := channelOf (line * 64)
    { s with fw := { s.fw with mismatch := SMap.put s.fw.mismatch ch (min (SMap.get 0 s.fw.mismatch ch + 1) (2 ^ 32 - 1)) } }

/-- A number of `total` bytes with `n` bytes at an offset replaced. -/
def patch (d off n v : Nat) : Nat := setBits d (8 * (off + n) - 1) (8 * off) v

/-- K-state of a compute die. -/
def State.dieState (s : State) (q : Nat) : Nat := SMap.get 3 s.power.die q

/-- The die of a quadrant's home runs: its L2 is the home (R33). -/
def State.dieRuns (s : State) (q : Nat) : Bool := decide (SMap.get 3 s.power.die q ≤ 1)

/-! ### Caches of a home and their room (R187, R189) -/

/-- A line's bytes stand in the cache of its home: its L2, or the cellar cache while its die is gated (R189). -/
def State.cached (s : State) (line : Nat) : Bool := (SMap.find? s.dirty line).isSome || (SMap.find? s.held line).isSome

/-- A line holds data known to be uncorrectable, as a read of it would find it (R30, R31). -/
def State.lineBad (s : State) (line : Nat) : Bool :=
  match (SMap.find? s.hostLines line).filter fun x => x.dirty with
  | some x => x.poison
  | none =>
    match SMap.find? s.dirty line with
    | some d => d.poison
    | none =>
      let t := s.metaOf line
      (SMap.find? s.held line).isNone && isDram (line * 64) && (t.poison || t.err == 2)

/-- Data known to be uncorrectable among `n` bytes of one line: by the line in DRAM, by the word in cellar SRAM (R30, R31, R155). -/
def State.bytesBad (s : State) (pa n : Nat) : Bool := if isSram pa then s.wordsBad pa n else s.lineBad (pa / 64)

/-- The line that a full set of a cache gives up, a free choice; nothing while the set has room (R187, log 12). -/
def State.pickVictim (s : State) (ways : Nat) (l : List Nat) : Option Nat × State :=
  if l.length < ways then (none, s)
  else
    let (w, t) := s.takeWord
    (l[w.toNat % l.length]?, t)

/-- Sets of the L2 of a die, of a remote-data cache, and of the cellar cache, from their sizes and ways (R187). -/
def l2Sets : Nat := 2 ^ 26 / 64 / 16
/-- Sets of a remote-data cache (R187). -/
def rdcSets : Nat := 2 ^ 25 / 64 / 16
/-- Sets of the cellar cache (R187). -/
def cellarSets : Nat := 2 ^ 22 / 64 / 16
/-- Ways and sets of a core's L1 data cache (R187). -/
def l1Ways (c : Nat) : Nat := if isCellar c then 4 else 8
/-- Sets of a core's L1 data cache (R187). -/
def l1Sets (c : Nat) : Nat := if isCellar c then 2 ^ 15 / 64 / 4 else 2 ^ 17 / 64 / 8
/-- Sets of a core's L1 instruction cache of 4 ways (R187). -/
def iSets (c : Nat) : Nat := if isCellar c then 2 ^ 15 / 64 / 4 else 2 ^ 16 / 64 / 4

/-- Key of a die's remote-data cache entry. -/
def rdcKey (die line : Nat) : Nat := (die + 1) * 2 ^ 52 + line

/-- The state with a dirty line written back to DRAM with its tag; its cache keeps it clean (R30, R188). -/
def State.writeBackLine (s : State) (line : Nat) : State :=
  match SMap.find? s.dirty line with
  | none => s
  | some d =>
    { s with mem := Memory.writeN s.mem (line * 64) 64 d.data
             tags := SMap.put s.tags line { ptag := d.ptag, poison := d.poison }
             dirty := SMap.del s.dirty line
             power := { s.power with dramSince := s.time }
             held := if d.poison then s.held else SMap.put s.held line d.cellar }

/-- Keys of the lines of a home's cache that share a line's set: other lines of its quadrant in the L2, or whatever the cellar cache holds. -/
def State.setMates (s : State) (line : Nat) : List Nat :=
  let cel := !s.dieRuns (quadrant (line * 64))
  let same (l : Nat) (c : Bool) : Bool :=
    l != line && c == cel && (if cel then l % cellarSets == line % cellarSets
      else quadrant (l * 64) == quadrant (line * 64) && l % l2Sets == line % l2Sets)
  (s.dirty.filter fun (e : Nat × Dirty) => same e.1 e.2.cellar).map Prod.fst
    ++ (s.held.filter fun (e : Nat × Bool) => same e.1 e.2).map Prod.fst
    ++ (if cel then (s.rdc.filter fun (e : Nat × Copy) => e.1 / 2 ^ 52 == 5 && e.1 % cellarSets == line % cellarSets).map Prod.fst else [])

/-- The state with room for a line in its home's cache: a full set gives one line up, written back where it is dirty (R187). -/
def State.makeRoom (s : State) (line : Nat) : State :=
  match s.pickVictim 16 (s.setMates line) with
  | (none, t) => t
  | (some v, t) =>
    let t := t.writeBackLine v
    { t with held := SMap.del t.held v, rdc := SMap.del t.rdc v }

/-- The state with a line taken clean into the cache of its home (R187, R189). -/
def State.holdLine (s : State) (line : Nat) : State :=
  if !isDram (line * 64) || s.cached line || s.lineBad line then s
  else
    let t := s.makeRoom line
    { t with held := SMap.put t.held line (!t.dieRuns (quadrant (line * 64))) }

/-- The state with a copy put into a remote-data cache, or into the cellar cache (R187, R189). -/
def State.rdcPut (s : State) (die line : Nat) (y : Copy) : State :=
  let key := rdcKey die line
  if (SMap.find? s.rdc key).isSome then { s with rdc := SMap.put s.rdc key y }
  else if die = 4 then
    let l := (s.rdc.filter fun (e : Nat × Copy) => e.1 / 2 ^ 52 == 5 && e.1 % cellarSets == line % cellarSets).map Prod.fst
      ++ (s.held.filter fun (e : Nat × Bool) => e.2 && e.1 % cellarSets == line % cellarSets).map Prod.fst
      ++ (s.dirty.filter fun (e : Nat × Dirty) => e.2.cellar && e.1 % cellarSets == line % cellarSets).map Prod.fst
    match s.pickVictim 16 l with
    | (none, t) => { t with rdc := SMap.put t.rdc key y }
    | (some v, t) =>
      let t := t.writeBackLine v
      { t with held := SMap.del t.held v, rdc := SMap.put (SMap.del t.rdc v) key y }
  else
    match s.pickVictim 16 ((s.rdc.filter fun (e : Nat × Copy) => e.1 / 2 ^ 52 == die + 1 && e.1 % rdcSets == line % rdcSets).map Prod.fst) with
    | (none, t) => { t with rdc := SMap.put t.rdc key y }
    | (some v, t) => { t with rdc := SMap.put (SMap.del t.rdc v) key y }

/-- The state in which a core's L1 gives a line up: its copy goes, and where the line was held there for writing its home is again the L2 (R187, R210). -/
def State.loseLine (s : State) (c line : Nat) : State :=
  let s := s.modCore c fun k => { k with l1 := SMap.del k.l1 line }
  let h := SMap.get {} s.homes line
  if h.holder = some c then { s with homes := SMap.put s.homes line { h with holder := none } } else s

/-- The state with a copy put into a core's L1 data cache (R187). -/
def State.l1Put (s : State) (c line : Nat) (y : Copy) : State :=
  let mates := ((s.core c).l1.filter fun (e : Nat × Copy) => e.1 != line && e.1 % l1Sets c == line % l1Sets c).map Prod.fst
  match (if (SMap.find? (s.core c).l1 line).isSome then (none, s) else s.pickVictim (l1Ways c) mates) with
  | (none, t) => t.modCore c fun k => { k with l1 := SMap.put k.l1 line y }
  | (some v, t) => (t.loseLine c v).modCore c fun k => { k with l1 := SMap.put k.l1 line y }

/-- The state with a line of its own quadrant held for writing by a kettle core's L1, in which it takes a place; the L1 is then its home (R187, R210). -/
def State.l1Hold (s : State) (c p line : Nat) : State :=
  let h := SMap.get {} s.homes line
  ({ s with homes := SMap.put s.homes line { h with holder := some c } }).l1Put c line
    { data := s.lineFor p line, wts := h.wts, rts := h.wts, left := s.now, part := p }

/-- The state with a line of instructions put into a core's instruction cache (R187). -/
def State.icachePut (s : State) (c line v : Nat) : State :=
  let mates := ((s.core c).icache.filter fun (e : Nat × Nat) => e.1 != line && e.1 % iSets c == line % iSets c).map Prod.fst
  match (if (SMap.find? (s.core c).icache line).isSome then (none, s) else s.pickVictim 4 mates) with
  | (none, t) => t.modCore c fun k => { k with icache := SMap.put k.icache line v }
  | (some x, t) => t.modCore c fun k => { k with icache := SMap.put (SMap.del k.icache x) line v }

/-- The state with a read of a DRAM line that no home's cache holds: it counts from DIDLE, a correctable error is written back corrected and
counted, for its row of 2 KiB too, an uncorrectable one is counted (R31, R50, R94, log 74). -/
def State.readDram (s : State) (line : Nat) : State :=
  if !isDram (line * 64) || s.cached line then s
  else
    let t := s.metaOf line
    let ch := channelOf (line * 64)
    let up (m : SMap Nat) : SMap Nat := SMap.put m ch (min (SMap.get 0 m ch + 1) (2 ^ 32 - 1))
    let s := { s with power := { s.power with dramSince := s.time } }
    if t.err = 1 then
      { s with tags := SMap.put s.tags line { t with err := 0 }, fw := { s.fw with soft := up s.fw.soft } }.noteFix (2 ^ 40 + line / 32)
    else if t.err = 2 then { s with fw := { s.fw with uncorr := up s.fw.uncorr } }
    else s

/-! ### Writes -/

/-- The state with `n` bytes of a line written by partition `p`: merged with the line as `p` reads it, under its tag (R31).
A cached write leaves the line dirty at its home, L2 or cellar cache; an uncached one goes to the memory controller (R187 to R190). -/
def State.lineWrite (s : State) (p line off n v : Nat) (cached : Bool) : State :=
  if isSram (line * 64) then { s.mend (line * 64 + off) n with mem := Memory.writeN s.mem (line * 64 + off) n v }
  else
    let d := patch (s.lineFor p line) off n v
    let bad := s.lineBad line && decide (n < 64)
    if cached || s.cached line then
      let t := if s.cached line then s else s.makeRoom line
      { t with dirty := SMap.put t.dirty line { data := d, ptag := p, cellar := !t.dieRuns (quadrant (line * 64)), poison := bad }
               held := SMap.del t.held line }
    else
      { s with mem := Memory.writeN s.mem (line * 64) 64 d, tags := SMap.put s.tags line { ptag := p, poison := bad } }

/-- Every dirty line written back. -/
def State.writeBackAll (s : State) (keep : Nat → Dirty → Bool) : State :=
  s.dirty.foldl (fun s e => if keep e.1 e.2 then s else s.writeBackLine e.1) s

/-- The times of a line after write(t) at its home (R210), after the lease end that a gated L2 passed on (R188). -/
def State.orderWrite (s : State) (line t : Nat) : State :=
  let h := SMap.get {} s.homes line
  let floor := match SMap.find? s.power.leaseEnd (quadrant (line * 64)) with
    | some e => e + 1
    | none => 0
  let w := max (max t h.rts) (max (h.wts + 1) floor)
  { s with homes := SMap.put s.homes line { wts := w, rts := w } }

/-- HOST_STORE_SNOOP: an access that reaches a home finds a store in the application cores' shared cache; it is ordered by write(0), and the
home's cache takes it under the line's own tag (R32, R226). -/
def State.snoop (s : State) (line : Nat) : State :=
  match s.hostDirty line with
  | none => s
  | some d =>
    let tag := (s.lineData line).2
    let bad := s.lineBad line
    let t := (if s.cached line then s else s.makeRoom line).orderWrite line 0
    { t with dirty := SMap.put t.dirty line { data := d, ptag := tag, cellar := !t.dieRuns (quadrant (line * 64)), poison := bad }
             held := SMap.del t.held line, hostLines := SMap.put t.hostLines line { data := d, dirty := false, poison := bad } }

/-- A line that its home, or the application cores, hold otherwise than DRAM has it (R219). -/
def State.sysPending (s : State) : Bool := !s.dirty.isEmpty || s.hostLines.any fun e => e.2.dirty

/-- The state after a release at SYS scope: every store of the application cores is ordered, every line goes back to DRAM, and the application
cores' shared cache drops what it holds (R219). -/
def State.sysRelease (s : State) : State :=
  let t := s.hostLines.foldl (fun u e => u.snoop e.1) s
  { t.writeBackAll fun _ _ => false with hostLines := [] }

/-- read(t) at a line's home (R210). -/
def State.homeRead (s : State) (line t : Nat) : State :=
  let s := (s.snoop line).readDram line
  let h := SMap.get {} s.homes line
  { s with homes := SMap.put s.homes line { h with rts := max h.rts (t + 16) } }

/-- The state with a line read with lease by a cached access: its home's cache takes it (R187, R210). -/
def State.homeFetch (s : State) (line t : Nat) : State := (s.homeRead line t).holdLine line

/-- write(t) at a line's home (R210). -/
def State.homeWrite (s : State) (line t : Nat) : State := ((s.snoop line).readDram line).orderWrite line t

/-- Bytes at a physical address as an agent of partition `p` reads them at the home, in this line and the next. -/
def State.physRead (s : State) (p pa n : Nat) : Nat :=
  let l := pa / 64
  let off := pa % 64
  if off + n ≤ 64 then s.lineFor p l / 2 ^ (8 * off) % 2 ^ (8 * n)
  else (s.lineFor p l + s.lineFor p (l + 1) * 2 ^ 512) / 2 ^ (8 * off) % 2 ^ (8 * n)

/-! ### The logical time of an agent: a core's, or that of the firmware agents (R209, R210) -/

/-- The logical time of a core, or of the firmware agents. -/
def State.ptsOf (s : State) (a : Option Nat) : Nat :=
  match a with
  | some c => (s.core c).pts
  | none => s.fw.pts

/-- The state with an agent's logical time at least a write time. -/
def State.raisePts (s : State) (a : Option Nat) (w : Nat) : State :=
  match a with
  | some c => s.modCore c fun k => { k with pts := max k.pts w }
  | none => { s with fw := { s.fw with pts := max s.fw.pts w } }

/-- Write time of a line at its home. -/
def State.wtsOf (s : State) (line : Nat) : Nat := (SMap.get {} s.homes line).wts

/-- The state with a line read by an agent for a partition at its home, at the agent's logical time (R31, R209, R210). -/
def State.homeLook (s : State) (a : Option Nat) (p line : Nat) : State :=
  let t := (s.countMismatch p line).homeRead line (s.ptsOf a)
  t.raisePts a (t.wtsOf line)

/-- The state with up to 64 bytes within one line written at the home by an agent for a partition, at the agent's logical time (R209, R210). -/
def State.homeStore (s : State) (a : Option Nat) (p pa n v : Nat) (cached : Bool) : State :=
  let t := (s.homeWrite (pa / 64) (s.ptsOf a)).lineWrite p (pa / 64) (pa % 64) n v cached
  t.raisePts a (t.wtsOf (pa / 64))

/-- The state with up to 64 bytes within one line written at the home by a firmware agent for a partition. -/
def State.physWrite (s : State) (p pa n v : Nat) (cached : Bool) : State := s.homeStore none p pa n v cached

/-! ### Page tables -/

/-- How an access uses memory. -/
inductive Access where
  | read | write | atomic | fetch
  /-- A compare and swap, which stores only where the comparison holds (R336). -/
  | cas
  deriving DecidableEq, Repr

/-- An access that stores. -/
def Access.writes : Access → Bool
  | .write => true | .atomic => true | .read => false | .fetch => false | .cas => false

/-- Where a walk or a TLB hit leads. -/
inductive Walk where
  /-- Physical address, entry bits [10:2] at their places, kind, package. -/
  | ok (pa bits kind pkg : Nat)
  | page
  | prot
  /-- A FLASH leaf: entry address, flash block, page size and virtual base (R200). -/
  | flash (leaf fblk size base : Nat)
  /-- The DRAM is in self-refresh, and the walk waits at an entry (R50). -/
  | shut
  /-- An entry holds an uncorrectable error (R196). -/
  | ecc
  deriving DecidableEq, Repr

/-- Bytes covered by an entry of a level (R192). -/
def levelSize (level : Nat) : Nat :=
  if level = 0 then 2 ^ 48 else if level = 1 then 2 ^ 39 else if level = 2 then 2 ^ 30 else if level = 3 then 2 ^ 21 else 2 ^ 12

/-- Index of a virtual address at a level (R192). -/
def levelIndex (va level : Nat) : Nat :=
  if level = 0 then bits va 55 48 else va / levelSize level % 512

/-- Physical address of the entry of a table at a level. -/
def entryAddr (table va level : Nat) : Nat := table + 8 * levelIndex va level

/-- A frame that a device page table may name (R174). -/
def frameOk (pa : Nat) : Bool := isDram pa || isSram pa

/-- What the rights of a leaf say to an access (R193, R196, R336). -/
def rightsOk (bitsv : Nat) (a : Access) (priv : Bool) : Bool :=
  let rd := bit bitsv 2 == 1
  let w := bit bitsv 3 == 1
  let x := bit bitsv 4 == 1
  let sup := bit bitsv 5 == 1
  (match a with | .read => rd | .write => w | .atomic => rd && w | .cas => rd && w | .fetch => x) && (!sup || priv)

/-- The walk of a partition's tables from a level down (R192, R193, R194, R196).
It answers the leaf's address, the entry and its level, or nothing for PAGE. -/
def State.walkFrom (s : State) (p va : Nat) : Nat → Nat → Nat → Option (Nat × Nat × Nat)
  | 0, _, _ => none
  | fuel + 1, level, table =>
    let ea := entryAddr table va level
    let e := s.physRead p ea 8
    let kind := bits e 1 0
    let leaf := bit e 8 == 1
    if kind = 0 then none
    else if kind = 1 && !leaf then
      if level = 4 || !frameOk (bits e 51 12 * 4096) then none
      else State.walkFrom s p va fuel (level + 1) (bits e 51 12 * 4096)
    else if !leaf then none
    else if level ≤ 1 then none
    else some (ea, e, level)

/-- Root of a partition's page tables (R192). -/
def State.rootOf (s : State) (p : Nat) : Nat :=
  match SMap.find? s.partitions p with
  | some x => x.root
  | none => 0

/-- The DRAM does not accept an access to a line that no home's cache holds (R50). -/
def State.dramShut (s : State) (pa : Nat) : Bool := isDram pa && s.power.dram != 0 && !s.cached (pa / 64)

/-- The state with the exit of the DRAM from self-refresh asked for (R50). -/
def State.askDram (s : State) : State := { s with power := { s.power with dramWant := true } }

/-- Addresses of the entries that a walk reads, from a level down (R192). -/
def State.walkPath (s : State) (p va : Nat) : Nat → Nat → Nat → List Nat
  | 0, _, _ => []
  | fuel + 1, level, table =>
    let ea := entryAddr table va level
    let e := s.physRead p ea 8
    ea :: (if bits e 1 0 = 1 && bit e 8 == 0 && level != 4 && frameOk (bits e 51 12 * 4096) then
      State.walkPath s p va fuel (level + 1) (bits e 51 12 * 4096) else [])

/-- The entries that a walk of a partition's tables reads. -/
def State.walkOf (s : State) (p va : Nat) : List Nat := s.walkPath p va 5 0 (s.rootOf p)

/-- What stops a walk on its way: an entry that the DRAM cannot give now, or an uncorrectable one (R50, R196). -/
def State.walkStop (s : State) (p va : Nat) : Option Walk :=
  (s.walkOf p va).findSome? fun ea => if s.dramShut ea then some .shut else if s.bytesBad ea 8 then some .ecc else none

/-- The state with the lines of the entries of an agent's walk read at their homes, whose caches take them (R187, R197, R209). -/
def State.walkReads (s : State) (a : Option Nat) (p va : Nat) : State :=
  (s.walkOf p va).foldl (fun t ea => (t.homeLook a p (ea / 64)).holdLine (ea / 64)) s

/-- Bytes of a leaf of a level: with CONT, of its group of 16 (R192, R195). -/
def leafSize (e level : Nat) : Nat := if bit e 7 = 1 then 16 * levelSize level else levelSize level

/-- Where a leaf leads for an access (R174, R193, R194, R196): a FLASH leaf with CONT names its whole group. -/
def leafWalk (ea e level va : Nat) (a : Access) (priv : Bool) : Walk :=
  let size := levelSize level
  let pa := bits e 51 12 * 4096 / size * size + va % size
  if bits e 1 0 = 1 && !frameOk pa then .page
  else if !rightsOk e a priv then .prot
  else if bits e 1 0 = 2 then .flash ea (bits e 51 12) (leafSize e level) (va - va % leafSize e level)
  else .ok pa (e % 2 ^ 11) (bits e 1 0) (if bits e 1 0 = 3 then bits e 57 56 else 0)

/-- The state with bits set in a page-table entry for an agent by a far atomic at its home (R193, R209). -/
def State.setEntryBits (s : State) (a : Option Nat) (p ea m : Nat) : State :=
  s.homeStore a p ea 8 (s.physRead p ea 8 ||| m) true

/-- The A and D bits that an access through a memory leaf sets (R193). -/
def usedBits (e : Nat) (a : Access) : Nat := if bits e 1 0 = 1 then (if a.writes then 0x600 else 0x200) else 0

/-- The state with the A and D bits that an agent's access sets (R193). -/
def State.markUsed (s : State) (who : Option Nat) (p ea e : Nat) (a : Access) : State :=
  if e ||| usedBits e a = e then s else s.setEntryBits who p ea (usedBits e a)

/-! ### TLBs (R197) -/

/-- The TLB entry that covers an address. -/
def tlbHit (l : List TlbEnt) (p va : Nat) : Option TlbEnt :=
  l.find? fun t => t.part == p && decide (t.va ≤ va ∧ va < t.va + t.size)

/-- A TLB of a capacity with an entry put in; a full one gives up the entry that a free choice names (log 11). -/
def tlbPut (cap : Nat) (l : List TlbEnt) (t : TlbEnt) (v : Nat) : List TlbEnt :=
  let l := l.filter fun x => !(x.part == t.part && x.va == t.va && x.size == t.size)
  t :: (if l.length < cap then l else l.eraseIdx (v % l.length))

/-- Entries of a core's L1 TLB (R197). -/
def l1TlbCap (c : Nat) : Nat := if isCellar c then 32 else 128
/-- Entries of the shared TLB of a die (R197). -/
def sharedTlbCap (die : Nat) : Nat := if die = 4 then 1024 else 8192

/-- The shared TLB of a core's die. -/
def State.sharedTlb (s : State) (c : Nat) : List TlbEnt := SMap.get [] s.stlb (coreDie c)

/-- The state with an entry put into a core's L1 TLB, or into the micro-TLB of its matrix array (R197). -/
def State.ownTlbPut (s : State) (c : Nat) (micro : Bool) (t : TlbEnt) : State :=
  if micro then s.modCore c fun k => { k with utlb := tlbPut 16 k.utlb t (Config.freeWord s.fresh).toNat }
  else s.modCore c fun k => { k with tlb := tlbPut (l1TlbCap c) k.tlb t (Config.freeWord s.fresh).toNat }

/-- The state with an entry put into the shared TLB of a core's die (R197). -/
def State.sharedTlbPut (s : State) (c : Nat) (t : TlbEnt) : State :=
  { s with stlb := SMap.put s.stlb (coreDie c) (tlbPut (sharedTlbCap (coreDie c)) (s.sharedTlb c) t (Config.freeWord s.fresh).toNat) }

/-- The entry that a core's own TLB, or else the shared TLB of its die, holds for an address (R197). -/
def State.tlbFind (s : State) (c p va : Nat) (micro : Bool) : Option TlbEnt :=
  match tlbHit (if micro then (s.core c).utlb else (s.core c).tlb) p va with
  | some t => some t
  | none => tlbHit (s.sharedTlb c) p va

/-- A walk with its rights check, its A and D updates and the TLB entries that it leaves (R193, R196, R197). -/
def State.walk (s : State) (c p va : Nat) (a : Access) (priv micro : Bool) : Walk × State :=
  match s.walkStop p va with
  | some w => (w, s)
  | none =>
    match State.walkFrom s p va 5 0 (s.rootOf p) with
    | none => (.page, s.walkReads (some c) p va)
    | some (ea, e, level) =>
      let s := s.walkReads (some c) p va
      match leafWalk ea e level va a priv with
      | .ok pa _ kind pkg =>
        let s := s.markUsed (some c) p ea e a
        let e := e ||| usedBits e a
        let size := levelSize level
        let ent : TlbEnt := { part := p, va := va - va % size, size := size, pa := pa - va % size, bits := e % 2 ^ 11, kind := kind, pkg := pkg, leaf := ea }
        (.ok pa (e % 2 ^ 11) kind pkg, (s.sharedTlbPut c ent).ownTlbPut c micro ent)
      | w => (w, s)

/-- Translation of a partition-space address for a core, or for its matrix array: a TLB, else a walk (R196, R197).
A write through an entry held with D clear walks again, which sets D (R193). -/
def State.translate (s : State) (c p va : Nat) (a : Access) (priv : Bool) (micro : Bool := false) : Walk × State :=
  match s.tlbFind c p va micro with
  | none => s.walk c p va a priv micro
  | some t =>
    let pa := t.pa + (va - t.va)
    if t.kind = 1 && !frameOk pa then (.page, s)
    else if !rightsOk t.bits a priv then (.prot, s)
    else if a.writes && t.kind == 1 && bit t.bits 10 == 0 then s.walk c p va a priv micro
    else
      let own := tlbHit (if micro then (s.core c).utlb else (s.core c).tlb) p va
      (.ok pa t.bits t.kind t.pkg, if own.isSome then s else s.ownTlbPut c micro t)

/-- Where a partition's tables lead an access, whatever the state of the DRAM. -/
def State.leafFor (s : State) (p va : Nat) (a : Access) (priv : Bool) : Walk :=
  match State.walkFrom s p va 5 0 (s.rootOf p) with
  | none => .page
  | some (ea, e, level) => leafWalk ea e level va a priv

/-- A translation for an agent that keeps no TLB entry: a firmware core or a lauter engine acting for a partition. -/
def State.translateFor (s : State) (p va : Nat) (a : Access) (priv : Bool) : Walk :=
  match s.walkStop p va with
  | some w => w
  | none => s.leafFor p va a priv

/-- The same where the tables' entries can be read, whatever the state of the DRAM: for reads whose caller has waited for the DRAM (R50, R196). -/
def State.leafAwake (s : State) (p va : Nat) (a : Access) : Walk :=
  match s.walkStop p va with
  | some .ecc => .ecc
  | _ => s.leafFor p va a true

/-- Some of the addresses in use, or the entries that lead to them, stand in DRAM in self-refresh (R50). -/
def State.anyShut (s : State) (p : Nat) (vas : List Nat) : Bool :=
  s.power.dram != 0 && vas.any fun va => va != 0 && match s.translateFor p va .read true with
    | .shut => true
    | .ok pa _ _ _ => s.dramShut pa
    | _ => false

/-- The state with what such a translation does: the entries read at their homes, and the A and D bits of the leaf that it goes through (R193). -/
def State.translated (s : State) (p va : Nat) (a : Access) : State :=
  match State.walkFrom s p va 5 0 (s.rootOf p) with
  | none => s.walkReads none p va
  | some (ea, e, _) => (s.walkReads none p va).markUsed none p ea e a

/-- The state after firmware read at addresses, of which each stands for what it read of a line: the tables walked, the leaves marked as accessed, and the
lines read at their homes (R31, R50, R193, R209, R226). -/
def State.readsMarked (s : State) (p : Nat) (vas : List Nat) : State :=
  vas.foldl (fun t va =>
    match t.leafFor p va .read true with
    | .ok pa _ _ _ => (t.translated p va .read).homeLook none p (pa / 64)
    | _ => t.walkReads none p va) s

/-- The lines that a range touches, each by one address. -/
def linesOf (va n : Nat) : List Nat := if n = 0 then [] else va :: (List.range ((va + n - 1) / 64 - va / 64)).map fun i => (va / 64 + 1 + i) * 64

/-- Bytes at a virtual address as firmware acting for a partition reads them, one byte at a time; nothing where a byte
does not translate or is uncorrectable (R76). -/
def State.virtBytes (s : State) (p : Nat) : Nat → Nat → Option (List Byte)
  | _, 0 => some []
  | va, n + 1 =>
    match s.leafAwake p va .read with
    | .ok pa _ _ _ =>
      match (if s.bytesBad pa 1 then none else State.virtBytes s p (va + 1) n) with
      | some l => some (BitVec.ofNat 8 (s.physRead p pa 1) :: l)
      | none => none
    | _ => none

/-- Aligned read of up to 8 bytes at a virtual address by firmware acting for a partition. -/
def State.virtRead (s : State) (p va n : Nat) : Option Nat :=
  match s.leafAwake p va .read with
  | .ok pa _ _ _ => if s.bytesBad pa n then none else some (s.physRead p pa n)
  | _ => none

/-- Aligned write of up to 64 bytes within a line at a virtual address by firmware acting for a partition. -/
def State.virtWrite (s : State) (p va n v : Nat) : Option State :=
  match s.leafAwake p va .write with
  | .ok pa _ _ _ => some ((s.translated p va .write).physWrite p pa n v true)
  | _ => none

end Sys2Proof.Machine
end

