-- ==== Sys2Proof/Machine/Regs.lean ====
section
/-! DEFINITION. The registers of a context in its workspace, the receive log, and deposits' view of a workspace (R230 to R236, R152, R153). -/
namespace Sys2Proof.Machine

/-! ### Places in the workspace -/

/-- Workspace offset and length in bytes of a destination (R230, R352). -/
def Dest.loc : Dest → Nat × Nat
  | .scal r =>
    let n := r.toNat
    if n < 56 then (8 * n, 8) else if n < 60 then (0x1C0 + 16 * (n - 56), 8) else (0x200, 8)
  | .vec v => (0x280 + 256 * v.toNat, 256)
  | .shape h => (0x1C0 + 16 * h.toNat, 16)

/-- A scalar-class specifier whose writes are discarded (R235). -/
def ignoredSpec (r : SReg) : Bool := r == 0 || r == 48 || r == 60 || r == 62 || r == 63

/-- A destination that discards its result (R235). -/
def Dest.ignored : Dest → Bool
  | .scal r => ignoredSpec r
  | .vec _ => false
  | .shape _ => false

/-- Two destinations share bytes. -/
def Dest.meets (a b : Dest) : Bool :=
  let (p, n) := a.loc
  let (q, m) := b.loc
  !a.ignored && !b.ignored && decide (p < q + m) && decide (q < p + n)

/-- Bytes of the workspace of a context. -/
def State.wsRead (s : State) (c k off n : Nat) : Nat := s.spadRead c ((s.ctx c k).wptr + off) n

/-- The state with bytes of the workspace of a context written. -/
def State.wsWrite (s : State) (c k off n v : Nat) : State := s.spadWrite c ((s.ctx c k).wptr + off) n v

/-- The context status word (R233). -/
def State.csw (s : State) (c k : Nat) : Nat := s.wsRead c k 0x200 8

/-- PRIV of a context (R233). -/
def State.priv (s : State) (c k : Nat) : Bool := bit (s.csw c k) 7 == 1

/-- The writable bits of CSW: LASTCAUSE, REGRANT, DEP and CHK (R233). -/
def cswMask : Nat := 0xFF0007

/-- A write of CSW, which leaves read-only fields unchanged (R233). -/
def cswMerge (old new : Nat) : Nat := (old &&& (0xFFFFFFFFFFFFFFFF - cswMask)) ||| (new &&& cswMask)

/-- The state with CSW written under its marks. -/
def State.setCsw (s : State) (c k v : Nat) : State := s.wsWrite c k 0x200 8 (cswMerge (s.csw c k) v)

/-- The state with every bit of CSW written by the hardware. -/
def State.forceCsw (s : State) (c k v : Nat) : State := s.wsWrite c k 0x200 8 v

/-! ### Reading registers (R235) -/

/-- All ones in 64 bits. -/
def ones64 : Nat := 0xFFFFFFFFFFFFFFFF

/-- The value of a scalar-class specifier (R235, R306). -/
def State.readS (s : State) (c k : Nat) (r : SReg) : Nat :=
  if r = 0 then 0
  else if r = 48 then ones64
  else if r = 60 then (s.ctx c k).pc.toNat
  else if r = 61 then s.csw c k
  else if r = 62 then s.timeAt c % 2 ^ 64
  else if r = 63 then 0
  else s.wsRead c k (Dest.scal r).loc.1 8

/-- The 2,048 bits of a vector register. -/
def State.readV (s : State) (c k : Nat) (v : VReg) : Nat := s.wsRead c k (Dest.vec v).loc.1 256

/-- Both words of a shape register, word 0 low (R352). -/
def State.readShape (s : State) (c k : Nat) (h : ShReg) : Nat := s.wsRead c k (Dest.shape h).loc.1 16

/-- A predicate or mask register by its number (R235). -/
def State.readK (s : State) (c k : Nat) (n : BitVec 3) : Nat := s.readS c k ((6 : BitVec 3) ++ n)

/-- The state with the words no longer uncorrectable of which a register's new value covers every bit (R155). -/
def State.mendReg (s : State) (c k off n mask : Nat) : State :=
  if s.fw.badWords.isEmpty then s
  else
    let a := spadKey c (s.core c).active ((s.ctx c k).wptr + off)
    { s with fw := { s.fw with badWords := s.fw.badWords.filter fun w =>
        !(decide (a ≤ w) && decide (w + 8 ≤ a + n) && bits mask (8 * (w - a) + 63) (8 * (w - a)) == ones64) } }

/-- The address in the local window of the first register among some whose workspace word is known to be uncorrectable (R155). -/
def State.regBad (s : State) (c k : Nat) (ds : List Dest) : Option Nat :=
  if s.fw.badWords.isEmpty then none
  else
    (ds.find? fun d => !d.ignored && s.wordsBad (spadKey c (s.core c).active ((s.ctx c k).wptr + d.loc.1)) d.loc.2).map fun d =>
      0xFD * 2 ^ 48 + (s.ctx c k).wptr + d.loc.1

/-- The context's second slot of a pair issues now, and reads its registers as the first slot found them (R237, R239). -/
def State.inPair (s : State) (c k : Nat) : Bool :=
  match (s.core c).pair with
  | some (j, t) => j == k && t == s.cycle c
  | none => false

/-- The registers as the issuing slot reads them: for the second slot of a pair, as they stood before the first (R239). -/
def State.asRead (s : State) (c k : Nat) : State := if s.inPair c k then { s with mem := (s.core c).snap } else s

/-- The cells of storage that hold the register area of a context (R230). -/
def State.areaCells (s : State) (c k : Nat) : Memory :=
  let a := spadKey c (s.core c).active (s.ctx c k).wptr
  s.mem.filter fun e => decide (a ≤ e.1) && decide (e.1 < a + 0x1280)

/-- The state with what a stream binding gives to a register, which the issuing slot reads (R239, R350). -/
def State.popWrite (s : State) (c k off n v : Nat) : State :=
  let t := (s.wsWrite c k off n v).mendReg c k off n (if n = 8 then ones64 else 0)
  if s.inPair c k then
    t.modCore c fun x => { x with snap := Memory.writeN x.snap (spadKey c x.active ((s.ctx c k).wptr + off)) n v }
  else t

/-! ### Stores into a scratchpad and the words that a live context protects -/

/-- The contexts of a core that hold a firing, with their numbers. -/
def State.liveCtxs (s : State) (c : Nat) : List (Nat × Ctx) :=
  (s.ctxs.filter fun e => e.1 / 16 == c && e.2.firing.isSome).map fun e => (e.1 % 16, e.2)

/-- Two byte ranges meet. -/
def rangesMeet (a n b m : Nat) : Bool := decide (a < b + m) && decide (b < a + n)

/-- Words of a register area with reserved bits, by offset, and the bits that are not: the shape registers, TCAUSE, TVEC, the deposit windows, the
stream bindings and PIVTHR (R8, R133, R135, R185, R231, R232, R352). -/
def fieldMasks : List (Nat × Nat) :=
  [(0x1C0, 2 ^ 56 - 1), (0x1C8, 2 ^ 55 - 1), (0x1D0, 2 ^ 56 - 1), (0x1D8, 2 ^ 55 - 1), (0x1E0, 2 ^ 56 - 1), (0x1E8, 2 ^ 55 - 1),
   (0x1F0, 2 ^ 56 - 1), (0x1F8, 2 ^ 55 - 1), (0x210, 0xFF1FFF), (0x228, 0x80FFFFFFFFFFFFFF), (0x238, 0x800FFFFF000FFFF8),
   (0x240, 0x800FFFFF000FFFF8), (0x248, 0xFFFF0007FFFFFFFF), (0x250, 0xFFFF0007FFFFFFFF), (0x258, 0xFFFF0007FFFFFFFF),
   (0x260, 0xFFFF0007FFFFFFFF), (0x278, 0xFFFFFFFF)]

/-- The state after a write to a range of a scratchpad, with the words of one firing's area put right: s0 zero, k0 all ones, the read-only fields
of CSW as before, and every reserved bit zero (R8, R230, R233). -/
def State.fixArea (s : State) (c : Nat) (old : Nat) (w off n : Nat) : State :=
  let s := if rangesMeet w 8 off n then s.spadWrite c w 8 0 else s
  let s := if rangesMeet (w + 0x180) 8 off n then s.spadWrite c (w + 0x180) 8 ones64 else s
  let s := if rangesMeet (w + 0x200) 8 off n then
      s.spadWrite c (w + 0x200) 8 (cswMerge old (s.spadRead c (w + 0x200) 8))
    else s
  fieldMasks.foldl (fun s e => if rangesMeet (w + e.1) 8 off n then s.spadWrite c (w + e.1) 8 (s.spadRead c (w + e.1) 8 &&& e.2) else s) s

/-- The register areas on a core: of the contexts that hold firings, and the workspaces of the active partition's placed actors (R8, R98, R236). -/
def State.areasOf (s : State) (c : Nat) : List Nat :=
  (s.liveCtxs c).map (fun e => e.2.wptr)
    ++ (((s.core c).allocs.filter fun a => a.kind == 0 && a.part == (s.core c).active).map fun a => a.start)
    ++ ((s.kept.filter fun (e : Nat × Kept) => e.2.saved.isSome).filterMap fun (e : Nat × Kept) =>
      match s.dirOf e.1 with
      | some d => if d.home = c && d.part == (s.core c).active then some d.ws else none
      | none => none)

/-- The state with the words of a context's area put right where it takes an area as its own: s0, k0 and the reserved bits (R8, R230). -/
def State.openArea (s : State) (c k : Nat) : State :=
  let w := (s.ctx c k).wptr
  s.fixArea c (s.spadRead c (w + 0x200) 8) w w 0x280

/-- The state with bytes of a core's active scratchpad stored by software (R233, R236). -/
def State.spadStore (s : State) (c off n v : Nat) : State :=
  (s.areasOf c).foldl (fun t w => t.fixArea c (s.spadRead c (w + 0x200) 8) w off n) ((s.mend (spadKey c (s.core c).active off) n).spadWrite c off n v)

/-! ### The receive log (R152, R153) -/

/-- The state with one 64-byte entry at the head of a core's log; without WRAP a full ring loses it and sets OVF. -/
def State.logPut (s : State) (c : Nat) (words : List Nat) : State :=
  let l := (s.core c).log
  if !l.en || l.size == 0 then s
  else if !l.wrap && decide (l.size ≤ l.head) then s.modCore c fun k => { k with log := { l with ovf := true } }
  else
    let v := words.foldr (fun w acc => w % 2 ^ 64 + acc * 2 ^ 64) 0
    let s := s.physWrite 0 (l.base + (l.head % l.size) * 64) 64 v true
    s.modCore c fun k => { k with log := { l with head := (l.head + 1) % 2 ^ 32 } }

/-- CYC of a log entry: cycles since the last checkpoint mark. -/
def State.logCyc (s : State) (c : Nat) : Nat := s.cycle c - (s.core c).log.mark

/-- The state with a TIME read logged (R153). -/
def State.logTime (s : State) (c k : Nat) : State :=
  s.logPut c [s.logCyc c, 2 + (s.core c).active * 2 ^ 37 + k * 2 ^ 41, s.timeAt c, 0, 0, 0, 0, 0]

/-- The state with an event of a kind and one word logged (R153). -/
def State.logEvent (s : State) (c kind k v : Nat) : State :=
  s.logPut c [s.logCyc c, kind + (s.core c).active * 2 ^ 37 + k * 2 ^ 41, v, 0, 0, 0, 0, 0]

/-- The state with a checkpoint mark logged, from which the cycle count of later entries starts (R153). -/
def State.logMark (s : State) (c : Nat) : State :=
  if !(s.core c).log.en then s
  else (s.logEvent c 5 0 0).modCore c fun k => { k with log := { k.log with mark := s.cycle c, markHead := k.log.head } }

/-- The continuation entries of a body beyond its first 32 bytes (R153). -/
def State.logMore (s : State) (c : Nat) : Nat → List Byte → State
  | 0, _ => s
  | fuel + 1, l =>
    if l.isEmpty then s
    else
      let w i := ofBytes ((l.drop (8 * i)).take 8)
      State.logMore (s.logPut c [w 0, w 1, w 2, w 3, w 4, w 5, w 6, w 7]) c fuel (l.drop 64)

/-- The source field of a log entry: die code, y and x of an endpoint (R25, R153). -/
def srcCode (e : Nat) : Nat := e % 8 * 256 + e / 128 % 16 * 16 + e / 8 % 16

/-- The endpoint of a log entry's source field. -/
def srcOfCode (v : Nat) : Nat := v / 256 % 8 + v % 16 * 8 + v / 16 % 16 * 128

/-- The state with a received message logged (R153). -/
def State.logMsg (s : State) (c : Nat) (m : Msg) : State :=
  if !(s.core c).log.en then s
  else
    let w1 := 1 + m.op * 2 ^ 8 + m.ch * 2 ^ 16 + m.seq * 2 ^ 18 + srcCode m.src * 2 ^ 26 + m.part * 2 ^ 37 + m.ctx % 16 * 2 ^ 41
      + m.data.length % 512 * 2 ^ 45
    let w i := ofBytes ((m.data.drop (8 * i)).take 8)
    (s.logPut c [s.logCyc c, w1, m.arg, m.taddr, w 0, w 1, w 2, w 3]).logMore c 80 (m.data.drop 32)

end Sys2Proof.Machine
end

