-- ==== Sys2Proof/Machine/Stream.lean ====
section
/-! DEFINITION. Taking from and appending to stream bindings (R206, R207, R232, R350). -/
namespace Sys2Proof

/-- Width in bits of an element type (R248). -/
def Ty.width : Ty → Nat
  | .i8 => 8 | .u8 => 8 | .i16 => 16 | .i32 => 32 | .i64 => 64 | .i4 => 4 | .n4x => 4 | .f8e4 => 8
  | .f8e5 => 8 | .bf16 => 16 | .f16 => 16 | .f32 => 32 | .u16 => 16 | .u32 => 32

/-- A signed integer type. -/
def Ty.signed : Ty → Bool
  | .i8 | .i16 | .i32 | .i64 | .i4 => true
  | .u8 | .n4x | .f8e4 | .f8e5 | .bf16 | .f16 | .f32 | .u16 | .u32 => false

/-- A number of `n` bits extended to 64 bits by sign. -/
def sext64 (n v : Nat) : Nat := wrap 64 (sval n v)

/-- A raw element widened to 64 bits by its type (R206, R329). -/
def Ty.widen (t : Ty) (v : Nat) : Nat := if t.signed then sext64 t.width v else v % 2 ^ t.width

end Sys2Proof

namespace Sys2Proof.Machine

/-- The type of a code in a number; a code that names none reads as I8. -/
def tyOfNat (n : Nat) : Ty := (Ty.ofCode (BitVec.ofNat 4 n)).getD .i8

/-- Bits of a core's active scratchpad from a bit offset. -/
def State.spadBits (s : State) (c bitoff w : Nat) : Nat :=
  (s.spadRead c (bitoff / 8) ((bitoff % 8 + w + 7) / 8) >>> (bitoff % 8)) % 2 ^ w

/-- The state with bits of a core's active scratchpad written. -/
def State.setSpadBits (s : State) (c bitoff w v : Nat) : State :=
  let n := (bitoff % 8 + w + 7) / 8
  let old := s.spadRead c (bitoff / 8) n
  s.spadWrite c (bitoff / 8) n (setBits old (bitoff % 8 + w - 1) (bitoff % 8) v)

/-- Workspace offset of a stream-binding word (R231). -/
def sbOff (slot : Nat) : Nat := 0x248 + 8 * slot

/-- A stream-binding word of a context (R232). -/
def State.sb (s : State) (c k slot : Nat) : Nat := s.wsRead c k (sbOff slot) 8

/-- A binding word that binds a register in a direction. -/
def sbNames (w : Nat) (out : Bool) (d : Dest) : Bool :=
  bit w 63 == 1 && (bit w 62 == 1) == out
  && (match d with
      | .scal r => bit w 58 == 0 && decide (bits w 57 52 = r.toNat) && decide (r.toNat < 32)
      | .vec v => bit w 58 == 1 && decide (bits w 57 52 = v.toNat)
      | .shape _ => false)

/-- The slot that binds a register in a direction. -/
def State.boundSlot (s : State) (c k : Nat) (out : Bool) (d : Dest) : Option Nat :=
  [0, 1, 2, 3].find? fun i => sbNames (s.sb c k i) out d

/-- The channel of a binding. -/
def State.sbChan (s : State) (c k slot : Nat) : Nat := bits (s.sb c k slot) 51 48

/-- The channel state of a binding. -/
def State.streamOf (s : State) (c k slot : Nat) : Option CCmd := SMap.find? (s.apart c).chans (s.sbChan c k slot)

/-- The state with a stream channel's command replaced. -/
def State.setStream (s : State) (c k slot : Nat) (m : CCmd) : State :=
  s.modApart c fun p => { p with chans := SMap.put p.chans (s.sbChan c k slot) m }

/-- Elements that a ring of a type holds. -/
def ringCap (m : CCmd) : Nat := m.rsize * 8 / (tyOfNat m.sty).width

/-- INCNT of an input port of an actor (R105). -/
def State.incnt (s : State) (h port : Nat) : Nat := bits (s.recWord h 0) (14 + 7 * port) (8 + 7 * port)

/-- Elements that a channel can give now (R206). -/
def State.streamReady (s : State) (m : CCmd) : Nat :=
  if m.portb then
    let per := m.row0 * 8 / (tyOfNat m.sty).width
    min m.total (s.incnt m.ctl.handle m.nrows * per) - m.tailc
  else m.head - m.tailc

/-- Element `n` of an input channel: in its ring, or in the FIFO of its port (R206). -/
def State.streamElem (s : State) (c : Nat) (m : CCmd) (n : Nat) : Nat :=
  let w := (tyOfNat m.sty).width
  if m.portb then
    let per := m.row0 * 8 / w
    s.spadBits c ((m.src + ((m.first + n / per) % m.cap) * m.row0) * 8 + n % per * w) w
  else s.spadBits c (m.ring * 8 + n % ringCap m * w) w

/-- Elements `n` to `n + count - 1` packed from bit 0. -/
def State.streamElems (s : State) (c : Nat) (m : CCmd) : Nat → Nat → Nat
  | _, 0 => 0
  | n, k + 1 => s.streamElem c m n + 2 ^ (tyOfNat m.sty).width * State.streamElems s c m (n + 1) k

/-- The state after a binding gave its next element or strip to its register, or nothing where it must wait (R206, R350). -/
def State.popSlot (s : State) (c k slot : Nat) (d : Dest) : Option State :=
  let w := s.sb c k slot
  match s.streamOf c k slot with
  | none => some s
  | some m =>
    let left := m.total - m.tailc
    let (off, len) := d.loc
    if left = 0 then
      let old := s.wsRead c k off len
      let v := if len = 8 then 0 else setBits old (max m.ext 1 - 1) 0 0
      some ((s.popWrite c k off len v).wsWrite c k (sbOff slot) 8 (setBits w 61 61 1))
    else
      let n := if len = 8 then 1 else min m.strip left
      if s.streamReady m < n then none
      else
        let width := (tyOfNat m.sty).width
        let raw := s.streamElems c m m.tailc n
        let v :=
          if len = 8 then (tyOfNat m.sty).widen raw
          else
            let old := s.wsRead c k off len
            let old := if m.tu then old else setBits old (max m.ext 1 - 1) 0 0
            if n = 0 then old else setBits old (n * width - 1) 0 raw
        let s := s.setStream c k slot { m with tailc := m.tailc + n }
        let s := s.popWrite c k off len v
        some (s.wsWrite c k (sbOff slot) 8 (setBits w 31 0 (bits w 31 0 + 1)))

/-- What the input bindings are about to give to the registers of an instruction, as it stands before (R350). -/
def State.popsOf (s : State) (c k : Nat) (ds : List Dest) : List Popped :=
  ds.foldl (fun l d =>
    match s.boundSlot c k false d with
    | none => l
    | some i =>
      if l.any fun p => p.slot == i then l
      else l ++ [{ slot := i, dst := d, reg := s.wsRead c k d.loc.1 d.loc.2, word := s.sb c k i
                   pos := match s.streamOf c k i with | some m => m.tailc | none => 0 }]) []

/-- The state with what the stream bindings gave taken back (R350). -/
def State.unpop (s : State) (c k : Nat) (l : List Popped) : State :=
  l.foldl (fun s p =>
    let s := (s.wsWrite c k p.dst.loc.1 p.dst.loc.2 p.reg).wsWrite c k (sbOff p.slot) 8 p.word
    match s.streamOf c k p.slot with
    | some m => s.setStream c k p.slot { m with tailc := p.pos }
    | none => s) s

/-- Taking for every register of a list that an input binding names, once for each binding (R350). -/
def State.popAll (s : State) (c k : Nat) : List Dest → List Nat → Option State
  | [], _ => some s
  | d :: l, seen =>
    match s.boundSlot c k false d with
    | none => State.popAll s c k l seen
    | some i =>
      if seen.contains i then State.popAll s c k l seen
      else match s.popSlot c k i d with
        | none => none
        | some s => State.popAll s c k l (i :: seen)

/-- An output binding has room for the next write of its register, with `n` writes on their way (R206). -/
def State.outRoom (s : State) (c k : Nat) (d : Dest) (n : Nat) : Bool :=
  match s.boundSlot c k true d with
  | none => true
  | some i =>
    match s.streamOf c k i with
    | none => true
    | some m =>
      let per := match d with | .vec _ => m.strip | .scal _ => 1 | .shape _ => 1
      decide (m.total ≤ m.head) || decide (m.head - m.tailc + (n + 1) * per ≤ ringCap m)

/-- The state with elements packed in a number put at the head of an output ring. -/
def State.ringPut (s : State) (c : Nat) (m : CCmd) : Nat → Nat → Nat → State
  | _, 0, _ => s
  | n, k + 1, v =>
    let w := (tyOfNat m.sty).width
    State.ringPut (s.setSpadBits c (m.ring * 8 + n % ringCap m * w) w v) c m (n + 1) k (v / 2 ^ w)

/-- The state after a register's new value reached its output binding: appended, or past the end discarded with OVR.
The flag says whether the register takes the value (R206, R350). -/
def State.appendOut (s : State) (c k : Nat) (d : Dest) (v : Nat) : Bool × State :=
  match s.boundSlot c k true d with
  | none => (true, s)
  | some i =>
    let w := s.sb c k i
    match s.streamOf c k i with
    | none => (true, s)
    | some m =>
      if m.total ≤ m.head then (false, s.wsWrite c k (sbOff i) 8 (setBits w 60 60 1))
      else
        let n := match d with | .vec _ => min m.strip (m.total - m.head) | .scal _ => 1 | .shape _ => 1
        let s := (s.ringPut c m m.head n v).setStream c k i { m with head := m.head + n }
        (true, s.wsWrite c k (sbOff i) 8 (setBits w 31 0 (bits w 31 0 + 1)))

end Sys2Proof.Machine
end

