-- ==== Sys2Proof/Machine/Ops.lean ====
section
/-! DEFINITION. The shared operations of instruction execution: results on their way, traps and the return from them, parking,
fetching a line, transfers of control, and the issue of one slot (R117, R136 to R139, R266 to R282, R308). -/
namespace Sys2Proof

/-- The predicate of a slot (R276). -/
def Ctl.pred (c : Ctl) : Option (BitVec 3 × Bool) := some (c.pk, c.pn)

end Sys2Proof

namespace Sys2Proof.Machine

/-! ### Outcome of an instruction's body -/

/-- What the body of an instruction answers to the issue logic. -/
inductive Res where
  /-- Issued; the next slot in sequence follows. -/
  | ok (s : State)
  /-- Issued; the context goes on at a PC. -/
  | jump (s : State) (pc : Nat)
  /-- Interlocked and not issued; tried again in the core's next cycle. -/
  | retry (s : State)
  /-- Interlocked and not issued; tried again when the wait ends. -/
  | block (s : State) (w : Wait)
  /-- Issued; the context waits, and goes on at the next slot. -/
  | hold (s : State) (w : Wait)
  /-- Issued; the context has been left or redirected. -/
  | gone (s : State)
  /-- The instruction traps. -/
  | trap (cause : Cause) (info : Nat)
  /-- The instruction traps after a change that its description keeps. -/
  | trapWith (s : State) (cause : Cause) (info : Nat)

/-! ### Results on their way (R279 to R281, R319) -/

/-- The bits of a register that are not reserved: a grant word has 56 (R8, R352). -/
def Dest.fieldMask : Dest → Nat
  | .scal r => if 56 ≤ r.toNat ∧ r.toNat < 60 then 2 ^ 56 - 1 else ones64
  | .vec _ => 2 ^ 2048 - 1
  | .shape _ => (2 ^ 55 - 1) * 2 ^ 64 + (2 ^ 56 - 1)

/-- The state with one result written to its register: CSW under its marks, an output-bound register appended. -/
def State.applyPend (s : State) (c k : Nat) (p : Pend) : State :=
  let (off, len) := p.dst.loc
  let old := s.wsRead c k off len
  let new := ((old - (old &&& p.mask)) ||| (p.val &&& p.mask)) &&& p.dst.fieldMask
  if p.dst = .scal 61 then (s.setCsw c k new).mendReg c k off len p.mask
  else
    match s.appendOut c k p.dst new with
    | (true, s) => (s.wsWrite c k off len new).mendReg c k off len p.mask
    | (false, s) => s

/-- The results to write with those selected: each older one on the same register goes before the younger (R281). -/
def closeSel (sel : Pend → Bool) : List Pend → List (Pend × Bool)
  | [] => []
  | p :: l =>
    let r := closeSel sel l
    (p, sel p || r.any fun q => q.2 && q.1.dst.meets p.dst) :: r

/-- The state with the selected results of a context written in program order. -/
def State.landSel (s : State) (c k : Nat) (sel : Pend → Bool) : State :=
  let l := closeSel sel (s.ctx c k).pend
  let s := s.modCtx c k fun x => { x with pend := (l.filter fun q => !q.2).map Prod.fst }
  l.foldl (fun s q => if q.2 then s.applyPend c k q.1 else s) s

/-- The state with every result of a context written (R281, R319). -/
def State.drain (s : State) (c k : Nat) : State := s.landSel c k fun _ => true

/-- The state with every fixed-latency result that is due on every core written (R279). -/
def State.landAll (s : State) : State :=
  s.ctxs.foldl (fun t e =>
    let c := e.1 / 16
    if e.2.pend.isEmpty then t else t.landSel c (e.1 % 16) fun p => p.fixed && decide (p.due ≤ s.cycle c)) s

/-- The state with a result of an issuing instruction added, landing a number of cycles after the issue; one in CSW is seen by the next instruction
(R306). -/
def State.addPend (s : State) (c k : Nat) (d : Dest) (mask v lat : Nat) (fixed : Bool) : State :=
  if d.ignored then s
  else if d = .scal 61 then s.applyPend c k { dst := d, mask := mask, val := v, due := 0, fixed := fixed }
  else s.modCtx c k fun x =>
    { x with pend := x.pend ++ [{ dst := d, mask := mask, val := v, due := s.cycle c + lat, fixed := fixed }] }

/-- A fixed-latency result in a scalar-class register (R280). -/
def State.putS (s : State) (c k : Nat) (d : SReg) (v lat : Nat) : State :=
  s.addPend c k (.scal d) ones64 (v % 2 ^ 64) lat true

/-- A variable-latency result in a scalar-class register, which lands by default after a bound (R280, log 5). -/
def State.putVar (s : State) (c k : Nat) (d : SReg) (v lat : Nat) : State :=
  s.addPend c k (.scal d) ones64 (v % 2 ^ 64) lat false

/-- The bits of a vector register under a mask, as a result of a latency. -/
def State.putV (s : State) (c k : Nat) (d : VReg) (mask v lat : Nat) (fixed : Bool) : State :=
  s.addPend c k (.vec d) mask v lat fixed

/-- The register that MFST writes when its turn in the inbox comes (R404). -/
def mfstDest : Instr → Option Dest
  | .mfstPerm _ d => some (.vec d)
  | .mfstGrow _ d | .mfstStat _ d => some (.scal d)
  | _ => none

/-- The registers of a context that a queued MFST, or a CSRG that has not read its row pointers, still writes (R404, R413). -/
def State.lateDests (s : State) (c k : Nat) : List Dest :=
  let mine (x : CmdCtl) : Bool := x.handle != 0 && x.handle == s.firingOf c k && x.fired == (s.keep x.handle).fired
  let p := s.apart c
  (p.inbox.filterMap fun e => if mine e.2.ctl then mfstDest e.2.instr else none)
    ++ (p.chans.filterMap fun e => if e.2.kind = 1 && e.2.first = 0 && e.2.wid != 0 && mine e.2.ctl then some (.scal (BitVec.ofNat 6 e.2.wid)) else none)

/-- A variable-latency result on its way to one of the registers (R280). -/
def State.varBusy (s : State) (c k : Nat) (ds : List Dest) : Bool :=
  ((s.ctx c k).pend.any fun p => !p.fixed && ds.any fun d => d.meets p.dst)
    || (s.lateDests c k).any fun q => ds.any fun d => d.meets q

/-- Register class and number in the TINFO of STALL_CHECK (R134). -/
def Dest.code : Dest → Nat
  | .scal r => r.toNat
  | .vec v => v.toNat + 64
  | .shape h => 56 + h.toNat

/-- A read that the scoreboard checks: not specifiers 60 to 63 (R282). -/
def Dest.checked : Dest → Bool
  | .scal r => decide (r.toNat < 60)
  | .vec _ => true
  | .shape _ => true

/-- Cycles by which a register's last fixed-latency writer is still short of its reader (R282). -/
def State.shortfall (s : State) (c k : Nat) (d : Dest) : Nat :=
  match (s.ctx c k).pend.reverse.find? fun p => d.meets p.dst with
  | some p => if p.fixed then p.due - s.cycle c else 0
  | none => 0

/-- TINFO of the first register read too early, with the checking scoreboard on (R134, R282). -/
def State.stallInfo (s : State) (c k : Nat) (ds : List Dest) : Option Nat :=
  if bit (s.csw c k) 0 = 0 then none
  else match ds.find? fun d => d.checked && decide (0 < s.shortfall c k d) with
    | some d => some (d.code + min (s.shortfall c k d) 15 * 256)
    | none => none

/-! ### Clocks and composition -/

/-- Period of a core's clock in units of 1/336 ns: 3.2 GHz on the high rail, 2.1 GHz on the low, 0.8 GHz on the cellar (R18, R62). -/
def State.ownPeriod (s : State) (c : Nat) : Nat :=
  if isCellar c then 420 else if (SMap.get {} s.power.clusters (clusterOf c)).high then 105 else 160

/-- Extent of a composition code: W and H (R242). -/
def compExtent (code : Nat) : Nat × Nat :=
  if code = 1 then (2, 1) else if code = 2 then (1, 2) else if code = 3 then (2, 2)
  else if code = 4 then (4, 2) else if code = 5 then (2, 4) else (1, 1)

/-- The members of a composition, the home first (R242). -/
def compMembers (home code : Nat) : List Nat :=
  let (w, h) := compExtent code
  (List.range (w * h)).map fun m => mkCore (coreDie home) (coreX home + m % w) (coreY home + m / w)

/-- The core whose caches serve a context at an address: in a composed core the member to which the fetch line or the 64-byte granule belongs
(R244). -/
def State.memberFor (s : State) (c k va : Nat) : Nat :=
  if bit (s.csw c k) 3 = 0 then c
  else
    let l := compMembers c (bits (s.csw c k) 6 4)
    l.getD ((bits va 11 6 ^^^ bits va 17 12) % l.length) c

/-- The state with every core that a context froze unfrozen (R243, R247). -/
def State.unfreeze (s : State) (c k : Nat) : State :=
  { s with cores := s.cores.map fun e => if e.2.frozen == some (c, k) then (e.1, { e.2 with frozen := none }) else e }

/-- The state with a composed context back on its home alone, once its results are written; COMPCODE keeps the old code (R145, R247). -/
def State.decompose (s : State) (c k : Nat) : State :=
  if bit (s.csw c k) 3 = 0 then s
  else
    let s := s.drain c k
    let s := (s.forceCsw c k (setBits (s.csw c k) 3 3 0)).unfreeze c k
    if (s.core c).period = 0 then s else s.setPeriod c (s.ownPeriod c)

/-! ### Saving and freeing a context -/

/-- The progress record of a matrix command (R389). -/
def mprWord (m : MCmd) : Nat :=
  let (maj, fn) := match encodeSlot m.instr with
    | some e => (e.maj.toNat, e.fn.toNat)
    | none => (0, 0)
  2 ^ 63 + m.st * 2 ^ 60 + m.ctl.ctx * 2 ^ 56 + maj * 2 ^ 48 + fn * 2 ^ 44 + m.rows % 2 ^ 16 * 2 ^ 16 + m.kb % 2 ^ 16

/-- A command put into a list in order of issue. -/
def insertCmd (m : MCmd) : List MCmd → List MCmd
  | [] => [m]
  | x :: l => if m.seq ≤ x.seq then m :: x :: l else x :: insertCmd m l

/-- The matrix commands of a firing in order of issue (R231). -/
def State.matrixCmds (s : State) (c k h : Nat) : List MCmd :=
  (((s.apart c).inbox.map Prod.snd).filter fun m => m.ctl.ctx == k && m.ctl.handle == h).foldr insertCmd []

/-- Handle of the firing in a context; 0 where there is none. -/
def State.handleOf (s : State) (c k : Nat) : Nat := s.firingOf c k

/-- Launch of the firing in a context. -/
def State.lidOf (s : State) (c k : Nat) : Nat :=
  match (s.ctx c k).firing with
  | some f => f.lid
  | none => 0

/-- The state with MPRC0 and MPRC1 written from the oldest matrix commands in flight (R231). -/
def State.saveMprc (s : State) (c k : Nat) : State :=
  let w := (s.matrixCmds c k (s.handleOf c k)).map mprWord
  (s.wsWrite c k 0x268 8 (w.getD 0 0)).wsWrite c k 0x270 8 (w.getD 1 0)

/-- A wait that stays in force while its firing is saved: the message has gone and its answer ends the instruction (R143, R149). -/
def Wait.kept : Wait → Bool
  | .reply _ _ _ redo _ => !redo
  | .rack _ => true
  | .emulate _ => true
  | .fence _ | .waitd _ _ _ _ | .bwait _ _ _ _ | .wfm _ _ _ _ _ _ _ | .compose _ _ _ _ | .line _ | .pageIn _ => false

/-- The state in which a context leaves its wait, and its instruction is abandoned: what the stream bindings gave is taken back, the members of a COMPOSE
are unfrozen, and the registration of a BWAIT goes (R243, R327, R347, R350). -/
def State.dropWait (s : State) (c k : Nat) : State :=
  match (s.ctx c k).wait with
  | none => s
  | some r =>
    let s := s.unpop c k r.pops
    match r.kind with
    | .compose _ _ _ _ => s.unfreeze c k
    | .bwait id _ _ _ => s.withdraw c id
    | .fence _ | .waitd _ _ _ _ | .wfm _ _ _ _ _ _ _ | .rack _ | .reply _ _ _ _ _ | .line _ | .pageIn _ | .emulate _ => s

/-- A context's wait stays in force while its firing is saved. -/
def State.waitKept (s : State) (c k : Nat) : Bool :=
  match (s.ctx c k).wait with
  | some r => r.kind.kept
  | none => true

/-- The state with a firing's context written to its workspace and to what is kept of its actor, and the context freed (R98, R143, R149). -/
def State.saveCtx (s : State) (c k : Nat) : State :=
  let s := s.drain c k
  let s := ((if s.waitKept c k then s else s.dropWait c k).decompose c k).saveMprc c k
  let x := s.ctx c k
  let h := s.handleOf c k
  let w := match x.wait with
    | some r => if r.kind.kept then some r else none
    | none => none
  let s := s.modKept h fun e =>
    { e with saved := some (x.pc.toNat, x.asid), nacks := x.nacks, live := x.live, entry := x.entry, pitch0 := x.pitch0, pitch1 := x.pitch1,
             wait := w }
  s.setCtx c k {}

/-- The state with a firing pre-empted: saved, and its actor READY at the tail of its level (R98, R118, R106). -/
def State.preemptCtx (s : State) (c k : Nat) : State :=
  let h := s.handleOf c k
  let s := s.saveCtx c k
  s.enqueue c h (s.actorLevel h)

/-- The state with a context parked: saved, its actor PARKED, and a KIND 4 entry on its way to the mailbox (R139). -/
def State.parkCtx (s : State) (c k arg cause : Nat) : State :=
  let h := s.handleOf c k
  let s := ((s.saveCtx c k).setActorState h 4).modKept h fun e => { e with entry := none }
  s.report (epCore c) 4 arg (setBits h 55 48 cause)

/-! ### Fetching lines (R266 to R270) -/

/-- Address of the line that holds a PC. -/
def lineAddr (pc : Nat) : Nat := pc / 64 * 64

/-- Slot of a PC whose low bits are 0, 12, 24, 36 or 48. -/
def slotIdx (pc : Nat) : Nat := pc % 64 / 12

/-- The low bits of a PC name a slot (R267). -/
def slotOk (pc : Nat) : Bool :=
  let o := pc % 64
  o == 0 || o == 12 || o == 24 || o == 36 || o == 48

/-- The 96 bits of a slot of a line. -/
def slotBits (line i : Nat) : BitVec 96 := BitVec.ofNat 96 (line >>> (96 * i))

/-- The line word of a line (R268). -/
def lineWord (line : Nat) : Nat := bits line 511 480

/-- The branch-target mark of a slot (R268). -/
def marked (line i : Nat) : Bool := bit (lineWord line) (8 + i) == 1

/-- Parity of 60 bits (R269). -/
def parity60 (n : Nat) : Nat :=
  let a := n ^^^ (n >>> 32)
  let a := a ^^^ (a >>> 16)
  let a := a ^^^ (a >>> 8)
  let a := a ^^^ (a >>> 4)
  let a := a ^^^ (a >>> 2)
  (a ^^^ (a >>> 1)) % 2

/-- Every parity bit of a line agrees (R269). -/
def parityOk (line : Nat) : Bool :=
  [0, 1, 2, 3, 4, 5, 6, 7].all fun i => parity60 (bits line (60 * i + 59) (60 * i)) == bit (lineWord line) i

/-- TINFO of ILLEGAL_LINE (R134). -/
def lineInfo (line i : Nat) (par : Bool) : Nat := lineWord line + i * 2 ^ 32 + (if par then 2 ^ 35 else 0)

/-- The LPAD kind of a slot, if it holds an LPAD. -/
def padOf (line i : Nat) : Option PadKind :=
  match decode (slotBits line i) with
  | .ok (.lpad _ k) => some k
  | _ => none

/-- The PC of the slot after another (R308). -/
def nextPc (pc : Nat) : Nat := (if pc % 64 = 48 then pc + 16 else pc + 12) % 2 ^ 56

/-- Page size code of a leaf size (R83). -/
def sizeCode (n : Nat) : Nat :=
  if n = 2 ^ 12 then 0 else if n = 2 ^ 16 then 1 else if n = 2 ^ 21 then 2 else if n = 2 ^ 25 then 3 else if n = 2 ^ 30 then 4 else 5

/-- The line that a core's instruction cache holds with its parity right; none is held of uncached code (R187, R190, R270). -/
def State.icacheHit (s : State) (c pa : Nat) (uc : Bool) : Option Nat :=
  if uc then none else (SMap.find? (s.core c).icache (pa / 64)).filter parityOk

/-- What looking at a line of instructions answers. -/
inductive Peek where
  | line (v : Nat)
  | flash (leaf fblk size base : Nat)
  /-- The DRAM is in self-refresh (R50). -/
  | shut
  | none

/-- The line at an address as a transfer of control looks at it, without a change of state. -/
def State.peekLine (s : State) (c k va : Nat) : Peek :=
  let va := lineAddr va
  let p := (s.ctx c k).asid
  if 0xFD ≤ va / 2 ^ 48 then .none
  else
    let w := match s.tlbFind c p va false with
      | some t => if rightsOk t.bits .fetch (s.priv c k) then Walk.ok (t.pa + (va - t.va)) t.bits t.kind t.pkg else .prot
      | none => s.translateFor p va .fetch (s.priv c k)
    match w with
    | .ok pa b kind _ =>
      if kind ≠ 1 then .none
      else match s.icacheHit (s.memberFor c k va) pa (bit b 6 == 1 || isSram pa) with
        | some v => .line v
        | none => if s.dramShut pa then .shut else if s.bytesBad pa 64 then .none else .line (s.lineFor p (pa / 64))
    | .flash l f z b => .flash l f z b
    | .page => .none
    | .prot => .none
    | .shut => .shut
    | .ecc => .none

/-- The state with a page-in request sent to the flash pager for an access of a context (R200). -/
def State.askPage (s : State) (c k p va : Nat) (write : Bool) (leaf size : Nat) : State :=
  s.send { id := 0, src := epCore c, dst := epAgent 8, part := p, ch := 3, op := 0x36, taddr := va
           arg := leaf + sizeCode size * 2 ^ 52 + (if write then 2 ^ 55 else 0), raddr := replyAddr (epCore c), ctx := k }

/-- What fetching a line answers. -/
inductive Fetch where
  | line (s : State) (v : Nat)
  | trap (s : State) (cause : Cause) (info : Nat)
  | wait (s : State) (leaf : Nat)
  /-- The fetch waits for the DRAM to leave self-refresh (R50). -/
  | shut

/-- The line at a context's PC, as its home or a cache gives it; in a composed core the cache is the member's to which the line belongs (R244, R266). -/
def State.readLine (s : State) (c k : Nat) : Fetch :=
  let x := s.ctx c k
  let pc := x.pc.toNat
  let va := lineAddr pc
  if 0xFD ≤ va / 2 ^ 48 then .trap s .prot pc
  else match s.translate c x.asid va .fetch (s.priv c k) with
    | (.page, t) => .trap t .page va
    | (.prot, t) => .trap t .prot pc
    | (.shut, _) => .shut
    | (.ecc, t) => .trap t .eccUncorr va
    | (.flash leaf _ size _, t) => .wait (t.askPage c k x.asid va false leaf size) leaf
    | (.ok pa b kind _, t) =>
      if kind ≠ 1 then .trap t .prot pc
      else match t.icacheHit (s.memberFor c k va) pa (bit b 6 == 1 || isSram pa) with
        | some v => .line t v
        | none =>
          if t.dramShut pa then .shut
          else
            let t := ((t.snoop (pa / 64)).countMismatch x.asid (pa / 64)).readDram (pa / 64)
            if t.bytesBad pa 64 then .trap t .eccUncorr va
            else
              let v := t.lineFor x.asid (pa / 64)
              .line (if bit b 6 == 1 || isSram pa then t else (t.holdLine (pa / 64)).icachePut (s.memberFor c k va) (pa / 64) v) v

/-- The line at a context's PC (R266): a parity failure in a cache is mended by reading the line once more from memory; where one comes about that the
second read does not mend, the fetch finds a bit of the first slot wrong (R155, R270). -/
def State.fetchLine (s : State) (c k : Nat) : Fetch :=
  match s.readLine c k with
  | .line t v => if (s.core c).parity && (s.ctx c k).line != some (lineAddr (s.ctx c k).pc.toNat) then .line (t.modCore c fun x => { x with parity := false }) (v ^^^ 1) else .line t v
  | r => r

/-- The first failed line check at a slot (R270). -/
def lineCheck (line i : Nat) : Option Nat :=
  if !parityOk line then some (lineInfo line i true)
  else if bits (lineWord line) 31 17 ≠ 0 then some (lineInfo line i false)
  else if bits (slotBits line 4).toNat 7 0 = 1 then some (lineInfo line i false)
  else none

/-! ### Traps (R136), parking and ERET -/

/-- Result of the landing checks of an entry (R271). -/
inductive Landing where
  | ok
  | target
  | lpad
  | later
  deriving DecidableEq, Repr

/-- The landing checks of an entry of a kind (R271); they wait for the fetch where the line is in flash,
and are left to the fetch where the line cannot be read. -/
def State.landing (s : State) (c k pc : Nat) (kind : PadKind) : Landing :=
  if !slotOk pc then .target
  else match s.peekLine c k pc with
    | .line v => if !marked v (slotIdx pc) then .target else if padOf v (slotIdx pc) = some kind then .ok else .lpad
    | .flash _ _ _ _ => .later
    | .shut => .later
    | .none => .later

/-- The state with a failed trap entry parked (R136, R139). -/
def State.failEntry (s : State) (c k pc : Nat) (cause : Cause) : State :=
  let s := s.wsWrite c k 0x210 8 (setBits (s.wsRead c k 0x210 8) 7 0 cause.code)
  let s := s.forceCsw c k (setBits (s.csw c k) 23 16 cause.code)
  (s.wsWrite c k 0x218 8 pc).parkCtx c k pc cause.code

/-- Trap entry (R136): results written, the core decomposed, the record written, and the handler entered or the context parked. -/
def State.enterTrap (s : State) (c k : Nat) (cause : Nat) (info : Nat) (deferred : Bool) (orig tpc : Nat) : State :=
  let s := (s.drain c k).dropWait c k
  let w := s.csw c k
  let s := s.decompose c k
  let s := s.wsWrite c k 0x210 8 (cause + (if deferred then 256 else 0) + bit w 3 * 512 + bits w 6 4 * 1024)
  let s := s.wsWrite c k 0x218 8 info
  let s := s.wsWrite c k 0x220 8 (if deferred then orig else 0)
  let s := s.wsWrite c k 0x208 8 tpc
  let s := s.forceCsw c k (setBits (s.csw c k) 23 16 cause)
  let s := s.modCtx c k fun x => { x with wait := none, live := true, line := none, entry := none, got := none }
  let tvec := s.wsRead c k 0x228 8
  if bit tvec 63 = 0 then (s.modCtx c k fun x => { x with pc := BitVec.ofNat 56 tpc }).parkCtx c k info cause
  else
    let s := s.wsWrite c k 0x228 8 (setBits tvec 63 63 0)
    let pc := bits tvec 55 0
    let s := s.modCtx c k fun x => { x with pc := BitVec.ofNat 56 pc }
    match s.landing c k pc .trap with
    | .ok => s
    | .later => s.modCtx c k fun x => { x with entry := some .trap }
    | .target => s.failEntry c k pc .cfTarget
    | .lpad => s.failEntry c k pc .cfLpad

/-- A precise trap of the instruction at the context's PC (R134, R136): it counts as an issue of the core. -/
def State.preciseTrap (s : State) (c k : Nat) (cause : Cause) (info : Nat) : State :=
  let pc := (s.ctx c k).pc.toNat
  let t := s.cycle c
  let s := s.modCtx c k fun x => { x with next := t + 1, start := some (x.start.getD t) }
  let s := s.modCore c fun n => { n with free := t + 1, last := k }
  s.enterTrap c k cause.code info false 0 (if cause = .brk then nextPc pc else pc)

/-- Delivery of a pending deferred refusal at a boundary (R137): the oldest starts the trap, those behind it add to EXTRA. -/
def State.deliverNack (s : State) (c k : Nat) (cause : Nat) : State :=
  match (s.ctx c k).nacks with
  | [] => s
  | n :: rest =>
    let s := s.modCtx c k fun x => { x with nacks := [], next := max x.next (s.cycle c) }
    let pc := (s.ctx c k).pc.toNat
    let extra := min rest.length 255
    let off := (s.ctx c k).wptr + 0x210
    let s := s.enterTrap c k cause n.addr true n.pc pc
    s.spadWrite c off 8 (setBits (s.spadRead c off 8) 23 16 extra)

/-- The return from a trap (R310): the context goes on at TPC with TVEC enabled again and no landing check. -/
def State.eret (s : State) (c k : Nat) : State × Nat :=
  let s := s.wsWrite c k 0x228 8 (setBits (s.wsRead c k 0x228 8) 63 63 1)
  (s.modCtx c k fun x => { x with live := false }, bits (s.wsRead c k 0x208 8) 55 0)

/-! ### Transfers of control (R271, R278, R308) -/

/-- Target of a branch immediate: its line, and its slot field (R278). -/
def branchTarget (pc imm w : Nat) : Nat × Nat :=
  (wrap 56 ((lineAddr pc : Nat) + 64 * sval w (imm >>> 3)), imm % 8)

/-- A direct transfer of control to a target, with the state that its instruction leaves (R271, R308). Where the target's line cannot be read
the branch completes and the line's own cause is taken at the fetch there, with no mark to check: the model's reading of R134 (log 86). -/
def State.goDirect (s : State) (c k : Nat) (t : Nat × Nat) : Res :=
  let pc := (t.1 + 12 * t.2) % 2 ^ 56
  if 5 ≤ t.2 then .trap .cfTarget pc
  else match s.peekLine c k t.1 with
    | .line v => if marked v t.2 then .jump s pc else .trap .cfTarget pc
    | .flash leaf _ size _ => .block (s.askPage c k (s.ctx c k).asid t.1 false leaf size) (.pageIn leaf)
    | .shut => .retry s.askDram
    | .none => .jump s pc

/-- An indirect transfer of control to a 64-bit target with a required landing pad (R271, R272, R308); a target line that cannot be read is taken
as in a direct transfer, with no landing pad to check (log 86). -/
def State.goIndirect (s : State) (c k t : Nat) (kind : PadKind) : Res :=
  if t / 2 ^ 56 ≠ 0 then .trap .cfTarget t
  else if !slotOk t then .trap .cfTarget t
  else match s.peekLine c k t with
    | .line v =>
      if !marked v (slotIdx t) then .trap .cfTarget t
      else if padOf v (slotIdx t) = some kind then .jump s t
      else .trap .cfLpad t
    | .flash leaf _ size _ => .block (s.askPage c k (s.ctx c k).asid (lineAddr t) false leaf size) (.pageIn leaf)
    | .shut => .retry s.askDram
    | .none => .jump s t

/-! ### The issue of one slot (R117, R237, R276, R279) -/

/-- The PC after the slots that the executing instruction takes (R285, R412). -/
def State.afterPc (s : State) (c k : Nat) : Nat :=
  let n := nextPc (s.ctx c k).pc.toNat
  if s.issue.len = 2 then nextPc n else n

/-- The state after an instruction issued: the context's PC, its next issue cycle and the core's last issuer (R117, R279). -/
def State.finishIssue (s : State) (c k pc stall : Nat) : State :=
  let t := s.cycle c
  let s := s.modCtx c k fun x =>
    { x with pc := BitVec.ofNat 56 pc, got := none, next := t + 1 + stall, start := some (x.start.getD t)
             line := if lineAddr pc = lineAddr x.pc.toNat then x.line else none }
  s.modCore c fun n => { n with free := t + 1, last := k }

/-- The state with an interlocked context tried again in the next cycle. -/
def State.retryIssue (s : State) (c k : Nat) : State := s.modCtx c k fun x => { x with next := s.cycle c + 1 }

/-- A cause that comes before ECC_UNCORR in the order of causes (R137). -/
def Cause.beforeEcc (x : Cause) : Bool :=
  x == .illegalLine || x == .reservedCode || x == .futureOpcode || x == .priv || x == .shape || x == .stallCheck || x == .misalign || x == .page || x == .prot

/-- The answer of a body one of whose operands is an uncorrectable word, at an address: ECC_UNCORR, but for a cause that comes before it (R137, R155). -/
def Res.orEcc (r : Res) (va : Nat) : Res :=
  match r with
  | .trap cause info => if cause.beforeEcc then .trap cause info else .trap .eccUncorr va
  | .trapWith s cause info => if cause.beforeEcc then .trapWith s cause info else .trap .eccUncorr va
  | .ok _ | .jump _ _ | .retry _ | .block _ _ | .hold _ _ | .gone _ => .trap .eccUncorr va

/-- The state with what the stream bindings gave to an instruction's registers taken back; `s0` is the state before they gave it (R350). -/
def State.undoPops (s0 s : State) (c k : Nat) (ds : List Dest) : State := s.unpop c k (s0.popsOf c k ds)

/-- The state with every read of TIME among an executing instruction's sources logged (R153, R306). -/
def State.logReads (s : State) (c k : Nat) (reads : List Dest) : State :=
  (reads.filter fun d => d == .scal 62).foldl (fun t _ => t.logTime c k) s

/-- The state after the body of an instruction answered; `s0` is the state before its stream bindings gave anything. -/
def State.settle (s0 : State) (c k stall : Nat) (reads : List Dest) (r : Res) : State :=
  let log (s : State) : State := s.logReads c k reads
  match r with
  | .ok s => (log s).finishIssue c k (s0.afterPc c k) stall
  | .jump s pc => (log s).finishIssue c k pc stall
  | .retry s => (s0.undoPops s c k reads).retryIssue c k
  | .block s w =>
    (s0.undoPops s c k reads).modCtx c k fun x => { x with wait := some { kind := w, pc := x.pc.toNat, after := x.pc.toNat, stall := 0 } }
  | .hold s w =>
    let x := s0.ctx c k
    let s := (log s).finishIssue c k x.pc.toNat stall
    s.modCtx c k fun y => { y with wait := some { kind := w, pc := x.pc.toNat, after := s0.afterPc c k, stall := stall, pops := s0.popsOf c k reads } }
  | .gone s => log s
  | .trap cause info => (log s0).preciseTrap c k cause info
  | .trapWith s cause info => (log (s0.undoPops s c k reads)).preciseTrap c k cause info

/-- An instruction's predicate: its register and whether it is negated (R276). -/
abbrev Pred := Option (BitVec 3 × Bool)

/-- The predicate register that an instruction reads. -/
def predReads (p : Pred) : List Dest :=
  match p with
  | some (n, _) => [.scal ((6 : BitVec 3) ++ n)]
  | none => []

/-- The value of a predicate (R276). -/
def State.executes (s : State) (c k : Nat) (p : Pred) : Bool :=
  match p with
  | some (n, neg) => (bit ((s.asRead c k).readK c k n) 0 == 1) != neg
  | none => true

/-- In a composed core every register read waits for the last earlier write (R245). -/
def State.composedWait (s : State) (c k : Nat) (ds : List Dest) : Bool :=
  bit (s.csw c k) 3 == 1 && ds.any fun d => decide (0 < s.shortfall c k d)

/-- A predicate register waits in a composed core, where the checking scoreboard does not trap its early read (R245, R282). -/
def State.predWait (s : State) (c k : Nat) (p : Pred) : Bool :=
  (s.stallInfo c k (predReads p)).isNone && s.composedWait c k (predReads p)

/-- The issue of one slot: interlocks (R280, R245), the predicate (R276), the stream bindings, and then the causes in their order: the checks made first on
the registers as they are then read, the checking scoreboard for every register that the slot reads, a register whose word is uncorrectable (R155, log 83),
and those of the body (R137, R282, R350). -/
def State.issueSlot (s : State) (stall : Nat) (pred : Pred) (reads writes : List Dest)
    (pre : State → Option (Cause × Nat)) (body : State → Res) : State :=
  let c := s.issue.core
  let k := s.issue.ctx
  if s.varBusy c k (predReads pred) || s.predWait c k pred then s.retryIssue c k
  else match s.regBad c k (predReads pred) with
  | some va => s.preciseTrap c k .eccUncorr va
  | none =>
  if !s.executes c k pred then s.finishIssue c k (s.afterPc c k) stall
  else if s.varBusy c k (reads ++ writes) then s.retryIssue c k
  else
    let early := s.stallInfo c k (predReads pred ++ reads)
    if early.isNone && s.composedWait c k reads then s.retryIssue c k
    else match s.popAll c k reads [] with
      | none => s.retryIssue c k
      | some t =>
        match pre t with
        | some (cause, info) => (s.logReads c k reads).preciseTrap c k cause info
        | none =>
          match early with
          | some info => (s.logReads c k reads).preciseTrap c k .stallCheck info
          | none =>
            match t.regBad c k reads with
            | some va => s.settle c k stall reads ((body t).orEcc va)
            | none =>
            if writes.all fun d => s.outRoom c k d ((s.ctx c k).pend.filter fun p => p.dst = d).length then
              s.settle c k stall reads (body t)
            else s.retryIssue c k

/-- No check before the others. -/
def noCheck (_ : State) : Option (Cause × Nat) := none

/-- Two checks, of which the first that applies counts (R137). -/
def bothChecks (f g : State → Option (Cause × Nat)) (s : State) : Option (Cause × Nat) :=
  match f s with
  | some x => some x
  | none => g s

/-- An address in the control window outside a supervisor context: PRIV, which comes before the causes of registers and addresses (R137, R325). -/
def ctlCheck (ea : State → Nat ⊕ Nat) (s : State) : Option (Cause × Nat) :=
  match ea s with
  | .inl va => if va / 2 ^ 48 = 0xFF && !s.priv s.issue.core s.issue.ctx then some (.priv, va) else none
  | .inr _ => none

end Sys2Proof.Machine
end

