-- ==== Sys2Proof/Machine/Sched.lean ====
section
/-! DEFINITION. Which context issues, which event comes about by itself, and how time advances (R117, R237, R238, log 5, log 6). -/
namespace Sys2Proof.Machine

/-- Effective throttle step of a core's cluster, in a composed core the largest among its members' (R65, R244). -/
def State.effStep (s : State) (c : Nat) : Nat :=
  let own (d : Nat) : Nat := (SMap.get {} s.power.clusters (clusterOf d)).eff
  match (s.core c).frozen with
  | some (h, k) =>
    if h = c && bit (s.csw c k) 3 == 1 then s.cores.foldl (fun m e => if e.2.frozen == some (h, k) then max m (own e.1) else m) (own c)
    else own c
  | none => own c

/-- The throttle lets a core issue in a cycle (R66). -/
def State.throttleOk (s : State) (c n : Nat) : Bool := decide (n % 16 < 16 - s.effStep c)

/-- A context that could issue in a core's cycle `n` (R117). -/
def ctxReady (x : Ctx) (n : Nat) : Bool := x.firing.isSome && x.wait.isNone && decide (x.next ≤ n)

/-- PRIORITY of a context (R233). -/
def State.prioOf (s : State) (c k : Nat) : Nat := bits (s.csw c k) 10 8

/-- The ready context of a core that R117 chooses. -/
def State.pickCtx (s : State) (c : Nat) : Option Nat :=
  let n := s.cycle c
  let l := (s.liveCtxs c).filter fun e => ctxReady e.2 n
  let best := l.foldl (fun b e => max b (s.prioOf c e.1)) 0
  let m := nctx c
  ((List.range m).map fun i => ((s.core c).last + i + 1) % m).find? fun k => l.any fun e => e.1 == k && s.prioOf c k == best

/-- The context of a core that issues now: the second slot of a pair, or the choice of R117. -/
def State.issuer (s : State) (c : Nat) : Option Nat :=
  let n := s.cycle c
  let m := s.core c
  if m.period = 0 || s.power.renum || (m.fenced && !m.log.replay) then none
  else match m.pair with
    | some (k, t) => if t = n && ctxReady (s.ctx c k) n then some k else if decide (m.free ≤ n) && s.throttleOk c n then s.pickCtx c else none
    | none => if decide (m.free ≤ n) && s.throttleOk c n then s.pickCtx c else none

/-- The first core that issues now, with its context. -/
def State.nextIssue (s : State) : Option (Nat × Nat) :=
  s.cores.findSome? fun e =>
    match s.issuer e.1 with
    | some k => some (e.1, k)
    | none => none

/-- Issue classes (R238). -/
inductive IssueClass where
  | n | i | f | l | s | v | e | b
  deriving DecidableEq, Repr

/-- The issue class of a major opcode (R238). -/
def classOf (maj : Nat) : IssueClass :=
  if maj = 0 || maj = 2 then .n
  else if maj ≤ 0x0F then .b
  else if maj = 0x12 || maj = 0x13 || maj = 0x14 || maj = 0x15 || (0x29 ≤ maj && maj ≤ 0x2F) then .f
  else if maj ≤ 0x34 then .i
  else if maj ≤ 0x43 then .l
  else if maj ≤ 0x51 then .s
  else if maj ≤ 0x7F then .v
  else .e

/-- Two classes may pair in this order (R238). -/
def classesPair (x y : IssueClass) : Bool :=
  x != .b && (x == .n || y == .n || (x == .i && y == .i) || x != y)

/-- Slots `i` and `i + 1` of a line issue together: their link is set, the link before is not in force, neither is a MOD or
the target of one, and their classes pair (R238). -/
def pairAt (line : Nat) : Nat → Bool
  | 0 =>
    let maj j := bits (slotBits line j).toNat 7 0
    bit (lineWord line) 13 == 1 && maj 0 != 1 && maj 1 != 1 && classesPair (classOf (maj 0)) (classOf (maj 1))
  | i + 1 =>
    let maj j := bits (slotBits line j).toNat 7 0
    decide (i + 2 ≤ 4) && bit (lineWord line) (14 + i) == 1 && bit (lineWord line) (13 + i) == 0 && maj i != 1 && maj (i + 1) != 1
      && maj (i + 2) != 1 && classesPair (classOf (maj (i + 1))) (classOf (maj (i + 2)))

/-- The state after the first slot of a pair issued: the second may issue in the same cycle, and reads the registers that the first read (R237, R239). -/
def State.openPair (s0 s : State) (c k line i : Nat) : State :=
  let pc := (s0.ctx c k).pc.toNat
  let x := s.ctx c k
  let second := match (s0.core c).pair with
    | some (k', t) => k' == k && t == s0.cycle c
    | none => false
  if !second && pairAt line i && x.firing == (s0.ctx c k).firing && x.wait.isNone && decide (x.pc.toNat = nextPc pc)
      && decide ((s.core c).free = s0.cycle c + 1) then
    (s.modCtx c k fun x => { x with next := s0.cycle c }).modCore c fun n => { n with pair := some (k, s0.cycle c), snap := s0.areaCells c k }
  else s.modCore c fun n => { n with pair := none, snap := [] }

/-- What the fetch, the line checks, the landing checks of an entry and the decoder make of a context's next slot. -/
inductive Front where
  /-- The context has trapped, or waits. -/
  | done (s : State)
  /-- An instruction to execute, the state it starts from and its line. -/
  | run (i : Instr) (s : State) (line : Nat)

/-- The front end of the issue of a context's next slot (R266 to R274, R287). -/
def State.front (s : State) (c k : Nat) : Front :=
  let x := s.ctx c k
  let pc := x.pc.toNat
  if !slotOk pc then .done (s.preciseTrap c k .cfTarget pc)
  else match s.fetchLine c k with
    | .trap s cause info => .done (s.preciseTrap c k cause info)
    | .shut => .done (s.askDram.retryIssue c k)
    | .wait s leaf =>
      .done (s.modCtx c k fun x => { x with wait := some { kind := .pageIn leaf, pc := pc, after := pc, stall := 0 } })
    | .line s line =>
      let i := slotIdx pc
      match (if x.line = some (lineAddr pc) then none else lineCheck line i) with
      | some info => .done (s.preciseTrap c k .illegalLine info)
      | none =>
        let bad : Option Cause := match x.entry with
          | none => none
          | some kind => if !marked line i then some .cfTarget else if padOf line i = some kind then none else some .cfLpad
        match bad with
        | some cause => .done (if x.entry = some .trap then s.failEntry c k pc cause else s.preciseTrap c k cause pc)
        | none =>
          let b := slotBits line i
          let s := s.modCtx c k fun x => { x with line := some (lineAddr pc), entry := none }
          let s := { s with issue := { core := c, ctx := k, len := 1, slot := bits b.toNat 47 0, mods := none,
                                       nextSlot := if i < 4 then some (slotBits line (i + 1)) else none } }
          match decode b with
          | .ok i => .run i s line
          | .error .reservedCode => .done (s.preciseTrap c k .reservedCode (bits b.toNat 47 0))
          | .error .futureOpcode => .done (s.preciseTrap c k .futureOpcode (bits b.toNat 47 0))

/-- The least of a list of times after the present. -/
def State.soonest (s : State) (l : List Nat) : Option Nat :=
  l.foldl (fun b t => if t ≤ s.now then b else match b with
    | none => some t
    | some u => some (min t u)) none

/-- Times at which a core's contexts may issue or their results land. -/
def State.coreTimes (s : State) (c : Nat) : List Nat :=
  let m := s.core c
  if m.period = 0 then []
  else
    let n := s.cycle c
    (s.liveCtxs c).flatMap fun e =>
      (if e.2.wait.isNone && !(m.fenced && !m.log.replay) then [s.timeOf c (max (max e.2.next m.free) (n + 1))] else [])
        ++ e.2.pend.map fun p => s.timeOf c (max p.due (n + 1))

/-- The state at a later time, with the results that have come due. -/
def State.advanceTo (s : State) (t : Nat) : State := ({ s with now := t } : State).landAll

end Sys2Proof.Machine
end

