-- ==== Sys2Proof/Machine/Num.lean ====
section
/-! DEFINITION. Exact values, their rounding into the element types, and the conversions (R248 to R258, R263). -/
namespace Sys2Proof

/-- Least value of an integer type (R248). -/
def Ty.lo (t : Ty) : Int := if t.signed then -((2 ^ (t.width - 1) : Nat) : Int) else 0

/-- Greatest value of an integer type (R248). -/
def Ty.hi (t : Ty) : Int := if t.signed then ((2 ^ (t.width - 1) : Nat) : Int) - 1 else ((2 ^ t.width : Nat) : Int) - 1

/-- An integer type of R248; I4 is one. -/
def Ty.integer (t : Ty) : Bool := t.isInt || t == .i4

end Sys2Proof

namespace Sys2Proof.Machine

/-! ### Exact values -/

/-- An exact value: NaN, an infinity, or a signed magnitude `num / den`, or its square root. Zeros have a sign. -/
inductive XR where
  | nan
  | inf (neg : Bool)
  | fin (neg root : Bool) (num den : Nat)
  deriving DecidableEq, Repr

/-- An integer as an exact value. -/
def XR.ofInt (v : Int) : XR := .fin (decide (v < 0)) false v.natAbs 1

/-- Positive zero. -/
def XR.zero : XR := .fin false false 0 1

/-- One. -/
def XR.one : XR := .fin false false 1 1

/-- The value is zero. -/
def XR.isZero : XR → Bool
  | .fin _ _ n _ => n == 0
  | .nan => false
  | .inf _ => false

/-- The value is NaN. -/
def XR.isNan : XR → Bool
  | .nan => true
  | .inf _ => false
  | .fin _ _ _ _ => false

/-- The sign of the value. -/
def XR.neg : XR → Bool
  | .nan => false
  | .inf s => s
  | .fin s _ _ _ => s

/-- The value with its sign changed. -/
def XR.negate : XR → XR
  | .nan => .nan
  | .inf s => .inf (!s)
  | .fin s r n d => .fin (!s) r n d

/-- The value's magnitude. -/
def XR.abs : XR → XR
  | .nan => .nan
  | .inf _ => .inf false
  | .fin _ r n d => .fin false r n d

/-- The value times 2^e, exactly. -/
def XR.scale (x : XR) (e : Int) : XR :=
  match x with
  | .nan => .nan
  | .inf s => .inf s
  | .fin s r n d =>
    let b := if r then 4 else 2
    if 0 ≤ e then .fin s r (n * b ^ e.natAbs) d else .fin s r n (d * b ^ e.natAbs)

/-- A signed numerator of a rational value. -/
def signedNum (neg : Bool) (n : Nat) : Int := if neg then -(n : Int) else n

/-- Exact sum; a zero sum of a positive and a negative value is positive (R253, R255). -/
def XR.add (x y : XR) : XR :=
  match x, y with
  | .nan, _ => .nan
  | _, .nan => .nan
  | .inf s, .inf t => if s = t then .inf s else .nan
  | .inf s, .fin _ _ _ _ => .inf s
  | .fin _ _ _ _, .inf t => .inf t
  | .fin s _ n d, .fin t _ m e =>
    if n = 0 && m = 0 then .fin (s && t) false 0 1
    else
      let (a, b, g) : Int × Int × Nat :=
        if d = e then (signedNum s n, signedNum t m, d)
        else if d % e = 0 then (signedNum s n, signedNum t (m * (d / e)), d)
        else if e % d = 0 then (signedNum s (n * (e / d)), signedNum t m, e)
        else (signedNum s (n * e), signedNum t (m * d), d * e)
      let v := a + b
      .fin (decide (v < 0)) false v.natAbs g

/-- Exact product (R255). -/
def XR.mul (x y : XR) : XR :=
  match x, y with
  | .nan, _ => .nan
  | _, .nan => .nan
  | .inf s, .inf t => .inf (s != t)
  | .inf s, .fin t _ m _ => if m = 0 then .nan else .inf (s != t)
  | .fin s _ n _, .inf t => if n = 0 then .nan else .inf (s != t)
  | .fin s _ n d, .fin t _ m e => .fin (s != t) false (n * m) (d * e)

/-- Exact quotient (R255). -/
def XR.div (x y : XR) : XR :=
  match x, y with
  | .nan, _ => .nan
  | _, .nan => .nan
  | .inf _, .inf _ => .nan
  | .inf s, .fin t _ _ _ => .inf (s != t)
  | .fin s _ _ _, .inf t => .fin (s != t) false 0 1
  | .fin s _ n d, .fin t _ m e =>
    if m = 0 then (if n = 0 then .nan else .inf (s != t)) else .fin (s != t) false (n * e) (d * m)

/-- Exact square root (R255). -/
def XR.sqrt (x : XR) : XR :=
  match x with
  | .nan => .nan
  | .inf s => if s then .nan else .inf false
  | .fin s _ n d => if n = 0 then .fin s false 0 1 else if s then .nan else .fin false true n d

/-- Strict order of R255: −0 below +0; NaN compares with nothing. -/
def XR.lt (x y : XR) : Bool :=
  match x, y with
  | .nan, _ => false
  | _, .nan => false
  | .inf s, .inf t => s && !t
  | .inf s, .fin _ _ _ _ => s
  | .fin _ _ _ _, .inf t => !t
  | .fin s _ n d, .fin t _ m e =>
    if n = 0 && m = 0 then s && !t else decide (signedNum s (n * e) < signedNum t (m * d))

/-- Numerical equality, under which −0 equals +0. -/
def XR.numEq (x y : XR) : Bool :=
  match x, y with
  | .inf s, .inf t => s == t
  | .fin s _ n d, .fin t _ m e => decide (signedNum s (n * e) = signedNum t (m * d))
  | .nan, _ => false
  | .inf _, .nan => false
  | .inf _, .fin _ _ _ _ => false
  | .fin _ _ _ _, .nan => false
  | .fin _ _ _ _, .inf _ => false

/-- Lesser value, NaN if either is (R255). -/
def XR.min (x y : XR) : XR := if x.isNan || y.isNan then .nan else if y.lt x then y else x

/-- Greater value, NaN if either is (R255). -/
def XR.max (x y : XR) : XR := if x.isNan || y.isNan then .nan else if x.lt y then y else x

/-! ### Rounding -/

/-- The integer square root of a number below 4^fuel, by its binary digits. -/
def isqrtGo (n : Nat) : Nat → Nat → Nat
  | 0, r => r
  | k + 1, r => let q := r + 2 ^ k; isqrtGo n k (if q * q ≤ n then q else r)

/-- The integer square root. -/
def isqrt (n : Nat) : Nat := isqrtGo n (Nat.log2 n / 2 + 1) 0

/-- floor(magnitude × 2^k) and whether that is exact. -/
def floorScaled (root : Bool) (num den : Nat) (k : Int) : Nat × Bool :=
  let b := if root then 4 else 2
  let (a, d) := if 0 ≤ k then (num * b ^ k.natAbs, den) else (num, den * b ^ k.natAbs)
  if root then
    let r := isqrt (a / d)
    (r, r * r * d == a)
  else (a / d, a % d == 0)

/-- The exponent of the leading bit of a nonzero magnitude. -/
def magExp (root : Bool) (num den : Nat) : Int :=
  let g : Int := (Nat.log2 num : Int) - (Nat.log2 den : Int)
  let ok := if 0 ≤ g then decide (den * 2 ^ g.natAbs ≤ num) else decide (den ≤ num * 2 ^ g.natAbs)
  let e := if ok then g else g - 1
  if root then e / 2 else e

/-- Whether a magnitude between two neighbours goes up, from its half bit and whether more is below. -/
def roundUp (m : Rm) (neg odd half sticky : Bool) : Bool :=
  match m with
  | .rne => half && (sticky || odd)
  | .rtz => false
  | .rdn => neg && (half || sticky)
  | .rup => !neg && (half || sticky)

/-- A magnitude rounded to a multiple of 2^q, in units of 2^q. -/
def roundUnits (m : Rm) (neg root : Bool) (num den : Nat) (q : Int) : Nat :=
  let (n2, exact) := floorScaled root num den (1 - q)
  let n := n2 / 2
  if roundUp m neg (n % 2 == 1) (n2 % 2 == 1) (!exact) then n + 1 else n

/-- A floating-point format: width, precision with the hidden bit, exponent of the smallest subnormal, largest finite
pattern, infinity pattern and canonical NaN (R252, R253). -/
structure Fmt where
  w    : Nat
  p    : Nat
  qmin : Int
  maxF : Nat
  infP : Option Nat
  nanP : Nat
  deriving DecidableEq, Repr

/-- The format of a floating-point type (R252); F32 for the others. -/
def fmtOf (t : Ty) : Fmt :=
  if t = .f8e4 then { w := 8, p := 4, qmin := -9, maxF := 0x7E, infP := none, nanP := 0x7F }
  else if t = .f8e5 then { w := 8, p := 3, qmin := -16, maxF := 0x7B, infP := some 0x7C, nanP := 0x7E }
  else if t = .bf16 then { w := 16, p := 8, qmin := -133, maxF := 0x7F7F, infP := some 0x7F80, nanP := 0x7FC0 }
  else if t = .f16 then { w := 16, p := 11, qmin := -24, maxF := 0x7BFF, infP := some 0x7C00, nanP := 0x7E00 }
  else { w := 32, p := 24, qmin := -149, maxF := 0x7F7FFFFF, infP := some 0x7F800000, nanP := 0x7FC00000 }

/-- The sign bit of a format, set for a negative value. -/
def signBit (f : Fmt) (neg : Bool) : Nat := if neg then 2 ^ (f.w - 1) else 0

/-- The pattern of an overflow (R254). -/
def overflow (f : Fmt) (m : Rm) (sat neg : Bool) : Nat :=
  let toInf := !sat && (match m with | .rne => true | .rtz => false | .rdn => neg | .rup => !neg)
  if toInf then
    match f.infP with
    | some i => i + signBit f neg
    | none => f.nanP
  else f.maxF + signBit f neg

/-- The pattern of an infinity; F8E4 has none, and with SAT it is the largest finite (R254, R257). -/
def infPattern (f : Fmt) (sat neg : Bool) : Nat :=
  if sat then f.maxF + signBit f neg
  else match f.infP with
    | some i => i + signBit f neg
    | none => f.nanP

/-- rnd(v, T, m): the pattern of an exact value rounded once to a floating-point type (R254). -/
def rndF (t : Ty) (m : Rm) (sat : Bool) (x : XR) : Nat :=
  let f := fmtOf t
  match x with
  | .nan => f.nanP
  | .inf s => infPattern f sat s
  | .fin s r n d =>
    if n = 0 then signBit f s
    else
      let q := max (magExp r n d - (f.p - 1 : Nat)) f.qmin
      let u := roundUnits m s r n d q
      let pat := (q - f.qmin).toNat * 2 ^ (f.p - 1) + u
      if f.maxF < pat then overflow f m sat s else pat + signBit f s

/-- rnd(v, integer, m) of a finite value (R254). -/
def rndI (m : Rm) (x : XR) : Int :=
  match x with
  | .nan => 0
  | .inf _ => 0
  | .fin s r n d => let u := roundUnits m s r n d 0; if s then -(u : Int) else u

/-- The value that a floating-point pattern encodes (R252). -/
def decF (t : Ty) (v : Nat) : XR :=
  let f := fmtOf t
  let v := v % 2 ^ f.w
  let neg := bit v (f.w - 1) == 1
  let mag := v % 2 ^ (f.w - 1)
  if mag ≤ f.maxF then
    let e := mag / 2 ^ (f.p - 1)
    let frac := mag % 2 ^ (f.p - 1)
    let (n, q) : Nat × Int := if e = 0 then (frac, f.qmin) else (frac + 2 ^ (f.p - 1), f.qmin + (e - 1 : Nat))
    if n = 0 then .fin neg false 0 1
    else if 0 ≤ q then .fin neg false (n * 2 ^ q.natAbs) 1 else .fin neg false n (2 ^ q.natAbs)
  else if f.infP = some mag then .inf neg
  else .nan

/-! ### Integers -/

/-- Decoded integer of an element's low bits (R303). -/
def decI (t : Ty) (v : Nat) : Int := if t.signed then sval t.width v else ((v % 2 ^ t.width : Nat) : Int)

/-- An integer clamped to a range, the upper bound last. -/
def clampI (v lo hi : Int) : Int := min (max v lo) hi

/-! ### N4X (R250, R258) -/

/-- A nibble read plainly. -/
def n4Plain (c : Nat) : Int := if c ≤ 7 then c else (c : Int) - 16

/-- The outlier of an extra nibble. -/
def n4Out (x : Nat) : Int :=
  let m : Int := ((2 + bit x 2) * 2 ^ (3 + bits x 1 0) / 2 : Nat)
  if bit x 3 = 1 then -m else m

/-- The two values of an N4X byte and whether it is a format error (R250). -/
def decodePair (b : Nat) : Int × Int × Bool :=
  let lo := b % 16
  let hi := b / 16 % 16
  if lo = 8 && hi = 8 then (0, 0, true)
  else if lo = 8 then (n4Out hi, 0, false)
  else if hi = 8 then (0, n4Out lo, false)
  else (n4Plain lo, n4Plain hi, false)

/-- Magnitudes of the outlier set, ascending, each with its extra nibble without the sign. -/
def n4Set : List (Nat × Nat) := [(8, 0), (12, 4), (16, 1), (24, 5), (32, 2), (48, 6), (64, 3), (96, 7)]

/-- Distance between an exact value and an integer; the value is finite. -/
def xrDist (x : XR) (v : Int) : XR := (x.add (XR.ofInt (-v))).abs

/-- The greatest set member that is not above a magnitude, or the least member (R258). -/
def n4Below (x : XR) : Nat × Nat := n4Set.foldl (fun b e => if (x.lt (XR.ofInt e.1)) then b else e) (8, 0)

/-- The least set member that is not below a magnitude, or the greatest member (R258). -/
def n4Above (x : XR) : Nat × Nat := n4Set.foldr (fun e b => if (XR.ofInt e.1).lt x then b else e) (96, 7)

/-- ro(x, m): the outlier selected for a value, as its value and extra nibble (R258). -/
def n4Ro (x : XR) (m : Rm) : Int × Nat :=
  let a := x.abs
  let s := x.neg
  let lo := n4Below a
  let hi := n4Above a
  let near :=
    let dl := xrDist a lo.1
    let dh := xrDist a hi.1
    if dl.lt dh then lo else if dh.lt dl then hi else if bit lo.2 2 = 0 then lo else hi
  let e := match m with
    | .rne => near
    | .rtz => lo
    | .rdn => if s then hi else lo
    | .rup => if s then lo else hi
  (if s then -(e.1 : Int) else e.1, e.2 + (if s then 8 else 0))

/-- A plain element's nibble (R258). -/
def n4Nib (v : Int) : Nat := wrap 4 v

/-- A value that may enter an N4X pair: NaN counts as 0 and an infinity as 96 of its sign (R257). -/
def n4In (x : XR) : XR :=
  match x with
  | .nan => XR.zero
  | .inf s => XR.ofInt (if s then -96 else 96)
  | .fin s r n d => .fin s r n d

/-- encodePair(x0, x1, m): the byte of a pair (R258). The candidates (-8, 0) and (0, -8) would be the byte 0x88, which the rule says the encoder
never writes: that they are passed over, so that the pair keeps the best of the others, is the model's reading (log 86). -/
def encodePair (x0 x1 : XR) (m : Rm) : Nat :=
  let x0 := n4In x0
  let x1 := n4In x1
  let n0 := rndI m x0
  let n1 := rndI m x1
  let p0 := clampI n0 (-7) 7
  let p1 := clampI n1 (-7) 7
  let err (a b : Int) : XR := (xrDist x0 a).add (xrDist x1 b)
  let plain := (err p0 p1, n4Nib p0 + 16 * n4Nib p1)
  let c1 := if 8 ≤ n0.natAbs then let o := n4Ro x0 m; [(err o.1 0, 8 + 16 * o.2)] else []
  let c2 := if 8 ≤ n1.natAbs then let o := n4Ro x1 m; [(err 0 o.1, o.2 + 16 * 8)] else []
  (((c1 ++ c2).filter fun e => e.2 ≠ 0x88).foldl (fun b e => if e.1.lt b.1 then e else b) plain).2

/-! ### Elements and modifiers (R256, R257) -/

/-- The exact value of an element's bits, for every type but N4X (R248, R252). -/
def decElem (t : Ty) (v : Nat) : XR := if t.integer then XR.ofInt (decI t v) else decF t v

/-- Element `e` of packed bits that start at element 0, N4X by its pair (R249, R250). -/
def elemAt (t : Ty) (v e : Nat) : XR :=
  if t = .n4x then
    let (a, b, _) := decodePair ((v >>> (e / 2 * 8)) % 256)
    XR.ofInt (if e % 2 = 0 then a else b)
  else decElem t ((v >>> (e * t.width)) % 2 ^ t.width)

/-- The raw bits of element `e`. -/
def rawAt (t : Ty) (v e : Nat) : Nat := (v >>> (e * t.width)) % 2 ^ t.width

/-- The modifiers before the rounding: SCL, NEG and ABS in that order (R256). -/
def modPre (m : Option ModWord) (x : XR) : XR :=
  match m with
  | none => x
  | some w =>
    let x := if w.scl then x.scale w.e.toInt else x
    let x := if w.neg then x.negate else x
    if w.abs then x.abs else x

/-- SAT of the modifiers. -/
def modSat (m : Option ModWord) : Bool :=
  match m with
  | none => false
  | some w => w.sat

/-- A bound of CLMP as the pattern of a destination type: the low bits, or sign-extended for I64 (R284). -/
def boundOf (t : Ty) (v : BitVec 32) : Nat := if t = .i64 then sext64 32 v.toNat else v.toNat % 2 ^ t.width

/-- CLMP on a float pattern (R256): NaN stays, a NaN bound leaves its side, and the upper bound wins. -/
def clampF (t : Ty) (m : Option ModWord) (pat : Nat) : Nat :=
  match m with
  | none => pat
  | some w =>
    if !w.clmp then pat
    else
      let x := decF t pat
      let lo := boundOf t w.clo
      let hi := boundOf t w.chi
      if x.isNan then pat
      else
        let pat := if (decF t pat).lt (decF t lo) then lo else pat
        if (decF t hi).lt (decF t pat) then hi else pat

/-- CLMP on an integer of a type (R256). -/
def clampInt (t : Ty) (m : Option ModWord) (v : Int) : Int :=
  match m with
  | none => v
  | some w => if !w.clmp then v else clampI v (decI t (boundOf t w.clo)) (decI t (boundOf t w.chi))

/-- An exact result written to a floating-point type under the modifiers (R255, R256). -/
def finishF (t : Ty) (rm : Rm) (m : Option ModWord) (x : XR) : Nat :=
  clampF t m (rndF t rm (modSat m) (modPre m x))

/-- An exact integer result written to an integer type under the modifiers: wrapped, or with SAT clamped (R312). -/
def finishI (t : Ty) (rm : Rm) (m : Option ModWord) (x : XR) : Nat :=
  let v := rndI rm (modPre m x)
  let v := if modSat m then clampI v t.lo t.hi else decI t (wrap t.width v)
  wrap t.width (clampInt t m v)

/-- A floating-point value written to an integer type: saturated, NaN as 0, an infinity as the range end (R257). -/
def finishFI (t : Ty) (rm : Rm) (m : Option ModWord) (x : XR) : Nat :=
  let v : Int := match modPre m x with
    | .nan => 0
    | .inf s => if s then t.lo else t.hi
    | .fin s r n d => clampI (rndI rm (.fin s r n d)) t.lo t.hi
  wrap t.width (clampInt t m v)

/-- An exact value written to any type but N4X; `real` says that the source is not an unscaled integer (R257). -/
def finishAny (t : Ty) (rm : Rm) (m : Option ModWord) (real : Bool) (x : XR) : Nat :=
  if t.integer then (if real then finishFI t rm m x else finishI t rm m x) else finishF t rm m x

/-- A source whose unscaled elements are integers: an integer type or N4X (R248, R257). -/
def intSource (t : Ty) : Bool := t.integer || t == .n4x

/-- fma32(a, b, c): one rounding to F32 by rne, on exact values (R368). -/
def fma32 (a b c : XR) : XR := decF .f32 (rndF .f32 .rne false ((a.mul b).add c))

/-- Rounding to F32 by rne, as a value. -/
def rne32 (x : XR) : XR := decF .f32 (rndF .f32 .rne false x)

end Sys2Proof.Machine
end

