-- ==== Sys2Proof/Machine/Flags.lean ====
section
/-! DEFINITION. Conditions (R304). The machine has no arithmetic flags: a comparison writes a register, and arithmetic sets
nothing in a context (R253). -/
namespace Sys2Proof.Machine

/-- A condition on two integers; UN is not an integer condition (R304). -/
def condI (c : Cond) (a b : Int) : Bool :=
  match c with
  | .eq => a == b
  | .ne => a != b
  | .lt => decide (a < b)
  | .ge => decide (b ≤ a)
  | .le => decide (a ≤ b)
  | .gt => decide (b < a)
  | .un => false

/-- Numerical order of two values, under which −0 equals +0. -/
def XR.numLt (x y : XR) : Bool := x.lt y && !x.numEq y

/-- A condition on two exact values: with a NaN only NE and UN hold (R304). -/
def condF (c : Cond) (x y : XR) : Bool :=
  let un := x.isNan || y.isNan
  match c with
  | .eq => x.numEq y
  | .ne => !x.numEq y
  | .lt => x.numLt y
  | .ge => !un && !x.numLt y
  | .le => !un && !y.numLt x
  | .gt => y.numLt x
  | .un => un

/-- A condition on two elements of a type. -/
def condElem (t : Ty) (c : Cond) (a b : Nat) : Bool :=
  if t.isFloat then condF c (decF t a) (decF t b) else condI c (decI t a) (decI t b)

end Sys2Proof.Machine
end

