-- ==== Sys2Proof/Machine/Operands.lean ====
section
/-! DEFINITION. Operand forms: register or immediate sources, effective addresses, shapes, extents and mask groups
(R303, R311, R325, R352 to R360). -/
namespace Sys2Proof.Machine

/-- Core of the executing instruction. -/
def State.ic (s : State) : Nat := s.issue.core
/-- Context of the executing instruction. -/
def State.ik (s : State) : Nat := s.issue.ctx
/-- A scalar-class register of the executing context. -/
def State.rs (s : State) (r : SReg) : Nat := (s.asRead s.ic s.ik).readS s.ic s.ik r
/-- A vector register of the executing context. -/
def State.rv (s : State) (v : VReg) : Nat := (s.asRead s.ic s.ik).readV s.ic s.ik v
/-- A 48-bit immediate extended by sign to 64 bits. -/
def imm64 (i : BitVec 48) : Nat := sext64 48 i.toNat
/-- A register or the 48-bit immediate, as 64 bits (R311). -/
def State.srcB (s : State) (b : SrcB) : Nat :=
  match b with
  | .reg r => s.rs r
  | .imm v => imm64 v
/-- Registers that a second source reads. -/
def SrcBReads (b : SrcB) : List Dest :=
  match b with
  | .reg r => [.scal r]
  | .imm _ => []
/-- A register or an immediate taken without sign, as the counts and masks of R338 are. -/
def State.srcU (s : State) (b : SrcB) : Nat :=
  match b with
  | .reg r => s.rs r
  | .imm v => v.toNat
/-- The modifiers of the executing instruction. -/
def State.mods (s : State) : Option ModWord := s.issue.mods

/-- The answer of a meaning: the machine goes on. -/
def nextState (s : State) : Host.Outcome State Fault Refusal := .next s

/-! ### Effective addresses (R325) -/

/-- First address of the mesh window (R173). -/
def meshBase : Nat := 0xFE000000000000
/-- First address of the local window (R173). -/
def localBase : Nat := 0xFD000000000000
/-- First address of the control window (R173). -/
def controlBase : Nat := 0xFF000000000000

/-- A scalar-class specifier of a pointer register. -/
def isPtr (r : SReg) : Bool := decide (32 ≤ r.toNat) && decide (r.toNat ≤ 47)

/-- ea(A, B, disp) from the values of A and B: the address, or the 64-bit sum that traps with PROT (R325). -/
def eaOf (ptr : Bool) (a b : Nat) (disp : BitVec 48) : Nat ⊕ Nat :=
  if ptr then
    let off := (a % 2 ^ 32 + b + imm64 disp) % 2 ^ 32
    .inl (meshBase + bits a 47 32 * 2 ^ 32 + off)
  else
    let v := (a + b + imm64 disp) % 2 ^ 64
    if v / 2 ^ 56 ≠ 0 then .inr v else .inl v

/-- ea(A, B, disp) of the executing instruction. -/
def State.ea (s : State) (a b : SReg) (disp : BitVec 48) : Nat ⊕ Nat := eaOf (isPtr a) (s.rs a) (s.rs b) disp

/-! ### Shapes (R352 to R358) -/

/-- Vector maximum in bits (R355). -/
def vbits (c : Nat) : Nat := if isCellar c then 512 else 2048

/-- Maxima of a dense tile of a type: M, N, K (R355). -/
def tileMax (c : Nat) (t : Ty) : Nat × Nat × Nat :=
  let (a, b) : Nat × Nat := if isCellar c then (16, 32) else (64, 128)
  if t.width = 4 then (a, a, 2 * b)
  else if t.width = 8 then (a, a, b)
  else if t.width = 16 then (a, a, b / 2)
  else (a, a, if isCellar c then 4 else 16)

/-- Maxima of a kind and type on a core's island: M, N, K (R355). -/
def shapeMax (c kind : Nat) (t : Ty) : Nat × Nat × Nat :=
  if kind = 0 then (vbits c / t.width, 1, 1)
  else if kind = 1 then tileMax c t
  else if kind = 2 then (if isCellar c then (16, 16, 48) else (64, 64, 192))
  else (if isCellar c then (16, 16, 1) else (64, 64, 1))

/-- Granules of a kind: M, N, K (R354). -/
def shapeGran (kind : Nat) : Nat × Nat × Nat :=
  if kind = 0 then (8, 1, 1) else if kind = 1 then (1, 4, 16) else if kind = 2 then (1, 4, 24) else (1, 1, 1)

/-- The grant of one dimension (R354). -/
def grantDim (req mx gran : Nat) : Nat :=
  let g := min gran mx
  let r := min req mx
  max g (r - r % g)

/-- The grant of a request: M, N, K; dimensions that a kind does not have are granted 1 (R354). -/
def grantOf (c kind : Nat) (t : Ty) (m n k : Nat) : Nat × Nat × Nat :=
  let mx := shapeMax c kind t
  let g := shapeGran kind
  (grantDim m mx.1 g.1,
   if kind = 0 then 1 else grantDim n mx.2.1 g.2.1,
   if kind = 0 || kind = 3 then 1 else grantDim k mx.2.2 g.2.2)

/-- A shape word: its flag at bit 55, tail, kind, type, K, N and M (R352). -/
def shapeWord (valid tu : Bool) (kind ty m n k : Nat) : Nat :=
  (if valid then 2 ^ 55 else 0) + (if tu then 2 ^ 54 else 0) + kind * 2 ^ 52 + ty * 2 ^ 48 + k * 2 ^ 32 + n * 2 ^ 16 + m

/-- A request that SHAPE would refuse: a type its kind does not accept, or an extent of 0 (R354, R357). -/
def requestBad (w : Nat) : Bool :=
  (match Ty.ofCode (BitVec.ofNat 4 (bits w 51 48)) with
   | some t => !shapeAccepts (BitVec.ofNat 2 (bits w 53 52)) t
   | none => true)
  || bits w 15 0 == 0 || bits w 31 16 == 0 || bits w 47 32 == 0

/-- The grant word of a request word on a core's island; 0 where SHAPE would trap (R356). -/
def grantWord (c w : Nat) : Nat :=
  if requestBad w then 0
  else
    let t := tyOfNat (bits w 51 48)
    let g := grantOf c (bits w 53 52) t (bits w 15 0) (bits w 31 16) (bits w 47 32)
    shapeWord true (bit w 54 == 1) (bits w 53 52) (bits w 51 48) g.1 g.2.1 g.2.2

/-- The shape use check of a grant word for a kind (R353); `kinds` are the kinds that the instruction accepts. -/
def shapeUse (c : Nat) (w : Nat) (kinds : List Nat) : Bool :=
  let kind := bits w 53 52
  match Ty.ofCode (BitVec.ofNat 4 (bits w 51 48)) with
  | none => false
  | some t =>
    let mx := shapeMax c kind t
    bit w 55 == 1 && kinds.contains kind
      && decide (1 ≤ bits w 15 0) && decide (1 ≤ bits w 31 16) && decide (1 ≤ bits w 47 32)
      && decide (bits w 15 0 ≤ mx.1) && decide (bits w 31 16 ≤ mx.2.1) && decide (bits w 47 32 ≤ mx.2.2)

/-- TINFO of a failed use check (R134, R353). -/
def shapeInfo (h : ShReg) : Nat := 56 + h.toNat + 3 * 2 ^ 16

/-- The grant word of a shape register of the executing context. -/
def State.grant (s : State) (h : ShReg) : Nat := (s.asRead s.ic s.ik).readShape s.ic s.ik h % 2 ^ 64

/-- The use check made first by an instruction that takes its extent from a shape (R137, R353). -/
def shapeCheck (h : ShReg) (kinds : List Nat) (s : State) : Option (Cause × Nat) :=
  if shapeUse s.ic (s.grant h) kinds then none else some (.shape, shapeInfo h)

/-! ### Vector extents and mask groups (R359, R360) -/

/-- Registers that an extent specifier reads. -/
def extReads (x : SReg) : List Dest := if x = 0 then [] else [.scal x]

/-- The element count of a vector instruction of an element width (R359). -/
def State.extent (s : State) (h : ShReg) (w : Nat) (x : SReg) : Nat :=
  let e := min (s.grant h % 2 ^ 16) (2048 / w)
  if x = 0 then e else min e (s.rs x % 2 ^ 16)

/-- Elements of one mask bit (R360). -/
def maskGroup (wd : Nat) : Nat := max 1 (32 / wd)

/-- The mask of a vector instruction: k[PK] XOR PN (R360, R369). -/
def State.maskOf (s : State) (c : Ctl) : Nat :=
  let k := (s.asRead s.ic s.ik).readK s.ic s.ik c.pk
  if c.pn then k ^^^ ones64 else k

/-- An element is active under a mask (R360). -/
def activeAt (mask wd e : Nat) : Bool := bit mask (e / maskGroup wd) == 1

/-- The bits of the tail of a destination, from bit `lo` up to byte min(GM × wd / 8, 256) (R359). -/
def tailMask (gm wd lo : Nat) : Nat :=
  let hi := min (gm * wd / 8) 256 * 8
  if lo < hi then 2 ^ hi - 2 ^ lo else 0

/-- The tail policy of a shape: TU leaves the tail (R352). -/
def State.tailTu (s : State) (h : ShReg) : Bool := bit (s.grant h) 54 == 1

/-- The bits that a vector result writes, with their values: the elements given and the tail (R359, R360). -/
def vecResult (gm wd e : Nat) (tu : Bool) (elems : List (Nat × Nat)) : Nat × Nat :=
  let tail := if tu then 0 else tailMask gm wd (e * wd)
  elems.foldl (fun r x => (r.1 ||| ((2 ^ wd - 1) <<< (x.1 * wd)), r.2 ||| ((x.2 % 2 ^ wd) <<< (x.1 * wd)))) (tail, 0)

end Sys2Proof.Machine
end

