-- ==== Sys2Proof/Machine/Actors.lean ====
section
/-! DEFINITION. Actors: descriptors, creation, placement, firing entry, the end of a firing, and messages addressed to actors
(R96 to R117, R129, R356, R438). -/
namespace Sys2Proof.Machine

/-! ### Descriptors (R99); a descriptor is its 64 bytes as one number -/

/-- Word `i` of a descriptor. -/
def dWord (d i : Nat) : Nat := bits d (64 * i + 63) (64 * i)
/-- ENTRY. -/
def dEntry (d : Nat) : Nat := bits (dWord d 0) 55 0
/-- CONTRACT. -/
def dContract (d : Nat) : Nat := bits (dWord d 1) 63 48
/-- SPAN. -/
def dSpan (d : Nat) : Nat := bits (dWord d 1) 47 40
/-- NOUT. -/
def dNout (d : Nat) : Nat := bits (dWord d 1) 39 36
/-- NIN. -/
def dNin (d : Nat) : Nat := bits (dWord d 1) 35 32
/-- PRIO. -/
def dPrio (d : Nat) : Nat := bits (dWord d 1) 31 29
/-- CLASS. -/
def dClass (d : Nat) : Nat := bits (dWord d 1) 28 27
/-- KIND: a stream actor. -/
def dStream (d : Nat) : Bool := bit (dWord d 1) 26 == 1
/-- WSIZE. -/
def dWsize (d : Nat) : Nat := bits (dWord d 1) 15 0
/-- Consumption rate of an input port. -/
def dInrate (d i : Nat) : Nat := bits (dWord d 2) (8 * i + 7) (8 * i)
/-- Production rate of an output port. -/
def dOutrate (d j : Nat) : Nat := bits (dWord d 3) (8 * j + 7) (8 * j)
/-- PORTS. -/
def dPorts (d : Nat) : Nat := bits (dWord d 4) 55 0
/-- SHAPES. -/
def dShapes (d : Nat) : Nat := bits (dWord d 5) 55 0
/-- PITCH. -/
def dPitch (d : Nat) : Nat := bits (dWord d 6) 55 0
/-- SPBASE. -/
def dSpbase (d : Nat) : Nat := bits (dWord d 7) 59 52
/-- HINT, if valid. -/
def dHint (d : Nat) : Option Nat := if bit (dWord d 7) 51 = 1 then some (bits (dWord d 7) 50 40) else none
/-- The valid group ids. -/
def dGids (d : Nat) : List Nat :=
  ([0, 1, 2, 3].filter fun g => bit (dWord d 7) (36 + g) == 1).map fun g => bits (dWord d 7) (8 * g + 7) (8 * g)

/-- A wake contract that breaks R54. -/
def contractBad (c : Nat) : Bool := bits c 15 12 != 0 || decide (2 ≤ bits c 9 8) || decide (3 < bits c 3 0)

/-- Bytes at a partition-space address as a number; nothing outside partition space or where a byte does not translate. -/
def State.partRead (s : State) (p va n : Nat) : Option Nat :=
  if 0xFD * 2 ^ 48 ≤ va + n - 1 then none else (s.virtBytes p va n).map ofBytes

/-- A port-table entry as its 16 bytes, input ports first (R101); it is read from memory at each use, which is the model's choice (log 65). -/
def State.portEntry (s : State) (p d i : Nat) : Nat := (s.partRead p (dPorts d + 16 * i) 16).getD 0

/-- The state after an entry of a port table was read (R31, R193, R209). -/
def State.portSeen (s : State) (p d i : Nat) : State := s.readsMarked p (linesOf (dPorts d + 16 * i) 16)

/-- PEER of a port-table entry. -/
def pePeer (e : Nat) : Nat := bits e 63 0
/-- PEERPORT. -/
def pePort (e : Nat) : Nat := bits e 114 112
/-- TSZ. -/
def peTsz (e : Nat) : Nat := bits e 111 100
/-- CAP. -/
def peCap (e : Nat) : Nat := bits e 99 93
/-- FIFO. -/
def peFifo (e : Nat) : Nat := bits e 83 64

/-- Key of a group-table entry. -/
def groupKey (p g : Nat) : Nat := p * 256 + g

/-- A core is a member of a group of a partition (R119). -/
def State.groupHas (s : State) (p g c : Nat) : Bool :=
  match SMap.find? s.groups (groupKey p g) with
  | none => false
  | some e => if isCellar c then bit e.cellar (4 * coreY c + coreX c) == 1 else bit e.kettle (64 * coreDie c + coreRank c) == 1

/-- A core lies in a partition's share (R83, R72). -/
def State.inShare (s : State) (p c : Nat) : Bool :=
  match SMap.find? s.partitions p with
  | none => false
  | some e => if isCellar c then bit e.cellar (4 * coreY c + coreX c) == 1 else bit e.kettle (64 * coreDie c + coreRank c) == 1

/-- A core serves a class (R99). -/
def serves (c cls : Nat) : Bool := if cls = 0 then !isCellar c else if cls = 1 then isCellar c else cls == 2

/-- The descriptor's span and workspace fit an island (R100). -/
def descFits (d : Nat) (cellar : Bool) : Bool :=
  decide (dSpbase d + dSpan d ≤ (if cellar then 64 else 256)) && decide (dWsize d ≤ (if cellar then 4096 else 16384))

/-- Rates of a direction: 1 to 127 below the count, 0 above (R99). -/
def ratesBad (n : Nat) (f : Nat → Nat) : Bool :=
  [0, 1, 2, 3, 4, 5, 6, 7].any fun i => if i < n then f i == 0 || decide (127 < f i) else f i != 0

/-- A port-table entry that breaks R101. -/
def portBad (e rate : Nat) : Bool :=
  bits e 127 115 != 0 || bits e 92 84 != 0 || peTsz e == 0 || decide (peCap e < max rate 1) || peFifo e % 64 != 0

/-- An entry address does not translate; the right to execute is the first fetch's concern (R100, R196). -/
def State.entryLost (s : State) (p va : Nat) : Bool :=
  decide (0xFD * 2 ^ 48 ≤ va) || (match s.leafAwake p va .fetch with | .page => true | .ecc => true | _ => false)

/-- The addresses that the creation of an actor from a descriptor at an address reads, one for each line (R100). -/
def descReads (da d : Nat) : List Nat :=
  da :: (linesOf (dPorts d) (16 * (dNin d + dNout d)) ++ (if dShapes d = 0 then [] else linesOf (dShapes d) 64)
    ++ (if dPitch d = 0 then [] else linesOf (dPitch d) 16))

/-- A descriptor of a partition fails the checks of R100, apart from the fit to an island. -/
def State.descBad (s : State) (p d : Nat) : Bool :=
  let n := dNin d + dNout d
  bits (dWord d 0) 63 56 != 0 || bits (dWord d 1) 25 16 != 0 || bits (dWord d 4) 63 56 != 0 || bits (dWord d 5) 63 56 != 0
  || bits (dWord d 6) 63 56 != 0 || bits (dWord d 7) 63 60 != 0 || bits (dWord d 7) 35 32 != 0
  || !slotOk (dEntry d) || s.entryLost p (dEntry d)
  || decide (8 < dNin d) || decide (8 < dNout d) || dClass d == 3 || decide (dWsize d < 74) || decide (16384 < dWsize d)
  || (dPrio d == 7 && p != 0) || contractBad (dContract d) || (!dStream d && n != 0)
  || decide (256 < dSpbase d + dSpan d) || ratesBad (dNin d) (dInrate d) || ratesBad (dNout d) (dOutrate d)
  || (dPorts d == 0) != (n == 0) || dPorts d % 16 != 0 || (n != 0 && (s.partRead p (dPorts d) (16 * n)).isNone)
  || (List.range n).any (fun i => portBad (s.portEntry p d i) (if i < dNin d then dInrate d i else dOutrate d (i - dNin d)))
  || dShapes d % 16 != 0 || (dShapes d != 0 && (s.partRead p (dShapes d) 64).isNone)
  || dPitch d % 16 != 0 || (dPitch d != 0 && (s.partRead p (dPitch d) 16).isNone)
  || (dGids d).any fun g => (SMap.find? s.groups (groupKey p g)).isNone

/-! ### Handles and creation -/

/-- The least directory index from `i` on without an occupant: which FREE entry a new actor takes is the model's choice (R103, log 64). -/
def freeIdx (base : Nat) : SMap DirEnt → Nat → Nat
  | [], i => i
  | (k, e) :: l, i =>
    if k < base + i then freeIdx base l i
    else if k = base + i then (if e.loc = 0 then i else freeIdx base l (i + 1))
    else i

/-- A generation after another, with 0 skipped (R103). -/
def nextGen (g : Nat) : Nat := if g % 2 ^ 24 = 2 ^ 24 - 1 then 1 else g + 1

/-- Base priority of an actor: the lesser of its PRIO and its launch's (R98). -/
def State.basePrio (s : State) (h : Nat) : Nat :=
  let k := s.keep h
  match SMap.find? s.launches k.lid with
  | some l => min (dPrio k.desc) l.prio
  | none => dPrio k.desc

/-- Word 1 of a new readiness record: each output port's CAP (R105). -/
def State.newOutspc (s : State) (p d : Nat) : Nat :=
  (List.range (dNout d)).foldl (fun v j => v + peCap (s.portEntry p d (dNin d + j)) * 2 ^ (8 + 7 * j)) 0

/-- A new UNPLACED actor in a die's directory, with its handle; nothing where the directory is full (R103, R105). -/
def State.createActor (s : State) (p lid da d die counter arg : Nat) : Option (Nat × State) :=
  let i := freeIdx (die * 2 ^ 20) s.dirs 0
  if (if die = 4 then 4096 else 2 ^ 20) ≤ i then none
  else
    let key := die * 2 ^ 20 + i
    let gen := nextGen (SMap.get {} s.dirs key).gen
    let h := mkHandle p die gen i
    let prio := match SMap.find? s.launches lid with
      | some l => min (dPrio d) l.prio
      | none => dPrio d
    let w0 := (if dStream d then 128 else counter % 2 ^ 32 * 2 ^ 32) + prio * 16
    some (h, { s with
      dirs := SMap.put s.dirs key { part := p, gen := gen, loc := 1, desc := da, lid := lid }
      kept := SMap.put s.kept h { word0 := w0, word1 := if dStream d then s.newOutspc p d else 0, desc := d, arg := arg, lid := lid } })

/-- An actor is placed; `loc` 5 is a handler firing, which no handle of software names (R340, log 17). -/
def DirEnt.placed (e : DirEnt) : Bool := e.loc == 2 || e.loc == 5

/-- An actor is ready by its own rule (R97). -/
def State.ready97 (s : State) (h : Nat) : Bool :=
  let d := (s.keep h).desc
  let w0 := s.recWord h 0
  let w1 := s.recWord h 1
  if !dStream d then bits w0 63 32 == 0
  else ((List.range (dNin d)).all fun i => decide (dInrate d i ≤ bits w0 (14 + 7 * i) (8 + 7 * i)))
    && ((List.range (dNout d)).all fun j => decide (dOutrate d j ≤ bits w1 (14 + 7 * j) (8 + 7 * j)))

/-! ### Allocation (R177) -/

/-- Highest aligned offset at or below a limit at which `n` bytes meet no allocation. -/
def allocTop (l : List Alloc) (n algn : Nat) : Nat → Nat → Option Nat
  | 0, _ => none
  | fuel + 1, lim =>
    if lim < n then none
    else
      let off := (lim - n) / algn * algn
      match l.find? fun a => rangesMeet off n a.start a.len with
      | none => some off
      | some a => allocTop l n algn fuel a.start

/-- The allocations of a partition on a core. -/
def State.allocsOf (s : State) (c p : Nat) : List Alloc := (s.core c).allocs.filter fun a => a.part == p

/-- The state with a region allocated, first fit from the highest free offset downward, below the spill area (R177). -/
def State.allocate (s : State) (c p kind h n algn : Nat) : Option (Nat × State) :=
  let l := s.allocsOf c p
  match allocTop l n algn (l.length + 1) (if isCellar c then 0x3F000 else 0xFF000) with
  | none => none
  | some off =>
    some (off, s.modCore c fun k => { k with allocs := k.allocs ++ [{ part := p, start := off, len := n, kind := kind, handle := h }] })

/-- The state with an actor's allocations of the kinds given freed on a core. -/
def State.freeAllocs (s : State) (c h : Nat) (kinds : List Nat) : State :=
  s.modCore c fun k => { k with allocs := k.allocs.filter fun a => !(a.handle == h && kinds.contains a.kind) }

/-- The span of a descriptor is free on a core (R168). -/
def State.spanFree (s : State) (c p d : Nat) : Bool :=
  dSpan d == 0 || !((s.allocsOf c p).any fun a => rangesMeet (dSpbase d * 4096) (dSpan d * 4096) a.start a.len)

/-- The state with an actor's workspace allocated where it has none, its deposit windows zero or, after it had begun on another core, with what it
held there; nothing where there is no room (R177, R185, log 81). -/
def State.giveWorkspace (s : State) (h : Nat) : Option State :=
  match s.dirOf h with
  | none => none
  | some e =>
    if (s.core e.home).allocs.any fun a => a.handle == h && a.kind == 0 then some s
    else
      match s.allocate e.home e.part 0 h (dWsize (s.keep h).desc * 64) 64 with
      | none => none
      | some (ws, t) =>
        let k := s.keep h
        let t := match k.image with
          | some (w, x) =>
            let m := Memory.writeN t.mem (spadKey e.home e.part ws) (dWsize k.desc * 64) w
            ({ t with mem := Memory.writeN m (spadKey e.home e.part (dSpbase k.desc * 4096)) (dSpan k.desc * 4096) x } : State).modKept h fun k =>
              { k with image := none }
          | none => { t with mem := Memory.writeN t.mem (spadKey e.home e.part (ws + 0x238)) 16 0 }
        some (t.modDir h fun e => { e with ws := ws })

/-- The state with an actor placed on a core: its span reserved, its readiness record and a stream actor's workspace allocated,
its directory entry written; nothing where there is no room (R96, R103, R105, R177). -/
def State.placeActor (s : State) (h c : Nat) : Option State :=
  let k := s.keep h
  let p := handlePart h
  if !s.spanFree c p k.desc then none
  else
    let s := if dSpan k.desc = 0 then s
      else s.modCore c fun n =>
        { n with allocs := n.allocs ++ [{ part := p, start := dSpbase k.desc * 4096, len := dSpan k.desc * 4096, kind := 2, handle := h }] }
    match s.allocate c p 1 h 16 16 with
    | none => none
    | some (off, s) =>
      let s := s.modDir h fun e => { e with home := c, loc := 2, record := off }
      let s := { s with mem := Memory.writeN (Memory.writeN s.mem (spadKey c p off) 8 k.word0) (spadKey c p (off + 8)) 8 k.word1
                        pool := s.pool.filter fun r => r.handle != h
                        power := if k.fired = 0 && k.saved.isNone then
                          { s.power with contracts := s.power.contracts.filter (fun x => x.1 != 0 || x.2.1 != h) ++ [(0, h, p, dContract k.desc)] }
                          else s.power }
      if dStream k.desc then s.giveWorkspace h else some s

/-- The state with the workspace and span kept of an actor that has begun and leaves its core for the pool (R98, R128, R224, log 81). -/
def State.keepImage (s : State) (h : Nat) (e : DirEnt) : State :=
  let k := s.keep h
  if (k.saved.isNone && k.fired == 0) || !((s.core e.home).allocs.any fun a => a.handle == h && a.kind == 0) then s
  else
    let ws := Memory.readN s.mem (spadKey e.home e.part e.ws) (dWsize k.desc * 64)
    let span := Memory.readN s.mem (spadKey e.home e.part (dSpbase k.desc * 4096)) (dSpan k.desc * 4096)
    s.modKept h fun k => { k with image := some (ws, span), moved := k.saved.isSome }

/-- The state with an actor in a die's pool; one that its home has spilled keeps its place there, so its LOC stays PLACED (R103, R111, R112, R113, log 83). -/
def State.poolActor (s : State) (h die home cls : Nat) (homed : Bool) : State :=
  let w0 := s.recWord h 0
  let w1 := s.recWord h 1
  let s := s.modKept h fun k => { k with word0 := w0, word1 := w1 }
  let s := if homed then s
    else
      let s := match s.dirOf h with
        | some e => if e.loc = 2 then (s.keepImage h e).freeAllocs e.home h [0, 1, 2] else s
        | none => s
      s.modDir h fun e => { e with loc := 1 }
  { s with pool := s.pool ++ [{ handle := h, die := die, home := home, homed := homed, enq := s.time, cls := cls }] }

/-- The state with an actor placed on a core that has been chosen for it, READY or WAITING by its own rule; where the core is fenced
or has no room, the actor goes to the pool of the core's die (R106, R110, R111, R128). -/
def State.placeNow (s : State) (h c : Nat) : State :=
  let pooled (t : State) : State := t.poolActor h (coreDie c) c (dClass (t.keep h).desc) false
  if (s.core c).fenced then pooled s
  else match s.placeActor h c with
    | none => pooled s
    | some t => if t.ready97 h then t.enqueue c h (t.basePrio h) else t.setActorState h 1

/-- The state with a placement message for an actor on its way from an endpoint to a core (R110). -/
def State.sendPlacement (s : State) (src h c : Nat) : State :=
  s.send { id := 0, src := src, dst := epCore c, part := handlePart h, ch := 3, op := 0x31, taddr := h, lid := (s.keep h).lid }

/-- A pool record stands READY (R112, R126). -/
def State.poolReady (s : State) (r : PoolRec) : Bool :=
  s.actorState r.handle == 2 || (s.actorState r.handle == 0 && s.ready97 r.handle)

/-- Contexts of a core without a firing. -/
def State.freeCtxs (s : State) (c : Nat) : List Nat := (List.range (nctx c)).filter fun k => (s.ctx c k).firing.isNone

/-! ### Messages to actors (R104, R107, R108, R129) -/

/-- The endpoint to which the interface of a core sends a message for a handle (R104, R112). -/
def State.actorEp (s : State) (c h : Nat) : Nat :=
  match (if 4 < bits h 59 57 then none else s.dirOf h) with
  | none => epCore c
  | some e =>
    if e.loc = 2 then epCore e.home
    else if e.loc = 1 then (if bits h 59 57 = 4 then epSram else epL2 (bits h 59 57))
    else epCore c

/-- The state with a message addressed to an actor sent from a context, counted. -/
def State.sendActor (s : State) (c k op h arg : Nat) (data : List Byte := []) : State :=
  s.sendCounted c { id := 0, src := epCore c, dst := s.actorEp c h, part := (match (s.ctx c k).firing with | some f => f.part | none => 0)
                    ch := 2, op := op, taddr := canonHandle h, arg := arg, data := data, raddr := replyAddr (epCore c), ctx := k, lid := s.lidOf c k }
    (Out.blank true (s.ctx c k).pc.toNat h 0)

/-- The state in which a WAITING actor that is ready becomes READY on its home (R106). -/
def State.wakeActor (s : State) (h : Nat) : State :=
  match s.dirOf h with
  | none => s
  | some e => if e.loc = 2 && s.actorState h == 1 && s.ready97 h then s.enqueue e.home h (s.basePrio h) else s

/-- A dependence decrement applied to an actor; nothing where it has exited (R104, R108). An error counts for the launch of the message that
brings it, which is the model's choice (log 66). -/
def State.applyDecr (s : State) (t n lid : Nat) : Option State :=
  let h := canonHandle t
  match s.dirOf h with
  | none => none
  | some e =>
    if e.loc = 3 then none
    else if dStream (s.keep h).desc then some (s.addError lid)
    else
      let w := s.recWord h 0
      let v := bits w 63 32
      let s := if v < n then s.addError lid else s
      some ((s.setRecWord h 0 (setBits w 63 32 (v - n))).wakeActor h)

/-- A port-count advance applied to an actor; nothing where it has exited (R104, R107, R108); an error counts as for a decrement (log 66). -/
def State.applyAdvance (s : State) (t arg lid : Nat) : Option State :=
  let h := canonHandle t
  match s.dirOf h with
  | none => none
  | some e =>
    let d := (s.keep h).desc
    let credit := bit arg 63 == 1
    let port := bits arg 58 56
    let n := bits arg 6 0
    if e.loc = 3 then none
    else if !dStream d || (if credit then dNout d else dNin d) ≤ port then some (s.addError lid)
    else
      let i := if credit then 1 else 0
      let w := s.recWord h i
      let cap := peCap (s.portEntry e.part d (if credit then dNin d + port else port))
      let v := bits w (14 + 7 * port) (8 + 7 * port) + n
      let s := s.portSeen e.part d (if credit then dNin d + port else port)
      let s := if cap < v then s.addError lid else s
      some ((s.setRecWord h i (setBits w (14 + 7 * port) (8 + 7 * port) (min v cap))).wakeActor h)

/-! ### Firing entry (R115, R356, R438) -/

/-- A mesh-window pointer without a walk. -/
def meshPtr (c off : Nat) : Nat := coreDie c * 2 ^ 40 + coreY c * 2 ^ 36 + coreX c * 2 ^ 32 + off % 2 ^ 32

/-- The port pointer p`i` at a firing entry: read positions of the input ports, then write positions of the output ports (R101). -/
def State.portPtr (s : State) (h c i : Nat) : Nat :=
  let k := s.keep h
  let d := k.desc
  if i < dNin d then
    let e := s.portEntry (handlePart h) d i
    meshPtr c (peFifo e + SMap.get 0 k.pos i * peTsz e)
  else if i < dNin d + dNout d then
    let e := s.portEntry (handlePart h) d i
    let t := match s.dirOf (pePeer e) with
      | some x => x.home
      | none => 0
    meshPtr t (peFifo e + SMap.get 0 k.pos (8 + (i - dNin d)) * peTsz e)
  else 0

/-- The four shape registers at a first firing, the reserved bits of the requests zero, with the number of requests that SHAPE would refuse
(R8, R352, R356). -/
def State.firstShapes (s : State) (c p d : Nat) : Nat × Nat :=
  if dShapes d = 0 then (0, 0)
  else
    [0, 1, 2, 3].foldl (fun r i =>
      let w := (s.partRead p (dShapes d + 16 * i + 8) 8).getD 0 % 2 ^ 55
      (r.1 + (grantWord c w + w * 2 ^ 64) * 2 ^ (128 * i), r.2 + if w != 0 && requestBad w then 1 else 0)) (0, 0)

/-- A pitch request that leaves its comparator disarmed (R61). -/
def pitchBad (w0 w1 : Nat) : Bool :=
  bits w0 20 19 == 0 || decide (3 < bits w0 18 16) || !(([0, 1, 2, 3, 9, 10, 11, 12, 13] : List Nat).contains (bits w0 31 28))
    || bits w0 27 24 != 0 || bits w0 15 2 != 0 || bits w1 63 56 != 0

/-- The state with a context's pitch comparator loaded for a firing, its reserved bits zero; a request with a bad field is reported where its ARM is
1, and one with ARM = 0 is not, which is the model's choice (R8, R60, R61, log 67). -/
def State.loadPitch (s : State) (c k p d : Nat) : State :=
  if dPitch d = 0 then s.modCtx c k fun x => { x with pitch0 := 0x30000002, pitch1 := 0 }
  else
    let w0 := (s.partRead p (dPitch d) 8).getD 0
    let w1 := (s.partRead p (dPitch d + 8) 8).getD 0
    let m0 := w0 &&& 0xFFFFFFFFF0FF0003
    let m1 := w1 % 2 ^ 56
    if bit w0 0 == 1 && pitchBad w0 w1 then
      (s.modCtx c k fun x => { x with pitch0 := setBits m0 0 0 0, pitch1 := m1 }).report (epCore c) 1 w0 0
    else s.modCtx c k fun x => { x with pitch0 := m0, pitch1 := m1 }

/-- The state with one register word of a workspace that is being entered written. -/
def State.entryWord (s : State) (c ws off v : Nat) : State := s.spadWrite c (ws + off) 8 v

/-- The state in which a context takes a READY actor's firing: its first entry, a later entry, or its resumption (R115, R438). -/
def State.startFiring (s : State) (c k h : Nat) : State :=
  let e := (s.dirOf h).getD {}
  let kp := s.keep h
  let level := s.actorLevel h
  let lid := kp.lid
  let ydl := match SMap.find? s.launches lid with
    | some l => l.ydl
    | none => 0
  let handler := kp.handlerOf != 0
  let wsize := if handler then 74 else dWsize kp.desc
  let f : Firing := { handle := h, lid := lid, part := e.part, handler := handler, wsize := wsize, ydl := ydl }
  let s := s.setActorState h 3
  let s := if handler then s else s.setRecWord h 1 (setBits (s.recWord h 1) 3 0 k)
  let n := s.cycle c
  match kp.saved with
  | some (pc, asid) =>
    let s := s.setCtx c k { firing := some f, pc := BitVec.ofNat 56 pc, wptr := e.ws, asid := asid, next := n, nacks := kp.nacks,
                            live := kp.live, entry := kp.entry, pitch0 := kp.pitch0, pitch1 := kp.pitch1, wait := kp.wait }
    let s := s.modKept h fun x => { x with saved := none, nacks := [], live := false, entry := none, wait := none, moved := false }
    let s := if kp.moved then s.modCore c fun m => { m with acqTime := s.now } else s
    (s.forceCsw c k (setBits (s.csw c k) 10 8 level)).openArea c k
  | none =>
    let pc := if handler then kp.base else dEntry kp.desc
    let s := s.setCtx c k { firing := some f, pc := BitVec.ofNat 56 pc, wptr := e.ws, asid := e.part, next := n
                            entry := some (if handler then .handler else .firing) }
    let s := s.modCore c fun m => { m with acqTime := s.now }
    let csw := level * 256 + (if e.part = 0 then 128 else 0)
    let zero (s : State) : State := (s.spadWrite c e.ws 4736 0).entryWord c e.ws 0x180 ones64
    if handler then
      let x := kp.handlers.headD (0, 0, 0)
      let t := kp.handlerOf
      let tws := match s.dirOf t with
        | some y => y.ws
        | none => 0
      ((((zero s).entryWord c e.ws 16 x.2.1).entryWord c e.ws 24 x.2.2).entryWord c e.ws 32 t).entryWord c e.ws 40 tws
        |>.entryWord c e.ws 0x200 csw
    else
      let s := s.readsMarked e.part (linesOf (dPorts kp.desc) (16 * (dNin kp.desc + dNout kp.desc))
        ++ (if kp.fired = 0 && dShapes kp.desc != 0 then linesOf (dShapes kp.desc) 64 else []) ++ (if dPitch kp.desc = 0 then [] else [dPitch kp.desc]))
      let s := if kp.fired = 0 then
          let (v, bad) := s.firstShapes c e.part kp.desc
          let s := (zero s).spadWrite c (e.ws + 0x1C0) 64 v
          (List.range bad).foldl (fun s _ => s.addError lid) s
        else s
      let s := (List.range 8).foldl (fun s i => s.entryWord c e.ws (0x100 + 8 * i) (s.portPtr h c i)) s
      let s := (s.entryWord c e.ws 0x200 csw).entryWord c e.ws (8 * 28) kp.arg
      let s := s.entryWord c e.ws (8 * 29) (kp.fired % 2 ^ 32 * 2 ^ 32 + k * 2 ^ 20 + (if isCellar c then 2 ^ 15 else 0) + c)
      let s := s.entryWord c e.ws (8 * 30) (localBase + e.ws + dWsize kp.desc * 64)
      (s.loadPitch c k e.part kp.desc).openArea c k

/-! ### The head of a run list (R131) -/

/-- The head of the highest nonempty level of a core's run list, among the entries of its active partition (R113, R115). -/
def State.runHead (s : State) (c : Nat) : Option RunEnt :=
  ((s.core c).runList.filter fun e => handlePart e.handle == (s.core c).active).foldl (fun b e =>
    match b with
    | none => some e
    | some x => if x.level < e.level then some e else b) none

/-- Eight firings have completed on a core since the entry at the head of its run list came there, so that the next free context is for it (R131). -/
def State.headDue (s : State) (c : Nat) : Bool :=
  match s.runHead c with
  | some e => (s.core c).headWait.1 == e.handle && decide (8 ≤ (s.core c).headWait.2)
  | none => false

/-! ### Handler firings (R340) -/

/-- The handle under which the model keeps a handler firing: of die code 7, which no directory has (log 17). -/
def handlerHandle (p n : Nat) : Nat := mkHandle p 7 1 (n % 2 ^ 20)

/-- The state with a handler firing created on its target's home: READY at the target's base priority, with a workspace of 74
units, its deposit windows zero; nothing where there is no room (R185, R340). It takes a free context unless the head of the run list is due (R131). -/
def State.createHandler (s : State) (target pc arg src : Nat) (early : Bool := false) : Option State :=
  let t := canonHandle target
  match s.dirOf t with
  | none => none
  | some e =>
    let h := handlerHandle e.part s.nextMsg
    let tk := s.keep t
    match s.allocate e.home e.part 0 h (74 * 64) 64 with
    | none => none
    | some (ws, s) =>
      let s := { s with
        nextMsg := s.nextMsg + 1
        mem := Memory.writeN s.mem (spadKey e.home e.part (ws + 0x238)) 16 0
        dirs := SMap.put s.dirs (handleKey h) { home := e.home, part := e.part, gen := 1, loc := 5, ws := ws, lid := tk.lid }
        kept := SMap.put s.kept h { lid := tk.lid, handlerOf := t, base := pc, handlers := [(pc, arg, src)], early := early } }
      match (if s.headDue e.home || (s.core e.home).frozen.isSome then none else (s.freeCtxs e.home).head?) with
      | some k => some ((s.setActorLevel h (s.basePrio t)).startFiring e.home k h)
      | none => some (s.enqueue e.home h (s.basePrio t))

/-- A channel 2 message from one core to another is on its way or parked (R216). -/
def State.onWay (s : State) (src dst : Nat) : Bool :=
  (s.net ++ s.parked).any fun m => m.src == epCore src && m.dst == epCore dst && m.ch == 2

/-- The state with the first of the handler firings that wait for an actor created on its home; nothing while there is no room for it, or while a message
from its sender is still on its way to that core, after which it starts (R216, R340). -/
def State.releaseHandler (s : State) (h : Nat) : Option State :=
  let home := match s.dirOf h with
    | some e => e.home
    | none => 0
  match (s.keep h).handlers with
  | [] => none
  | x :: l =>
    if s.onWay x.2.2 home then none
    else (s.modKept h fun k => { k with handlers := l }).createHandler h x.1 x.2.1 x.2.2 true

/-- The actors placed on a core for which handler firings wait from before they were placed (R340). -/
def State.handlersAt (s : State) (c : Nat) : List Nat :=
  (s.kept.filter fun (e : Nat × Kept) => e.2.handlerOf == 0 && !e.2.handlers.isEmpty && (match s.dirOf e.1 with
    | some d => d.loc == 2 && d.home == c && d.part == (s.core c).active
    | none => false)).map Prod.fst

/-- A handler firing that comes before an actor's first firing has not started (R340). -/
def State.handlerFirst (s : State) (h : Nat) : Bool :=
  let k := s.keep h
  k.handlerOf == 0 && k.fired == 0 && k.saved.isNone && (!k.handlers.isEmpty
    || s.kept.any fun (e : Nat × Kept) => e.2.early && e.2.handlerOf == h && e.2.saved.isNone && s.actorState e.1 == 2)

/-! ### The end of a firing (R98, R109, R424) -/

/-- The state with one firing completed on a core counted for the entry at the head of its run list (R131). -/
def State.countHead (s : State) (c : Nat) : State :=
  let w := (s.core c).headWait
  match s.runHead c with
  | none => s.modCore c fun k => { k with headWait := (0, 0) }
  | some e => s.modCore c fun k => { k with headWait := (e.handle, if w.1 = e.handle then w.2 + 1 else 1) }

/-- The state with a launch's watchdog restarted at a completed firing (R127). -/
def State.firingDone (s : State) (lid : Nat) : State :=
  match SMap.find? s.launches lid with
  | none => s
  | some l => { s with launches := SMap.put s.launches lid { l with wd := if l.wd ≤ 1 then 0 else l.wd, wdFrom := if l.wd ≤ 1 then s.time else l.wdFrom } }

/-- The state with a host RACK command that still waited for an actor answered NOT_MOVED with a reason (R158). -/
def State.answerTarget (s : State) (h reason : Nat) : State :=
  match (s.keep h).target with
  | none => s
  | some (_, cmd) =>
    let s := s.modKept h fun k => { k with target := none }
    match SMap.find? s.cmds cmd with
    | none => s
    | some x =>
      let home := match s.dirOf h with
        | some e => e.home
        | none => 0
      { s with cmds := SMap.put s.cmds cmd { x with st := 4, status := 7, result := home * 2 ^ 16 + reason * 256 + 7 } }

/-- The state with an actor's forwarding records released (R167). -/
def State.dropFwds (s : State) (h : Nat) : State :=
  { s with cores := s.cores.map fun e =>
      (e.1, if e.2.fwds.any fun f => f.handle == h then { e.2 with fwds := e.2.fwds.filter fun f => f.handle != h } else e.2) }

/-- The state with an actor EXITED: its regions freed, its contract out of force (R55, R106, R177). -/
def State.exitActor (s : State) (h : Nat) : State :=
  match s.dirOf h with
  | none => s
  | some e =>
    let s := s.answerTarget h 12
    let s := if e.placed then (s.setActorState h 5).freeAllocs e.home h [0, 1, 2] else s
    let s := s.modDir h fun x => { x with loc := if e.loc = 5 then 0 else 3 }
    let s := s.modKept h fun k => { k with saved := none, wait := none, nacks := [], handlers := [] }
    let s := s.dropFwds h
    { s with pool := s.pool.filter (fun r => r.handle != h)
             power := { s.power with contracts := s.power.contracts.filter fun x => x.1 != 0 || x.2.1 != h } }

/-- The lowest output port of a producer that names an input port of a consumer (R109). -/
def State.producerPort (s : State) (prod h i : Nat) : Option Nat :=
  let d := (s.keep prod).desc
  if (s.dirOf prod).isNone then none
  else (List.range (dNout d)).find? fun j =>
    let e := s.portEntry (handlePart prod) d (dNin d + j)
    pePeer e == h && pePort e == i

/-- The state with an input port's tokens consumed by RETIRE: the count and the read position, and one credit to the producer (R101, R109). -/
def State.consume (s : State) (c k h i : Nat) : State :=
  let d := (s.keep h).desc
  let e := s.portEntry (handlePart h) d i
  let r := dInrate d i
  let s := s.portSeen (handlePart h) d i
  let w := s.recWord h 0
  let s := s.setRecWord h 0 (setBits w (14 + 7 * i) (8 + 7 * i) (bits w (14 + 7 * i) (8 + 7 * i) - r))
  let s := s.modKept h fun x => { x with pos := SMap.put x.pos i ((SMap.get 0 x.pos i + r) % max (peCap e) 1) }
  if pePeer e = 0 then s
  else
    let known := SMap.find? (s.keep h).credit i
    let pd := (s.keep (pePeer e)).desc
    let s := if known.isSome || (s.dirOf (pePeer e)).isNone then s
      else s.readsMarked (handlePart (pePeer e)) (linesOf (dPorts pd + 16 * dNin pd) (16 * dNout pd))
    match (match known with | some j => some j | none => s.producerPort (pePeer e) h i) with
    | none => s.addError (s.keep h).lid
    | some j =>
      let s := s.modKept h fun x => { x with credit := SMap.put x.credit i j }
      s.sendActor c k 0x27 (pePeer e) (2 ^ 63 + j * 2 ^ 56 + r)

/-- The state with the firing of a context ended by RETIRE with an exit operand (R98, R109, R424). -/
def State.retireCtx (s : State) (c k : Nat) (exit : Bool) : State :=
  match (s.ctx c k).firing with
  | none => s
  | some f =>
    let h := f.handle
    let s := ((s.drain c k).dropWait c k).decompose c k
    let d := (s.keep h).desc
    let s := s.modKept h fun x => { x with fired := x.fired + 1 }
    let s := (s.firingDone f.lid).countHead c
    if f.handler then (s.exitActor h).setCtx c k {}
    else if !dStream d || exit then (s.exitActor h).setCtx c k {}
    else
      let s := (List.range (dNin d)).foldl (fun s i => s.consume c k h i) s
      let s := s.setCtx c k {}
      if s.ready97 h then s.enqueue c h (s.basePrio h) else s.setActorState h 1

end Sys2Proof.Machine
end

