-- ==== Sys2Proof/Machine/Blocks.lean ====
section
/-! DEFINITION. The control-window blocks (R10, R60, R67, R128, R140, R152, R156, R173). A write that starts an operation of
its own puts it next on the agenda. -/
namespace Sys2Proof.Machine

/-- A register of a control-window block. -/
inductive CtlReg where
  | cluster (c off : Nat)
  | pitch (core ctx off : Nat)
  | sched (core off : Nat)
  | park (die off : Nat)
  | log (core off : Nat)
  | errs (die off : Nat)
  | none
  deriving DecidableEq, Repr

/-- The core of a die code and a place 8y + x. -/
def coreAt (die r : Nat) : Option Nat :=
  let c := mkCore die (r % 8) (r / 8)
  if die ≤ 4 && coreOk c && decide (r < 64) then some c else none

/-- The register at an 8-byte aligned control-window address. -/
def ctlReg (va : Nat) : CtlReg :=
  let a := va % 2 ^ 48
  let block := a / 2 ^ 24
  let o := a % 2 ^ 24
  let die := o / 2 ^ 20
  let place := o % 2 ^ 20 / 2 ^ 12
  if block = 1 then (if o / 4096 ≤ 65 then .cluster (o / 4096) (o % 4096) else .none)
  else if block = 2 then
    match coreAt die place with
    | some c => if o % 4096 / 32 < nctx c then .pitch c (o % 4096 / 32) (o % 32) else .none
    | none => .none
  else if block = 3 then (match coreAt die place with | some c => .sched c (o % 4096) | none => .none)
  else if block = 4 then (if die ≤ 4 then .park die (o % 2 ^ 20) else .none)
  else if block = 5 then (match coreAt die place with | some c => .log c (o % 4096) | none => .none)
  else if block = 6 then (if die ≤ 4 then .errs die (o % 2 ^ 20) else .none)
  else .none

/-- A flag as a bit at a place. -/
def flag (b : Bool) (i : Nat) : Nat := if b then 2 ^ i else 0

/-- Actors PARKED on a die (R140). -/
def State.parkedOn (s : State) (die : Nat) : Nat :=
  (s.dirs.filter fun e => e.2.loc == 2 && coreDie e.2.home == die
    && bits (Memory.readN s.mem (spadKey e.2.home e.2.part e.2.record) 8) 2 0 == 4).length

/-- The value of a control-window register. -/
def State.ctlValue (s : State) (r : CtlReg) : Nat :=
  match r with
  | .cluster c off =>
    let k := SMap.get {} s.power.clusters c
    if off = 0 then k.temp % 2 ^ 16
    else if off = 8 then k.step
    else if off = 0x10 then flag k.refund 26 + k.cause * 2 ^ 24 + k.eff * 2 ^ 20 + k.grant * 2 ^ 16 + k.cap
    else if off = 0x18 then k.lo * 2 ^ 16 + k.hi
    else if off = 0x20 then flag k.evRefund 3 + flag k.evTherm 2 + flag k.evClim 1 + flag k.evCrit 0
    else 0
  | .pitch c k off => if off = 0 then (s.ctx c k).pitch0 else if off = 8 then (s.ctx c k).pitch1 else 0
  | .sched c off =>
    let k := s.core c
    if off = 0 then flag k.fenced 0
    else if off = 8 then k.deque.length * 2 ^ 16 + min k.runList.length 256
    else if off = 0x10 then k.dlmiss
    else 0
  | .park d off =>
    if off = 0 then SMap.get 0 s.fw.phandle d
    else if off = 0x10 then flag (SMap.get 0 s.fw.pcmd d != 0) 2 + SMap.get 0 s.fw.pstat d
    else if off = 0x18 then min (s.parkedOn d) 0xFFFF
    else 0
  | .log c off =>
    let l := (s.core c).log
    if off = 0 then l.base
    else if off = 8 then l.size
    else if off = 0x10 then l.head
    else if off = 0x18 then flag l.ovf 3 + flag l.replay 2 + flag l.wrap 1 + flag l.en 0
    else 0
  | .errs d off => if off ≤ 0x20 && off % 8 == 0 then SMap.get 0 s.fw.errs (8 * d + off / 8) else 0
  | .none => 0

/-- The state with an operation that happens next, before those chosen earlier (R10). -/
def State.nextAct (s : State) (i : Instr) (focus : Nat := 0) : State := { s with agenda := { instr := i, focus := focus } :: s.agenda }

/-- The state with the bits under a mask written to a control-window register (R10). -/
def State.ctlPut (s : State) (r : CtlReg) (m v : Nat) : State :=
  let old := s.ctlValue r
  let new := (old - (old &&& m)) ||| (v &&& m)
  let ones := v &&& m
  match r with
  | .cluster c off =>
    if off = 8 then (if m % 256 = 0 then s else s.nextAct (.thrtStep c (new % 16)))
    else
      let k := SMap.get {} s.power.clusters c
      let k := if off = 0x18 then { k with lo := bits new 31 16, hi := new % 2 ^ 16 }
        else if off = 0x20 then { k with evRefund := k.evRefund && bit ones 3 == 0, evTherm := k.evTherm && bit ones 2 == 0,
                                         evClim := k.evClim && bit ones 1 == 0, evCrit := k.evCrit && bit ones 0 == 0 }
        else k
      if off = 0x18 || off = 0x20 then { s with power := { s.power with clusters := SMap.put s.power.clusters c k } } else s
  | .pitch c k off =>
    if off = 0 then s.modCtx c k fun x => { x with pitch0 := new &&& 0xFFFFFFFFF0FF0003 }
    else if off = 8 then s.modCtx c k fun x => { x with pitch1 := new % 2 ^ 56 }
    else s
  | .sched c off => if off = 0 && bit ones 0 == 1 then s.nextAct (.fenced c 1) else s
  | .park d off =>
    if off = 0 then { s with fw := { s.fw with phandle := SMap.put s.fw.phandle d new } }
    else if off = 8 && (ones % 4 == 1 || ones % 4 == 2) && SMap.get 0 s.fw.pcmd d == 0 then
      { s with fw := { s.fw with pcmd := SMap.put s.fw.pcmd d (ones % 4) } }
    else s
  | .log c off =>
    let l := (s.core c).log
    let l := if off = 0 then { l with base := new % 2 ^ 56 / 64 * 64 }
      else if off = 8 then { l with size := new % 2 ^ 32 }
      else if off = 0x18 then
        let on := if (s.core c).fenced then bit new 2 == 1 else l.replay
        { l with ovf := l.ovf && bit ones 3 == 0, replay := on, wrap := bit new 1 == 1, en := bit new 0 == 1
                 next := if on && !l.replay then l.markHead else l.next, clock := if on && !l.replay then none else l.clock }
      else l
    s.modCore c fun k => { k with log := l }
  | .errs _ _ => s
  | .none => s

/-- Bytes of a control-window access within one 8-byte word. -/
def State.ctlRead (s : State) (va n : Nat) : Nat :=
  (s.ctlValue (ctlReg (va / 8 * 8)) >>> (8 * (va % 8))) % 2 ^ (8 * n)

/-- The state with a control-window store within one 8-byte word performed (R10). -/
def State.ctlWrite (s : State) (va n v : Nat) : State :=
  let sh := 8 * (va % 8)
  s.ctlPut (ctlReg (va / 8 * 8)) ((2 ^ (8 * n) - 1) <<< sh) ((v % 2 ^ (8 * n)) <<< sh)

end Sys2Proof.Machine
end

