-- ==== Sys2Proof/Machine/Access.lean ====
section
/-! DEFINITION. Accesses of a context to storage: where an address leads, loads, stores and atomics
(R173, R176, R179, R187, R190, R205, R210, R213 to R215, R241, R325 to R336). -/
namespace Sys2Proof.Machine

/-! ### Where an address leads -/

/-- The target of an access. -/
inductive Place where
  /-- Coherent memory, cached or not. -/
  | mem (pa : Nat) (uc : Bool)
  /-- The issuing core's own scratchpad. -/
  | own (off : Nat)
  /-- Another core's scratchpad. -/
  | core (c off : Nat)
  /-- The control window. -/
  | ctl (va : Nat)
  /-- Another package. -/
  | peer (pkg pa : Nat)
  deriving DecidableEq, Repr

/-- An address as a number, with the 64-bit sums that trap told apart (R325). -/
def eaNat (v : Nat) : Nat ⊕ Nat := if v / 2 ^ 56 = 0 then .inl v else .inr v

/-- The number of an effective address. -/
def eaVal : Nat ⊕ Nat → Nat
  | .inl v => v
  | .inr v => v

/-- What finding the target of an access answers. -/
inductive Found where
  | at_ (p : Place) (s : State)
  | trap (cause : Cause) (info : Nat)
  | flash (s : State) (leaf : Nat)
  /-- The walk waits for the DRAM to leave self-refresh (R50). -/
  | shut

/-- The part of a core's scratchpad that holds spilled deque entries (R177). -/
def State.spillMeets (s : State) (c off n : Nat) : Bool :=
  !(s.core c).spill.isEmpty && decide (spadSize c - 4096 < off + n)

/-- A local or mesh-window address as a place, or nothing where it traps with PROT (R173, R176, R179). -/
def windowPlace (c va n : Nat) : Option Place :=
  let off := va % 2 ^ 32
  if va / 2 ^ 48 = 0xFD then (if bits va 47 32 ≠ 0 || decide (spadSize c < off + n) then none else some (.own off))
  else
    let t := mkCore (bits va 42 40) (bits va 35 32) (bits va 39 36)
    if bits va 47 43 ≠ 0 || !meshOk (bits va 42 40) (bits va 35 32) (bits va 39 36) then none
    else if spadSize t < off + n then none
    else if t = c then some (.own off) else some (.core t off)

/-- The target of `n` bytes at an address for a context (R137, R173, R196, R325, R326). -/
def State.locate (s : State) (c k : Nat) (ea : Nat ⊕ Nat) (n algn : Nat) (a : Access) : Found :=
  match ea with
  | .inr v => if v % algn ≠ 0 then .trap .misalign v else .trap .prot v
  | .inl va =>
    let region := va / 2 ^ 48
    if region = 0xFF && !s.priv c k then .trap .priv va
    else if va % algn ≠ 0 then .trap .misalign va
    else if region = 0xFF then .at_ (.ctl va) s
    else if 0xFD ≤ region then
      match windowPlace c va n with
      | none => .trap .prot va
      | some (.own off) => if s.spillMeets c off n then .trap .prot va else .at_ (.own off) s
      | some p => .at_ p s
    else
      match s.translate c (s.ctx c k).asid va a (s.priv c k) with
      | (.page, _) => .trap .page (va + if a.writes || a = .cas then 2 ^ 63 else 0)
      | (.prot, _) => .trap .prot va
      | (.flash leaf _ size _, t) => .flash (t.askPage c k (s.ctx c k).asid va (a.writes || a = .cas) leaf size) leaf
      | (.shut, _) => .shut
      | (.ecc, _) => .trap .eccUncorr va
      | (.ok pa b kind pkg, t) =>
        if kind = 3 then .at_ (.peer pkg pa) t else .at_ (.mem pa (bit b 6 == 1 || isSram pa)) t

/-! ### What holds an access back -/

/-- A watermark of the core that is active over a byte range (R205). -/
def State.marked (s : State) (c off n : Nat) : Bool :=
  (s.apart c).marks.any fun e =>
    let m := e.2
    m.act && rangesMeet off n (max m.lo m.wm) (m.hi - max m.lo m.wm)

/-- An operand guard of the core over a byte range (R241). -/
def State.guarded (s : State) (c off n : Nat) : Bool :=
  let hit (g : Guard) : Bool := rangesMeet off n g.lo (g.hi - g.lo)
  ((s.apart c).inbox.any fun e => e.2.guards.any hit) || ((s.apart c).chans.any fun e => e.2.guards.any hit)

/-- A message of a firing, or of one that its context held before it, whose program order it continues (R209). -/
def Out.by (o : Out) (h : Nat) (k : Option Nat) : Bool := o.who == 0 && (o.handle == h || some o.ctx == k)

/-- A coherent store of a firing and its context that no home has ordered yet (R210, log 12). -/
def State.storesUnordered (s : State) (c h : Nat) (k : Option Nat) : Bool :=
  ((s.core c).out.any fun o => o.op == 0x02 && o.by h k) || (s.core c).late.any fun l => l.out.by h k

/-- A coherent store of a context that no home has ordered yet (R210, log 12). -/
def State.unordered (s : State) (c k : Nat) : Bool := s.storesUnordered c (s.firingOf c k) (some k)

/-- A message of a firing and its context, with an operation that a test admits, is held back by the core's interface (R130). -/
def State.heldBack (s : State) (c h : Nat) (k : Option Nat) (f : Nat → Bool) : Bool :=
  (s.core c).backlog.any fun m => f m.op && (s.core c).out.any fun o => o.id == m.id && o.by h k

/-- The coherent stores of a firing and its context are ordered, their remote stores acknowledged and their deposits sent (R220, R223). -/
def State.ordered (s : State) (c h : Nat) (k : Option Nat) : Bool :=
  !s.storesUnordered c h k && !((s.core c).out.any fun o => o.op == 0x23 && o.by h k) && !s.heldBack c h k fun op => op == 0x25

/-- The state with a message sent for a firing as it stood when its instruction issued (R143). -/
def State.sendAs (s : State) (c : Nat) (m : Msg) (o : Out) : State :=
  (s.sendCounted c m o).modCore c fun n => { n with out := n.out.map fun x => if x.id = s.nextMsg then { x with fired := o.fired } else x }

/-! ### Homes and copies (R33, R187, R210) -/

/-- The port by which messages to a package leave (R36): with one other package the lower-numbered port that is a peer link; in a ring of three or four
port 0 leads to the next package and port 1 to the one before, and a message to the package after the next goes by the next (log 63). -/
def State.peerPort (s : State) (g : Nat) : Nat :=
  let f := s.fw
  if f.packages ≤ 2 then (if f.port0 = 2 then 0 else 1)
  else
    let d := (g + f.packages - f.package) % f.packages
    if d = 1 || f.packages = 4 && d = 2 then 0 else 1

/-- Endpoint of a peer port (R25). -/
def epPort (i : Nat) : Nat := 6 + 8 * i

/-- Endpoint of a line's home: its L2, the memory-controller home while that die is gated, or the cellar cache for SRAM. -/
def State.homeEp (s : State) (pa : Nat) (uc : Bool) : Nat :=
  if isSram pa then epSram
  else if uc then epMc (quadrant pa)
  else if s.dieRuns (quadrant pa) then epL2 (quadrant pa) else epMc (quadrant pa)

/-- The longest time, in units of 1/336 ns, for which a core uses a copy: 1,024 cycles of its fastest clock, so that the visibility bound of R211
holds whatever lease another core has asked for (log 62). -/
def copyAge (c : Nat) : Nat := if isCellar c then 1024 * 420 else 1024 * 105

/-- A copy may be used by a load of a core at a time (R210, R211). -/
def copyUsable (c : Nat) (k : Core) (y : Copy) (part now : Nat) : Bool :=
  y.part == part && decide (max k.pts y.wts < y.rts) && decide (k.acqTime ≤ y.left) && decide (now ≤ y.left + copyAge c)

/-- A kettle core's own quadrant (R187). -/
def ownQuadrant (c pa : Nat) : Bool := !isCellar c && isDram pa && quadrant pa == coreDie c

/-- Partition of a context's accesses. -/
def State.accPart (s : State) (c k : Nat) : Nat := (s.ctx c k).asid

/-- A message of a context's access, ready to be sent. -/
def State.accMsg (s : State) (c k ch op dst taddr : Nat) : Msg :=
  { id := 0, src := epCore c, dst := dst, part := s.accPart c k, ch := ch, op := op, taddr := taddr, raddr := replyAddr (epCore c)
    ctx := k, lid := s.lidOf c k, pts := (s.core c).pts }

/-- The state with an L1 copy used by a load: the core's logical time reaches its write time (R210). -/
def State.useCopy (s : State) (c : Nat) (y : Copy) : State := s.modCore c fun n => { n with pts := max n.pts y.wts }

/-! ### Loads -/

/-- A contiguous part of a load or store: address, bytes, byte offset in the register, and nibble (0 none, 1 low, 2 high). -/
structure Chunk where
  va  : Nat
  len : Nat
  off : Nat
  nib : Nat
  deriving DecidableEq, Repr

/-- The progress of a load: bits so far and parts that others answer; once a coherent part is on its way, those after it wait (R208). -/
structure LoadAcc where
  s : State
  acc : Nat
  pieces : List Piece
  remote : Bool
  sent : Bool := false
  todo : List Todo := []

/-- What a load answers. -/
inductive LoadRes where
  | done (r : LoadAcc)
  | trap (cause : Cause) (info : Nat)
  | retry (s : State)
  | flash (s : State) (leaf : Nat)

/-- Bits put at a chunk's place: whole bytes, or one nibble at a bit offset. -/
def placeBits (acc v len off nib : Nat) : Nat :=
  if nib = 0 then setBits acc (8 * (off + len) - 1) (8 * off) v
  else setBits acc (off + 3) off (if nib = 1 then v % 16 else v / 16 % 16)

/-- The load with a value for a chunk. -/
def LoadAcc.put (r : LoadAcc) (s : State) (ch : Chunk) (v : Nat) : LoadAcc :=
  { r with s := s, acc := placeBits r.acc v ch.len ch.off ch.nib }

/-- The load with a message sent for a chunk. -/
def LoadAcc.ask (r : LoadAcc) (s : State) (c : Nat) (m : Msg) (o : Out) (ch : Chunk) (remote : Bool) : LoadAcc :=
  { r with s := s.sendCounted c m o
           pieces := r.pieces ++ [{ id := s.nextMsg, off := ch.off, len := ch.len, nib := ch.nib }]
           remote := r.remote || remote }

/-- Bytes at a place within a line. -/
def lineBytes (data pa n : Nat) : Nat := (data >>> (8 * (pa % 64))) % 2 ^ (8 * n)

/-- What a coherent read of a line finds without a message: the state and the line, or nothing on a miss (R187, R210): the L1 copy, the line that
is held for writing and not known to be uncorrectable (R155), the die's RDC, or the cellar cache. The L1 is that of core `m`, the core itself or the member of its composition that
performs the access (R244). -/
def State.lineHit (s : State) (c m p pa : Nat) : Option (State × Nat) :=
  let line := pa / 64
  let n := s.core c
  match (SMap.find? (s.core m).l1 line).filter fun y => copyUsable c n y p s.now with
  | some y => some (s.useCopy c y, y.data)
  | none =>
    if (SMap.get {} s.homes line).holder == some m then
      if s.lineBad line then none
      else
        let s := s.homeLook (some c) p line
        some (s, s.lineFor p line)
    else
      match (if ownQuadrant c pa then none else SMap.find? s.rdc (rdcKey (coreDie c) line)).filter fun y => copyUsable c n y p s.now with
      | some y => some ((s.useCopy c y).l1Put m line y, y.data)
      | none => none

/-- The message that a coherent read sends to its target (R187, R190). -/
def State.readMsg (s : State) (c p k lid pa n : Nat) (uc : Bool) : Msg :=
  { id := 0, src := epCore c, dst := s.homeEp pa uc, part := p, ch := 0, op := 0x01, taddr := pa, raddr := replyAddr (epCore c), ctx := k, lid := lid
    pts := (s.core c).pts, size := n, aux := if uc then 1 else 0 }

/-- A coherent chunk of a load (R187, R190, R208 to R210): after one that is on its way it waits; else a copy, or a message. -/
def State.loadLine (s : State) (c k pa : Nat) (uc : Bool) (ch : Chunk) (r : LoadAcc) : LoadRes :=
  let p := s.accPart c k
  let ask (_ : Unit) : LoadRes :=
    if s.dramShut pa then .retry s.askDram
    else .done { r.ask s c (s.readMsg c p k (s.lidOf c k) pa ch.len uc) (Out.blank false (s.ctx c k).pc.toNat ch.va 0) ch false with sent := true }
  if r.sent then .done { r with s := s, todo := r.todo ++ [{ pa := pa, va := ch.va, len := ch.len, off := ch.off, nib := ch.nib, uc := uc, part := p }] }
  else if s.unordered c k then .retry s
  else if uc then ask ()
  else match s.lineHit c (s.memberFor c k ch.va) p pa with
    | some (t, d) => .done (r.put t ch (lineBytes d pa ch.len))
    | none => ask ()

/-- A word of a scratchpad known to be uncorrectable (R155). -/
def State.badSpad (s : State) (c off n : Nat) : Bool :=
  s.wordsBad (spadKey c (s.core c).active off) n

/-- One chunk of a load. -/
def State.loadChunk (s0 : State) (c k algn : Nat) (ch : Chunk) (r : LoadAcc) : LoadRes :=
  let s := r.s
  match s.locate c k (eaNat ch.va) ch.len algn .read with
  | .trap cause info => .trap cause info
  | .flash s leaf => .flash s leaf
  | .shut => .retry s0.askDram
  | .at_ p s =>
    let pc := (s.ctx c k).pc.toNat
    match p with
    | .own off =>
      if s.marked c off ch.len then .retry s0
      else if s.badSpad c off ch.len then .trap .eccUncorr ch.va
      else .done (r.put s ch (s.spadRead c off ch.len))
    | .core t _ =>
      .done (r.ask s c { s.accMsg c k 2 0x21 (epCore t) ch.va with size := ch.len } (Out.blank true pc ch.va 0) ch true)
    | .ctl va => .done (r.put s ch (s.ctlRead va ch.len))
    | .peer g pa =>
      .done (r.ask s c { s.accMsg c k 2 0x21 (epPort (s.peerPort g)) pa with size := ch.len, dpkg := g, far := true } (Out.blank true pc ch.va 0) ch true)
    | .mem pa uc =>
      match s.loadLine c k pa uc ch r with
      | .retry t => .retry { s0 with power := t.power }
      | x => x

/-- The chunks of a load, in order. -/
def State.loadChunks (s0 : State) (c k algn : Nat) : List Chunk → LoadAcc → LoadRes
  | [], r => .done r
  | ch :: l, r =>
    match s0.loadChunk c k algn ch r with
    | .done r => State.loadChunks s0 c k algn l r
    | .trap a b => .trap a b
    | .retry s => .retry s
    | .flash s leaf => .flash s leaf

/-- The answer of a load instruction, given what it does with its bits when they are all there. -/
def State.loadRes (s : State) (c k algn : Nat) (chunks : List Chunk) (fin : Finish) (f : State → Nat → State) : Res :=
  match s.loadChunks c k algn chunks { s := s, acc := 0, pieces := [], remote := false } with
  | .trap a b => .trap a b
  | .retry t => .retry t
  | .flash t leaf => .block t (.pageIn leaf)
  | .done r => if r.pieces.isEmpty then .ok (f r.s r.acc) else .hold r.s (.reply r.pieces r.acc fin r.remote r.todo)

/-! ### Stores -/

/-- A store that has passed its checks. -/
structure Write where
  place : Place
  va    : Nat
  len   : Nat
  val   : Nat
  /-- 0 whole bytes, 1 the low nibble, 2 the high nibble. -/
  nib   : Nat
  deriving DecidableEq, Repr

/-- What the checks of a store answer. -/
inductive StoreRes where
  | done (s : State) (l : List Write)
  | trap (cause : Cause) (info : Nat)
  | retry (s : State)
  | flash (s : State) (leaf : Nat)

/-- The checks of every part of a store, before any is performed (R137, R205, R241, R333). -/
def State.storeCheck (s0 : State) (c k algn : Nat) : List (Chunk × Nat) → State → List Write → StoreRes
  | [], s, acc => .done s acc.reverse
  | (ch, v) :: l, s, acc =>
    match s.locate c k (eaNat ch.va) ch.len algn .write with
    | .trap cause info => .trap cause info
    | .flash s leaf => .flash s leaf
    | .shut => .retry s0.askDram
    | .at_ p s =>
      let held := match p with
        | .own off => s.marked c off ch.len || s.guarded c off ch.len
        | .core _ _ | .mem _ _ | .ctl _ | .peer _ _ => false
      let shut := match p with
        | .mem pa _ => s.dramShut pa
        | .own _ | .core _ _ | .ctl _ | .peer _ _ => false
      if held then .retry s0
      else if shut then .retry s0.askDram
      else State.storeCheck s0 c k algn l s ({ place := p, va := ch.va, len := ch.len, val := v, nib := ch.nib } :: acc)

/-- A byte with one nibble replaced (R249). -/
def mergeNib (old v nib : Nat) : Nat := if nib = 1 then old / 16 * 16 + v % 16 else old % 16 + v % 16 * 16

/-- The state with a coherent store sent to its home, which is where R33 names it now (R187, R190, R210). -/
def State.sendStore (s : State) (c : Nat) (x : LateStore) : State :=
  s.sendAs c
    { id := 0, src := epCore c, dst := s.homeEp x.pa x.uc, part := x.part, ch := 0, op := 0x02, taddr := x.pa, raddr := replyAddr (epCore c)
      ctx := x.out.ctx, lid := x.out.lid, pts := (s.core c).pts, data := toBytes x.len x.val, keepLo := x.keepLo, keepHi := x.keepHi
      arg := x.val, aux := if x.uc then 1 else 0 } x.out

/-- A store to coherent memory: performed in the L1 of a kettle core's own quadrant, in a composed core the member's (R244), else sent to its home and posted; it waits for the stores of
its firing that are not ordered, so that its write comes after theirs (R187, R208 to R210). -/
def State.storeMem (s : State) (c k pa : Nat) (uc : Bool) (w : Write) : State :=
  let line := pa / 64
  let p := s.accPart c k
  let m := s.memberFor c k w.va
  if !uc && ownQuadrant c pa && !s.unordered c k then
    let s := s.snoop line
    let v := if w.nib = 0 then w.val else mergeNib (lineBytes (s.lineFor p line) pa 1) w.val w.nib
    (s.homeStore (some c) p pa w.len v true).l1Hold m p line
  else
    let x : LateStore :=
      { pa := pa, uc := uc, len := w.len, val := if w.nib = 2 then w.val * 16 else w.val, keepLo := w.nib == 2, keepHi := w.nib == 1, part := p
        out := { Out.blank false (s.ctx c k).pc.toNat w.va (s.firingOf c k) with ctx := k, lid := s.lidOf c k, fired := (s.keep (s.firingOf c k)).fired } }
    let t := if uc then s else s.modCore m fun n => { n with l1 := SMap.del n.l1 line }
    if s.unordered c k then t.modCore c fun n => { n with late := n.late ++ [x] } else t.sendStore c x

/-- The place of the oldest late store that no store before it holds back: none of its firing or context has yet to be ordered (R209). -/
def lateFree : List LateStore → List Out → Nat → Option Nat
  | [], _, _ => none
  | x :: l, before, i => if before.any fun o => o.by x.out.handle (some x.out.ctx) then lateFree l (x.out :: before) (i + 1) else some i

/-- The state with the oldest store sent that no store of its firing or context still holds back (R209). -/
def State.sendLate (s : State) (c : Nat) : State :=
  match lateFree (s.core c).late ((s.core c).out.filter fun o => o.op == 0x02) 0 with
  | none => s
  | some i =>
    match (s.core c).late[i]? with
    | none => s
    | some x =>
      ((s.modCore c fun n => { n with late := n.late.eraseIdx i }).sendStore c x).modCore c fun n =>
        { n with arrivals := n.arrivals.map fun a =>
            if x.out.by a.out.handle (some a.out.ctx) && a.lates != 0 then { a with lates := a.lates - 1, acked := s.nextMsg :: a.acked } else a }

/-- What an arrival's release waits for has happened (R223). -/
def LateArr.free (a : LateArr) (n : Core) : Bool :=
  a.lates == 0 && !(n.out.any fun o => a.acked.contains o.id) && !(n.backlog.any fun m => a.sent.contains m.id)

/-- The state with the posted arrivals of a core sent that are released, oldest first (R223, R346). -/
def State.sendArrivals (s : State) (c : Nat) : State :=
  let n := s.core c
  if n.arrivals.isEmpty then s
  else (n.arrivals.filter fun a => a.free n).foldl
    (fun t a => (if a.msg.op = 0x03 then t.loseLine c (a.msg.taddr / 64) else t).sendAs c
      { a.msg with pts := (t.core c).pts, dst := if a.msg.op = 0x03 then t.homeEp a.msg.taddr (a.msg.aux == 1) else a.msg.dst } a.out)
    (s.modCore c fun n => { n with arrivals := n.arrivals.filter fun a => !a.free n })

/-- The state with one checked part of a store performed or sent (R26, R36). -/
def State.storeWrite (s : State) (c k : Nat) (w : Write) : State :=
  let pc := (s.ctx c k).pc.toNat
  let v := (if w.nib = 2 then w.val * 16 else w.val) % 2 ^ (8 * w.len)
  let data := toBytes w.len v
  match w.place with
  | .own off => s.spadStore c off w.len (if w.nib = 0 then w.val else mergeNib (s.spadRead c off 1) w.val w.nib)
  | .core t _ =>
    s.sendCounted c { s.accMsg c k 2 0x23 (epCore t) w.va with arg := v, data := data, keepLo := w.nib == 2, keepHi := w.nib == 1 }
      (Out.blank true pc w.va 0)
  | .ctl va => s.ctlWrite va w.len (if w.nib = 0 then w.val else mergeNib (s.ctlRead va 1) w.val w.nib)
  | .peer g pa =>
    s.sendCounted c { s.accMsg c k 2 0x23 (epPort (s.peerPort g)) pa with arg := v, data := data, dpkg := g, far := true, keepLo := w.nib == 2, keepHi := w.nib == 1 }
      (Out.blank true pc w.va 0)
  | .mem pa uc => s.storeMem c k pa uc w

/-- The answer of a store instruction of checked parts, with a change that it makes besides. -/
def State.storeRes (s : State) (c k algn : Nat) (parts : List (Chunk × Nat)) (f : State → State) : Res :=
  match s.storeCheck c k algn parts s [] with
  | .trap a b => .trap a b
  | .retry t => .retry t
  | .flash t leaf => .block t (.pageIn leaf)
  | .done t l => .ok (f (l.foldl (fun t w => t.storeWrite c k w) t))

/-! ### Atomics (R335, R336) -/

/-- The value that an atomic stores, or nothing where a compare fails: operation 0 to 7 of AMO, 8 of CAS (R336). -/
def atomicNew (op : Nat) (ty : Ty) (old b c : Nat) : Option Nat :=
  let n := ty.width
  let x := old % 2 ^ n
  let y := b % 2 ^ n
  let lt : Bool := decide (decI ty x < decI ty y)
  if op = 0 then some ((x + y) % 2 ^ n)
  else if op = 1 then some (x &&& y)
  else if op = 2 then some (x ||| y)
  else if op = 3 then some (x ^^^ y)
  else if op = 4 then some y
  else if op = 5 then some (if lt then x else y)
  else if op = 6 then some (if lt then y else x)
  else if op = 7 then some (rndF .f32 .rne false ((decF .f32 x).add (decF .f32 y)))
  else if x = y then some (c % 2 ^ n) else none

/-- The old value of an atomic as it is written: an integer through ext, F32 zero-extended. -/
def atomicOld (ty : Ty) (v : Nat) : Nat := if ty.isInt then ty.widen v else v % 2 ^ ty.width

/-- The state with the D bit of a leaf set where a compare and swap stores, at a logical time (R193, R209, R336). -/
def State.setDirtyLeaf (s : State) (p leaf t : Nat) : State :=
  if leaf = 0 then s else (s.homeWrite (leaf / 64) t).lineWrite p (leaf / 64) (leaf % 64) 8 (s.physRead p leaf 8 ||| 0x600) true

/-- The leaf entry whose D bit a successful compare and swap must set; 0 where it is set. -/
def State.dirtyLeaf (s : State) (c p va : Nat) : Nat :=
  match s.tlbFind c p va false with
  | some t => if bit t.bits 10 = 0 && t.kind == 1 then t.leaf else 0
  | none => 0

/-- The state with an atomic performed at the home of a line; it answers the old value (R210, R213). -/
def State.atomicAt (s : State) (p pa t op : Nat) (ty : Ty) (b c leaf : Nat) (cached : Bool) : Nat × State :=
  let n := ty.width / 8
  let old := s.physRead p pa n
  match atomicNew op ty old b c with
  | none => (old, s.homeRead (pa / 64) t)
  | some v =>
    let s := s.setDirtyLeaf p leaf t
    (old, (s.homeWrite (pa / 64) (if leaf = 0 then t else max t (s.wtsOf (leaf / 64)))).lineWrite p (pa / 64) (pa % 64) n v cached)

/-- The answer of an atomic instruction. -/
def State.atomicRes (s : State) (c k : Nat) (ea : Nat ⊕ Nat) (op : Nat) (ty : Ty) (far : Bool) (d : SReg) (b r : Nat) : Res :=
  let n := ty.width / 8
  let info := match ea with | .inl v => v | .inr v => v
  match s.locate c k ea n n (if op = 8 then .cas else .atomic) with
  | .trap cause i => .trap cause i
  | .flash t leaf => .block t (.pageIn leaf)
  | .shut => .retry s.askDram
  | .at_ p t =>
    match p with
    | .core _ _ => .trap .prot info
    | .ctl _ => .trap .prot info
    | .peer _ _ => .trap .prot info
    | .own off =>
      if s.marked c off n || s.guarded c off n then .retry s
      else if s.badSpad c off n then .trap .eccUncorr info
      else
        let old := t.spadRead c off n
        let t := match atomicNew op ty old b r with
          | some v => t.spadStore c off n v
          | none => t
        .ok (t.putVar c k d (atomicOld ty old) 1)
    | .mem pa uc =>
      let line := pa / 64
      let part := t.accPart c k
      let e := t.memberFor c k info
      let leaf := if op = 8 then t.dirtyLeaf c part info else 0
      if t.unordered c k then .retry s
      else if t.dramShut pa then .retry s.askDram
      else if !far && !uc && ownQuadrant c pa && (SMap.get {} t.homes line).holder == some e && !t.bytesBad pa n then
        let t := (t.snoop line).countMismatch part line
        let (old, t) := t.atomicAt part pa (t.core c).pts op ty b r leaf true
        .ok (((t.raisePts (some c) (t.wtsOf line)).l1Hold e part line).putVar c k d (atomicOld ty old) 1)
      else
        let t := t.loseLine e line
        let id := t.nextMsg
        let m : Msg := { t.accMsg c k 0 0x03 (t.homeEp pa uc) pa with
          arg := b, data := toBytes 8 r, size := op + 16 * ty.code.toNat + (if uc then 256 else 0), aux := leaf }
        let t := t.sendCounted c m (Out.blank false (s.ctx c k).pc.toNat info 0)
        .hold t (.reply [{ id := id, off := 0, len := n, nib := 0 }] 0 (.scal d ty) false [])

end Sys2Proof.Machine
end

