-- ==== Sys2Proof/Machine/Control.lean ====
section
/-! DEFINITION. The control family (R307 to R310). -/
namespace Sys2Proof.Machine

/-- The answer with a change of the state that an issued instruction leaves. -/
def Res.map (r : Res) (f : State → State) : Res :=
  match r with
  | .ok s => .ok (f s)
  | .jump s pc => .jump (f s) pc
  | .retry s => .retry s
  | .block s w => .block s w
  | .hold s w => .hold (f s) w
  | .gone s => .gone (f s)
  | .trap c i => .trap c i
  | .trapWith s c i => .trapWith s c i

/-- The PC of the executing instruction. -/
def State.ipc (s : State) : Nat := (s.ctx s.ic s.ik).pc.toNat

/-- NOP has no effect beyond its STALL (R307). -/
def execNop (stall : BitVec 4) (s : State) : Host.Outcome State Fault Refusal :=
  nextState (s.issueSlot stall.toNat none [] [] noCheck .ok)

/-- LPAD executed in sequence has no effect beyond its STALL (R272). -/
def execLpad (stall : BitVec 4) (_k : PadKind) (s : State) : Host.Outcome State Fault Refusal :=
  nextState (s.issueSlot stall.toNat none [] [] noCheck .ok)

/-- J: a direct transfer of control (R308). -/
def execJ (stall : BitVec 4) (imm : Word) (s : State) : Host.Outcome State Fault Refusal :=
  nextState (s.issueSlot stall.toNat none [] [] noCheck fun t =>
    t.goDirect t.ic t.ik (branchTarget t.ipc imm.toNat 61))

/-- JAL: a direct transfer of control with a link (R308). -/
def execJal (stall : BitVec 4) (d : SReg) (imm : Word) (s : State) : Host.Outcome State Fault Refusal :=
  nextState (s.issueSlot stall.toNat none [] [.scal d] noCheck fun t =>
    (t.goDirect t.ic t.ik (branchTarget t.ipc imm.toNat 61)).map fun u => u.putS t.ic t.ik d (nextPc t.ipc) 1)

/-- JR: an indirect transfer of control to an LPAD.J (R308). -/
def execJr (c : Ctl) (a : SReg) (imm : BitVec 48) (s : State) : Host.Outcome State Fault Refusal :=
  nextState (s.issueSlot c.stall.toNat c.pred [.scal a] [] noCheck fun t =>
    t.goIndirect t.ic t.ik ((t.rs a + imm64 imm) % 2 ^ 64) .jump)

/-- JALR: an indirect transfer of control to an LPAD.C with a link (R308). -/
def execJalr (c : Ctl) (d a : SReg) (imm : BitVec 48) (s : State) : Host.Outcome State Fault Refusal :=
  nextState (s.issueSlot c.stall.toNat c.pred [.scal a] [.scal d] noCheck fun t =>
    (t.goIndirect t.ic t.ik ((t.rs a + imm64 imm) % 2 ^ 64) .call).map fun u => u.putS t.ic t.ik d (nextPc t.ipc) 1)

/-- RET: an indirect transfer of control to an LPAD.R (R308). -/
def execRet (c : Ctl) (a : SReg) (s : State) : Host.Outcome State Fault Refusal :=
  nextState (s.issueSlot c.stall.toNat c.pred [.scal a] [] noCheck fun t => t.goIndirect t.ic t.ik (t.rs a) .ret)

/-- BRC: a branch on the comparison of two registers in a type (R304, R308). -/
def execBrc (c : Ctl) (ty : Ty) (cond : Cond) (a b : SReg) (imm : BitVec 48) (s : State) : Host.Outcome State Fault Refusal :=
  nextState (s.issueSlot c.stall.toNat c.pred [.scal a, .scal b] [] noCheck fun t =>
    if condI cond (decI ty (t.rs a)) (decI ty (t.rs b)) then t.goDirect t.ic t.ik (branchTarget t.ipc imm.toNat 45) else .ok t)

/-- BRZ: a branch on all 64 bits of a register being zero or not (R308). -/
def execBrz (c : Ctl) (ne : Bool) (a : SReg) (imm : BitVec 48) (s : State) : Host.Outcome State Fault Refusal :=
  nextState (s.issueSlot c.stall.toNat c.pred [.scal a] [] noCheck fun t =>
    if (t.rs a == 0) == !ne then t.goDirect t.ic t.ik (branchTarget t.ipc imm.toNat 45) else .ok t)

/-- LOOP: the counter less 1 is written, and the branch is taken while it is not zero (R308, R319). -/
def execLoop (c : Ctl) (d : SReg) (imm : BitVec 48) (s : State) : Host.Outcome State Fault Refusal :=
  nextState (s.issueSlot c.stall.toNat c.pred [.scal d] [.scal d] noCheck fun t =>
    let n := (t.rs d + ones64) % 2 ^ 64
    (if n ≠ 0 then t.goDirect t.ic t.ik (branchTarget t.ipc imm.toNat 45) else .ok t).map fun u => u.putVar t.ic t.ik d n 1)

/-- TRAP raises BREAK with its immediate (R310). -/
def execTrap (c : Ctl) (imm : BitVec 48) (s : State) : Host.Outcome State Fault Refusal :=
  nextState (s.issueSlot c.stall.toNat c.pred [] [] noCheck fun _ => .trap .brk imm.toNat)

/-- ERET: the return from a trap (R310). -/
def execEret (c : Ctl) (s : State) : Host.Outcome State Fault Refusal :=
  nextState (s.issueSlot c.stall.toNat c.pred [] [] noCheck fun t =>
    .jump (t.eret t.ic t.ik).1 (t.eret t.ic t.ik).2)

end Sys2Proof.Machine
end

