-- ==== Sys2Proof/Machine/Pointer.lean ====
section
/-! DEFINITION. The pointer family (R320 to R324). -/
namespace Sys2Proof.Machine

/-- walk(p, inc): the chunk walk, or nothing where a reserved ORDER traps (R321). -/
def walkPtr (p : Nat) (inc : Int) : Option Nat :=
  if bit p 63 = 0 then some (setBits p 31 0 (wrap 32 ((bits p 31 0 : Nat) + inc)))
  else if 2 ≤ bits p 53 52 then none
  else
    let xy := bits p 53 52 == 0
    let cb := 2 ^ (bits p 51 48 + 4)
    let xs := bits p 56 54 + 1
    let ys := bits p 59 57 + 1
    let n := xs * ys
    let px := bits p 35 32
    let py := bits p 39 36
    let x0 := px - px % xs
    let y0 := py - py % ys
    let dx := px - x0
    let dy := py - y0
    let ci := if xy then dy * xs + dx else dx * ys + dy
    let die := bits p 42 40
    let (nd, d0) : Nat × Nat := if bit p 62 = 1 && decide (die ≤ 3) then (4, 0) else (1, die)
    let m := n * nd
    let lin0 : Int := ((((bits p 31 0 / cb) * m + (die - d0) * n + ci) * cb + bits p 31 0 % cb : Nat) : Int) + inc
    let lin := (lin0 % ((2 ^ 32 * m : Nat) : Int)).toNat
    let q := lin / cb
    let i := q % m
    let ci := i % n
    let p := setBits p 31 0 ((q / m) * cb + lin % cb)
    let p := setBits p 42 40 (d0 + i / n)
    some (if xy then setBits (setBits p 35 32 (x0 + ci % xs)) 39 36 (y0 + ci / xs)
      else setBits (setBits p 39 36 (y0 + ci % ys)) 35 32 (x0 + ci / ys))

/-- PADD: the chunk walk by a register or an immediate; a reserved ORDER traps with PROT (R320, R322). -/
def execPadd (c : Ctl) (d a : SReg) (b : SrcB) (s : State) : Host.Outcome State Fault Refusal :=
  nextState (s.issueSlot c.stall.toNat c.pred (.scal a :: SrcBReads b) [.scal d] noCheck fun t =>
    match walkPtr (t.rs a) (sval 64 (t.srcB b)) with
    | some p => .ok (t.putS t.ic t.ik d p 1)
    | none => .trap .prot (t.rs a))

/-- PSET: the offset, or the core coordinates in the layout of ISLAND.CORE (R320). -/
def execPset (c : Ctl) (core : Bool) (d a b : SReg) (s : State) : Host.Outcome State Fault Refusal :=
  nextState (s.issueSlot c.stall.toNat c.pred [.scal a, .scal b] [.scal d] noCheck fun t =>
    let p := t.rs a
    let v := t.rs b
    .ok (t.putS t.ic t.ik d
      (if core then setBits (setBits (setBits p 42 40 (bits v 10 8)) 39 36 (bits v 7 4)) 35 32 (bits v 3 0)
        else setBits p 31 0 v) 1))

/-- PGET: the offset, the core coordinates, or the control bits in place (R320). -/
def execPget (c : Ctl) (field : BitVec 2) (d a : SReg) (s : State) : Host.Outcome State Fault Refusal :=
  nextState (s.issueSlot c.stall.toNat c.pred [.scal a] [.scal d] noCheck fun t =>
    let p := t.rs a
    .ok (t.putS t.ic t.ik d
      (if field = 0 then bits p 31 0
        else if field = 1 then bits p 42 40 * 256 + bits p 39 36 * 16 + bits p 35 32
        else bits p 63 48 * 2 ^ 48) 1))

/-- PWALK: the walk control; the register form writes bits [61:60] as zero (R320, R323). -/
def execPwalk (c : Ctl) (d a : SReg) (b : SrcB) (s : State) : Host.Outcome State Fault Refusal :=
  nextState (s.issueSlot c.stall.toNat c.pred (.scal a :: SrcBReads b) [.scal d] noCheck fun t =>
    let v := match b with
      | .reg r => setBits (bits (t.rs r) 63 48) 13 12 0
      | .imm i => i.toNat % 2 ^ 16
    .ok (t.putS t.ic t.ik d (setBits (t.rs a) 63 48 v) 1))

/-- LEA: an address computed without an access (R324). -/
def execLea (c : Ctl) (scale : BitVec 2) (d a b : SReg) (disp : BitVec 48) (s : State) : Host.Outcome State Fault Refusal :=
  nextState (s.issueSlot c.stall.toNat c.pred [.scal a, .scal b] [.scal d] noCheck fun t =>
    let x := t.rs b * 2 ^ scale.toNat
    .ok (t.putS t.ic t.ik d
      (if isPtr a then meshBase + bits (t.rs a) 47 32 * 2 ^ 32 + (t.rs a % 2 ^ 32 + x + imm64 disp) % 2 ^ 32
        else (t.rs a + x + imm64 disp) % 2 ^ 64) 1))

end Sys2Proof.Machine
end

