-- ==== Sys2Proof/Machine/Memory.lean ====
section
/-! DEFINITION. The memory family (R325 to R337). -/
namespace Sys2Proof.Machine

/-! ### Scalar loads and stores -/

/-- Bytes of a scalar access of a type. -/
def Bytes (ty : Ty) : Nat := ty.width / 8

/-- A load of a typed scalar at an address, with what its instruction does when the value is there, at once or in an answer (R329). -/
def State.loadScalar (s : State) (ty : Ty) (d : SReg) (va : Nat) (fin : Finish) (f : State → State) : Res :=
  let n := Bytes ty
  s.loadRes s.ic s.ik n [{ va := va, len := n, off := 0, nib := 0 }] fin fun t v => f (t.putVar t.ic t.ik d (ty.widen v) 1)

/-- A store of a typed scalar at an address, with a change that its instruction makes besides (R329). -/
def State.storeScalar (s : State) (ty : Ty) (va v : Nat) (f : State → State) : Res :=
  let n := Bytes ty
  s.storeRes s.ic s.ik n [({ va := va, len := n, off := 0, nib := 0 }, v % 2 ^ ty.width)] f

/-- LD: a scalar load (R329). -/
def execLd (c : Ctl) (ty : Ty) (d a b : SReg) (disp : BitVec 48) (s : State) : Host.Outcome State Fault Refusal :=
  nextState (s.issueSlot c.stall.toNat c.pred [.scal a, .scal b] [.scal d] (ctlCheck fun t => t.ea a b disp) fun t =>
    t.loadScalar ty d (eaVal (t.ea a b disp)) (.scal d ty) id)

/-- ST: a scalar store (R329). -/
def execSt (c : Ctl) (ty : Ty) (a b r : SReg) (disp : BitVec 48) (s : State) : Host.Outcome State Fault Refusal :=
  nextState (s.issueSlot c.stall.toNat c.pred [.scal a, .scal b, .scal r] [] (ctlCheck fun t => t.ea a b disp) fun t =>
    t.storeScalar ty (eaVal (t.ea a b disp)) (t.rs r) id)

/-- The scalar-class specifier of a pointer register (R235). -/
def ptrSpec (p : PReg) : SReg := (2 : BitVec 2) ++ p

/-- Registers that an increment reads. -/
def incReads (i : Inc) : List Dest :=
  match i with
  | .reg r => [.scal r]
  | .size => []
  | .imm _ => []

/-- The increment of a post-increment access (R330). -/
def State.incOf (s : State) (ty : Ty) (i : Inc) : Int :=
  match i with
  | .size => (Bytes ty : Nat)
  | .imm v => sval 48 v.toNat
  | .reg r => sval 64 (s.rs r)

/-- The mesh-window address that a pointer names (R330). -/
def ptrAddr (p : Nat) : Nat := meshBase + p % 2 ^ 48

/-- What LDP and STP trap with where the walk fails: MISALIGN comes before PROT (R137, R330). -/
def walkTrap (ty : Ty) (p : Nat) : Res := if ptrAddr p % Bytes ty ≠ 0 then .trap .misalign (ptrAddr p) else .trap .prot p

/-- LDP: a load through a pointer, which then walks, also where the value comes in an answer; a load that traps leaves the pointer, and a
destination equal to the pointer keeps the loaded value (R330). -/
def execLdp (c : Ctl) (ty : Ty) (d : SReg) (p : PReg) (inc : Inc) (s : State) : Host.Outcome State Fault Refusal :=
  let a := ptrSpec p
  nextState (s.issueSlot c.stall.toNat c.pred (.scal a :: incReads inc) [.scal d, .scal a] noCheck fun t =>
    match walkPtr (t.rs a) (t.incOf ty inc) with
    | none => walkTrap ty (t.rs a)
    | some q => if d = a then t.loadScalar ty d (ptrAddr (t.rs a)) (.scal d ty) id
      else t.loadScalar ty d (ptrAddr (t.rs a)) (.ptr d ty a q) fun u => u.putS u.ic u.ik a q 1)

/-- STP: a store through a pointer, which then walks (R330). -/
def execStp (c : Ctl) (ty : Ty) (p : PReg) (inc : Inc) (r : SReg) (s : State) : Host.Outcome State Fault Refusal :=
  let a := ptrSpec p
  nextState (s.issueSlot c.stall.toNat c.pred ([.scal a, .scal r] ++ incReads inc) [.scal a] noCheck fun t =>
    match walkPtr (t.rs a) (t.incOf ty inc) with
    | none => walkTrap ty (t.rs a)
    | some q => t.storeScalar ty (ptrAddr (t.rs a)) (t.rs r) fun u => u.putS u.ic u.ik a q 1)

/-! ### Vector loads and stores (R331 to R333) -/

/-- Registers that an active extent reads. -/
def optReads (x : Option SReg) : List Dest :=
  match x with
  | some r => [.scal r]
  | none => []

/-- The element count of a vector access: the grant, the register's capacity, a further limit, and the active extent (R331). -/
def State.memExtent (s : State) (h : ShReg) (ty : Ty) (cap : Nat) (x : Option SReg) : Nat :=
  let e := min (min (s.grant h % 2 ^ 16) (2048 / ty.width)) cap
  match x with
  | some r => min e (s.rs r % 2 ^ 16)
  | none => e

/-- The chunk of element `e` at an address; a 4-bit element alone in its byte takes one nibble (R249, R332, R333). -/
def elemChunk (ty : Ty) (va e : Nat) : Chunk :=
  if ty.width = 4 then { va := va, len := 1, off := 4 * e, nib := if e % 2 = 0 then 1 else 2 }
  else { va := va, len := ty.width / 8, off := e * ty.width / 8, nib := 0 }

/-- The chunks of E contiguous elements from an address: a chunk for each element, and one for each pair of 4-bit elements (R332). -/
def runChunks (ty : Ty) (va e : Nat) : List Chunk :=
  if ty.width = 4 then
    ((List.range (e / 2)).map fun i => ({ va := va + i, len := 1, off := i, nib := 0 } : Chunk))
      ++ (if e % 2 = 1 then [elemChunk ty (va + e / 2) (e - 1)] else [])
  else (List.range e).map fun i => elemChunk ty (va + i * (ty.width / 8)) i

/-- The chunks of E gathered or scattered elements (R332). -/
def gatherChunks (ty : Ty) (va idx e : Nat) : List Chunk :=
  (List.range e).map fun i => elemChunk ty (wrap 64 ((va : Int) + sval 32 (idx >>> (32 * i)))) i

/-- The value that a chunk stores from a vector register. -/
def chunkVal (v : Nat) (ch : Chunk) : Chunk × Nat :=
  (ch, if ch.nib = 0 then (v >>> (8 * ch.off)) % 2 ^ (8 * ch.len) else (v >>> ch.off) % 16)

/-- Alignment of the elements of a type in bytes (R326). -/
def elemAlign (ty : Ty) : Nat := max 1 (ty.width / 8)

/-- The bits that a vector load writes: its elements, and the tail under the policy TZ (R331). -/
def loadMask (gm wd e : Nat) (tu : Bool) : Nat := (2 ^ (e * wd) - 1) ||| (if tu then 0 else tailMask gm wd (e * wd))

/-- A vector load of chunks, with its tail (R331, R333). -/
def State.loadVec (s : State) (ty : Ty) (d : VReg) (h : ShReg) (e : Nat) (chunks : List Chunk) : Res :=
  let m := loadMask (s.grant h % 2 ^ 16) ty.width e (s.tailTu h)
  s.loadRes s.ic s.ik (elemAlign ty) chunks (.vec d m) fun t v => t.putV t.ic t.ik d m v 1 false

/-- The address that traps whatever the extent is (R325). -/
def badBase (ea : Nat ⊕ Nat) : Option (Cause × Nat) :=
  match ea with
  | .inl _ => none
  | .inr v => some (.prot, v)

/-- A vector access of no element still computes its address (R325). -/
def noElems (ea : Nat ⊕ Nat) (e : Nat) (r : Res) : Res :=
  match ea with
  | .inl _ => r
  | .inr v => if e = 0 then .trap .prot v else r

/-- The check of a vector access's first address, where it has an element, and of its shape (R137). -/
def vecCheck (sh : ShReg) (ea : State → Nat ⊕ Nat) (e : State → Nat) : State → Option (Cause × Nat) :=
  bothChecks (ctlCheck fun t => if e t = 0 then .inl 0 else ea t) (shapeCheck sh [0])

/-- LDV: contiguous elements (R331, R332). -/
def execLdv (c : Ctl) (ty : Ty) (d : VReg) (a : SReg) (sh : ShReg) (x : Option SReg) (disp : BitVec 48) (s : State) :
    Host.Outcome State Fault Refusal :=
  nextState (s.issueSlot c.stall.toNat c.pred ([.scal a, .shape sh] ++ optReads x) [.vec d]
      (vecCheck sh (fun t => t.ea a 0 disp) fun t => t.memExtent sh ty 2048 x) fun t =>
    let ea := t.ea a 0 disp
    let e := t.memExtent sh ty 2048 x
    noElems ea e (t.loadVec ty d sh e (runChunks ty (eaVal ea) e)))

/-- STV: contiguous elements stored, all of them checked first (R332, R333). -/
def execStv (c : Ctl) (ty : Ty) (d : VReg) (a : SReg) (sh : ShReg) (x : Option SReg) (disp : BitVec 48) (s : State) :
    Host.Outcome State Fault Refusal :=
  nextState (s.issueSlot c.stall.toNat c.pred ([.scal a, .shape sh, .vec d] ++ optReads x) []
      (vecCheck sh (fun t => t.ea a 0 disp) fun t => t.memExtent sh ty 2048 x) fun t =>
    let ea := t.ea a 0 disp
    let e := t.memExtent sh ty 2048 x
    noElems ea e (t.storeRes t.ic t.ik (elemAlign ty) ((runChunks ty (eaVal ea) e).map (chunkVal (t.rv d))) id))

/-- The address of a gather's or scatter's first element (R332). -/
def State.firstElem (s : State) (a : SReg) (b : VReg) (disp : BitVec 48) : Nat ⊕ Nat :=
  match s.ea a 0 disp with
  | .inl va => .inl (wrap 64 ((va : Int) + sval 32 (s.rv b)))
  | .inr v => .inr v

/-- What a gather or scatter answers whose base lies beyond 56 bits: MISALIGN where an element's address is misaligned, else PROT (R137, R325, R332). -/
def badGather (ty : Ty) (ea : Nat ⊕ Nat) (chunks : List Chunk) : Option Res :=
  (badBase ea).map fun x =>
    match chunks.find? fun ch => ch.va % elemAlign ty != 0 with
    | some ch => .trap .misalign ch.va
    | none => .trap x.1 x.2

/-- LDVG: a gather by an index vector (R331, R332). -/
def execLdvg (c : Ctl) (ty : Ty) (d : VReg) (a : SReg) (b : VReg) (sh : ShReg) (disp : BitVec 48) (s : State) :
    Host.Outcome State Fault Refusal :=
  nextState (s.issueSlot c.stall.toNat c.pred [.scal a, .shape sh, .vec b] [.vec d]
      (vecCheck sh (fun t => t.firstElem a b disp) fun t => t.memExtent sh ty 64 none) fun t =>
    let ea := t.ea a 0 disp
    let e := t.memExtent sh ty 64 none
    let chunks := gatherChunks ty (eaVal ea) (t.rv b) e
    match badGather ty ea chunks with
    | some r => r
    | none => t.loadVec ty d sh e chunks)

/-- STVS: a scatter by an index vector (R332, R333). -/
def execStvs (c : Ctl) (ty : Ty) (d : VReg) (a : SReg) (b : VReg) (sh : ShReg) (disp : BitVec 48) (s : State) :
    Host.Outcome State Fault Refusal :=
  nextState (s.issueSlot c.stall.toNat c.pred [.scal a, .shape sh, .vec b, .vec d] []
      (vecCheck sh (fun t => t.firstElem a b disp) fun t => t.memExtent sh ty 64 none) fun t =>
    let ea := t.ea a 0 disp
    let e := t.memExtent sh ty 64 none
    let chunks := gatherChunks ty (eaVal ea) (t.rv b) e
    match badGather ty ea chunks with
    | some r => r
    | none => t.storeRes t.ic t.ik (elemAlign ty) (chunks.map (chunkVal (t.rv d))) id)

/-! ### Prefetch, atomics and FENCE -/

/-- The state with a prefetch of a coherent line asked for; every other target drops it (R334). -/
def State.prefetch (s : State) (c k va : Nat) (die : Bool) : State :=
  if 0xFD ≤ va / 2 ^ 48 then s
  else match s.translateFor (s.ctx c k).asid va .read (s.priv c k) with
    | .ok pa b kind _ =>
      if kind = 1 && bit b 6 == 0 && !isSram pa && !s.dramShut pa && !s.unordered c k then
        s.sendCounted c { s.accMsg c k 0 0x01 (s.homeEp pa false) pa with size := if die then 0 else 64 }
          (Out.blank false (s.ctx c k).pc.toNat va 0)
      else s
    | .page => s
    | .prot => s
    | .flash _ _ _ _ => s
    | .shut => s
    | .ecc => s

/-- PREF: a prefetch, which has no architectural effect and raises only PRIV (R334). -/
def execPref (c : Ctl) (die : Bool) (a b : SReg) (disp : BitVec 48) (s : State) : Host.Outcome State Fault Refusal :=
  nextState (s.issueSlot c.stall.toNat c.pred [.scal a, .scal b] [] (ctlCheck fun t => t.ea a b disp) fun t =>
    match t.ea a b disp with
    | .inr _ => .ok t
    | .inl va => .ok (t.prefetch t.ic t.ik va die))

/-- AMO: an atomic read and write of a word (R335, R336). -/
def execAmo (c : Ctl) (ty : Ty) (op : BitVec 3) (far : Bool) (d a b : SReg) (disp : BitVec 48) (s : State) :
    Host.Outcome State Fault Refusal :=
  nextState (s.issueSlot c.stall.toNat c.pred [.scal a, .scal b] [.scal d] (ctlCheck fun t => t.ea a 0 disp) fun t =>
    t.atomicRes t.ic t.ik (t.ea a 0 disp) op.toNat ty far d (t.rs b) 0)

/-- CAS: an atomic compare and swap of a word (R335, R336). -/
def execCas (c : Ctl) (ty : Ty) (far : Bool) (d a b r : SReg) (disp : BitVec 48) (s : State) : Host.Outcome State Fault Refusal :=
  nextState (s.issueSlot c.stall.toNat c.pred [.scal a, .scal b, .scal r] [.scal d] (ctlCheck fun t => t.ea a 0 disp) fun t =>
    t.atomicRes t.ic t.ik (t.ea a 0 disp) 8 ty far d (t.rs b) (t.rs r))

/-- A command that a firing, or its context before it, issued with REL and that has not completed (R222). -/
def CmdCtl.relOf (x : CmdCtl) (h k : Nat) : Bool := x.rel && (x.handle == h || x.ctx == k)

/-- Engine commands that the context's firing issued with REL are still under way (R222). -/
def State.relPending (s : State) (c k : Nat) : Bool :=
  let h := s.handleOf c k
  ((s.apart c).inbox.any fun e => e.2.ctl.relOf h k) || ((s.apart c).chans.any fun e => e.2.kind != 2 && e.2.ctl.relOf h k)
    || (s.lauters.any fun e => e.2.inbox.any fun l => l.src == epCore c && l.ctl.relOf h k)
    || (s.net.any fun m => m.op == 0x26 && m.src == epCore c && m.keepHi && (ofBytes ((m.data.drop 32).take 8) == h || m.ctx == k))

/-- A FENCE of a context at a scope is complete (R222). -/
def State.fenceDone (s : State) (c k scope : Nat) : Bool :=
  let h := s.firingOf c k
  !s.unordered c k && !((s.core c).out.any fun o => o.by h (some k) && o.op == 0x23) && !s.relPending c k
    && !(s.heldBack c h (some k) fun _ => true)
    && (scope != 3 || !s.sysPending || s.power.dram == 0)

/-- An observation acquire of a core (R217). -/
def State.acquire (s : State) (c : Nat) : State := s.modCore c fun n => { n with acqTime := s.now }

/-- The state after a FENCE completed: at SYS scope the lines go back to DRAM, and the core acquires (R219, R222). -/
def State.fenceEnd (s : State) (c scope : Nat) : State := (if scope = 3 then s.sysRelease else s).acquire c

/-- The state in which a release at SYS scope asks for the DRAM that it writes to (R50, R219). -/
def State.fenceAsk (s : State) (scope : Nat) : State := if scope == 3 && s.sysPending && s.power.dram != 0 then s.askDram else s

/-- FENCE: waits until its scope's conditions hold, then acquires (R222, R337). -/
def execFence (c : Ctl) (scope : Scope) (s : State) : Host.Outcome State Fault Refusal :=
  let n := match scope with | .core => 0 | .die => 1 | .dev => 2 | .sys => 3
  nextState (s.issueSlot c.stall.toNat c.pred [] [] noCheck fun t =>
    if t.fenceDone t.ic t.ik n then .ok (t.fenceEnd t.ic n) else .hold (t.fenceAsk n) (.fence n))

end Sys2Proof.Machine
end

