-- ==== Sys2Proof/Machine/Home.lean ====
section
/-! DEFINITION. What a message's destination does with it: coherent homes, remote-access windows, deposits and barriers
(R121 to R124, R184 to R189, R210, R344 to R347). -/
namespace Sys2Proof.Machine

/-! ### Answers -/

/-- The state with an answer to a message sent back to its source, on another package where the message came from there (R24, R36). -/
def State.answerMsg (s : State) (m : Msg) (op arg : Nat) (data : List Byte := []) (pts aux : Nat := 0) (poison : Bool := false) : State :=
  if !m.ack then s
  else s.send { id := 0, src := m.dst, dst := m.src, dpkg := m.spkg, far := m.spkg != m.dpkg, part := m.part, ch := op / 16, op := op
                arg := arg, taddr := m.taddr, data := data, ctx := m.ctx, lid := m.lid, re := m.id, pts := pts, size := m.size, aux := aux
                poison := poison }

/-- The state with a message refused for a reason (R184). -/
def State.refuse (s : State) (m : Msg) (reason : Nat) : State := s.answerMsg m 0x29 reason

/-! ### Coherent homes (R188, R210) -/

/-- A request goes through an uncached leaf: an atomic other than a barrier operation says so in its size word, the others in `aux` (R190). -/
def Msg.uncached (m : Msg) : Bool :=
  if m.op = 0x03 then (if m.size = 0x1000 then m.aux == 1 else decide (256 ≤ m.size)) else m.aux == 1

/-- A cached request that has come to a place that is not the line's home (R188). -/
def State.wrongHome (s : State) (m : Msg) : Bool := !isSram m.taddr && !m.uncached && m.dst != s.homeEp m.taddr false

/-- Read with lease at a line's home, or a read of the exact size for an uncached one (R190, R210); data known to be uncorrectable goes with POISON
(R28, R31). -/
def State.homeReadMsg (s : State) (m : Msg) : State :=
  let line := m.taddr / 64
  let exact := m.uncached || isSram m.taddr
  let t := (s.countMismatch m.part line).homeRead line m.pts
  let bad := if exact then t.bytesBad m.taddr m.size else t.lineBad line
  let h := SMap.get {} t.homes line
  if exact then
    t.send { id := 0, src := m.dst, dst := m.src, part := m.part, ch := 1, op := 0x11, arg := h.wts, taddr := m.taddr, ctx := m.ctx
             lid := m.lid, re := m.id, data := toBytes m.size (t.physRead m.part m.taddr m.size), poison := bad, keepLo := true }
  else
    (t.holdLine line).send { id := 0, src := m.dst, dst := m.src, part := m.part, ch := 1, op := 0x11, arg := h.wts, aux := h.rts, pts := t.now
                             taddr := m.taddr, ctx := m.ctx, lid := m.lid, re := m.id, size := m.size, poison := bad
                             data := toBytes 64 (t.lineFor m.part line) }

/-- `n` bytes of a store that keeps the low nibble of its first byte, or the high nibble of its last, from the old bytes (R26). -/
def keepNib (n old new : Nat) (lo hi : Bool) : Nat :=
  let v := if lo then setBits new 3 0 old else new
  if hi && n != 0 then setBits v (8 * n - 1) (8 * n - 4) (bits old (8 * n - 1) (8 * n - 4)) else v

/-- Write through to home (R187, R190, R210). -/
def State.homeWriteMsg (s : State) (m : Msg) : State :=
  let line := m.taddr / 64
  let n := m.data.length
  let s := s.homeWrite line m.pts
  let v := keepNib n (s.physRead m.part m.taddr n) (ofBytes m.data) m.keepLo m.keepHi
  let h := SMap.get {} s.homes line
  let s := { s with homes := SMap.put s.homes line { h with holder := none } }
  (s.lineWrite m.part line (m.taddr % 64) n v (!m.uncached)).answerMsg m 0x12 h.wts

/-- Far atomic at its target (R210, R213, R335); over data known to be uncorrectable it stores nothing and is answered with POISON (R28, R31). -/
def State.homeAtomicMsg (s : State) (m : Msg) : State :=
  let line := m.taddr / 64
  let ty := tyOfNat (m.size / 16 % 16)
  let s := (s.countMismatch m.part line).readDram line
  if s.bytesBad m.taddr (ty.width / 8) then s.answerMsg m 0x13 0 [] 0 0 true
  else
    let (old, s) := s.atomicAt m.part m.taddr m.pts (m.size % 16) ty m.arg (ofBytes m.data) m.aux (!m.uncached)
    let h := SMap.get {} s.homes line
    let s := { s with homes := SMap.put s.homes line { h with holder := none } }
    s.answerMsg m 0x13 old [] 0 h.wts

/-! ### Remote-access windows (R183, R184) -/

/-- A window admits a source: any core of the partition, a member of its group, or with ANYG another agent (R184). -/
def State.admits (s : State) (w p : Nat) (m : Msg) : Bool :=
  if m.spkg != m.dpkg then bit w 59 == 1 && bit w 60 == 1
  else if bit w 60 = 1 then true
  else epIsCore m.src && s.groupHas p (bits w 58 51) (coreOfEp m.src)

/-- Some window of a core grants an access to `n` bytes (R184); the spill area in use is never granted (R177). -/
def State.granted (s : State) (c off n : Nat) (write : Bool) (m : Msg) : Bool :=
  let p := (s.core c).active
  decide (off + n ≤ spadSize c) && !s.spillMeets c off n
  && (s.cpart c p).rwin.any fun e =>
    let w := e.2
    bit w 63 == 1 && bit w (if write then 61 else 62) == 1 && decide (bits w 14 0 * 64 ≤ off) && decide (off + n ≤ bits w 34 20 * 64)
      && s.admits w p m

/-- What an owner's network interface makes of a message before it looks at its target (R128 to R130, R184). -/
inductive Gate where
  | pass
  | park
  | refuse (reason : Nat)
  deriving DecidableEq, Repr

/-- The parked queue of a partition is full, apart from its answer areas; it holds what a racked actor's old home forwards too (R130, R167). -/
def State.parkFull (s : State) (p : Nat) : Bool :=
  decide (4096 ≤ (s.parked.filter fun x => x.part == p && (x.held == 1 || x.held == 3) && countedOp x.ch x.op).length)

/-- The first checks of a message at a core (R128, R130, R184). -/
def State.gate (s : State) (c : Nat) (m : Msg) : Gate :=
  if (s.core c).fenced then .refuse 2
  else if m.part = (s.core c).active then .pass
  else if !s.inShare m.part c then .refuse 5
  else if s.parkFull m.part then .refuse 3
  else .park

/-- The state with a message in its partition's parked queue (R129, R130). -/
def State.park (s : State) (m : Msg) : State := { s with parked := s.parked ++ [{ m with held := 1 }] }

/-! ### Deposits (R185, R186) -/

/-- Start of the workspace of the active partition that an offset of a core's scratchpad lies in: of a context that holds a firing,
or of a placed actor. -/
def State.workspaceAt (s : State) (c off : Nat) : Option Nat :=
  let inside (w n : Nat) : Bool := decide (w ≤ off) && decide (off < w + n)
  match (s.liveCtxs c).find? fun e => inside e.2.wptr (match e.2.firing with | some f => f.wsize * 64 | none => 0) with
  | some e => some e.2.wptr
  | none => ((s.allocsOf c (s.core c).active).find? fun a => a.kind == 0 && inside a.start a.len).map fun a => a.start

/-- The bit of DEPMASK that a deposit at a workspace offset sets under a window word, if the window covers it (R185). -/
def depBit (w i o : Nat) : Option Nat :=
  if bit w 63 = 1 && decide (bits w 19 3 * 8 ≤ o) && decide (o < bits w 51 32) then some (32 * i + (o - bits w 19 3 * 8) / 8 % 32) else none

/-- A deposit into a core's active scratchpad: the state after it was accepted, behind the results that land in its cycle, or the reason of its refusal
(R185, R186). -/
def State.deposit (s : State) (c off v : Nat) : Nat ⊕ State :=
  match s.workspaceAt c off with
  | none => .inl 1
  | some w =>
    let o := off - w
    let b := match depBit (s.spadRead c (w + 0x238) 8) 0 o with
      | some i => some i
      | none => depBit (s.spadRead c (w + 0x240) 8) 1 o
    match (if o % 8 = 0 then b else none) with
    | none => .inl 0
    | some i =>
      let s := (s.liveCtxs c).foldl (fun (t : State) e =>
        if e.2.wptr = w then t.landSel c e.1 fun p => decide (p.due ≤ s.cycle c) else t) s
      let s := s.spadStore c off 8 v
      let s := s.spadWrite c (w + 0x230) 8 (s.spadRead c (w + 0x230) 8 ||| 2 ^ i)
      .inr (s.spadWrite c (w + 0x200) 8 (s.spadRead c (w + 0x200) 8 ||| 2))

/-! ### Barriers (R121 to R123) -/

/-- Where a barrier lies. -/
inductive BarLoc where
  | spad (c p off : Nat)
  | mem (p pa : Nat) (uc : Bool)
  deriving DecidableEq, Repr

/-- The 32 bytes of a barrier as one number. -/
def State.barRead (s : State) (b : BarLoc) : Nat :=
  match b with
  | .spad c p off => Memory.readN s.mem (spadKey c p off) 32
  | .mem p pa _ => s.physRead p pa 32

/-- The state with the 32 bytes of a barrier written: in memory as a far atomic at a logical time, in a scratchpad under the marks of a register area
(R8, R210, R236, R344). -/
def State.barWrite (s : State) (b : BarLoc) (v t : Nat) : State :=
  match b with
  | .spad c p off =>
    let a := (s.core c).active
    if p = a then s.spadStore c off 32 v
    else
      let t := (({ s with ctxs := [] } : State).modCore c fun k => { k with active := p }).spadStore c off 32 v
      { t.modCore c (fun k => { k with active := a }) with ctxs := s.ctxs }
  | .mem p pa uc => (s.homeWrite (pa / 64) t).lineWrite p (pa / 64) (pa % 64) 32 v (!uc)

/-- Write time of a barrier in memory, which its answers carry (R210). -/
def State.barWts (s : State) (b : BarLoc) : Nat :=
  match b with
  | .spad _ _ _ => 0
  | .mem _ pa _ => s.wtsOf (pa / 64)

/-- GEN. -/
def bGen (v : Nat) : Nat := bits v 31 0
/-- EXP. -/
def bExp (v : Nat) : Nat := bits v 63 32
/-- ARR. -/
def bArr (v : Nat) : Nat := bits v 95 64
/-- BEATS. -/
def bBeats (v : Nat) : Nat := bits v 127 96
/-- STATUS. -/
def bStatus (v : Nat) : Nat := bits v 191 128

/-- The barrier after the completion test (R122). -/
def barTest (v : Nat) (landed : Bool) : Nat :=
  if decide (bExp v ≤ bArr v) && bBeats v == 0 && (bExp v != 0 || landed) then
    setBits (setBits v 31 0 (bGen v + 1)) 95 64 (bArr v - bExp v)
  else v

/-- The operations at a barrier's home. -/
inductive BarOp where
  | arrive (n : Nat)
  | landed (n : Nat)
  | expect (n : Nat)
  | init (n : Nat)
  /-- status(code, sub, info) with TRAPF and the ORIGIN word. -/
  | status (code sub info : Nat) (trapf : Bool) (origin : Nat)
  deriving DecidableEq, Repr

/-- The barrier after an operation (R122, R123, R345). -/
def barApply (v : Nat) (o : BarOp) : Nat :=
  match o with
  | .arrive n => barTest (setBits v 95 64 (bArr v + n)) false
  | .landed n => barTest (setBits v 127 96 (bBeats v + 2 ^ 32 - n % 2 ^ 32)) true
  | .expect n => setBits v 127 96 (bBeats v + n)
  | .init n => n % 2 ^ 32 * 2 ^ 32
  | .status code sub info trapf origin =>
    let st := bStatus v
    let (st, org) := if bits st 7 0 = 0 then
        (setBits (setBits (setBits st 7 0 code) 15 8 sub) 63 32 info, origin)
      else (st, bits v 255 192)
    let st := if trapf then setBits st 16 16 1 else st
    let st := setBits st 31 24 (min (bits st 31 24 + 1) 255)
    setBits (setBits v 191 128 st) 255 192 org

/-- Key of the waiters of a memory home: the quadrant, or 4 for cellar SRAM. -/
def waitHome (pa : Nat) : Nat := if isSram pa then 4 else quadrant pa

/-- The waiters registered at a barrier's home. -/
def State.waitersAt (s : State) (b : BarLoc) : List Waiter :=
  match b with
  | .spad c _ _ => (s.core c).waiters
  | .mem _ pa _ => SMap.get [] s.homeWaiters (waitHome pa)

/-- The state with the waiters of a barrier's home replaced. -/
def State.setWaiters (s : State) (b : BarLoc) (l : List Waiter) : State :=
  match b with
  | .spad c _ _ => s.modCore c fun k => { k with waiters := l }
  | .mem _ pa _ => { s with homeWaiters := SMap.put s.homeWaiters (waitHome pa) l }

/-- A waiter waits at a barrier. -/
def Waiter.at_ (w : Waiter) (b : BarLoc) : Bool :=
  match b with
  | .spad _ p off => w.addr == off && w.part == p
  | .mem _ pa _ => w.addr == pa

/-- Endpoint at which a barrier's operations are performed. -/
def State.barEp (s : State) (b : BarLoc) : Nat :=
  match b with
  | .spad c _ _ => epCore c
  | .mem _ pa uc => s.homeEp pa uc

/-- The state with a wait answered: GEN in ARG and STATUS in the body; `unreg` returns it unregistered (R347). -/
def State.answerWait (s : State) (b : BarLoc) (w : Waiter) (v : Nat) (unreg : Bool) : State :=
  let mem : Bool := match b with | .mem _ _ _ => true | .spad _ _ _ => false
  s.send { id := 0, src := s.barEp b, dst := w.src, part := w.part, ch := if mem then 1 else 2, op := if mem then 0x13 else 0x24
           arg := bGen v, data := toBytes 8 (bStatus v), taddr := w.addr, ctx := w.ctx, lid := w.lid, re := w.id, keepLo := unreg, size := 0x1000, aux := s.barWts b }

/-- The state with every waiter of a barrier whose generation has passed answered (R122, R347). -/
def State.releaseWaiters (s : State) (b : BarLoc) : State :=
  let v := s.barRead b
  let l := s.waitersAt b
  let hit (w : Waiter) : Bool := w.at_ b && w.gen != bGen v
  if l.any hit then
    (l.filter hit).foldl (fun s w => s.answerWait b w v false) (s.setWaiters b (l.filter fun w => !hit w))
  else s

/-- An operation performed at a barrier's home at a logical time; it answers the generation before it (R122). -/
def State.barDo (s : State) (b : BarLoc) (o : BarOp) (t : Nat) : Nat × State :=
  let s := match b with | .spad _ _ _ => s | .mem _ pa _ => s.snoop (pa / 64)
  let v := s.barRead b
  (bGen v, (s.barWrite b (barApply v o) t).releaseWaiters b)

/-- A wait at a barrier's home: answered, registered, or returned unregistered where no entry is free (R347). -/
def State.barWait (s : State) (b : BarLoc) (w : Waiter) : State :=
  let v := s.barRead b
  let cap := match b with | .spad _ _ _ => 32 | .mem _ _ _ => 1024
  let l := s.waitersAt b
  if w.gen != bGen v then s.answerWait b w v false
  else if l.length < cap then s.setWaiters b (l ++ [w])
  else s.answerWait b w v true

/-! ### Barrier operations sent (R344, R408) -/

/-- Target of a barrier address for a context: own scratchpad, another core's, or memory. -/
inductive BarPlace where
  | own (off : Nat)
  | core (c va : Nat)
  | mem (pa : Nat) (uc : Bool)
  deriving DecidableEq, Repr

/-- What the checks of a barrier address answer. -/
inductive BarFound where
  | at_ (p : BarPlace) (s : State)
  | trap (cause : Cause) (info : Nat)
  | flash (s : State) (leaf : Nat)
  /-- It waits: for the DRAM, or at a watermark of the own scratchpad (R50, R205). -/
  | wait (s : State)

/-- The checks of a barrier address (R205, R325, R326, R344, R407). -/
def State.barLocate (s : State) (c k : Nat) (ea : Nat ⊕ Nat) : BarFound :=
  match s.locate c k ea 32 32 .atomic with
  | .trap cause info => .trap cause info
  | .flash t leaf => .flash t leaf
  | .shut => .wait s.askDram
  | .at_ p t =>
    match p with
    | .own off => if s.marked c off 32 then .wait s else .at_ (.own off) t
    | .core x _ => .at_ (.core x (eaVal ea)) t
    | .mem pa uc => if t.dramShut pa then .wait s.askDram else .at_ (.mem pa uc) t
    | .ctl _ => .trap .prot (eaVal ea)
    | .peer _ _ => .trap .prot (eaVal ea)

/-- ARG of a barrier operation of a thread (R344). -/
def barArg (op k n : Nat) : Nat := op * 2 ^ 60 + k * 2 ^ 56 + n % 2 ^ 32

/-- The operation that an ARG and a body name; engine decrements and status writes have codes 5 and 6 (log 19). -/
def barOpOf (m : Msg) : BarOp :=
  let n := bits m.arg 31 0
  let op := bits m.arg 63 60
  if op = 1 then .arrive n
  else if op = 2 then .expect n
  else if op = 3 then .init n
  else if op = 5 then .landed n
  else
    let v := ofBytes m.data
    .status (bits v 7 0) (bits v 15 8) (bits v 63 32) (bit v 16 == 1) (bits v 127 64)

/-- The endpoint of a barrier place for a core. -/
def State.barDst (s : State) (c : Nat) (p : BarPlace) : Nat × Nat :=
  match p with
  | .own off => (epCore c, meshBase + meshPtr c off)
  | .core x va => (epCore x, va)
  | .mem pa uc => (s.homeEp pa uc, pa)

/-- The barrier message of a thread, with its record (R344). -/
def State.barOut (s : State) (c k : Nat) (p : BarPlace) (arg : Nat) : Msg × Out :=
  let (dst, ta) := s.barDst c p
  let (mem, uc) : Bool × Bool := match p with | .mem _ uc => (true, uc) | .own _ => (false, false) | .core _ _ => (false, false)
  let part := match p with | .own _ => (s.core c).active | .core _ _ | .mem _ _ => s.accPart c k
  ({ s.accMsg c k (if mem then 0 else 3) (if mem then 0x03 else 0x33) dst ta with part := part, arg := arg, size := 0x1000, aux := if uc then 1 else 0 },
    Out.blank true (s.ctx c k).pc.toNat ta 0)

/-- The state with a barrier operation of a thread sent to its home; it answers the message's number. At a barrier of the own scratchpad it goes to the
core's own interface, where it takes its place among the operations that arrive in the cycle (R122); in memory it is a far atomic, at whose issue the core
gives up its copy of the line (R213, R344). -/
def State.barSend (s : State) (c k : Nat) (p : BarPlace) (arg : Nat) : Nat × State :=
  let x := s.barOut c k p arg
  let t := match p with | .mem pa _ => s.loseLine c (pa / 64) | .own _ | .core _ _ => s
  (s.nextMsg, t.sendCounted c x.1 x.2)

/-- The state with a posted arrival of a context waiting for the stores and deposits before it (R223, R346, log 80). -/
def State.arriveLater (s : State) (c k : Nat) (p : BarPlace) (n : Nat) : State :=
  let x := s.barOut c k p (barArg 1 k n)
  let h := s.firingOf c k
  let mine (o : Out) : Bool := o.by h (some k)
  s.modCore c fun y => { y with arrivals := y.arrivals ++ [
    { msg := x.1, out := { x.2 with handle := h, ctx := k, lid := x.1.lid, fired := (s.keep h).fired }
      acked := (y.out.filter fun o => mine o && (o.op == 0x02 || o.op == 0x23)).map fun o => o.id
      sent := (y.backlog.filter fun b => b.op == 0x25 && y.out.any fun o => mine o && o.id == b.id).map fun b => b.id
      lates := (y.late.filter fun l => mine l.out).length }] }

/-- The state with the operation of a posted barrier instruction sent. -/
def State.barPost (s : State) (c k : Nat) (p : BarPlace) (op n : Nat) : State := (s.barSend c k p (barArg op k n)).2

/-- Where the barrier of an engine command lies now. -/
inductive BarWay where
  /-- Endpoint of its home, target address, and 1 for an uncached leaf. -/
  | at_ (dst ta uc : Nat)
  /-- Its page is in flash: the leaf's entry and the page's size; the command waits for a page-in (R200). -/
  | flash (leaf size : Nat)
  /-- The walk waits for the DRAM (R50). -/
  | shut
  /-- It no longer translates. -/
  | lost
  deriving DecidableEq, Repr

/-- Where a barrier address of an engine command leads from its core (R407, R408). -/
def State.barWay (s : State) (c : Nat) (x : CmdCtl) (bar : Nat) : BarWay :=
  if 0xFD ≤ bar / 2 ^ 48 then
    match windowPlace c bar 32 with
    | some (.own off) => .at_ (epCore c) (meshBase + meshPtr c off) 0
    | some (.core d _) => .at_ (epCore d) bar 0
    | some _ => .lost
    | none => .lost
  else
    match (match s.tlbFind c x.asid bar false with
      | some t => Walk.ok (t.pa + (bar - t.va)) t.bits t.kind t.pkg
      | none => s.translateFor x.asid bar .atomic x.priv) with
    | .ok pa b _ _ => .at_ (s.homeEp pa (bit b 6 == 1)) pa (bit b 6)
    | .flash leaf _ size _ => .flash leaf size
    | .shut => .shut
    | .page => .lost
    | .prot => .lost
    | .ecc => .lost

/-- The state with a barrier operation of an engine command sent from its core on channel 3, for the firing as it stood at issue (R407, R408). -/
def State.engineBar (s : State) (c : Nat) (x : CmdCtl) (arg : Nat) (data : List Byte) : State :=
  match x.bar with
  | none => s
  | some bar =>
    match s.barWay c x bar with
    | .at_ dst ta uc =>
      s.sendAs c { id := 0, src := epCore c, dst := dst, part := x.part, ch := 3, op := 0x33, taddr := ta, raddr := replyAddr (epCore c)
                   arg := arg, data := data, ctx := x.ctx, lid := x.lid, size := 0x1000, pts := (s.core c).pts, aux := uc }
        { Out.blank true x.pc ta 0 with handle := x.handle, fired := x.fired }
    | .flash _ _ => s.addError x.lid
    | .shut => s.addError x.lid
    | .lost => s.addError x.lid

/-- ENG, channel or slot, context and core in an ORIGIN word (R123). -/
def originWord (chan ctx eng c : Nat) : Nat := chan * 2 ^ 20 + ctx * 2 ^ 16 + eng * 2 ^ 12 + c

/-- The state with status(code, sub, info) of an engine command written to its barrier; without one it adds to the launch's
errors (R123, R408). -/
def State.engineStatus (s : State) (c eng chan : Nat) (x : CmdCtl) (code sub info : Nat) : State :=
  if x.bar.isNone then (if x.told then s else s.addError x.lid)
  else
    let v := code + sub * 256 + (if x.trapf then 65536 else 0) + info % 2 ^ 32 * 2 ^ 32 + originWord chan x.ctx eng c * 2 ^ 64
    s.engineBar c x (barArg 6 x.ctx 0) (toBytes 16 v)

/-- The state with an expectation of an engine command sent (R408). -/
def State.engineExpect (s : State) (c : Nat) (x : CmdCtl) (n : Nat) : State := if n = 0 then s else s.engineBar c x (barArg 2 x.ctx n) []
/-- The state with a decrement of an engine command sent (R408). -/
def State.engineLanded (s : State) (c : Nat) (x : CmdCtl) (n : Nat) : State := if n = 0 then s else s.engineBar c x (barArg 5 x.ctx n) []
/-- The state with the arrival of an engine command sent, if it makes one (R408). -/
def State.engineArrive (s : State) (c : Nat) (x : CmdCtl) : State := if x.arv then s.engineBar c x (barArg 1 x.ctx 1) [] else s

/-- The barrier that a message names at its destination. -/
def State.barOfMsg (m : Msg) : BarLoc :=
  if epIsCore m.dst then .spad (coreOfEp m.dst) m.part (m.taddr % 2 ^ 32) else .mem m.part m.taddr (m.aux == 1)

/-- A barrier operation at its home, once its gate has passed, with its answer (R122, R125, R344); in memory known to be uncorrectable it changes
nothing and is answered with POISON (R28, R31). -/
def State.barMsg (s : State) (m : Msg) : State :=
  let b := State.barOfMsg m
  let s := match b with
    | .spad _ _ _ => s
    | .mem p pa _ => (s.countMismatch p (pa / 64)).homeRead (pa / 64) m.pts
  let bad : Bool := match b with
    | .spad c p off => s.wordsBad (spadKey c p off) 32
    | .mem _ pa _ => s.bytesBad pa 32
  if bad then s.answerMsg m (if m.op = 0x03 then 0x13 else 0x24) 0 [] 0 0 true
  else if bits m.arg 63 60 = 4 then
    s.barWait b { addr := (match b with | .spad _ _ off => off | .mem _ pa _ => pa), gen := bits m.arg 31 0, id := m.id, src := m.src
                  ctx := m.ctx, part := m.part, lid := m.lid }
  else
    let (g, s) := s.barDo b (barOpOf m) m.pts
    s.answerMsg m (if m.op = 0x03 then 0x13 else 0x24) g [] 0 (s.barWts b)

end Sys2Proof.Machine
end

