-- ==== Sys2Proof/Machine/Answer.lean ====
section
/-! DEFINITION. What an answer does to the core that gets it: results of waiting instructions, refusals, counts
(R125, R129, R130, R137, R143, R210, R329, R347). -/
namespace Sys2Proof.Machine

/-! ### Waiting contexts and saved firings -/

/-- A wait has a message among those it waits for. -/
def Wait.has (w : Wait) (id : Nat) : Bool :=
  match w with
  | .reply ps _ _ _ _ => ps.any fun p => p.id == id
  | .bwait i _ _ _ => i == id
  | .line i => i == id
  | .wfm _ _ _ _ _ _ i => i != 0 && i == id
  | .fence _ | .waitd _ _ _ _ | .compose _ _ _ _ | .rack _ | .pageIn _ | .emulate _ => false

/-- A party that waits for a message. -/
inductive Party where
  | ctx (c k : Nat)
  | saved (h : Nat)
  deriving DecidableEq, Repr

/-- The context, or the saved firing, that waits for a message. -/
def State.waiterOf (s : State) (id : Nat) : Option Party :=
  let hit (w : Option WaitRec) : Bool := match w with | some r => r.kind.has id | none => false
  match List.find? (fun e => hit e.2.wait) s.ctxs with
  | some e => some (.ctx (e.1 / 16) (e.1 % 16))
  | none => (List.find? (fun e => hit e.2.wait) s.kept).map fun e => .saved e.1

/-- The state with a finished wait of a context ended: it goes on after its instruction (R279). -/
def State.endWait (s : State) (c k : Nat) (r : WaitRec) : State :=
  s.modCtx c k fun x =>
    { x with wait := none, pc := BitVec.ofNat 56 r.after, next := max x.next (s.cycle c + 1 + r.stall)
             line := if lineAddr r.after = lineAddr x.pc.toNat then x.line else none }

/-- The register, mask and value that a finished answer writes. -/
def Finish.result (f : Finish) (v : Nat) : Option Pend :=
  match f with
  | .scal d ty | .ptr d ty _ _ => some { dst := .scal d, mask := ones64, val := ty.widen v, due := 0, fixed := false }
  | .vec d m => some { dst := .vec d, mask := m, val := v, due := 0, fixed := false }
  | .none => Option.none

/-- The pointer that a finished answer writes beside its result (R330). -/
def Finish.walked (f : Finish) : Option Pend :=
  match f with
  | .ptr _ _ a q => some { dst := .scal a, mask := ones64, val := q, due := 0, fixed := false }
  | .scal _ _ | .vec _ _ | .none => Option.none

/-- The state with a result written to a register of a context; a discarded register takes nothing. -/
def State.writeNow (s : State) (c k : Nat) (p : Pend) : State := if p.dst.ignored then s else s.applyPend c k p

/-- The state after a change to the registers of a saved firing, made as if a context of its home held its workspace with its partition active (R143). -/
def State.asSaved (s : State) (h : Nat) (f : State → Nat → Nat → State) : State :=
  match s.dirOf h with
  | none => s
  | some e =>
    let c := e.home
    let t := f ((s.modCore c fun k => { k with active := e.part }).setCtx c 0 { wptr := e.ws }) c 0
    (t.modCore c fun k => { k with active := (s.core c).active }).setCtx c 0 (s.ctx c 0)

/-- The state with a result written into the workspace of a saved firing, as into a register (R143). -/
def State.writeSaved (s : State) (h : Nat) (p : Pend) : State := s.asSaved h fun t c k => t.writeNow c k p

/-- The state with a result of an engine written to a register of the firing that issued its command, wherever it is; after RETIRE it is lost
(R143, R404, R413). -/
def State.giveReg (s : State) (x : CmdCtl) (p : Pend) : State :=
  if x.handle = 0 || (s.keep x.handle).fired ≠ x.fired then s
  else match List.find? (fun e => s.firingOf (e.1 / 16) (e.1 % 16) == x.handle) s.ctxs with
    | some (key, _) => (s.landSel (key / 16) (key % 16) fun q => q.dst.meets p.dst).writeNow (key / 16) (key % 16) p
    | none => s.writeSaved x.handle p

/-- The state with the wait of a saved firing ended: it goes on after its instruction (R143). -/
def State.endSaved (s : State) (h : Nat) (r : WaitRec) : State :=
  if (s.dirOf h).isNone then s else s.modKept h fun k => { k with wait := none, saved := k.saved.map fun x => (r.after, x.2) }

/-- The wait record of a party. -/
def State.waitOf (s : State) (p : Party) : Option WaitRec :=
  match p with
  | .ctx c k => (s.ctx c k).wait
  | .saved h => (s.keep h).wait

/-- The state with the wait of a party replaced. -/
def State.setWait (s : State) (p : Party) (w : Option WaitRec) : State :=
  match p with
  | .ctx c k => s.modCtx c k fun x => { x with wait := w }
  | .saved h => s.modKept h fun x => { x with wait := w }

/-- The state with a result, where there is one, written to a register of a party. -/
def State.writeParty (s : State) (p : Party) (o : Option Pend) : State :=
  match o, p with
  | none, _ => s
  | some q, .ctx c k => s.writeNow c k q
  | some q, .saved h => s.writeSaved h q

/-- The state with a party's finished instruction completed with a result. -/
def State.finishParty (s : State) (p : Party) (r : WaitRec) (o : Option Pend) : State :=
  let s := s.writeParty p o
  match p with
  | .ctx c k => s.endWait c k r
  | .saved h => s.endSaved h r

/-- The coherent parts of a load that come after one whose answer has arrived, in order: those that a copy serves, then the next that needs a message
(R208, R209). It answers the state, the bits, the message's place and the parts left. -/
def State.readOn (s : State) (c : Nat) (o : Out) : List Todo → Nat → State × Nat × List Piece × List Todo
  | [], acc => (s, acc, [], [])
  | t :: l, acc =>
    match (if t.uc then none else s.lineHit c (s.memberFor c o.ctx t.va) t.part t.pa) with
    | some (u, d) => State.readOn u c o l (placeBits acc (lineBytes d t.pa t.len) t.len t.off t.nib)
    | none =>
      (s.sendCounted c (s.readMsg c t.part o.ctx o.lid t.pa t.len t.uc) { Out.blank false o.pc t.va o.handle with id := 0 }, acc,
        [{ id := s.nextMsg, off := t.off, len := t.len, nib := t.nib }], l)

/-- The state after WFM read its word: its wait ends on a change or at the timeout, as an acquire (R217, R435). -/
def State.wfmRead (s : State) (c k v : Nat) : State :=
  match (s.ctx c k).wait with
  | some r =>
    match r.kind with
    | .wfm key cmp t since _ d _ =>
      let n := s.cycle c
      if v ≠ cmp || (t != 0 && decide (since + t ≤ n)) then
        ((s.acquire c).writeNow c k { dst := .scal d, mask := ones64, val := v, due := 0, fixed := false }).endWait c k r
      else s.modCtx c k fun x => { x with wait := some { r with kind := .wfm key cmp t since n d 0 } }
    | _ => s
  | none => s

/-- The state with the bytes of an answer given to the instruction that waits for it (R327, R329); `o` is the record of its request, whose load goes
on where the answer is a coherent one. -/
def State.fill (s : State) (c : Nat) (o : Option Out) (id v : Nat) (coherent : Bool) : State :=
  match s.waiterOf id with
  | none => s
  | some p =>
    match s.waitOf p with
    | some r =>
      match r.kind with
      | .reply ps acc fin redo todo =>
        match ps.find? fun x => x.id == id with
        | none => s
        | some x =>
          let acc := placeBits acc v x.len x.off x.nib
          let rest := ps.filter fun y => y.id != id
          let (s, acc, more, todo) : State × Nat × List Piece × List Todo := match o with
            | some o => if coherent then s.readOn c o todo acc else (s, acc, [], todo)
            | none => (s, acc, [], todo)
          if (rest ++ more).isEmpty then (s.writeParty p fin.walked).finishParty p r (fin.result acc)
          else s.setWait p (some { r with kind := .reply (rest ++ more) acc fin redo todo })
      | .line _ =>
        let s := s.setWait p none
        (match p with
          | .ctx d k => s.modCtx d k fun x => { x with got := some v }
          | .saved _ => s)
      | .wfm _ _ _ _ _ _ _ =>
        (match p with
          | .ctx d k => s.wfmRead d k v
          | .saved _ => s)
      | _ => s
    | none => s

/-! ### Refusals -/

/-- The state with one more refused store for the trap record of a firing's workspace (R133, R137). -/
def State.addExtra (s : State) (c p ws : Nat) : State :=
  let a := spadKey c p (ws + 0x210)
  let w := Memory.readN s.mem a 8
  { s with mem := Memory.writeN s.mem a 8 (setBits w 23 16 (min (bits w 23 16 + 1) 255)) }

/-- The state with a refused posted message given to the firing that sent it: pending at its next boundary, counted in EXTRA while
its trap record is live, kept while it holds no context, or an error of the launch when it is gone (R137, R143, R424). A PARKED firing's record
is not live: no handler was entered (R139). -/
def State.deferNack (s : State) (o : Out) (addr reason : Nat) : State :=
  let n : Nack := { addr := addr, reason := reason, pc := o.pc }
  match List.find? (fun e => o.handle != 0 && s.firingOf (e.1 / 16) (e.1 % 16) == o.handle) s.ctxs with
  | some (key, x) =>
    if (s.keep o.handle).fired != o.fired then s.addError o.lid
    else if x.live then s.addExtra (key / 16) (s.core (key / 16)).active x.wptr
    else s.setCtx (key / 16) (key % 16) { x with nacks := x.nacks ++ [n] }
  | none =>
    match s.dirOf o.handle with
    | none => s.addError o.lid
    | some e =>
      let k := s.keep o.handle
      if k.saved.isNone || k.fired != o.fired then s.addError o.lid
      else if k.live && s.actorState o.handle != 4 then s.addExtra e.home e.part e.ws
      else s.modKept o.handle fun k => { k with nacks := k.nacks ++ [n] }

/-- The state with a waiting instruction's refusal: a context traps precisely at it; a saved firing executes it again when it resumes, which is the
model's choice (R134, R143, log 68). -/
def State.trapParty (s : State) (p : Party) (cause : Cause) (info : Nat) : State :=
  match p with
  | .ctx c k => s.preciseTrap c k cause info
  | .saved h => (s.asSaved h fun t c k => t.unpop c k (((s.keep h).wait.map fun r => r.pops).getD [])).setWait p none

/-- The state after a refusal reached the sender of a message (R129, R130, R134, R137, R184). -/
def State.refused (s : State) (m : Msg) (o : Option Out) : State :=
  let reason := bits m.arg 7 0
  let exited := reason == 1 || reason == 3
  match s.waiterOf m.re with
  | some p => s.trapParty p (if exited then .exitedTarget else .windowNack) m.taddr
  | none =>
    match o with
    | none => s
    | some o =>
      if o.op == 0x21 then s
      else if exited then s.addError o.lid
      else s.deferNack o m.taddr reason

/-! ### Answers at a core -/

/-- The state with a waiting BWAIT answered by its home (R124, R347). -/
def State.bwaitAnswer (s : State) (m : Msg) : State :=
  match s.waiterOf m.re with
  | some (.ctx c k) =>
    match (s.ctx c k).wait with
    | some r =>
      match r.kind with
      | .bwait _ chk _ d =>
        let gen := bits m.arg 31 0
        let st := ofBytes m.data
        let code := bits st 7 0
        if bit st 16 = 1 || (chk && code != 0) then
          let cause := if [0x0D, 0x0E, 0x0F, 0x11, 0x14].contains code then code else 0x0C
          let t := s.cycle c
          let s := s.modCtx c k fun x => { x with next := t + 1 }
          s.enterTrap c k cause st true r.pc r.pc
        else
          (((s.raisePts (some c) m.aux).acquire c).writeNow c k { dst := .scal d, mask := ones64, val := gen, due := 0, fixed := false }).endWait c k r
      | _ => s
    | none => s
  | some (.saved _) => s
  | none => s

/-- The state with a message taken off a core's unanswered list; its answer is counted, and the interface may send one that it held back,
and the arrivals that this releases (R125, R130, R223). -/
def State.takeOut (s : State) (c re : Nat) : Option Out × State :=
  match (s.core c).out.find? fun o => o.id == re with
  | none => (none, s)
  | some o =>
    let t := s.modCore c fun k =>
      { k with out := k.out.filter fun x => x.id != re
               answered := if o.counted then SMap.put k.answered o.lid (SMap.get 0 k.answered o.lid + 1) else k.answered }
    (some o, (if o.counted then t.sendHeld c o.part else t).sendArrivals c)

/-- The state with a coherent copy put into the die's remote-data cache or the cellar cache, and for a context into the L1 that is given (R187, R210, R244). -/
def State.install (s : State) (c : Nat) (m : Msg) (l1 : Option Nat) : State :=
  let line := m.taddr / 64
  let y : Copy := { data := ofBytes m.data, wts := m.arg, rts := m.aux, left := m.pts, part := m.part }
  let remote := isCellar c || quadrant m.taddr != coreDie c
  let s := if remote then s.rdcPut (coreDie c) line y else s
  if m.size = 0 then s
  else
    let s := match l1 with | some e => s.l1Put e line y | none => s
    s.modCore c fun k => { k with pts := max k.pts m.arg }

/-- The state with the answer to an engine's access noted where the engine waits for it: 1 with a value, 2 refused with a reason, 3 known to be
uncorrectable (R184, R218). -/
def State.engAnswer (s : State) (c : Nat) (o : Out) (st val : Nat) : State :=
  s.modPart c o.own fun p => { p with asked := p.asked.map fun a => if a.id = o.id then { a with st := st, val := val } else a }

/-- The state after an answer to a message of an engine (R125, R184, R210, R218). -/
def State.engineAt (s : State) (c : Nat) (m : Msg) (o : Out) : State :=
  if m.poison then (s.engAnswer c o 3 0).report m.dst 1 m.taddr 0
  else if m.op = 0x29 then s.engAnswer c o 2 (bits m.arg 7 0)
  else if m.op = 0x11 then
    if m.keepLo then (s.modCore c fun k => { k with pts := max k.pts m.arg }).engAnswer c o 1 (ofBytes m.data)
    else (s.install c m none).engAnswer c o 1 (lineBytes (ofBytes m.data) m.taddr m.size)
  else if m.op = 0x12 then ((s.modCore c fun k => { k with pts := max k.pts m.arg }).engAnswer c o 1 0)
  else (s.raisePts (some c) m.aux).engAnswer c o 1 (ofBytes m.data)

/-- The core whose L1 takes the line that answers a context's message (R244). -/
def State.answerCore (s : State) (c : Nat) (o : Option Out) : Nat :=
  match o with
  | some o => s.memberFor c o.ctx o.addr
  | none => c

/-- The state after a core's interface discarded a poisoned message: it is reported, and the party that waits for it traps (R28). -/
def State.poisoned (s : State) (m : Msg) (o : Option Out) : State :=
  (match s.waiterOf m.re with
    | some p => s.trapParty p .eccUncorr (match o with | some x => x.addr | none => m.taddr)
    | none => s).report m.dst 1 m.taddr 0

/-- The state after an answer arrived for a message of a context, or for none (R125, R210, R215, R347). -/
def State.threadAt (s : State) (c : Nat) (m : Msg) (o : Option Out) : State :=
  if m.poison then s.poisoned m o
  else if m.op = 0x29 then s.refused m o
  else if m.op = 0x11 then
    if m.keepLo then (s.modCore c fun k => { k with pts := max k.pts m.arg }).fill c o m.re (ofBytes m.data) true
    else (s.install c m (some (s.answerCore c o))).fill c o m.re (lineBytes (ofBytes m.data) m.taddr m.size) true
  else if m.op = 0x12 then (s.modCore c fun k => { k with pts := max k.pts m.arg }).sendLate c
  else if m.op = 0x22 then s.fill c o m.re (ofBytes m.data) false
  else if m.op = 0x13 then
    (s.raisePts (some c) m.aux).fill c o m.re m.arg false
  else if m.op = 0x24 then s.fill c o m.re m.arg false
  else s

/-- The state after an answer arrived at a core (R125, R210, R215, R347). -/
def State.answerAt (s : State) (c : Nat) (m : Msg) : State :=
  match s.takeOut c m.re with
  | (some o, t) => if o.who = 0 then t.threadAt c m (some o) else t.engineAt c m o
  | (none, t) => t.threadAt c m none

/-- The state with a refused coherent request sent again to the home that R33 names now, under its number (R188). -/
def State.resendCoherent (s : State) (c : Nat) (m : Msg) : State :=
  match (s.core c).out.find? fun o => o.id == m.re with
  | none => s
  | some o => s.inject { m with id := m.re, src := m.dst, dst := s.homeEp m.taddr false, ch := 0, op := o.op, re := 0, ack := true, far := false }

end Sys2Proof.Machine
end

