-- ==== Sys2Proof/Machine/Network.lean ====
section
/-! DEFINITION. The delivery of messages (R20 to R28, R36 to R39, R88, R125, R129, R153, R184, R210). Each delivery is an event that
acts on the message that the state's focus names; where the message cannot be delivered, the event leaves the state as it is. -/
namespace Sys2Proof.Machine

/-! ### Which message, and which event delivers it -/

/-- Two messages have the same source, destination and channel (R22). -/
def Msg.sameTriple (x m : Msg) : Bool := x.src == m.src && x.dst == m.dst && x.ch == m.ch && x.dpkg == m.dpkg && x.spkg == m.spkg

/-- No earlier message of the same source, destination and channel is on its way. One that fell out at a gang switch holds back the later ones of its
partition, but for those that come to a core where the partition is not active and are parked (R22, R130, R150). -/
def State.headOfTriple (s : State) (m : Msg) : Bool :=
  let away : Bool := epIsCore m.dst && m.part != (s.core (coreOfEp m.dst)).active
  match List.find? (fun x => (x.held == 0 || (x.held == 2 && x.part == m.part && !away)) && x.sameTriple m) s.net with
  | some x => x.id == m.id
  | none => true

/-- The message that the focus names, if it is the next of its triple. -/
def State.focusMsg (s : State) : Option Msg :=
  match List.find? (fun m => m.id == s.focus) s.net with
  | some m => if m.held == 0 && s.headOfTriple m then some m else none
  | none => none

/-! ### Links and peer ports (R16, R34 to R39) -/

/-- A link: 0 to 3 the die links, 4 to 7 the ring links, 8 and 9 the package's ×16 ports, 10 to 13 its ×4 root ports. -/
def State.link (s : State) (i : Nat) : Link := SMap.get {} s.links i
/-- The state with a link replaced. -/
def State.setLink (s : State) (i : Nat) (x : Link) : State := { s with links := SMap.put s.links i x }

/-- A peer port carries messages: its mode is peer link, and the link is up (R34, R39). -/
def State.portUp (s : State) (i : Nat) : Bool := (s.link (8 + i)).mode == 2 && !(s.link (8 + i)).down

/-- The port by which a message leaves the package; nothing for one whose target is here (R24, R36). -/
def State.portOf (s : State) (m : Msg) : Option Nat :=
  if m.dpkg = s.fw.package then none else some (if m.dst % 8 = 6 then m.dst / 8 else s.peerPort m.dpkg)

/-- The opcodes of a channel (R27). -/
def opOnChannel (ch op : Nat) : Bool :=
  (ch == 0 && decide (1 ≤ op) && decide (op ≤ 4)) || (ch == 1 && decide (0x11 ≤ op) && decide (op ≤ 0x14))
    || (ch == 2 && decide (0x21 ≤ op) && decide (op ≤ 0x29)) || (ch == 3 && decide (0x31 ≤ op) && decide (op ≤ 0x37))

/-- The forwarding record of a core that a channel 2 message falls under: addressed to the actor's handle, or to its workspace or
span offsets (R167). -/
def State.forwardOf (s : State) (c : Nat) (m : Msg) : Option Fwd :=
  let off := m.taddr % 2 ^ 32
  (s.core c).fwds.find? fun f =>
    let home := f.until_ != 0 && f.dst == c
    if m.op = 0x27 || m.op = 0x28 || m.op = 0x26 then m.taddr == f.handle && !home
    else if m.op = 0x21 || m.op = 0x23 || m.op = 0x25 then
      let d := (s.keep f.handle).desc
      m.part == handlePart f.handle
        && ((decide (f.ws ≤ off) && decide (off < f.ws + f.wlen) && !(home && (m.forH == f.handle || f.ws == f.newWs)))
          || (decide (dSpbase d * 4096 ≤ off) && decide (off < (dSpbase d + dSpan d) * 4096) && !home))
    else false

/-- A message sent on from the old home of a moved actor; back on the same core it is marked as sent on, so that it is performed there (R167). -/
def Msg.onTo (m : Msg) (c : Nat) (f : Fwd) : Msg :=
  let off := m.taddr % 2 ^ 32
  let ta := if m.op = 0x27 || m.op = 0x28 || m.op = 0x26 then m.taddr
    else meshBase + meshPtr f.dst (if f.ws ≤ off && decide (off < f.ws + f.wlen) then f.newWs + (off - f.ws) else off)
  { m with dst := epCore f.dst, taddr := ta, held := 0, forH := if f.dst = c then f.handle else 0 }

/-- The answer to a BWAIT (R347). -/
def State.isBwaitReply (s : State) (m : Msg) : Bool :=
  (m.op == 0x24 || m.op == 0x13) && m.size == 0x1000 && m.re != 0 && (s.waiterOf m.re).any fun p =>
    match s.waitOf p with
    | some r => (match r.kind with | .bwait _ _ _ _ => true | _ => false)
    | none => false

/-- The event of a barrier message by its operation. -/
def barEvent (m : Msg) : Instr :=
  let op := bits m.arg 63 60
  if op = 1 then .barrierArrive else if op = 2 then .barrierExpect else if op = 3 then .barrierInitialise
  else if op = 4 then .barrierWaitRegister else if op = 5 then .barrierLanded else .barrierStatusWrite

/-- The event that delivers a message. -/
def State.msgEvent (s : State) (m : Msg) : Instr :=
  if !epOk m.dst || !opOnChannel m.ch m.op then .badFlitDiscard
  else if (s.portOf m).any fun i => !s.portUp i then .peerLinkDown ((s.portOf m).getD 0)
  else if (s.portOf m).isNone && epIsCore m.dst && m.ch == 2 && (s.forwardOf (coreOfEp m.dst) m).isSome then .messageForward
  else if m.op = 0x01 then .readWithLease
  else if m.op = 0x02 then .writeThroughToHome
  else if m.op = 0x03 then (if m.size = 0x1000 then barEvent m else .farAtomic)
  else if m.op = 0x04 then .writeBack (m.taddr / 64)
  else if m.op = 0x11 then .dataWithWriteTime
  else if m.op = 0x12 then .writeAcknowledgement
  else if m.op = 0x13 then (if s.isBwaitReply m then .bwaitReply else .farAtomicResult)
  else if m.op = 0x14 then .coherentNack
  else if m.op = 0x21 then .remoteScratchpadLoad
  else if m.op = 0x22 then .remoteLoadData
  else if m.op = 0x23 then .remoteScratchpadStore
  else if m.op = 0x24 then (if s.isBwaitReply m then .bwaitReply else .remoteStoreAcknowledgement)
  else if m.op = 0x25 then .registerDeposit
  else if m.op = 0x26 then .activeMessage
  else if m.op = 0x27 then .portCountAdvance
  else if m.op = 0x28 then .dependenceDecrement
  else if m.op = 0x29 then .windowNack
  else if m.op = 0x31 then .placement
  else if m.op = 0x32 then .trapOrFaultMessage
  else if m.op = 0x33 then (if bits m.arg 63 60 = 0 || m.size != 0x1000 then .engineReply else barEvent m)
  else if m.op = 0x34 then .kettleReadyMessage
  else if m.op = 0x35 then .serviceCoreCommandStep
  else if m.op = 0x36 then .pageInRequest
  else .pageInDone

/-! ### Delivery -/

/-- The state with a message taken off the network. -/
def State.take (s : State) (m : Msg) : State := { s with net := s.net.filter fun x => x.id != m.id }

/-- A message that reached its endpoint, logged where that is a core's network interface (R153). -/
def State.took (s : State) (m : Msg) : State := if epIsCore m.dst then (s.take m).logMsg (coreOfEp m.dst) m else s.take m

/-- The state with a message turned to another endpoint under its number. -/
def State.redirect (s : State) (m : Msg) (dst : Nat) : State :=
  let t := s.took m
  { t with net := t.net ++ [{ m with dst := dst }] }

/-- A core's island lets it receive: its die runs and does not enter K2, or the cellar is in C0 (R47 to R49). -/
def State.dieAwake (s : State) (die : Nat) : Bool :=
  if die = 4 then !s.power.cellarC1 && !s.power.cellarWaking else SMap.get 3 s.power.die die == 0 && SMap.get 0 s.power.trans die != 1

/-- The state with an access to DRAM in self-refresh waiting: it asks for the exit (R50). -/
def State.wantDram (s : State) : Option State := if s.power.dramWant then none else some s.askDram

/-- A message that reached a core's network interface, logged (R153). -/
def State.received (s : State) (c : Nat) (m : Msg) : State := (s.take m).logMsg c m

/-- The state with a kettle-ready word that cannot be deposited put into the supervisor mailbox: KIND 5 with the word as ARG and INFO 0, which is the
model's choice of form (R58, log 69). -/
def State.readyUndelivered (s : State) (m : Msg) : State := s.report (epAgent 9) 5 m.arg 0

/-- What a core does with a message for its active partition; a barrier operation of its own meets no window (R179, R184, R344). -/
def State.coreMsg (s : State) (c : Nat) (m : Msg) : Option State :=
  let off := m.taddr % 2 ^ 32
  let n := if m.op = 0x21 then m.size else m.data.length
  let waits (n : Nat) : Bool := decide (s.now < m.after) || s.marked c off n
  if m.op = 0x21 then
    if waits n then none
    else
      let t := s.received c m
      if !s.granted c off n false m then some (t.refuse m 0)
      else if s.badSpad c off n then some (t.send { id := 0, src := m.dst, dst := m.src, part := m.part, ch := 2, op := 0x22, re := m.id,
                                                     taddr := m.taddr, ctx := m.ctx, lid := m.lid, poison := true })
      else some (t.answerMsg m 0x22 0 (toBytes n (s.spadRead c off n)))
  else if m.op = 0x23 then
    if waits n then none
    else
      let t := s.received c m
      if !s.granted c off n true m then some (t.refuse m 0)
      else
        let v0 := ofBytes m.data
        let v := keepNib n (s.spadRead c off n) v0 m.keepLo m.keepHi
        some ((t.spadStore c off n v).answerMsg m 0x24 0)
  else if m.op = 0x25 then
    let t := s.received c m
    match t.deposit c off m.arg with
    | .inl reason => some (t.refuse m reason)
    | .inr t => some (t.answerMsg m 0x24 0)
  else if m.op = 0x34 then
    let t := s.received c m
    match t.deposit c off m.arg with
    | .inl _ => some (t.readyUndelivered m)
    | .inr t => some t
  else if m.op = 0x33 || m.op = 0x03 then
    if m.op = 0x33 && (bits m.arg 63 60 = 0 || m.size != 0x1000) then some ((s.received c m).fill c none m.re m.arg false)
    else if waits 32 then none
    else
      let t := s.received c m
      if m.src != epCore c && !s.granted c off 32 true m then some (t.refuse m 0) else some (t.barMsg m)
  else if m.op = 0x26 then
    if bits m.arg 7 0 ≠ 0 then some ((s.received c m).refuse m 0)
    else
      match s.dirOf m.taddr with
      | none => some ((s.received c m).refuse m 1)
      | some e =>
        if e.loc = 3 then some ((s.received c m).refuse m 1)
        else if e.loc = 2 && e.home != c then some (s.redirect m (epCore e.home))
        else
          let w i := ofBytes ((m.data.drop (8 * i)).take 8)
          match (s.received c m).createHandler m.taddr (w 0) (w 1) (w 2) with
          | none => none
          | some t => some (t.answerMsg m 0x24 0)
  else none

/-- A message to an actor's record, at its home or at the pool (R107, R108, R112, R129). -/
def State.recordMsg (s : State) (m : Msg) : State :=
  match (if m.op = 0x28 then s.applyDecr m.taddr (bits m.arg 31 0) m.lid else s.applyAdvance m.taddr m.arg m.lid) with
  | none => s.refuse m 1
  | some s => s.answerMsg m 0x24 0

/-- A message for an unplaced actor at its pool record (R112, R129, R340). -/
def State.poolMsg (s : State) (m : Msg) : State :=
  match s.dirOf m.taddr with
  | none => (s.take m).refuse m 1
  | some e =>
    if e.loc = 2 then s.redirect m (epCore e.home)
    else if e.loc = 3 || m.op = 0x25 then (s.take m).refuse m 1
    else if m.op = 0x26 then
      let w i := ofBytes ((m.data.drop (8 * i)).take 8)
      (((s.take m).modKept m.taddr fun k => { k with handlers := k.handlers ++ [(w 0, w 1, w 2)] })).answerMsg m 0x24 0
    else (s.take m).recordMsg m

/-- A remote load or store of another package's at this package's port: an uncached access to the physical address that the PEER leaf gave; an
address outside DRAM and cellar SRAM is refused. The port keeps a logical time, so that its accesses keep their order (R36, R190, R228, log 63). -/
def State.portMsg (s : State) (m : Msg) : Option State :=
  let n := if m.op = 0x21 then m.size else m.data.length
  if !frameOk m.taddr || !frameOk (m.taddr + n - 1) || (m.op != 0x21 && m.op != 0x23) then some ((s.take m).refuse m 0)
  else if s.dramShut m.taddr then s.wantDram
  else
    let line := m.taddr / 64
    let i := m.dst / 8
    let x := s.link (8 + i)
    let t := s.take m
    if m.op = 0x21 then
      let t := (t.countMismatch m.part line).homeRead line x.pts
      let t := t.setLink (8 + i) { x with pts := max x.pts (t.wtsOf line) }
      some (t.answerMsg m 0x22 0 (toBytes n (t.physRead m.part m.taddr n)) 0 0 (t.bytesBad m.taddr n))
    else
      let t := t.homeWrite line x.pts
      let t := t.setLink (8 + i) { x with pts := t.wtsOf line }
      let v := keepNib n (t.physRead m.part m.taddr n) (ofBytes m.data) m.keepLo m.keepHi
      some ((t.lineWrite m.part line (m.taddr % 64) n v false).answerMsg m 0x24 0)

/-- A request at a line's home (R188, R210). -/
def State.homeMsg (s : State) (m : Msg) : Option State :=
  if s.wrongHome m then
    some ((s.take m).send { m with src := m.dst, dst := m.src, ch := 1, op := 0x14, re := m.id })
  else if s.dramShut m.taddr then s.wantDram
  else if m.op = 0x01 then some ((s.take m).homeReadMsg m)
  else if m.op = 0x02 then some ((s.take m).homeWriteMsg m)
  else if m.op = 0x04 then some ((s.take m).writeBackLine (m.taddr / 64))
  else if m.size = 0x1000 then some ((s.take m).barMsg m)
  else some ((s.take m).homeAtomicMsg m)

/-- The state with one entry of the supervisor mailbox written, or dropped where the ring is full (R88); SEQ of the first after reset is 0, which is
the model's choice (log 71). -/
def State.mailEntry (s : State) (m : Msg) : State :=
  let base := s.fw.mailbox
  let prod := Memory.readN s.mem (base - 16) 8
  let cons := Memory.readN s.mem (base - 8) 8
  let idx := prod % 2 ^ 32
  let seq := s.fw.mailSeq
  let s := { s with fw := { s.fw with mailSeq := (seq + 1) % 2 ^ 32 } }
  if 1024 ≤ (idx + 2 ^ 32 - cons % 2 ^ 32) % 2 ^ 32 then
    { s with mem := Memory.writeN s.mem (base - 16) 8 (setBits prod 63 32 (bits prod 63 32 + 1)) }
  else
    let v := m.size % 2 ^ 16 + coreOfEp m.src % 2 ^ 16 * 2 ^ 16 + seq * 2 ^ 32 + s.time % 2 ^ 64 * 2 ^ 64 + m.arg % 2 ^ 64 * 2 ^ 128
      + ofBytes m.data * 2 ^ 192
    let mem := Memory.writeN s.mem (base + idx % 1024 * 32) 32 v
    { s with mem := Memory.writeN mem (base - 16) 8 (setBits prod 31 0 (idx + 1)) }

/-- The state with the contexts that wait for a page told of its arrival, or trapped where the flash read failed (R200, R202). -/
def State.pageDone (s : State) (c : Nat) (m : Msg) : State :=
  if m.ctx < 16 then
    match (s.ctx c m.ctx).wait with
    | some r =>
      match r.kind with
      | .pageIn _ =>
        let s := s.modCtx c m.ctx fun x => { x with wait := none }
        if bits m.arg 7 0 = 1 then s.preciseTrap c m.ctx .page (m.taddr + m.size * 2 ^ 63) else s
      | _ => s
    | none => s
  else if bits m.arg 7 0 = 1 then
    if m.ctx < 200 then
      s.modPart c m.part fun p =>
        match SMap.find? p.chans (m.ctx - 100) with
        | some x => { p with chans := SMap.put p.chans (m.ctx - 100) { x with failed := some (7 + 256 + m.taddr % 2 ^ 32 * 65536) } }
        | none => p
    else if 300 ≤ m.ctx then
      let e := SMap.get {} s.lauters (m.ctx - 300)
      let q := match e.inbox with
        | l :: rest => { l with failed := some m.taddr } :: rest
        | [] => []
      { s with lauters := SMap.put s.lauters (m.ctx - 300) { e with inbox := q } }
    else
      s.modPart c m.part fun p =>
        match SMap.find? p.inbox (m.ctx - 200) with
        | some x => { p with inbox := SMap.put p.inbox (m.ctx - 200) { x with failed := some (7 + 256 + m.taddr % 2 ^ 32 * 65536) } }
        | none => p
  else s

/-- The state with a lauter command put into its engine's inbox; nothing where the inbox is full (R415). -/
def State.lautArrive (s : State) (m : Msg) : Option State :=
  let die := m.dst % 8
  let e := SMap.get {} s.lauters die
  if 64 ≤ e.inbox.length then none
  else
    let w i := ofBytes ((m.data.drop (8 * i)).take 8)
    let f := w 2
    let ctl : CmdCtl :=
      { bar := if bit f 24 = 1 then some (w 3) else none, fired := bits f 63 32, trapf := bit f 0 == 1, acq := bit f 1 == 1, rel := bit f 2 == 1, arv := bit f 3 == 1, scope := bits f 5 4
        priv := bit f 6 == 1, ctx := m.ctx, part := m.part, asid := bits f 11 8, lid := m.lid, handle := w 4, pc := w 5, time := w 6 }
    let x : LCmd := { fn := bits f 17 16, ty := tyOfNat (bits f 23 20), a := w 0, b := w 1, ctl := ctl, src := m.src, msg := w 7
                      reply := bit f 7 == 1, pts := m.pts }
    some (({ s.take m with lauters := SMap.put s.lauters die { e with inbox := e.inbox ++ [x] } } : State).answerMsg m 0x24 0)

/-- The state with the answer to an access of a lauter engine noted where the engine waits for it; a request that a home turned away is made again, and
a line that it read goes to its island's cache (R184, R187, R188, R415). -/
def State.lautAnswer (s : State) (m : Msg) : State :=
  let die := m.dst % 8
  let e := SMap.get {} s.lauters die
  let whole := m.op == 0x11 && !m.keepLo
  let (st, v) := if m.poison then (3, 0) else if m.op = 0x29 then (2, bits m.arg 7 0)
    else (1, if whole then lineBytes (ofBytes m.data) m.taddr m.size else ofBytes m.data)
  if m.op = 0x14 && !m.poison then { s with lauters := SMap.put s.lauters die { e with asked := e.asked.filter fun a => a.id != m.re } }
  else
  let s := if whole && st == 1 && (die == 4 || quadrant m.taddr != die) then
      s.rdcPut die (m.taddr / 64) { data := ofBytes m.data, wts := m.arg, rts := m.aux, left := m.pts, part := m.part } else s
  { s with lauters := SMap.put s.lauters die { e with asked := e.asked.map fun a => if a.id = m.re then { a with st := st, val := v } else a } }

/-- The state with a poisoned or misdirected message discarded and reported; a waiting context traps (R25, R27, R28). -/
def State.discard (s : State) (m : Msg) : State := (s.took m).report m.dst 1 m.taddr 0

/-- The state with the command that a service core runs ended with FAULT, or the racking engine's move stopped, since a page that it needs could not be
read (R77, R166, R202). -/
def State.svcPageFailed (s : State) (m : Msg) : State :=
  { s with
    rackQueue := match s.rackQueue with
      | x :: l => if m.dst = epAgent 7 && x.st == 2 then { x with st := 5 } :: l else s.rackQueue
      | [] => []
    cmds := List.map (fun (e : Nat × Cmd) =>
      if epAgent e.2.svc == m.dst && e.2.part == m.part && decide (e.2.st < 2) then (e.1, { e.2 with st := 4, status := 3, result := m.taddr }) else e) s.cmds }

/-- What a core does with a message that has come to it, apart from answers and system messages (R128 to R130, R184). -/
def State.gated (s : State) (c : Nat) (m : Msg) : Option State :=
  match s.gate c m with
  | .refuse r => if m.op = 0x34 then some ((s.received c m).readyUndelivered m) else some ((s.received c m).refuse m r)
  | .park => some ((s.take m).park m)
  | .pass =>
    if m.op = 0x27 && s.anyShut m.part [dPorts (s.keep m.taddr).desc] then s.wantDram
    else if m.op = 0x27 || m.op = 0x28 then
      match s.dirOf m.taddr with
      | some e => if e.loc = 2 && e.home != c then some (s.redirect m (epCore e.home)) else some ((s.received c m).recordMsg m)
      | none => some ((s.received c m).recordMsg m)
    else s.coreMsg c m

/-- The partition for which a message waits at a core: for an answer, the one that was active there when the message that it answers was sent
(R130). -/
def State.partOfMsg (s : State) (c : Nat) (m : Msg) : Nat :=
  match (s.core c).out.find? fun o => m.re != 0 && o.id == m.re with
  | some o => o.own
  | none => m.part

/-- The state after a core's interface discarded a poisoned message that answers no request of R125; a context that waits for an engine's reply or for
a page traps (R28). -/
def State.spoiled (s : State) (c : Nat) (m : Msg) : State :=
  if m.op = 0x37 && decide (m.ctx < 16) then
    match (s.ctx c m.ctx).wait with
    | some r =>
      (match r.kind with
        | .pageIn _ => (s.preciseTrap c m.ctx .eccUncorr m.taddr).report m.dst 1 m.taddr 0
        | _ => s.report m.dst 1 m.taddr 0)
    | none => s.report m.dst 1 m.taddr 0
  else s.poisoned m none

/-- A message at a core's network interface; nothing where it must wait. -/
def State.atCore (s : State) (c : Nat) (m : Msg) : Option State :=
  let answer : Bool := m.ch == 1 || m.op == 0x22 || m.op == 0x24 || m.op == 0x29
  if !s.dieAwake (coreDie c) then none
  else if m.poison && !answer then some ((s.received c m).spoiled c m)
  else if m.op = 0x32 then some ((s.received c m).mailEntry m)
  else if m.op = 0x31 then some ((s.received c m).placeNow m.taddr c)
  else if m.op = 0x37 then some ((s.received c m).pageDone c m)
  else if answer then
    if s.partOfMsg c m != (s.core c).active && s.inShare (s.partOfMsg c m) c then some ((s.take m).park m)
    else if m.op = 0x14 && !m.poison then some ((s.received c m).resendCoherent c m)
    else some ((s.received c m).answerAt c m)
  else s.gated c m

/-- The delivery of a message at its destination; nothing where it must wait. One that is known to be damaged is discarded wherever it goes (R28). -/
def State.deliver (s : State) (m : Msg) : Option State :=
  match s.portOf m with
  | some i => some { s.take m with peerOut := s.peerOut ++ [(i, m)] }
  | none =>
    if epIsCore m.dst then s.atCore (coreOfEp m.dst) m
    else if (m.dst / 8 == 129) && (m.op == 0x22 || m.op == 0x24 || m.op == 0x29 || m.ch == 1) then
      some (let t := (s.take m).lautAnswer m; if m.poison then t.report m.dst 1 m.taddr 0 else t)
    else if m.poison then some (s.discard m)
    else if m.dst % 8 = 6 then s.portMsg m
    else if m.op = 0x26 && bits m.arg 7 0 = 3 then
      if !s.dieAwake (m.dst % 8) then none else s.lautArrive m
    else if m.ch = 2 then some (s.poolMsg m)
    else if m.ch = 0 then s.homeMsg m
    else if m.op = 0x33 && m.size = 0x1000 then (if s.dramShut m.taddr then s.wantDram else some ((s.take m).barMsg m))
    else if m.op = 0x37 && bits m.arg 7 0 = 1 then some ((s.take m).svcPageFailed m)
    else some (s.take m)

/-- The delivery of the message in focus, by the event of that message only. -/
def State.runMsg (s : State) (i : Instr) : State :=
  match s.focusMsg with
  | none => s
  | some m => if s.msgEvent m = i then (s.deliver m).getD s else s

/-! ### The events -/

/-- READ_WITH_LEASE (R210). -/
def execReadWithLease (s : State) : Host.Outcome State Fault Refusal := nextState (s.runMsg .readWithLease)
/-- WRITE_THROUGH_TO_HOME (R187, R210). -/
def execWriteThroughToHome (s : State) : Host.Outcome State Fault Refusal := nextState (s.runMsg .writeThroughToHome)
/-- FAR_ATOMIC (R213). -/
def execFarAtomic (s : State) : Host.Outcome State Fault Refusal := nextState (s.runMsg .farAtomic)
/-- DATA_WITH_WRITE_TIME (R210). -/
def execDataWithWriteTime (s : State) : Host.Outcome State Fault Refusal := nextState (s.runMsg .dataWithWriteTime)
/-- WRITE_ACKNOWLEDGEMENT (R210). -/
def execWriteAcknowledgement (s : State) : Host.Outcome State Fault Refusal := nextState (s.runMsg .writeAcknowledgement)
/-- FAR_ATOMIC_RESULT (R213). -/
def execFarAtomicResult (s : State) : Host.Outcome State Fault Refusal := nextState (s.runMsg .farAtomicResult)
/-- COHERENT_NACK (R188). -/
def execCoherentNack (s : State) : Host.Outcome State Fault Refusal := nextState (s.runMsg .coherentNack)
/-- REMOTE_SCRATCHPAD_LOAD (R184, R215). -/
def execRemoteScratchpadLoad (s : State) : Host.Outcome State Fault Refusal := nextState (s.runMsg .remoteScratchpadLoad)
/-- REMOTE_LOAD_DATA (R329). -/
def execRemoteLoadData (s : State) : Host.Outcome State Fault Refusal := nextState (s.runMsg .remoteLoadData)
/-- REMOTE_SCRATCHPAD_STORE (R26, R184, R215). -/
def execRemoteScratchpadStore (s : State) : Host.Outcome State Fault Refusal := nextState (s.runMsg .remoteScratchpadStore)
/-- REMOTE_STORE_ACKNOWLEDGEMENT (R125, R215). -/
def execRemoteStoreAcknowledgement (s : State) : Host.Outcome State Fault Refusal := nextState (s.runMsg .remoteStoreAcknowledgement)
/-- REGISTER_DEPOSIT (R185). -/
def execRegisterDeposit (s : State) : Host.Outcome State Fault Refusal := nextState (s.runMsg .registerDeposit)
/-- ACTIVE_MESSAGE (R240, R340). -/
def execActiveMessage (s : State) : Host.Outcome State Fault Refusal := nextState (s.runMsg .activeMessage)
/-- PORT_COUNT_ADVANCE (R107). -/
def execPortCountAdvance (s : State) : Host.Outcome State Fault Refusal := nextState (s.runMsg .portCountAdvance)
/-- DEPENDENCE_DECREMENT (R108). -/
def execDependenceDecrement (s : State) : Host.Outcome State Fault Refusal := nextState (s.runMsg .dependenceDecrement)
/-- WINDOW_NACK (R137, R184). -/
def execWindowNack (s : State) : Host.Outcome State Fault Refusal := nextState (s.runMsg .windowNack)
/-- PLACEMENT: an actor is placed on the core that the message reached (R110). -/
def execPlacement (s : State) : Host.Outcome State Fault Refusal := nextState (s.runMsg .placement)
/-- TRAP_OR_FAULT_MESSAGE (R88, R141). -/
def execTrapOrFaultMessage (s : State) : Host.Outcome State Fault Refusal := nextState (s.runMsg .trapOrFaultMessage)
/-- ENGINE_REPLY (R221, R415). -/
def execEngineReply (s : State) : Host.Outcome State Fault Refusal := nextState (s.runMsg .engineReply)
/-- KETTLE_READY_MESSAGE (R58). -/
def execKettleReadyMessage (s : State) : Host.Outcome State Fault Refusal := nextState (s.runMsg .kettleReadyMessage)
/-- PAGE_IN_DONE (R200, R202). -/
def execPageInDone (s : State) : Host.Outcome State Fault Refusal := nextState (s.runMsg .pageInDone)
/-- BARRIER_INITIALISE (R345). -/
def execBarrierInitialise (s : State) : Host.Outcome State Fault Refusal := nextState (s.runMsg .barrierInitialise)
/-- BARRIER_ARRIVE (R122). -/
def execBarrierArrive (s : State) : Host.Outcome State Fault Refusal := nextState (s.runMsg .barrierArrive)
/-- BARRIER_LANDED (R122). -/
def execBarrierLanded (s : State) : Host.Outcome State Fault Refusal := nextState (s.runMsg .barrierLanded)
/-- BARRIER_EXPECT (R122). -/
def execBarrierExpect (s : State) : Host.Outcome State Fault Refusal := nextState (s.runMsg .barrierExpect)
/-- BARRIER_STATUS_WRITE (R123). -/
def execBarrierStatusWrite (s : State) : Host.Outcome State Fault Refusal := nextState (s.runMsg .barrierStatusWrite)
/-- BARRIER_WAIT_REGISTER (R347). -/
def execBarrierWaitRegister (s : State) : Host.Outcome State Fault Refusal := nextState (s.runMsg .barrierWaitRegister)

/-- Every compute die is in K2 or K3. -/
def State.allGated (s : State) : Bool := [0, 1, 2, 3].all fun q => decide (2 ≤ s.dieState q)

/-- Clock of a mesh domain in MHz, 0 while it is off: 0 to 3 the compute dies, 4 the base fabric, 5 the cellar mesh (R18, R42). -/
def State.meshClock (s : State) (domain : Nat) : Nat :=
  if domain = 5 then 800
  else if s.allGated then (if domain < 4 then 0 else 800)
  else SMap.get 800 s.power.mesh domain

/-- The time of 256 cycles of the clock of a barrier's home, by its endpoint: a core's own clock, the mesh clock of a die's L2, or the base fabric's of a
memory controller and of cellar SRAM (R18, R347). -/
def State.resendAfter (s : State) (ep : Nat) : Nat :=
  if epIsCore ep then
    let c := coreOfEp ep
    256 * (if (s.core c).period = 0 then s.ownPeriod c else (s.core c).period)
  else 256 * 336000 / max 800 (s.meshClock (if ep % 8 < 4 then ep % 8 else 4))

/-- BWAIT_REPLY: the generation, or a trap on the status; an unregistered wait is kept for the re-send (R124, R347). -/
def execBwaitReply (s : State) : Host.Outcome State Fault Refusal :=
  nextState (match s.focusMsg with
    | none => s
    | some m =>
      if s.msgEvent m = .bwaitReply && s.dieAwake (coreDie (coreOfEp m.dst)) then
        let c := coreOfEp m.dst
        let t := s.received c m
        if m.keepLo && !m.poison then
          let w : Waiter := { addr := m.taddr, gen := m.arg, id := m.re, src := m.src, ctx := m.ctx, part := m.part, lid := m.lid
                              due := t.now + t.resendAfter m.src }
          t.modCore c fun k => { k with resend := k.resend ++ [w] }
        else
          let (o, t) := t.takeOut c m.re
          if m.poison then t.poisoned m o else t.bwaitAnswer m
      else s)

/-- BWAIT_RESEND: the waits of the core in focus that found no entry 256 cycles of their home's clock ago, sent again as new waits under their numbers
(R347). -/
def execBwaitResend (s : State) : Host.Outcome State Fault Refusal :=
  let c := s.focus
  let l := (s.core c).resend.filter fun w => decide (w.due ≤ s.now)
  let s := s.modCore c fun k => { k with resend := k.resend.filter fun w => !decide (w.due ≤ s.now) }
  nextState (l.foldl (fun s w =>
    match (s.core c).out.find? (fun o => o.id == w.id), s.waiterOf w.id with
    | some o, some (.ctx d k) =>
      match (s.ctx d k).wait with
      | some r =>
        match r.kind with
        | .bwait _ _ g _ =>
          s.inject { s.accMsg c k (if o.op = 0x03 then 0 else 3) o.op o.dst o.addr with
            id := w.id, arg := barArg 4 k g, size := 0x1000, ack := true, aux := if o.dst % 8 == 5 && s.dieRuns (quadrant o.addr) then 1 else 0 }
        | _ => (s.takeOut c w.id).2
      | none => (s.takeOut c w.id).2
    | _, _ => (s.takeOut c w.id).2) s)

/-- BAD_FLIT_DISCARD: a message whose endpoint or opcode no rule forms is discarded and reported (R25, R27). -/
def execBadFlitDiscard (s : State) : Host.Outcome State Fault Refusal :=
  nextState (match s.focusMsg with
    | none => s
    | some m => if s.msgEvent m = .badFlitDiscard then s.discard m else s)

/-- MESSAGE_FORWARD: a channel 2 message at a racked actor's old home goes to the parked queue until the move is installed, then on to
the new home (R167). -/
def execMessageForward (s : State) : Host.Outcome State Fault Refusal :=
  nextState (match s.focusMsg with
    | none => s
    | some m =>
      if s.msgEvent m = .messageForward then
        match s.forwardOf (coreOfEp m.dst) m with
        | none => s
        | some f =>
          if f.until_ = 0 then
            if s.parkFull m.part then (s.took m).refuse m 3 else { s.took m with parked := s.parked ++ [{ m with held := 3, forH := f.handle }] }
          else
            let s := s.took m
            { s with net := s.net ++ [m.onTo (coreOfEp m.dst) f] }
      else s)

/-- WRITE_BACK: a dirty line of an L2 or of the cellar cache goes back to its memory channel with its tag (R31, R188). -/
def execWriteBack (line : Nat) (s : State) : Host.Outcome State Fault Refusal :=
  nextState (match s.focusMsg with
    | some m => if s.msgEvent m = .writeBack line then (s.deliver m).getD s else if s.power.dram = 0 then s.writeBackLine line else s
    | none => if s.power.dram = 0 then s.writeBackLine line else s)

end Sys2Proof.Machine
end

