-- ==== Sys2Proof/Machine/Sync.lean ====
section
/-! DEFINITION. The synchronisation family (R338 to R351), and the events that end its waits. -/
namespace Sys2Proof.Machine

/-- A signal is sent only once the context's earlier coherent stores are ordered (R217). -/
def State.signalHeld (s : State) : Bool := s.unordered s.ic s.ik

/-! ### Messages (R339 to R341) -/

/-- MSG.H: an active message with the handler PC, the argument and the sender's core code (R340). -/
def execMsgH (c : Ctl) (a b r : SReg) (s : State) : Host.Outcome State Fault Refusal :=
  nextState (s.issueSlot c.stall.toNat c.pred [.scal a, .scal b, .scal r] [] noCheck fun t =>
    if t.signalHeld then .retry t
    else .ok (t.sendActor t.ic t.ik 0x26 (t.rs a) 0 (toBytes 8 (t.rs b) ++ toBytes 8 (t.rs r) ++ toBytes 8 t.ic)))

/-- The state with a deposit of a context sent to a mesh address, or made by its own interface (R339). -/
def State.sendDeposit (s : State) (c k t off v : Nat) : State :=
  let va := meshBase + meshPtr t off
  if t = c then
    match s.deposit c off v with
    | .inr s => s
    | .inl 1 => s.addError (s.lidOf c k)
    | .inl r => s.deferNack { Out.blank false (s.ctx c k).pc.toNat va (s.handleOf c k) with lid := s.lidOf c k } va r
  else
    s.sendCounted c { s.accMsg c k 2 0x25 (epCore t) va with arg := v } (Out.blank true (s.ctx c k).pc.toNat va 0)

/-- MSG.D: a deposit to a workspace word in the local or mesh window (R339). -/
def execMsgD (c : Ctl) (a b : SReg) (s : State) : Host.Outcome State Fault Refusal :=
  nextState (s.issueSlot c.stall.toNat c.pred [.scal a, .scal b] [] (ctlCheck fun t => t.ea a 0 0) fun t =>
    match t.ea a 0 0 with
    | .inr v => .trap .prot v
    | .inl va =>
      if va / 2 ^ 48 ≠ 0xFD ∧ va / 2 ^ 48 ≠ 0xFE then .trap .prot va
      else
        match windowPlace t.ic va 8 with
        | some (.own off) => if t.signalHeld then .retry t else .ok (t.sendDeposit t.ic t.ik t.ic off (t.rs b))
        | some (.core d off) => if t.signalHeld then .retry t else .ok (t.sendDeposit t.ic t.ik d off (t.rs b))
        | _ => .trap .prot va)

/-- A group is held by a launch (R120). -/
def State.groupValid (s : State) (p g lid : Nat) : Bool :=
  match SMap.find? s.groups (groupKey p g) with
  | some e => e.lid == lid
  | none => false

/-- The member cores of a group in ascending die code and then 8y + x (R341). -/
def State.groupMembers (s : State) (p g : Nat) : List Nat := allCores.filter fun c => s.groupHas p g c

/-- Partition of the firing in a context. -/
def State.partOf (s : State) (c k : Nat) : Nat :=
  match (s.ctx c k).firing with
  | some f => f.part
  | none => 0

/-- MSGG in either form: one message to each member, the issuing core only with SELF (R341). -/
def State.groupSend (t : State) (self : Bool) (gid : Nat) (a : Nat) (one : State → Nat → State) : Res :=
  let p := t.partOf t.ic t.ik
  if a / 2 ^ 20 ≠ 0 then .trap .prot a
  else if !t.groupValid p gid (t.lidOf t.ic t.ik) then .trap .prot gid
  else if t.signalHeld then .retry t
  else .ok ((t.groupMembers p gid).foldl (fun u m => if m = t.ic && !self then u else one u m) t)

/-- MSGG.S: a remote store to a scratchpad offset of each member (R341). -/
def execMsggS (c : Ctl) (self : Bool) (gid : BitVec 8) (a b : SReg) (s : State) : Host.Outcome State Fault Refusal :=
  nextState (s.issueSlot c.stall.toNat c.pred [.scal a, .scal b] [] noCheck fun t =>
    t.groupSend self gid.toNat (t.rs a) fun u m =>
      u.sendCounted u.ic { u.accMsg u.ic u.ik 2 0x23 (epCore m) (meshBase + meshPtr m (t.rs a)) with arg := t.rs b, data := toBytes 8 (t.rs b) }
        (Out.blank true (u.ctx u.ic u.ik).pc.toNat (meshBase + meshPtr m (t.rs a)) 0))

/-- MSGG.D: a deposit to the workspace word at an offset of each member (R341). -/
def execMsggD (c : Ctl) (self : Bool) (gid : BitVec 8) (a b : SReg) (s : State) : Host.Outcome State Fault Refusal :=
  nextState (s.issueSlot c.stall.toNat c.pred [.scal a, .scal b] [] noCheck fun t =>
    t.groupSend self gid.toNat (t.rs a) fun u m =>
      u.sendCounted u.ic { u.accMsg u.ic u.ik 2 0x25 (epCore m) (meshBase + meshPtr m (t.rs a)) with arg := t.rs b }
        (Out.blank true (u.ctx u.ic u.ik).pc.toNat (meshBase + meshPtr m (t.rs a)) 0))

/-! ### WAITD and WAITW (R342, R343) -/

/-- DEPMASK of a context. -/
def State.depmask (s : State) (c k : Nat) : Nat := s.wsRead c k 0x230 8

/-- The state after WAITD took the flags under a mask (R342). -/
def State.takeFlags (s : State) (c k m : Nat) : Nat × State :=
  let dm := s.depmask c k
  let rest := dm - (dm &&& m)
  let s := s.wsWrite c k 0x230 8 rest
  (dm &&& m, s.forceCsw c k (setBits (s.csw c k) 1 1 (if rest = 0 then 0 else 1)))

/-- WAITD: takes deposit flags under a mask, waiting for one until a timeout (R342). -/
def execWaitd (c : Ctl) (d : SReg) (b : SrcB) (r : SReg) (s : State) : Host.Outcome State Fault Refusal :=
  nextState (s.issueSlot c.stall.toNat c.pred (.scal r :: SrcBReads b) [.scal d] noCheck fun t =>
    let m := t.srcU b
    if m = 0 then .ok ((t.acquire t.ic).putVar t.ic t.ik d 0 1)
    else if t.depmask t.ic t.ik &&& m ≠ 0 then
      let (v, u) := t.takeFlags t.ic t.ik m
      .ok ((u.acquire u.ic).putVar u.ic u.ik d v 1)
    else .hold t (.waitd m (t.rs r) (t.cycle t.ic) d))

/-- A waiting WAITD is complete (R342). -/
def State.waitdDone (s : State) (c k : Nat) : Bool :=
  match (s.ctx c k).wait with
  | some r =>
    match r.kind with
    | .waitd m t since _ => s.depmask c k &&& m != 0 || (t != 0 && decide (since + t ≤ s.cycle c))
    | _ => false
  | none => false

/-- WAITD_COMPLETE: the flags taken, an observation acquire (R217, R342). -/
def execWaitdComplete (core ctx : Nat) (s : State) : Host.Outcome State Fault Refusal :=
  nextState (if !s.waitdDone core ctx then s
    else match (s.ctx core ctx).wait with
      | some r =>
        match r.kind with
        | .waitd m _ _ d =>
          let (v, t) := s.takeFlags core ctx m
          ((t.acquire core).writeNow core ctx { dst := .scal d, mask := ones64, val := v, due := 0, fixed := false }).endWait core ctx r
        | _ => s
      | none => s)

/-- FENCE_COMPLETE: the fence's conditions hold, and the core acquires (R222). -/
def execFenceComplete (core ctx : Nat) (s : State) : Host.Outcome State Fault Refusal :=
  nextState (match (s.ctx core ctx).wait with
    | some r =>
      match r.kind with
      | .fence n => if s.fenceDone core ctx n then (s.fenceEnd core n).endWait core ctx r else s
      | _ => s
    | none => s)

/-- The watermark of a channel of the active partition. -/
def State.markOf (s : State) (c ch : Nat) : Mark := SMap.get {} (s.apart c).marks ch

/-- WAITW: waits at a watermark, then reads it (R343). -/
def execWaitw (c : Ctl) (d b : SReg) (ch : BitVec 4) (s : State) : Host.Outcome State Fault Refusal :=
  nextState (s.issueSlot c.stall.toNat c.pred [.scal b] [.scal d] noCheck fun t =>
    let m := t.markOf t.ic ch.toNat
    if m.act && decide (m.wm ≤ t.rs b % 2 ^ 20) then .retry t
    else .ok (t.putVar t.ic t.ik d (m.wm % 2 ^ 20 + if !m.act && decide (m.wm < m.hi) then 2 ^ 63 else 0) 1))

/-! ### Barriers (R344 to R347) -/

/-- The answer of a barrier instruction at the place of its address. -/
def State.barRes (t : State) (a : SReg) (f : State → BarPlace → Res) : Res :=
  match t.barLocate t.ic t.ik (t.ea a 0 0) with
  | .trap cause info => .trap cause info
  | .flash u leaf => .block u (.pageIn leaf)
  | .wait u => .retry u
  | .at_ p u => f u p

/-- An operation at a barrier in memory, which is an atomic, waits until the context's earlier stores are ordered (R209, R344). -/
def State.barHeld (s : State) (p : BarPlace) : Bool :=
  match p with
  | .mem _ _ => s.unordered s.ic s.ik
  | .own _ | .core _ _ => false

/-- The count of BINIT; nothing where its group is not valid (R345). -/
def State.binitCount (t : State) (cnt : BinitArg) : Option Nat :=
  match cnt with
  | .reg r => some (t.rs r % 2 ^ 32)
  | .imm v => some v.toNat
  | .group g =>
    if t.groupValid (t.partOf t.ic t.ik) g.toNat (t.lidOf t.ic t.ik) then
      some (t.groupMembers (t.partOf t.ic t.ik) g.toNat).length
    else none

/-- BINIT: the whole barrier initialised (R345). -/
def execBinit (c : Ctl) (a : SReg) (cnt : BinitArg) (s : State) : Host.Outcome State Fault Refusal :=
  let reads := match cnt with | .reg r => [.scal r] | .imm _ => [] | .group _ => []
  nextState (s.issueSlot c.stall.toNat c.pred (.scal a :: reads) [] (ctlCheck fun t => t.ea a 0 0) fun t =>
    t.barRes a fun u p =>
      match t.binitCount cnt with
      | none => .trap .prot (match cnt with | .group g => g.toNat | .reg _ => 0 | .imm _ => 0)
      | some n => if u.barHeld p then .retry t else .ok (u.barPost u.ic u.ik p 3 n))

/-- The context's stores are ordered, its remote stores acknowledged and its deposits sent, as an arrival's release needs (R223). -/
def State.released (s : State) (c k : Nat) : Bool := s.ordered c (s.firingOf c k) (some k)

/-- BARR: an arrival, sent once it is released; posted without D, which goes on at once, and with D waiting for the generation (R223, R346). -/
def execBarr (c : Ctl) (d a : SReg) (b : SrcB) (s : State) : Host.Outcome State Fault Refusal :=
  nextState (s.issueSlot c.stall.toNat c.pred (.scal a :: SrcBReads b) [.scal d] (ctlCheck fun t => t.ea a 0 0) fun t =>
    t.barRes a fun u p =>
      let n := t.srcU b % 2 ^ 32
      if !t.released t.ic t.ik then (if d = 0 then .ok (u.arriveLater u.ic u.ik p n) else .retry t)
      else
        let (id, u) := u.barSend u.ic u.ik p (barArg 1 u.ik n)
        if d = 0 then .ok u else .hold u (.reply [{ id := id, off := 0, len := 4, nib := 0 }] 0 (.scal d .u32) false []))

/-- EXPECT: an expectation, posted (R346). -/
def execExpect (c : Ctl) (a : SReg) (b : SrcB) (s : State) : Host.Outcome State Fault Refusal :=
  nextState (s.issueSlot c.stall.toNat c.pred (.scal a :: SrcBReads b) [] (ctlCheck fun t => t.ea a 0 0) fun t =>
    t.barRes a fun u p => if u.barHeld p then .retry t else .ok (u.barPost u.ic u.ik p 2 (t.srcU b % 2 ^ 32)))

/-- BWAIT and BWAIT.CHK: wait until the generation differs from B's (R124, R347). -/
def execBwait (c : Ctl) (chk : Bool) (d a b : SReg) (s : State) : Host.Outcome State Fault Refusal :=
  nextState (s.issueSlot c.stall.toNat c.pred [.scal a, .scal b] [.scal d] (ctlCheck fun t => t.ea a 0 0) fun t =>
    t.barRes a fun u p =>
      let g := t.rs b % 2 ^ 32
      if u.barHeld p then .retry t
      else
        let (id, u) := u.barSend u.ic u.ik p (barArg 4 u.ik g)
        .hold u (.bwait id chk g d))

/-! ### Stream bindings (R348 to R351) -/

/-- A channel of the active partition holds a command. -/
def State.chanBusy (s : State) (c ch : Nat) : Bool :=
  (s.apart c).chans.any fun e => e.1 == ch || (e.2.kind == 1 && e.2.ch2 == ch)

/-- The state with a channel's command dropped. -/
def State.dropChan (s : State) (c ch : Nat) : State := s.modApart c fun p => { p with chans := SMap.del p.chans ch }

/-- An output ring has drained to its pattern, with no result of an issued instruction still on its way to it (R280, R350, R351). -/
def State.slotDrained (s : State) (c k slot : Nat) : Bool :=
  let w := s.sb c k slot
  bit w 63 == 0 || bit w 62 == 0
    || (!((s.ctx c k).pend.any fun p => sbNames w true p.dst) && !((s.lateDests c k).any fun d => sbNames w true d)
      && (match s.streamOf c k slot with | some m => m.head == m.tailc | none => true))

/-- The state with a binding released: its channel stopped and its slot word cleared (R351). -/
def State.freeSlot (s : State) (c k slot : Nat) : State :=
  if bit (s.sb c k slot) 63 = 0 then s
  else (s.dropChan c (s.sbChan c k slot)).wsWrite c k (sbOff slot) 8 0

/-- The answer of SBIND from the 64 bytes of its descriptor (R349). -/
def State.bindRes (t : State) (va desc : Nat) (out vreg portb : Bool) (d : SReg) (sh : ShReg) (ch slot : Nat) : Res :=
  let c := t.ic
  let k := t.ik
  let w i := bits desc (64 * i + 63) (64 * i)
  let ring := bits (w 1) 27 8
  let rsz := 2 ^ (bits (w 1) 7 4 + 8)
  let ety := bits (w 1) 3 0
  let port := bits (w 2) 50 48
  let (c0, c1, c2) := (bits (w 2) 15 0, bits (w 2) 31 16, bits (w 2) 47 32)
  let h := t.handleOf c k
  let dsc := (t.keep h).desc
  let bad := bits (w 0) 63 56 != 0 || bits (w 1) 63 28 != 0 || bits (w 2) 63 51 != 0 || w 6 != 0 || w 7 != 0
    || decide (13 < ety) || c0 == 0 || (!portb && (c1 == 0 || c2 == 0))
    || decide (8 < bits (w 1) 7 4) || ring % rsz != 0 || (!portb && decide (spadSize c < ring + rsz)) || decide (spadSize c ≤ ring)
    || (portb && decide (dNin dsc ≤ port))
  let grantV := t.grant sh
  if bad then .trap .prot va
  else if vreg && !shapeUse c grantV [0] then .trap .shape (shapeInfo sh)
  else
    let n := d.toNat
    let same (i : Nat) : Bool := bit (t.sb c k i) 63 == 1 && (bit (t.sb c k i) 58 == 1) == vreg && bits (t.sb c k i) 57 52 == n
    let rel := slot :: ([0, 1, 2, 3].filter fun i => i != slot && same i)
    if !(rel.all fun i => t.slotDrained c k i) then .retry t
    else if t.chanBusy c ch && !(rel.any fun i => bit (t.sb c k i) 63 == 1 && t.sbChan c k i == ch) then .retry t
    else
      let u := rel.foldl (fun u i => u.freeSlot c k i) t
      let ty := tyOfNat ety
      let e := t.portEntry (t.accPart c k) dsc port
      let f := (t.ctx c k)
      let m : CCmd :=
        { kind := 2, ctl := { ctx := k, part := t.partOf c k, asid := f.asid, priv := t.priv c k, lid := t.lidOf c k, handle := h, pc := f.pc.toNat }
          src := if portb then peFifo e else bits (w 0) 55 0, sty := ety, cnt0 := c0, cnt1 := if portb then 1 else c1, cnt2 := if portb then 1 else c2
          str0 := sval 64 (w 3), str1 := sval 64 (w 4), str2 := sval 64 (w 5), slot := slot, ring := ring, rsize := rsz
          total := if portb then c0 else c0 * c1 * c2, out := out, portb := portb
          cap := if portb then max (peCap e) 1 else 0, row0 := if portb then peTsz e else 0
          first := if portb then SMap.get 0 (t.keep h).pos port else 0, nrows := port
          strip := if vreg then min (grantV % 2 ^ 16) (2048 / ty.width) else 1
          ext := if vreg then min (grantV % 2 ^ 16 * ty.width / 8) 256 * 8 else 64, tu := bit grantV 54 == 1 }
      let word := 2 ^ 63 + flag out 62 + flag portb 59 + flag vreg 58 + n * 2 ^ 52 + ch * 2 ^ 48 + port * 2 ^ 32
      let u := u.modApart c fun p => { p with chans := SMap.put p.chans ch { m with seq := p.seq }, seq := p.seq + 1 }
      .ok (u.wsWrite c k (sbOff slot) 8 word)

/-- SBIND: a register bound to a channel's pattern (R348, R349). -/
def execSbind (c : Ctl) (out vreg portb : Bool) (d a : SReg) (sh : ShReg) (ch : BitVec 4) (slot : BitVec 2) (s : State) :
    Host.Outcome State Fault Refusal :=
  nextState (s.issueSlot c.stall.toNat c.pred (.scal a :: (if vreg then [.shape sh] else [])) [] noCheck fun t =>
    let va := eaVal (t.ea a 0 0)
    if va % 64 ≠ 0 then .trap .misalign va
    else
      match (match (t.ctx t.ic t.ik).got with
        | some v => LoadRes.done { s := t, acc := v, pieces := [], remote := false }
        | none => t.loadChunks t.ic t.ik 64 [{ va := va, len := 64, off := 0, nib := 0 }] { s := t, acc := 0, pieces := [], remote := false }) with
      | .trap cause info => .trap cause info
      | .retry u => .retry u
      | .flash u leaf => .block u (.pageIn leaf)
      | .done r =>
        if r.pieces.isEmpty then
          match r.s.bindRes va r.acc out vreg portb d sh ch.toNat slot.toNat with
          | .retry _ => .retry t
          | x => x
        else .block r.s (.line ((r.pieces.map fun p => p.id).headD 0)))

/-- SFREE: a binding released once its output ring has drained; its final position (R351). -/
def execSfree (c : Ctl) (d : SReg) (slot : BitVec 2) (s : State) : Host.Outcome State Fault Refusal :=
  nextState (s.issueSlot c.stall.toNat c.pred [] [.scal d] noCheck fun t =>
    let n := slot.toNat
    if bit (t.sb t.ic t.ik n) 63 = 0 then .ok (t.putVar t.ic t.ik d 0 1)
    else if !t.slotDrained t.ic t.ik n then .retry t
    else .ok ((t.freeSlot t.ic t.ik n).putVar t.ic t.ik d (bits (t.sb t.ic t.ik n) 31 0) 1))

end Sys2Proof.Machine
end

