-- ==== Sys2Proof/Machine/Actor.lean ====
section
/-! DEFINITION. The actor family but for RACK (R421 to R427, R429), and the end of a waiting COMPOSE (R243). -/
namespace Sys2Proof.Machine

/-! ### SPAWN (R111, R422) -/

/-- The first of some addresses whose page is in flash for a partition: its leaf and size (R200). -/
def State.flashPage (s : State) (p : Nat) : List Nat → Option (Nat × Nat × Nat)
  | [] => none
  | va :: l =>
    match (if 0xFD ≤ va / 2 ^ 48 then Walk.page else s.translateFor p va .read true) with
    | .flash leaf _ size _ => some (va, leaf, size)
    | _ => State.flashPage s p l

/-- The core on which SPAWN places a stream actor that has inputs (R111). -/
def State.childCore (s : State) (c p d : Nat) : Option Nat :=
  let ok (x : Nat) : Bool := coreOk x && s.inShare p x && serves x (dClass d)
  match (dHint d).filter ok with
  | some x => some x
  | none => if serves c (dClass d) then some c else allCores.find? ok

/-- An installed span of a core's active partition covers the spill area (R177). -/
def State.spillCovered (s : State) (c : Nat) : Bool :=
  (s.core c).allocs.any fun a => a.kind == 2 && a.part == (s.core c).active && decide (spadSize c - 4096 < a.start + a.len)

/-- The state with a READY task at the bottom of a core's deque; the top entry spills where all 64 are full, and nothing where the
spill area is full too, or an installed span covers it (R111, R177). -/
def State.pushDeque (s : State) (c h : Nat) : Option State :=
  let k := s.core c
  if k.deque.length < 64 then some (s.modCore c fun k => { k with deque := h :: k.deque })
  else if k.spill.length < 512 && !s.spillCovered c then
    some (s.modCore c fun k => { k with deque := h :: k.deque.take 63, spill := k.deque.drop 63 ++ k.spill })
  else none

/-- The state with a new child placed: on the deque, on a core, or in the pool of the die (R106, R111). -/
def State.placeChild (s : State) (c h d counter : Nat) (target : Option Nat) : State :=
  let pooled : State := s.poolActor h (coreDie c) c (dClass d) false
  if dStream d then
    match target with
    | none => pooled
    | some x => if x = c then s.placeNow h c else s.sendPlacement (epCore c) h x
  else if counter = 0 && serves c (dClass d) then
    match s.placeActor h c with
    | none => pooled
    | some t =>
      match ((t.setActorState h 2).setActorLevel h (t.basePrio h)).pushDeque c h with
      | some u => u
      | none => pooled
  else pooled

/-- The answer of SPAWN from a descriptor address, a counter and an argument (R100, R103, R422). -/
def State.spawnRes (t : State) (d : SReg) (da counter arg : Nat) : Res :=
  let c := t.ic
  let k := t.ik
  let p := t.partOf c k
  let lid := t.lidOf c k
  let failed : Res := .ok ((t.addError lid).putVar c k d 0 1)
  if da % 64 ≠ 0 || 2 ^ 56 ≤ da then failed
  else
    match t.flashPage p [da] with
    | some (va, leaf, size) => .block (t.askPage c k p va false leaf size) (.pageIn leaf)
    | none =>
      if t.anyShut p [da] then .retry t.askDram
      else match t.partRead p da 64 with
      | none => failed
      | some desc =>
        if t.anyShut p [dEntry desc, dPorts desc, dShapes desc, dPitch desc] then .retry t.askDram
        else match t.flashPage p ([dEntry desc, dPorts desc, dShapes desc, dPitch desc].filter fun a => a != 0) with
        | some (va, leaf, size) => .block (t.askPage c k p va false leaf size) (.pageIn leaf)
        | none =>
          let target := if dStream desc && dNin desc != 0 then t.childCore c p desc else none
          let cellar := match target with
            | some x => isCellar x
            | none => if dClass desc = 2 then isCellar c else dClass desc == 1
          if t.descBad p desc || !descFits desc cellar || (dStream desc && counter != 0) then failed
          else
            match (t.readsMarked p (descReads da desc)).createActor p lid da desc (coreDie c) counter arg with
            | none => failed
            | some (h, u) => .ok ((u.placeChild c h desc counter target).putVar c k d h 1)

/-- SPAWN: a child in the spawner's partition and launch, and its handle (R422). -/
def execSpawn (c : Ctl) (d a b r : SReg) (s : State) : Host.Outcome State Fault Refusal :=
  nextState (s.issueSlot c.stall.toNat c.pred [.scal a, .scal b, .scal r] [.scal d] noCheck fun t =>
    if t.signalHeld then .retry t else t.spawnRes d (t.rs a) (t.rs b % 2 ^ 32) (t.rs r))

/-! ### DECR, RETIRE and YIELD (R423 to R425) -/

/-- DECR: a dependence decrement, posted, or waiting for its acknowledgement (R423). -/
def execDecr (c : Ctl) (wait : Bool) (a : SReg) (b : SrcB) (s : State) : Host.Outcome State Fault Refusal :=
  nextState (s.issueSlot c.stall.toNat c.pred (.scal a :: SrcBReads b) [] noCheck fun t =>
    let n := t.srcU b % 2 ^ 32
    if n = 0 then .ok t
    else if t.signalHeld then .retry t
    else
      let u := t.sendActor t.ic t.ik 0x28 (t.rs a) n
      if wait then .hold u (.reply [{ id := t.nextMsg, off := 0, len := 0, nib := 0 }] 0 .none false []) else .ok u)

/-- The state in which an instruction that ends its context's hold has issued (R117). -/
def State.leaving (t : State) (stall : Nat) : State := t.finishIssue t.ic t.ik (t.afterPc t.ic t.ik) stall

/-- RETIRE without exit sends credits, which wait as signals do until earlier coherent stores are ordered (R109, R217). -/
def State.creditsHeld (t : State) (exit : Bool) : Bool :=
  let h := t.handleOf t.ic t.ik
  let d := (t.keep h).desc
  !exit && dStream d && (List.range (dNin d)).any (fun i => pePeer (t.portEntry (handlePart h) d i) != 0) && t.signalHeld

/-- The port table of the firing that issues stands in DRAM in self-refresh (R50, R101). -/
def State.tableShut (t : State) : Bool :=
  let h := t.handleOf t.ic t.ik
  t.anyShut (handlePart h) [dPorts (t.keep h).desc]

/-- The period limit of an actor that LOAD emitted has come: its firing number q × ITER − 1 retires with a nonzero exit operand (R448, log 75). -/
def State.periodEnd (s : State) (h : Nat) : Bool :=
  match s.dirOf h with
  | none => false
  | some e =>
    match SMap.find? s.partitions e.part with
    | none => false
    | some x => (s.keep h).handlerOf == 0 && x.limits.any fun l => l.1 == e.desc && l.2 == (s.keep h).fired + 1

/-- RETIRE: bindings released, the pitch comparator cleared, the firing ended (R424). -/
def execRetire (c : Ctl) (a : SReg) (s : State) : Host.Outcome State Fault Refusal :=
  nextState (s.issueSlot c.stall.toNat c.pred [.scal a] [] noCheck fun t =>
    let exit := t.rs a != 0 || t.periodEnd (t.handleOf t.ic t.ik)
    if !([0, 1, 2, 3].all fun i => t.slotDrained t.ic t.ik i) || t.creditsHeld exit then .retry t
    else if !exit && t.tableShut then .retry t.askDram
    else
      let u := t.leaving c.stall.toNat
      let u := [0, 1, 2, 3].foldl (fun u i => u.freeSlot t.ic t.ik i) (u.drain t.ic t.ik)
      .gone (u.retireCtx t.ic t.ik exit))

/-- YIELD: the firing gives up its context and re-enters the tail of its level (R425). -/
def execYield (c : Ctl) (s : State) : Host.Outcome State Fault Refusal :=
  nextState (s.issueSlot c.stall.toNat c.pred [] [] noCheck fun t => .gone ((t.leaving c.stall.toNat).preemptCtx t.ic t.ik))

/-! ### COMPOSE and DECOMP (R243, R247, R426) -/

/-- The status with which COMPOSE ends at once (R243). -/
def State.composeStatus (s : State) (c k code : Nat) : Option Nat :=
  let e := compExtent code
  let p := s.partOf c k
  if code = 0 || decide (6 ≤ code) || (isCellar c && code != 2 && code != 3) then some 2
  else if (if isCellar c then 4 else 8) < coreX c + e.1 || decide ((if isCellar c then 2 else 8) < coreY c + e.2) then some 3
  else if (compMembers c code).any fun m => m == 0x400 || !s.inShare p m || (s.core m).fenced || (s.core m).active != p then some 4
  else if bit (s.csw c k) 3 = 1 then some 5
  else none

/-- The state with the members of a composition frozen, but those that another holds (R243). -/
def State.freeze (s : State) (c k code : Nat) : State :=
  (compMembers c code).foldl (fun s m => s.modCore m fun n => { n with frozen := some (n.frozen.getD (c, k)) }) s

/-- Every member is frozen by the composing context and holds no other firing (R243). -/
def State.composeReady (s : State) (c k code : Nat) : Bool :=
  let l := compMembers c code
  l.all (fun m => (s.core m).frozen == some (c, k))
    && !(s.ctxs.any fun e => e.2.firing.isSome && l.contains (e.1 / 16) && e.1 != c * 16 + k)

/-- The state with a composition formed: the code in CSW, and the lowest clock of the members (R243, R244). -/
def State.composed (s : State) (c k code : Nat) : State :=
  let s := s.forceCsw c k (setBits (setBits (s.csw c k) 6 4 code) 3 3 1)
  s.setPeriod c ((compMembers c code).foldl (fun p m => max p (s.ownPeriod m)) (s.ownPeriod c))

/-- COMPOSE: the neighbours composed into one logical core, or a status (R243). -/
def execCompose (c : Ctl) (d : SReg) (code : BitVec 3) (b : SReg) (s : State) : Host.Outcome State Fault Refusal :=
  nextState (s.issueSlot c.stall.toNat c.pred [.scal b] [.scal d] noCheck fun t =>
    let n := code.toNat
    match t.composeStatus t.ic t.ik n with
    | some st => .ok (t.putVar t.ic t.ik d st 1)
    | none =>
      let u := t.freeze t.ic t.ik n
      if u.composeReady t.ic t.ik n then .ok ((u.composed t.ic t.ik n).putVar t.ic t.ik d 0 1)
      else if t.rs b = 0 then .ok ((u.unfreeze t.ic t.ik).putVar t.ic t.ik d 1 1)
      else .hold u (.compose n (t.rs b) (t.cycle t.ic) d))

/-- COMPOSE_COMPLETE: the members are free, or the timeout has passed (R243). -/
def execComposeComplete (core ctx : Nat) (s : State) : Host.Outcome State Fault Refusal :=
  nextState (match (s.ctx core ctx).wait with
    | some r =>
      match r.kind with
      | .compose n t since d =>
        let u := s.freeze core ctx n
        let put (v : State) (st : Nat) : State :=
          (v.writeNow core ctx { dst := .scal d, mask := ones64, val := st, due := 0, fixed := false }).endWait core ctx r
        if u.composeReady core ctx n then put (u.composed core ctx n) 0
        else if since + t ≤ s.cycle core then put (u.unfreeze core ctx) 1
        else u
      | _ => s
    | none => s)

/-- DECOMP: back on the home alone, with the code cleared; nothing in an uncomposed firing (R247, R426). -/
def execDecomp (c : Ctl) (s : State) : Host.Outcome State Fault Refusal :=
  nextState (s.issueSlot c.stall.toNat c.pred [] [] noCheck fun t =>
    if bit (t.csw t.ic t.ik) 3 = 0 then .ok t
    else
      let u := t.decompose t.ic t.ik
      .ok (u.forceCsw t.ic t.ik (setBits (u.csw t.ic t.ik) 6 4 0)))

/-! ### PITCH and PORT (R57 to R61, R427, R429) -/

/-- The state with a pitch trigger on its way to the power controller (R57). -/
def State.addTrigger (s : State) (level die rtgt part : Nat) : State :=
  { s with power := { s.power with triggers := s.power.triggers
      ++ [{ level := level, die := die, rtgt := rtgt, part := part, time := s.time, already := false }] } }

/-- PITCH: a trigger of a level for a die, with a ready target in a window (R427). -/
def execPitch (c : Ctl) (level : BitVec 2) (die : BitVec 3) (a : SReg) (s : State) : Host.Outcome State Fault Refusal :=
  let bad := level == 0 || (level == 2 && decide (3 < die.toNat)) || (level != 2 && die != 0)
  nextState (s.issueSlot c.stall.toNat c.pred [.scal a] [] (fun t => if bad then some (.reservedCode, t.issue.slot) else none) fun t =>
    let v := t.rs a
    if v / 2 ^ 48 ≠ 0xFD ∧ v / 2 ^ 48 ≠ 0xFE then .trap .prot v
    else
      let target := if v / 2 ^ 48 = 0xFD then meshBase + meshPtr t.ic v else v
      .ok (t.addTrigger level.toNat die.toNat target (t.partOf t.ic t.ik)))

/-- A byte of a core's scratchpad behind the stores of a source that are still on their way to it (R22, R61). -/
def State.byteBehind (s : State) (src c p off : Nat) : Nat :=
  let hits (m : Msg) : Bool := m.op == 0x23 && m.src == epCore src && m.dst == epCore c && m.part == p
    && decide (m.taddr % 2 ^ 32 ≤ off) && decide (off < m.taddr % 2 ^ 32 + m.data.length)
  match (s.parked ++ s.net).reverse.find? hits with
  | some m => ((m.data.drop (off - m.taddr % 2 ^ 32)).headD 0).toNat
  | none => Memory.readN s.mem (spadKey c p off) 1

/-- The threshold comparison of an armed comparator on an element (R61). -/
def pitchHit (w0 v : Nat) : Bool :=
  let ty := tyOfNat (bits w0 31 28)
  let thr := bits w0 63 32
  if ty.integer then decide (decI ty thr ≤ decI ty v)
  else condF .ge (decF ty v) (decF .f32 thr)

/-- The state after the pitch comparator of a context acted on a committed token (R61). -/
def State.pitchCompare (s : State) (c k port consumer off : Nat) : State :=
  let x := s.ctx c k
  let w0 := x.pitch0
  if bit w0 0 = 0 || bits w0 23 21 != port || pitchBad w0 x.pitch1 then s
  else
    let p := s.partOf c k
    let n := (tyOfNat (bits w0 31 28)).width / 8
    let v := (List.range n).foldr (fun i acc => s.byteBehind c consumer p (off + i) + 256 * acc) 0
    if !pitchHit w0 v then s
    else
      let s := if bit w0 1 = 1 then s.modCtx c k fun x => { x with pitch0 := setBits w0 0 0 0 } else s
      s.addTrigger (bits w0 20 19) (bits w0 18 16) (bits x.pitch1 55 0) p

/-- Registers that PORT's count reads. -/
def portReads (cnt : PortArg) : List Dest :=
  match cnt with
  | .reg r => [.scal r]
  | .imm _ => []

/-- PORT: tokens committed on an output port, and the count advance (R107, R429). -/
def execPort (c : Ctl) (d : PReg) (port : BitVec 3) (cnt : PortArg) (s : State) : Host.Outcome State Fault Refusal :=
  let reg : SReg := (2 : BitVec 2) ++ d
  nextState (s.issueSlot c.stall.toNat c.pred (.scal reg :: portReads cnt) [.scal reg] noCheck fun t =>
    let j := port.toNat
    let h := t.handleOf t.ic t.ik
    let desc := (t.keep h).desc
    let full := match cnt with | .reg r => t.rs r | .imm v => v.toNat
    if dNout desc ≤ j then .trap .prot j
    else if t.tableShut then .retry t.askDram
    else
      let e := t.portEntry (handlePart h) desc (dNin desc + j)
      let n := full % 2 ^ 7
      if n = 0 then .ok t
      else if peCap e < n || 2 ^ 7 ≤ full then .trap .prot n
      else
        let w := t.recWord h 1
        let space := bits w (14 + 7 * j) (8 + 7 * j)
        if space < n || t.signalHeld then .retry t
        else
          let pos := SMap.get 0 (t.keep h).pos (8 + j)
          let next := (pos + n) % max (peCap e) 1
          let v := t.rs reg
          let x := mkCore (bits v 42 40) (bits v 35 32) (bits v 39 36)
          let u := t.setRecWord h 1 (setBits w (14 + 7 * j) (8 + 7 * j) (space - n))
          let u := u.sendCounted t.ic { u.accMsg t.ic t.ik 2 0x27 (epCore x) (pePeer e) with arg := pePort e * 2 ^ 56 + n, part := t.partOf t.ic t.ik }
            (Out.blank true (t.ctx t.ic t.ik).pc.toNat (pePeer e) 0)
          let u := u.pitchCompare t.ic t.ik j x (peFifo e + pos * peTsz e)
          let u := u.modKept h fun y => { y with pos := SMap.put y.pos (8 + j) next }
          .ok (u.putVar t.ic t.ik reg (v / 2 ^ 32 * 2 ^ 32 + (peFifo e + next * peTsz e) % 2 ^ 32) 1))

end Sys2Proof.Machine
end

