-- ==== Sys2Proof/Machine/Scalar.lean ====
section
/-! DEFINITION. Integer and bit-field instructions (R311 to R315); MIN and MAX also on floating types (R316). -/
namespace Sys2Proof.Machine

/-- A typed binary integer instruction: the low bits of A and of the second source give a 64-bit result of a latency (R312). -/
def State.intBin (s : State) (c : Ctl) (ty : Ty) (d a : SReg) (b : SrcB) (lat : Nat) (f : State → Nat → Nat → Nat) : State :=
  s.issueSlot c.stall.toNat c.pred (.scal a :: SrcBReads b) [.scal d] noCheck fun t =>
    .ok (t.putS t.ic t.ik d (f t (t.rs a % 2 ^ ty.width) (t.srcB b % 2 ^ ty.width)) lat)

/-- A typed unary instruction on the low bits of A (R312). -/
def State.intUn (s : State) (c : Ctl) (ty : Ty) (d a : SReg) (f : Nat → Nat) : State :=
  s.issueSlot c.stall.toNat c.pred [.scal a] [.scal d] noCheck fun t =>
    .ok (t.putS t.ic t.ik d (f (t.rs a % 2 ^ ty.width)) 1)

/-- An exact integer result under the modifiers, wrapped or saturated, written through ext (R312). -/
def arithI (ty : Ty) (m : Option ModWord) (v : Int) : Nat := ty.widen (finishI ty .rne m (XR.ofInt v))

/-- Sum of two patterns. -/
def opAdd (ty : Ty) (m : Option ModWord) (a b : Nat) : Nat := arithI ty m (decI ty a + decI ty b)
/-- Difference of two patterns. -/
def opSub (ty : Ty) (m : Option ModWord) (a b : Nat) : Nat := arithI ty m (decI ty a - decI ty b)
/-- Product of two patterns. -/
def opMul (ty : Ty) (m : Option ModWord) (a b : Nat) : Nat := arithI ty m (decI ty a * decI ty b)
/-- High half of the product of two patterns. -/
def opMulh (ty : Ty) (a b : Nat) : Nat := arithI ty none ((decI ty a * decI ty b) / ((2 ^ ty.width : Nat) : Int))
/-- Left shift of a pattern by the low byte of the second source; zero from the width on (R313). -/
def opShl (n a b : Nat) : Nat := if n ≤ b % 256 then 0 else (a <<< (b % 256)) % 2 ^ n
/-- Right shift of a pattern with zeros in (R313). -/
def opShr (n a b : Nat) : Nat := if n ≤ b % 256 then 0 else a >>> (b % 256)
/-- Right shift of a pattern with copies of its top bit in, for unsigned types too (R313). -/
def opSra (n a b : Nat) : Nat := wrap n (sval n a / ((2 ^ min (b % 256) n : Nat) : Int))
/-- Left rotation of a pattern (R313). -/
def opRol (n a b : Nat) : Nat :=
  let r := b % 256 % n
  ((a <<< r) ||| (a >>> (n - r))) % 2 ^ n
/-- Leading zeros of an n-bit pattern (R313). -/
def countLead (n a : Nat) : Nat := if a = 0 then n else n - 1 - Nat.log2 a
/-- Trailing zeros of an n-bit pattern (R313). -/
def countTrail (n a : Nat) : Nat := if a = 0 then n else Nat.log2 (a &&& (2 ^ n - a))
/-- Ones among the low n bits of a pattern (R313). -/
def countOnes : Nat → Nat → Nat
  | 0, _ => 0
  | n + 1, a => a % 2 + countOnes n (a / 2)
/-- Lesser or greater of two elements under the modifiers, of an integer or floating type (R313, R316). -/
def opMinMax (ty : Ty) (m : Option ModWord) (mx : Bool) (a b : Nat) : Nat :=
  if ty.isFloat then
    finishF ty .rne m (if mx then (decF ty a).max (decF ty b) else (decF ty a).min (decF ty b))
  else arithI ty m (if mx then max (decI ty a) (decI ty b) else min (decI ty a) (decI ty b))

/-- ADD: sum (R313). -/
def execAdd (c : Ctl) (ty : Ty) (d a : SReg) (b : SrcB) (s : State) : Host.Outcome State Fault Refusal :=
  nextState (s.intBin c ty d a b 1 fun t x y => opAdd ty t.mods x y)

/-- SUB: difference (R313). -/
def execSub (c : Ctl) (ty : Ty) (d a : SReg) (b : SrcB) (s : State) : Host.Outcome State Fault Refusal :=
  nextState (s.intBin c ty d a b 1 fun t x y => opSub ty t.mods x y)

/-- MUL: product (R313). -/
def execMul (c : Ctl) (ty : Ty) (d a : SReg) (b : SrcB) (s : State) : Host.Outcome State Fault Refusal :=
  nextState (s.intBin c ty d a b 3 fun t x y => opMul ty t.mods x y)

/-- MULH: high half of the product, rounded down (R313). -/
def execMulh (c : Ctl) (ty : Ty) (d a : SReg) (b : SrcB) (s : State) : Host.Outcome State Fault Refusal :=
  nextState (s.intBin c ty d a b 3 fun _ x y => opMulh ty x y)

/-- A division: DIV_ZERO on a zero divisor, else a variable-latency result within 8 + n cycles (R314, R319). -/
def State.divide (s : State) (c : Ctl) (ty : Ty) (d a : SReg) (b : SrcB) (f : Int → Int → Int) : State :=
  s.issueSlot c.stall.toNat c.pred (.scal a :: SrcBReads b) [.scal d] noCheck fun t =>
    let x := decI ty (t.rs a)
    let y := decI ty (t.srcB b)
    if y = 0 then .trap .divZero (wrap 64 x) else .ok (t.putVar t.ic t.ik d (arithI ty none (f x y)) (8 + ty.width))

/-- DIV: quotient truncated toward zero (R313, R314). -/
def execDiv (c : Ctl) (ty : Ty) (d a : SReg) (b : SrcB) (s : State) : Host.Outcome State Fault Refusal :=
  nextState (s.divide c ty d a b Int.tdiv)

/-- REM: remainder of that quotient (R313, R314). -/
def execRem (c : Ctl) (ty : Ty) (d a : SReg) (b : SrcB) (s : State) : Host.Outcome State Fault Refusal :=
  nextState (s.divide c ty d a b fun x y => x - y * Int.tdiv x y)

/-- AND of the patterns (R313). -/
def execAnd (c : Ctl) (ty : Ty) (d a : SReg) (b : SrcB) (s : State) : Host.Outcome State Fault Refusal :=
  nextState (s.intBin c ty d a b 1 fun _ x y => ty.widen (x &&& y))

/-- OR of the patterns (R313). -/
def execOr (c : Ctl) (ty : Ty) (d a : SReg) (b : SrcB) (s : State) : Host.Outcome State Fault Refusal :=
  nextState (s.intBin c ty d a b 1 fun _ x y => ty.widen (x ||| y))

/-- XOR of the patterns (R313). -/
def execXor (c : Ctl) (ty : Ty) (d a : SReg) (b : SrcB) (s : State) : Host.Outcome State Fault Refusal :=
  nextState (s.intBin c ty d a b 1 fun _ x y => ty.widen (x ^^^ y))

/-- ANDN: A and not B (R313). -/
def execAndn (c : Ctl) (ty : Ty) (d a : SReg) (b : SrcB) (s : State) : Host.Outcome State Fault Refusal :=
  nextState (s.intBin c ty d a b 1 fun _ x y => ty.widen (x &&& (2 ^ ty.width - 1 - y)))

/-- SHL (R313). -/
def execShl (c : Ctl) (ty : Ty) (d a : SReg) (b : SrcB) (s : State) : Host.Outcome State Fault Refusal :=
  nextState (s.intBin c ty d a b 1 fun _ x y => ty.widen (opShl ty.width x y))

/-- SHR (R313). -/
def execShr (c : Ctl) (ty : Ty) (d a : SReg) (b : SrcB) (s : State) : Host.Outcome State Fault Refusal :=
  nextState (s.intBin c ty d a b 1 fun _ x y => ty.widen (opShr ty.width x y))

/-- SRA (R313). -/
def execSra (c : Ctl) (ty : Ty) (d a : SReg) (b : SrcB) (s : State) : Host.Outcome State Fault Refusal :=
  nextState (s.intBin c ty d a b 1 fun _ x y => ty.widen (opSra ty.width x y))

/-- ROL (R313). -/
def execRol (c : Ctl) (ty : Ty) (d a : SReg) (b : SrcB) (s : State) : Host.Outcome State Fault Refusal :=
  nextState (s.intBin c ty d a b 1 fun _ x y => ty.widen (opRol ty.width x y))

/-- CLZ: leading zeros, written as zext (R313). -/
def execClz (c : Ctl) (ty : Ty) (d a : SReg) (s : State) : Host.Outcome State Fault Refusal :=
  nextState (s.intUn c ty d a fun x => countLead ty.width x)

/-- CTZ: trailing zeros, written as zext (R313). -/
def execCtz (c : Ctl) (ty : Ty) (d a : SReg) (s : State) : Host.Outcome State Fault Refusal :=
  nextState (s.intUn c ty d a fun x => countTrail ty.width x)

/-- POPC: ones, written as zext (R313). -/
def execPopc (c : Ctl) (ty : Ty) (d a : SReg) (s : State) : Host.Outcome State Fault Refusal :=
  nextState (s.intUn c ty d a fun x => countOnes ty.width x)

/-- MIN (R313, R316). -/
def execMin (c : Ctl) (ty : Ty) (d a : SReg) (b : SrcB) (s : State) : Host.Outcome State Fault Refusal :=
  nextState (s.intBin c ty d a b 1 fun t x y => opMinMax ty t.mods false x y)

/-- MAX (R313, R316). -/
def execMax (c : Ctl) (ty : Ty) (d a : SReg) (b : SrcB) (s : State) : Host.Outcome State Fault Refusal :=
  nextState (s.intBin c ty d a b 1 fun t x y => opMinMax ty t.mods true x y)

/-- SEL: A where bit 0 of the third source is 1, else B (R315). -/
def execSel (c : Ctl) (d a b r : SReg) (s : State) : Host.Outcome State Fault Refusal :=
  nextState (s.issueSlot c.stall.toNat c.pred [.scal a, .scal b, .scal r] [.scal d] noCheck fun t =>
    .ok (t.putS t.ic t.ik d (if t.rs r % 2 = 1 then t.rs a else t.rs b) 1))

/-- CMP: 1 where the condition holds, else 0 (R315). -/
def execCmp (c : Ctl) (ty : Ty) (cond : Cond) (d a : SReg) (b : SrcB) (s : State) : Host.Outcome State Fault Refusal :=
  nextState (s.intBin c ty d a b 1 fun _ x y => if condI cond (decI ty x) (decI ty y) then 1 else 0)

/-- MOVI: the 64-bit immediate (R315). -/
def execMovi (stall : BitVec 4) (d : SReg) (imm : Word) (s : State) : Host.Outcome State Fault Refusal :=
  nextState (s.issueSlot stall.toNat none [] [.scal d] noCheck fun t => .ok (t.putS t.ic t.ik d imm.toNat 1))

/-- EXT: the low bits extended by their type (R313). -/
def execExt (c : Ctl) (ty : Ty) (d a : SReg) (s : State) : Host.Outcome State Fault Refusal :=
  nextState (s.intUn c ty d a fun x => ty.widen x)

/-- BFX: a bit field, extended by zero or by its top bit (R315). -/
def execBfx (c : Ctl) (sx : Bool) (d a : SReg) (pos : BitVec 6) (len : BitVec 7) (s : State) : Host.Outcome State Fault Refusal :=
  nextState (s.issueSlot c.stall.toNat c.pred [.scal a] [.scal d] noCheck fun t =>
    let v := bits (t.rs a) (pos.toNat + len.toNat - 1) pos.toNat
    .ok (t.putS t.ic t.ik d (if sx then sext64 len.toNat v else v) 1))

/-- BFI: B with a bit field replaced by the low bits of A (R315). -/
def execBfi (c : Ctl) (d a b : SReg) (pos : BitVec 6) (len : BitVec 7) (s : State) : Host.Outcome State Fault Refusal :=
  nextState (s.issueSlot c.stall.toNat c.pred [.scal a, .scal b] [.scal d] noCheck fun t =>
    .ok (t.putS t.ic t.ik d (setBits (t.rs b) (pos.toNat + len.toNat - 1) pos.toNat (t.rs a)) 1))

end Sys2Proof.Machine
end

