-- ==== Sys2Proof/Machine/Vector.lean ====
section
/-! DEFINITION. Shapes and vector instructions (R352 to R368). -/
namespace Sys2Proof.Machine

/-! ### SHAPE and SHGET -/

/-- Registers of a shape request. -/
def reqReads (r : ShapeArg) : List Dest :=
  match r with
  | .imm _ _ _ => []
  | .regs a b c => [.scal a, .scal b, .scal c]

/-- The requested extents M, N and K (R357). -/
def State.request (s : State) (r : ShapeArg) : Nat × Nat × Nat :=
  match r with
  | .imm m n k => (m.toNat, n.toNat, k.toNat)
  | .regs a b c => (s.rs a, s.rs b, s.rs c)

/-- A requested extent that SHAPE refuses (R357). -/
def badReq (v : Nat) : Bool := v == 0 || decide (65535 < v)

/-- TINFO of the first refused extent (R134, R357). -/
def reqInfo (q : Nat × Nat × Nat) : Option Nat :=
  if badReq q.1 then some (min q.1 0xFFFF)
  else if badReq q.2.1 then some (min q.2.1 0xFFFF + 2 ^ 16)
  else if badReq q.2.2 then some (min q.2.2 0xFFFF + 2 ^ 17)
  else none

/-- Both words of a granted shape: the grant word low, the request word high (R357). -/
def shapeWords (c : Nat) (tu : Bool) (kind : Nat) (ty : Ty) (q : Nat × Nat × Nat) : Nat :=
  let g := grantOf c kind ty q.1 q.2.1 q.2.2
  shapeWord true tu kind ty.code.toNat g.1 g.2.1 g.2.2 + shapeWord false tu kind ty.code.toNat q.1 q.2.1 q.2.2 * 2 ^ 64

/-- SHAPE: a request and its grant (R357). -/
def execShape (c : Ctl) (tu : Bool) (kind : BitVec 2) (ty : Ty) (d : ShReg) (req : ShapeArg) (s : State) :
    Host.Outcome State Fault Refusal :=
  nextState (s.issueSlot c.stall.toNat c.pred (reqReads req) [.shape d]
    (fun t => (reqInfo (t.request req)).map fun i => (.shape, i))
    fun t => .ok (t.addPend t.ic t.ik (.shape d) (2 ^ 128 - 1) (shapeWords t.ic tu kind.toNat ty (t.request req)) 1 false))

/-- The value of a field of a shape register (R358). -/
def shapeField (field w : Nat) : Nat :=
  let g := w % 2 ^ 64
  if field = 0 then bits g 15 0
  else if field = 1 then bits g 31 16
  else if field = 2 then bits g 47 32
  else if field = 3 then g
  else if field = 4 then w / 2 ^ 64
  else match Ty.ofCode (BitVec.ofNat 4 (bits g 51 48)) with
    | some t => if bit g 55 = 1 && bits g 53 52 == 0 then min (bits g 15 0) (2048 / t.width) else 0
    | none => 0

/-- SHGET: a field of a shape register (R358). -/
def execShget (c : Ctl) (field : BitVec 4) (d : SReg) (a : ShReg) (s : State) : Host.Outcome State Fault Refusal :=
  nextState (s.issueSlot c.stall.toNat c.pred [.shape a] [.scal d] noCheck fun t =>
    .ok (t.putS t.ic t.ik d (shapeField field.toNat ((t.asRead t.ic t.ik).readShape t.ic t.ik a)) 1))

/-! ### Common form of the vector instructions -/

/-- The mask register of a vector or mask instruction. -/
def maskReads (c : Ctl) : List Dest := predReads c.pred

/-- The issue of a vector instruction with a shape: it always executes, and makes the use check first (R359, R360). -/
def State.issueVec (s : State) (c : Ctl) (sh : ShReg) (x : SReg) (reads writes : List Dest) (body : State → Res) : State :=
  s.issueSlot c.stall.toNat none (maskReads c ++ reads ++ [.shape sh] ++ extReads x) writes (shapeCheck sh [0]) body

/-- The active elements below an extent, each with its value. -/
def activeElems (mask wd e : Nat) (f : Nat → Nat) : List (Nat × Nat) :=
  (List.range e).filterMap fun i => if activeAt mask wd i then some (i, f i) else none

/-- The state with a vector result on its way: the elements given and the tail (R359). -/
def State.putElems (s : State) (sh : ShReg) (d : VReg) (wd e lat : Nat) (elems : List (Nat × Nat)) : State :=
  let r := vecResult (s.grant sh % 2 ^ 16) wd e (s.tailTu sh) elems
  s.putV s.ic s.ik d r.1 r.2 lat true

/-- An element-wise vector instruction of one element type. -/
def State.vecOp (s : State) (c : Ctl) (ty : Ty) (d : VReg) (sh : ShReg) (x : SReg) (reads : List Dest) (lat : Nat)
    (f : State → Nat → Nat) : State :=
  s.issueVec c sh x reads [.vec d] fun t =>
    let e := t.extent sh ty.width x
    .ok (t.putElems sh d ty.width e lat (activeElems (t.maskOf c) ty.width e (f t)))

/-- Registers of the second operand of a vector instruction. -/
def vbReads (b : VB) : List Dest :=
  match b with
  | .vec v => [.vec v]
  | .scal r => [.scal r]

/-- Raw element of the second operand; a scalar supplies the same element everywhere (R363). -/
def State.vbRaw (s : State) (ty : Ty) (b : VB) (e : Nat) : Nat :=
  match b with
  | .vec v => rawAt ty (s.rv v) e
  | .scal r => s.rs r % 2 ^ ty.width

/-- An exact element result under the modifiers, in its type's width (R363). -/
def elemResult (ty : Ty) (m : Option ModWord) (x : XR) : Nat := if ty.isFloat then finishF ty .rne m x else finishI ty .rne m x

/-- A binary element-wise instruction on raw elements (R363). -/
def State.vecBin (s : State) (c : Ctl) (ty : Ty) (d a : VReg) (b : VB) (sh : ShReg) (x : SReg) (more : List Dest)
    (f : State → Nat → Nat → Nat → Nat) : State :=
  s.vecOp c ty d sh x (.vec a :: vbReads b ++ more) 4 fun t e => f t e (rawAt ty (t.rv a) e) (t.vbRaw ty b e)

/-- VADD: sums (R363). -/
def execVadd (c : Ctl) (ty : Ty) (d a : VReg) (b : VB) (sh : ShReg) (x : SReg) (s : State) : Host.Outcome State Fault Refusal :=
  nextState (s.vecBin c ty d a b sh x [] fun t _ p q => elemResult ty t.mods ((decElem ty p).add (decElem ty q)))

/-- VSUB: differences (R363). -/
def execVsub (c : Ctl) (ty : Ty) (d a : VReg) (b : VB) (sh : ShReg) (x : SReg) (s : State) : Host.Outcome State Fault Refusal :=
  nextState (s.vecBin c ty d a b sh x [] fun t _ p q => elemResult ty t.mods ((decElem ty p).add (decElem ty q).negate))

/-- VMUL: products (R363). -/
def execVmul (c : Ctl) (ty : Ty) (d a : VReg) (b : VB) (sh : ShReg) (x : SReg) (s : State) : Host.Outcome State Fault Refusal :=
  nextState (s.vecBin c ty d a b sh x [] fun t _ p q => elemResult ty t.mods ((decElem ty p).mul (decElem ty q)))

/-- VFMA: products added to the destination, rounded or wrapped once (R363). -/
def execVfma (c : Ctl) (ty : Ty) (d a : VReg) (b : VB) (sh : ShReg) (x : SReg) (s : State) : Host.Outcome State Fault Refusal :=
  nextState (s.vecBin c ty d a b sh x [.vec d] fun t e p q => elemResult ty t.mods (((decElem ty p).mul (decElem ty q)).add (elemAt ty (t.rv d) e)))

/-- VMIN: lesser elements (R363). -/
def execVmin (c : Ctl) (ty : Ty) (d a : VReg) (b : VB) (sh : ShReg) (x : SReg) (s : State) : Host.Outcome State Fault Refusal :=
  nextState (s.vecBin c ty d a b sh x [] fun t _ p q => elemResult ty t.mods ((decElem ty p).min (decElem ty q)))

/-- VMAX: greater elements (R363). -/
def execVmax (c : Ctl) (ty : Ty) (d a : VReg) (b : VB) (sh : ShReg) (x : SReg) (s : State) : Host.Outcome State Fault Refusal :=
  nextState (s.vecBin c ty d a b sh x [] fun t _ p q => elemResult ty t.mods ((decElem ty p).max (decElem ty q)))

/-- VAND: AND of the patterns (R363). -/
def execVand (c : Ctl) (ty : Ty) (d a : VReg) (b : VB) (sh : ShReg) (x : SReg) (s : State) : Host.Outcome State Fault Refusal :=
  nextState (s.vecBin c ty d a b sh x [] fun _ _ p q => p &&& q)

/-- VOR: OR of the patterns (R363). -/
def execVor (c : Ctl) (ty : Ty) (d a : VReg) (b : VB) (sh : ShReg) (x : SReg) (s : State) : Host.Outcome State Fault Refusal :=
  nextState (s.vecBin c ty d a b sh x [] fun _ _ p q => p ||| q)

/-- VXOR: XOR of the patterns (R363). -/
def execVxor (c : Ctl) (ty : Ty) (d a : VReg) (b : VB) (sh : ShReg) (x : SReg) (s : State) : Host.Outcome State Fault Refusal :=
  nextState (s.vecBin c ty d a b sh x [] fun _ _ p q => p ^^^ q)

/-- VSHL (R363). -/
def execVshl (c : Ctl) (ty : Ty) (d a : VReg) (b : VB) (sh : ShReg) (x : SReg) (s : State) : Host.Outcome State Fault Refusal :=
  nextState (s.vecBin c ty d a b sh x [] fun _ _ p q => opShl ty.width p q)

/-- VSHR (R363). -/
def execVshr (c : Ctl) (ty : Ty) (d a : VReg) (b : VB) (sh : ShReg) (x : SReg) (s : State) : Host.Outcome State Fault Refusal :=
  nextState (s.vecBin c ty d a b sh x [] fun _ _ p q => opShr ty.width p q)

/-- VSRA (R363). -/
def execVsra (c : Ctl) (ty : Ty) (d a : VReg) (b : VB) (sh : ShReg) (x : SReg) (s : State) : Host.Outcome State Fault Refusal :=
  nextState (s.vecBin c ty d a b sh x [] fun _ _ p q => opSra ty.width p q)

/-- The mask that VCMP leaves: groups below the extent compared where active, the bits above zero, the others kept (R364). -/
def cmpMask (old mask g e : Nat) (holds : Nat → Bool) : Nat :=
  (List.range 64).foldl (fun r j =>
    if ceilDiv e g ≤ j then r
    else if bit mask j = 1 then
      (if (List.range g).all fun i => decide (e ≤ j * g + i) || holds (j * g + i) then r + 2 ^ j else r)
    else r + bit old j * 2 ^ j) 0

/-- VCMP: a mask of the groups whose elements meet a condition (R364). -/
def execVcmp (c : Ctl) (ty : Ty) (cond : Cond) (d : SReg) (a : VReg) (b : VB) (sh : ShReg) (x : SReg) (s : State) :
    Host.Outcome State Fault Refusal :=
  nextState (s.issueVec c sh x (.vec a :: vbReads b ++ [.scal d]) [.scal d] fun t =>
    let e := t.extent sh ty.width x
    .ok (t.putS t.ic t.ik d (cmpMask (t.rs d) (t.maskOf c) (maskGroup ty.width) e fun i =>
      condElem ty cond (rawAt ty (t.rv a) i) (t.vbRaw ty b i)) 4))

/-- VSEL: A where active, else B, for every element below the extent (R364). -/
def execVsel (c : Ctl) (ty : Ty) (d a b : VReg) (sh : ShReg) (x : SReg) (s : State) : Host.Outcome State Fault Refusal :=
  nextState (s.issueVec c sh x [.vec a, .vec b] [.vec d] fun t =>
    let e := t.extent sh ty.width x
    .ok (t.putElems sh d ty.width e 4 ((List.range e).map fun i =>
      (i, if activeAt (t.maskOf c) ty.width i then rawAt ty (t.rv a) i else rawAt ty (t.rv b) i))))

/-! ### Conversion and quantisation (R365) -/

/-- The two nibbles of a pair written to a 4-bit type from exact values (R258, R365). -/
def pairByte (ty : Ty) (rm : Rm) (m : Option ModWord) (real : Bool) (x0 : XR) (x1 : Option XR) : Nat :=
  if ty = .n4x then encodePair (modPre m x0) (match x1 with | some v => modPre m v | none => XR.zero) rm
  else finishAny ty rm m real x0 + 16 * (match x1 with | some v => finishAny ty rm m real v | none => 0)

/-- A converting vector instruction: elements of a source type give exact values, or nothing for a written zero (R365). -/
def State.vecConv (s : State) (c : Ctl) (ty src : Ty) (rm : Rm) (d a : VReg) (sh : ShReg) (x : SReg) (more : List Dest)
    (real : Bool) (f : State → XR → Option XR) : State :=
  s.issueVec c sh x (.vec a :: more) [.vec d] fun t =>
    let e := t.extent sh (max ty.width src.width) x
    let m := t.mods
    let v := t.rv a
    let at_ (i : Nat) : Option XR := f t (elemAt src v i)
    if ty.isPacked then
      let pairs := (List.range (ceilDiv e 2)).filterMap fun j =>
        if activeAt (t.maskOf c) 4 (2 * j) then
          some (j, match at_ (2 * j) with
            | none => 0
            | some x0 => pairByte ty rm m real x0 (if 2 * j + 1 < e then at_ (2 * j + 1) else none))
        else none
      let r := vecResult 0 8 0 true pairs
      let tail := if t.tailTu sh then 0 else tailMask (t.grant sh % 2 ^ 16) 4 (ceilDiv e 2 * 8)
      .ok (t.putV t.ic t.ik d (r.1 ||| tail) r.2 4 true)
    else
      .ok (t.putElems sh d ty.width e 4 (activeElems (t.maskOf c) ty.width e fun i =>
        match at_ i with
        | none => 0
        | some y => finishAny ty rm m real y))

/-- VCVT: conversion of elements in a rounding mode (R257, R365). -/
def execVcvt (c : Ctl) (ty : Ty) (d a : VReg) (sh : ShReg) (src : Ty) (rm : Rm) (x : SReg) (s : State) :
    Host.Outcome State Fault Refusal :=
  nextState (s.vecConv c ty src rm d a sh x [] (!intSource src) fun _ y => some y)

/-- VQNT: elements divided by a scale and converted; an invalid scale writes zeros (R365). -/
def execVqnt (c : Ctl) (ty : Ty) (d a : VReg) (b : SReg) (sh : ShReg) (src : Ty) (rm : Rm) (x : SReg) (s : State) :
    Host.Outcome State Fault Refusal :=
  nextState (s.vecConv c ty src rm d a sh x [.scal b] true fun t y =>
    match decF .f32 (t.rs b) with
    | .fin g r n k => if n = 0 then none else some (y.div (.fin g r n k))
    | .nan => none
    | .inf _ => none)

/-- VDQ: elements times a scale, rounded RNE (R251, R365). -/
def execVdq (c : Ctl) (ty : Ty) (d a : VReg) (b : SReg) (sh : ShReg) (src : Ty) (x : SReg) (s : State) :
    Host.Outcome State Fault Refusal :=
  nextState (s.vecConv c ty src .rne d a sh x [.scal b] true fun t y => some (y.mul (decF .f32 (t.rs b))))

/-! ### Reductions and scans (R366) -/

/-- A scalar result of a vector instruction as it is written: an integer through ext, a float zero-extended (R366). -/
def widenElem (ty : Ty) (v : Nat) : Nat := if ty.isInt then ty.widen v else v % 2 ^ ty.width

/-- The values of the active elements below the extent, with their indices. -/
def State.activeVals (s : State) (c : Ctl) (ty : Ty) (a : VReg) (e : Nat) : List (Nat × XR) :=
  (List.range e).filterMap fun i => if activeAt (s.maskOf c) ty.width i then some (i, elemAt ty (s.rv a) i) else none

/-- VREDS: the exact sum of a scalar and the active elements, rounded or wrapped once (R366). -/
def execVreds (c : Ctl) (ty : Ty) (d : SReg) (a : VReg) (b : SReg) (sh : ShReg) (x : SReg) (s : State) :
    Host.Outcome State Fault Refusal :=
  nextState (s.issueVec c sh x [.vec a, .scal b] [.scal d] fun t =>
    let l := t.activeVals c ty a (t.extent sh ty.width x)
    let v := l.foldl (fun r y => r.add y.2) (decElem ty (t.rs b % 2 ^ ty.width))
    .ok (t.putS t.ic t.ik d (widenElem ty (elemResult ty t.mods v)) 4))

/-- The best element of a list by a strict order, the lowest index on a tie; the first NaN wins over all (R366). -/
def bestOf (mx : Bool) : List (Nat × XR) → Option (Nat × XR)
  | [] => none
  | y :: l => match bestOf mx l with
    | none => some y
    | some z =>
      if y.2.isNan then some y
      else if z.2.isNan then some z
      else if (if mx then y.2.lt z.2 else z.2.lt y.2) then some z else some y

/-- VREDM: the least or greatest active element, or its index (R366). -/
def execVredm (c : Ctl) (ty : Ty) (index max : Bool) (d : SReg) (a : VReg) (sh : ShReg) (x : SReg) (s : State) :
    Host.Outcome State Fault Refusal :=
  nextState (s.issueVec c sh x [.vec a] [.scal d] fun t =>
    let v := match bestOf max (t.activeVals c ty a (t.extent sh ty.width x)) with
      | some y => if index then y.1 else widenElem ty (elemResult ty none y.2)
      | none =>
        if index then ones64
        else if ty.isFloat then infPattern (fmtOf ty) false max
        else widenElem ty (wrap ty.width (if max then ty.lo else ty.hi))
    .ok (t.putS t.ic t.ik d v 4))

/-- The running sums of a list of values. -/
def runningSums (acc : XR) : List (Nat × XR) → List (Nat × XR)
  | [] => []
  | y :: l => let v := acc.add y.2; (y.1, v) :: runningSums v l

/-- The running sums of the active elements; the first is the element itself. -/
def scanSums (l : List (Nat × XR)) : List (Nat × XR) :=
  match l with
  | [] => []
  | y :: l => y :: runningSums y.2 l

/-- VSCAN: the exact sum of the active elements at or below each, rounded or wrapped once (R366). -/
def execVscan (c : Ctl) (ty : Ty) (d a : VReg) (sh : ShReg) (x : SReg) (s : State) : Host.Outcome State Fault Refusal :=
  nextState (s.issueVec c sh x [.vec a] [.vec d] fun t =>
    let e := t.extent sh ty.width x
    .ok (t.putElems sh d ty.width e 4 ((scanSums (t.activeVals c ty a e)).map fun y => (y.1, elemResult ty t.mods y.2))))

/-! ### Movement (R367) -/

/-- VPERM: elements chosen by an index vector, 0 from the extent on (R367). -/
def execVperm (c : Ctl) (ty : Ty) (d a b : VReg) (sh : ShReg) (x : SReg) (s : State) : Host.Outcome State Fault Refusal :=
  nextState (s.vecOp c ty d sh x [.vec a, .vec b] 4 fun t i =>
    let j := rawAt ty (t.rv b) i
    if j < t.extent sh ty.width x then rawAt ty (t.rv a) j else 0)

/-- VSLIDE: elements moved up or down, zeros in (R367). -/
def execVslide (c : Ctl) (ty : Ty) (dn : Bool) (d a : VReg) (b : SReg) (sh : ShReg) (x : SReg) (s : State) :
    Host.Outcome State Fault Refusal :=
  nextState (s.vecOp c ty d sh x [.vec a, .scal b] 4 fun t i =>
    let n := t.rs b
    if dn then (if i + n < t.extent sh ty.width x then rawAt ty (t.rv a) (i + n) else 0)
    else if n ≤ i then rawAt ty (t.rv a) (i - n) else 0)

/-- Registers of VBCAST's source. -/
def bcastReads (b : BcastSrc) : List Dest :=
  match b with
  | .scal r => [.scal r]
  | .elem v _ => [.vec v]

/-- VBCAST: a scalar or an element in every active element (R367). -/
def execVbcast (c : Ctl) (ty : Ty) (d : VReg) (src : BcastSrc) (sh : ShReg) (x : SReg) (s : State) : Host.Outcome State Fault Refusal :=
  nextState (s.vecOp c ty d sh x (bcastReads src) 4 fun t _ =>
    match src with
    | .scal r => t.rs r % 2 ^ ty.width
    | .elem v i => if 2048 / ty.width ≤ i.toNat then 0 else rawAt ty (t.rv v) i.toNat)

/-- VIOTA: a start plus multiples of a step, wrapped (R367). -/
def execViota (c : Ctl) (ty : Ty) (d : VReg) (a b : SReg) (sh : ShReg) (x : SReg) (s : State) : Host.Outcome State Fault Refusal :=
  nextState (s.vecOp c ty d sh x [.scal a, .scal b] 4 fun t i => (t.rs a + i * t.rs b) % 2 ^ ty.width)

/-- VMOVS: one element to or from a scalar register, under its predicate group (R367). -/
def execVmovs (c : Ctl) (ty : Ty) (dir : MovsDir) (b : SReg) (s : State) : Host.Outcome State Fault Refusal :=
  match dir with
  | .extract d a =>
    nextState (s.issueSlot c.stall.toNat none (maskReads c ++ [.vec a, .scal b]) [.scal d] noCheck fun t =>
      let i := t.rs b
      if 2048 / ty.width ≤ i then .ok (t.putS t.ic t.ik d 0 4)
      else if activeAt (t.maskOf c) ty.width i then .ok (t.putS t.ic t.ik d (widenElem ty (rawAt ty (t.rv a) i)) 4)
      else .ok t)
  | .insert d a =>
    nextState (s.issueSlot c.stall.toNat none (maskReads c ++ [.scal a, .scal b]) [.vec d] noCheck fun t =>
      let i := t.rs b
      if 2048 / ty.width ≤ i || !activeAt (t.maskOf c) ty.width i then .ok t
      else .ok (t.putV t.ic t.ik d ((2 ^ ty.width - 1) <<< (i * ty.width)) ((t.rs a % 2 ^ ty.width) <<< (i * ty.width)) 4 true))

/-! ### Transcendentals (R368) -/

/-- T[i] = 2^(i/64), F32 patterns: entries 0 to 15. -/
def tabT0 : List Nat := [0x3f800000, 0x3f8164d2, 0x3f82cd87, 0x3f843a29, 0x3f85aac3, 0x3f871f62, 0x3f88980f, 0x3f8a14d5, 0x3f8b95c2, 0x3f8d1adf, 0x3f8ea43a, 0x3f9031dc, 0x3f91c3d3, 0x3f935a2b, 0x3f94f4f0, 0x3f96942d]

/-- T[i] = 2^(i/64), F32 patterns: entries 16 to 31. -/
def tabT1 : List Nat := [0x3f9837f0, 0x3f99e046, 0x3f9b8d3a, 0x3f9d3eda, 0x3f9ef532, 0x3fa0b051, 0x3fa27043, 0x3fa43516, 0x3fa5fed7, 0x3fa7cd94, 0x3fa9a15b, 0x3fab7a3a, 0x3fad583f, 0x3faf3b79, 0x3fb123f6, 0x3fb311c4]

/-- T[i] = 2^(i/64), F32 patterns: entries 32 to 47. -/
def tabT2 : List Nat := [0x3fb504f3, 0x3fb6fd92, 0x3fb8fbaf, 0x3fbaff5b, 0x3fbd08a4, 0x3fbf179a, 0x3fc12c4d, 0x3fc346cd, 0x3fc5672a, 0x3fc78d75, 0x3fc9b9be, 0x3fcbec15, 0x3fce248c, 0x3fd06334, 0x3fd2a81e, 0x3fd4f35b]

/-- T[i] = 2^(i/64), F32 patterns: entries 48 to 63. -/
def tabT3 : List Nat := [0x3fd744fd, 0x3fd99d16, 0x3fdbfbb8, 0x3fde60f5, 0x3fe0ccdf, 0x3fe33f89, 0x3fe5b907, 0x3fe8396a, 0x3feac0c7, 0x3fed4f30, 0x3fefe4ba, 0x3ff28177, 0x3ff5257d, 0x3ff7d0df, 0x3ffa83b3, 0x3ffd3e0c]

/-- T[i] = 2^(i/64), F32 patterns (R368). -/
def tabT : List Nat := tabT0 ++ tabT1 ++ tabT2 ++ tabT3

/-- R[i] = 64 / (64 + i), F32 patterns: entries 0 to 15. -/
def tabR0 : List Nat := [0x3f800000, 0x3f7c0fc1, 0x3f783e10, 0x3f74898d, 0x3f70f0f1, 0x3f6d7304, 0x3f6a0ea1, 0x3f66c2b4, 0x3f638e39, 0x3f607038, 0x3f5d67c9, 0x3f5a740e, 0x3f579436, 0x3f54c77b, 0x3f520d21, 0x3f4f6475]

/-- R[i] = 64 / (64 + i), F32 patterns: entries 16 to 31. -/
def tabR1 : List Nat := [0x3f4ccccd, 0x3f4a4588, 0x3f47ce0c, 0x3f4565c8, 0x3f430c31, 0x3f40c0c1, 0x3f3e82fa, 0x3f3c5264, 0x3f3a2e8c, 0x3f381703, 0x3f360b61, 0x3f340b41, 0x3f321643, 0x3f302c0b, 0x3f2e4c41, 0x3f2c7692]

/-- R[i] = 64 / (64 + i), F32 patterns: entries 32 to 47. -/
def tabR2 : List Nat := [0x3f2aaaab, 0x3f28e83f, 0x3f272f05, 0x3f257eb5, 0x3f23d70a, 0x3f2237c3, 0x3f20a0a1, 0x3f1f1166, 0x3f1d89d9, 0x3f1c09c1, 0x3f1a90e8, 0x3f191f1a, 0x3f17b426, 0x3f164fda, 0x3f14f209, 0x3f139a86]

/-- R[i] = 64 / (64 + i), F32 patterns: entries 48 to 63. -/
def tabR3 : List Nat := [0x3f124925, 0x3f10fdbc, 0x3f0fb824, 0x3f0e7835, 0x3f0d3dcb, 0x3f0c08c1, 0x3f0ad8f3, 0x3f09ae41, 0x3f088889, 0x3f0767ab, 0x3f064b8a, 0x3f053408, 0x3f042108, 0x3f03126f, 0x3f020821, 0x3f010204]

/-- R[i] = 64 / (64 + i), F32 patterns (R368). -/
def tabR : List Nat := tabR0 ++ tabR1 ++ tabR2 ++ tabR3

/-- L[i] = log2(1 + i/64), F32 patterns: entries 0 to 15. -/
def tabL0 : List Nat := [0x0, 0x3cb73cb4, 0x3d35d69c, 0x3d8759c5, 0x3db31fb8, 0x3dde4212, 0x3e0462c4, 0x3e19574f, 0x3e2e00d2, 0x3e42615f, 0x3e567af1, 0x3e6a4f72, 0x3e7de0b6, 0x3e88983f, 0x3e92203d, 0x3e9b8926]

/-- L[i] = log2(1 + i/64), F32 patterns: entries 16 to 31. -/
def tabL1 : List Nat := [0x3ea4d3c2, 0x3eae00d2, 0x3eb7110e, 0x3ec0052b, 0x3ec8ddd4, 0x3ed19bb0, 0x3eda3f60, 0x3ee2c97d, 0x3eeb3a9f, 0x3ef39355, 0x3efbd42b, 0x3f01fed4, 0x3f060828, 0x3f0a0650, 0x3f0df989, 0x3f11e20f]

/-- L[i] = log2(1 + i/64), F32 patterns: entries 32 to 47. -/
def tabL2 : List Nat := [0x3f15c01a, 0x3f1993e3, 0x3f1d5da0, 0x3f211d84, 0x3f24d3c2, 0x3f28808c, 0x3f2c2411, 0x3f2fbe80, 0x3f335004, 0x3f36d8cb, 0x3f3a58ff, 0x3f3dd0c8, 0x3f41404f, 0x3f44a7ba, 0x3f480731, 0x3f4b5ed7]

/-- L[i] = log2(1 + i/64), F32 patterns: entries 48 to 63. -/
def tabL3 : List Nat := [0x3f4eaed0, 0x3f51f740, 0x3f553848, 0x3f587209, 0x3f5ba4a4, 0x3f5ed039, 0x3f61f4e5, 0x3f6512c7, 0x3f6829fb, 0x3f6b3a9f, 0x3f6e44cd, 0x3f7148a1, 0x3f744636, 0x3f773da4, 0x3f7a2f04, 0x3f7d1a71]

/-- L[i] = log2(1 + i/64), F32 patterns (R368). -/
def tabL : List Nat := tabL0 ++ tabL1 ++ tabL2 ++ tabL3

/-- S[j] = 1 / sqrt(1 + j/32), F32 patterns: entries 0 to 15. -/
def tabS0 : List Nat := [0x3f800000, 0x3f7c1764, 0x3f785b42, 0x3f74c867, 0x3f715bef, 0x3f6e133e, 0x3f6aebf5, 0x3f67e3ed, 0x3f64f92e, 0x3f6229ed, 0x3f5f7483, 0x3f5cd76e, 0x3f5a514a, 0x3f57e0cf, 0x3f5584cd, 0x3f533c2e]

/-- S[j] = 1 / sqrt(1 + j/32), F32 patterns: entries 16 to 31. -/
def tabS1 : List Nat := [0x3f5105ec, 0x3f4ee116, 0x3f4ccccd, 0x3f4ac83f, 0x3f48d2ab, 0x3f46eb5a, 0x3f4511a3, 0x3f4344e6, 0x3f41848f, 0x3f3fd012, 0x3f3e26eb, 0x3f3c889f, 0x3f3af4ba, 0x3f396ace, 0x3f37ea74, 0x3f36734a]

/-- S[j] = 1 / sqrt(1 + j/32), F32 patterns: entries 32 to 47. -/
def tabS2 : List Nat := [0x3f3504f3, 0x3f339f19, 0x3f32416a, 0x3f30eb96, 0x3f2f9d53, 0x3f2e565c, 0x3f2d166c, 0x3f2bdd46, 0x3f2aaaab, 0x3f297e62, 0x3f285835, 0x3f2737f0, 0x3f261d5f, 0x3f250855, 0x3f23f8a2, 0x3f22ee1d]

/-- S[j] = 1 / sqrt(1 + j/32), F32 patterns: entries 48 to 63. -/
def tabS3 : List Nat := [0x3f21e89b, 0x3f20e7f5, 0x3f1fec04, 0x3f1ef4a4, 0x3f1e01b3, 0x3f1d130e, 0x3f1c2896, 0x3f1b422c, 0x3f1a5fb2, 0x3f19810c, 0x3f18a61f, 0x3f17ced0, 0x3f16fb06, 0x3f162aa9, 0x3f155da2, 0x3f1493d9]

/-- S[j] = 1 / sqrt(1 + j/32), F32 patterns: entries 64 to 79. -/
def tabS4 : List Nat := [0x3f13cd3a, 0x3f1309af, 0x3f124925, 0x3f118b87, 0x3f10d0c3, 0x3f1018c6, 0x3f0f6381, 0x3f0eb0e0, 0x3f0e00d5, 0x3f0d534f, 0x3f0ca83f, 0x3f0bff97, 0x3f0b5948, 0x3f0ab544, 0x3f0a137d, 0x3f0973e8]

/-- S[j] = 1 / sqrt(1 + j/32), F32 patterns: entries 80 to 95. -/
def tabS5 : List Nat := [0x3f08d677, 0x3f083b1e, 0x3f07a1d2, 0x3f070a87, 0x3f067532, 0x3f05e1c7, 0x3f05503e, 0x3f04c08b, 0x3f0432a5, 0x3f03a682, 0x3f031c1a, 0x3f029362, 0x3f020c52, 0x3f0186e2, 0x3f01030a, 0x3f0080c1]

/-- S[j] = 1 / sqrt(1 + j/32), F32 patterns (R368). -/
def tabS : List Nat := tabS0 ++ tabS1 ++ tabS2 ++ tabS3 ++ tabS4 ++ tabS5

/-- Entry of a table of F32 patterns as a value. -/
def tabAt (l : List Nat) (i : Nat) : XR := decF .f32 (l.getD i 0)

/-- A small fraction. -/
def xq (n d : Nat) : XR := .fin false false n d

/-- The greatest integer at or below a finite rational value. -/
def xrFloor (x : XR) : Int :=
  match x with
  | .fin s _ n d => signedNum s n / (d : Int)
  | .nan => 0
  | .inf _ => 0

/-- VEXP2 of one value (R368). -/
def exp2X (x : XR) : XR :=
  if x.isNan then .nan
  else
    let lim := XR.ofInt 192
    let x := if x.lt lim.negate then lim.negate else if lim.lt x then lim else x
    let k := xrFloor (x.scale 6)
    let n := k / 64
    let i := (k - 64 * n).toNat
    let r := rne32 (x.add ((XR.ofInt (-k)).scale (-6)))
    let q := fma32 (decF .f32 0x3D635847) r (decF .f32 0x3E75FDF0)
    let q := fma32 q r (decF .f32 0x3F317218)
    let p := rne32 (q.mul r)
    (fma32 (tabAt tabT i) p (tabAt tabT i)).scale n

/-- VLOG2 of one value (R368). -/
def log2X (x : XR) : XR :=
  match x with
  | .nan => .nan
  | .inf s => if s then .nan else .inf false
  | .fin s _ n d =>
    if n = 0 then .inf true
    else if s then .nan
    else
      let e := magExp false n d
      let m := (xq n d).scale (-e)
      let i := (xrFloor ((m.add (XR.ofInt (-1))).scale 6)).toNat
      let u := fma32 m (tabAt tabR i) (XR.ofInt (-1))
      let q := fma32 (decF .f32 0xBEB8AA3B) u (decF .f32 0x3EF6384F)
      let q := fma32 q u (decF .f32 0xBF38AA3B)
      let q := fma32 q u (decF .f32 0x3FB8AA3B)
      let t := fma32 q u (tabAt tabL i)
      (XR.ofInt e).add t

/-- One refinement of a reciprocal (R368). -/
def rcpStep (m y : XR) : XR :=
  let d := fma32 m.negate y XR.one
  fma32 y d y

/-- VRCP of one value (R368). -/
def rcpX (x : XR) : XR :=
  match x with
  | .nan => .nan
  | .inf s => .fin s false 0 1
  | .fin s _ n d =>
    if n = 0 then .inf s
    else
      let e := magExp false n d
      let m := (xq n d).scale (-e)
      let i := (xrFloor ((m.add (XR.ofInt (-1))).scale 6)).toNat
      let y := rcpStep m (rcpStep m (tabAt tabR i))
      let y := y.scale (-e)
      if s then y.negate else y

/-- One refinement of a reciprocal square root (R368). -/
def rsqStep (m y : XR) : XR :=
  let t := rne32 (m.mul y)
  let d := fma32 t.negate y XR.one
  let q := fma32 (xq 3 8) d (xq 1 2)
  fma32 y (rne32 (q.mul d)) y

/-- VRSQ of one value (R368). -/
def rsqX (x : XR) : XR :=
  match x with
  | .nan => .nan
  | .inf s => if s then .nan else .fin false false 0 1
  | .fin s _ n d =>
    if n = 0 then .inf s
    else if s then .nan
    else
      let e := magExp false n d / 2 * 2
      let m := (xq n d).scale (-e)
      let j := (xrFloor ((m.add (XR.ofInt (-1))).scale 5)).toNat
      let y := rsqStep m (rsqStep m (tabAt tabS j))
      y.scale (-(e / 2))

/-- A transcendental vector instruction (R368). -/
def State.vecFun (s : State) (c : Ctl) (ty : Ty) (d a : VReg) (sh : ShReg) (x : SReg) (f : XR → XR) : State :=
  s.vecOp c ty d sh x [.vec a] 8 fun t i => finishF ty .rne t.mods (f (elemAt ty (t.rv a) i))

/-- VEXP2 (R368). -/
def execVexp2 (c : Ctl) (ty : Ty) (d a : VReg) (sh : ShReg) (x : SReg) (s : State) : Host.Outcome State Fault Refusal :=
  nextState (s.vecFun c ty d a sh x exp2X)

/-- VLOG2 (R368). -/
def execVlog2 (c : Ctl) (ty : Ty) (d a : VReg) (sh : ShReg) (x : SReg) (s : State) : Host.Outcome State Fault Refusal :=
  nextState (s.vecFun c ty d a sh x log2X)

/-- VRCP (R368). -/
def execVrcp (c : Ctl) (ty : Ty) (d a : VReg) (sh : ShReg) (x : SReg) (s : State) : Host.Outcome State Fault Refusal :=
  nextState (s.vecFun c ty d a sh x rcpX)

/-- VRSQ (R368). -/
def execVrsq (c : Ctl) (ty : Ty) (d a : VReg) (sh : ShReg) (x : SReg) (s : State) : Host.Outcome State Fault Refusal :=
  nextState (s.vecFun c ty d a sh x rsqX)

end Sys2Proof.Machine
end

