-- ==== Sys2Proof/Machine/Engine.lean ====
section
/-! DEFINITION. Accesses of the engines of a core to storage, and what every engine command does at its issue and at its end
(R123, R180 to R184, R199, R204, R205, R218 to R221, R240, R241, R376, R407, R408). -/
namespace Sys2Proof.Machine

/-! ### Waking an island that an access needs -/

/-- The state with the exit of a die, or of the cellar, from its idle state asked for; nothing while it is under way (R44 to R49). -/
def State.wakeFor (s : State) (die : Nat) : Option State :=
  if die = 4 then (if s.power.cellarWaking then none else some (s.nextAct .cellarWake))
  else if SMap.get 0 s.power.trans die != 0 then none
  else some (s.nextAct (if SMap.get 3 s.power.die die = 1 then .k1Exit die else .dieWake die))

/-- The engines of a core run: a compute die in K1 or deeper has stopped its arrays (R43). -/
def State.engineOn (s : State) (c : Nat) : Bool := isCellar c || s.dieAwake (coreDie c)

/-! ### One access -/

/-- What an access of an engine answers: its value, a wait, with a state where it asks for something first, or a status that ends the
command. -/
inductive EngRes where
  | ok (s : State) (v : Nat)
  | wait (s : Option State)
  | fail (code sub info : Nat)

/-- The answer to an access that an engine makes by a message: sent where it has not been, then its value, or the status of a refusal or of an
uncorrectable error (R184, R190, R215, R218). -/
def State.engAsk (s : State) (c who : Nat) (x : CmdCtl) (va n : Nat) (write counted : Bool) (m : Msg) : EngRes :=
  match (s.apart c).asked.find? fun a => a.who == who && a.va == va && a.n == n && a.write == write with
  | some a =>
    if a.st = 0 then .wait none
    else if a.st = 1 then .ok s a.val
    else if a.st = 2 then .fail 9 a.val (va % 2 ^ 32)
    else .fail 0x0F 0 (va % 2 ^ 32)
  | none =>
    let t := s.sendCounted c { m with src := epCore c, raddr := replyAddr (epCore c), ctx := x.ctx, lid := x.lid, pts := (s.core c).pts, size := n }
      { Out.blank counted x.pc va x.handle with who := who }
    .wait (some (t.modApart c fun p => { p with asked := p.asked ++ [{ who := who, va := va, n := n, write := write, id := s.nextMsg }] }))

/-- The state with the answers that an engine has got forgotten, at the end of the beat or step that asked for them. -/
def State.engClear (s : State) (c who : Nat) : State :=
  if (s.apart c).asked.any fun a => a.who == who then s.modApart c fun p => { p with asked := p.asked.filter fun a => a.who != who } else s

/-- The state with what an engine has read since its last interruption point forgotten (R382, R390). -/
def State.engForget (s : State) (c who : Nat) : State :=
  s.modApart c fun p => { p with asked := p.asked.filter fun a => a.who != who || a.write }

/-- The message of an engine's access to another core's scratchpad (R184). -/
def engMsg (t : Nat) (x : CmdCtl) (va : Nat) : Msg := { id := 0, src := 0, dst := epCore t, part := x.part, ch := 2, op := 0x21, taddr := va }

/-- The message of an engine's access to another package (R36, R194). -/
def State.engPeer (s : State) (x : CmdCtl) (g pa : Nat) : Msg :=
  { id := 0, src := 0, dst := epPort (s.peerPort g), dpkg := g, far := true, part := x.asid, ch := 2, op := 0x21, taddr := pa }

/-- The message of an engine's access to coherent memory, cached or not (R190, R218). -/
def State.engLine (s : State) (x : CmdCtl) (pa : Nat) (uc : Bool) : Msg :=
  { id := 0, src := 0, dst := s.homeEp pa uc, part := x.asid, ch := 0, op := 0x01, taddr := pa, aux := if uc then 1 else 0 }

/-- A page-in that an engine of a core has asked for has not been answered (R200). -/
def State.pagePending (s : State) (c who : Nat) : Bool :=
  (s.net.any fun m => m.op == 0x36 && m.ctx == who && m.src == epCore c) || (s.net.any fun m => m.op == 0x37 && m.ctx == who && m.dst == epCore c)
    || (s.pageIns.any fun p => p.askers.any fun a => a.1 == epCore c && a.2.1 == who)

/-- The state with a page-in asked for by an engine of a core, unless it has been asked for (R200); `who` is 100 + a copy channel or
200 + a matrix inbox slot. -/
def State.engAskPage (s : State) (c : Nat) (x : CmdCtl) (who va : Nat) (write : Bool) (leaf size : Nat) : Option State :=
  if s.pagePending c who then none
  else some (s.askPage c who x.asid va write leaf size)

/-- The copy of a line that an engine may read: of the remote-data cache, or of the cellar cache, with the issuing core's logical time and the
acquire of its command (R218, R220). -/
def State.engCopy (s : State) (c : Nat) (x : CmdCtl) (pa : Nat) : Option Copy :=
  if ownQuadrant c pa then none
  else (SMap.find? s.rdc (rdcKey (coreDie c) (pa / 64))).filter fun y =>
    copyUsable c { s.core c with acqTime := if x.acq then x.time else 0 } y x.asid s.now

/-- An engine's read waits at a watermark of the core over a byte range, but for those of the copy command that reads (R205, R410). -/
def State.engMarked (s : State) (c who off n : Nat) : Bool :=
  let p := s.apart c
  let own (ch : Nat) : Bool := decide (100 ≤ who) && decide (who < 200)
    && (ch + 100 == who || (SMap.find? p.chans (who - 100)).any fun m => m.kind == 1 && m.ch2 == ch)
  p.marks.any fun e => !own e.1 && e.2.act && rangesMeet off n (max e.2.lo e.2.wm) (e.2.hi - max e.2.lo e.2.wm)

/-- A read by an engine of `n` bytes, within one line where they lie in memory (R181, R184, R190, R194, R199, R205, R218). -/
def State.engRead1 (s : State) (c who : Nat) (x : CmdCtl) (va n : Nat) : EngRes :=
  let region := va / 2 ^ 48
  let low := va % 2 ^ 32
  if 0xFF ≤ region then .fail 8 0 low
  else if 0xFD ≤ region then
    match windowPlace c va n with
    | some (.own off) =>
      if s.spillMeets c off n then .fail 8 0 low
      else if s.engMarked c who off n then .wait none
      else if s.badSpad c off n then .fail 0x0F 0 off
      else .ok s (s.spadRead c off n)
    | some (.core t _) => s.engAsk c who x va n false true (engMsg t x va)
    | _ => .fail 8 0 low
  else match s.translate c x.asid va .read x.priv (decide (200 ≤ who)) with
    | (.page, _) => .fail 7 0 low
    | (.prot, _) => .fail 8 0 low
    | (.shut, _) => .wait s.wantDram
    | (.ecc, _) => .fail 0x0F 0 low
    | (.flash leaf _ size _, t) => .wait (t.engAskPage c x who va false leaf size)
    | (.ok pa b kind pkg, t) =>
      if kind = 3 then t.engAsk c who x va n false true (t.engPeer x pkg pa)
      else
        let uc := bit b 6 == 1 || isSram pa
        match (if uc then none else t.engCopy c x pa) with
        | some y => .ok (t.useCopy c y) (lineBytes y.data pa n)
        | none => t.engAsk c who x va n false false (t.engLine x pa uc)

/-- A write by an engine of `n` bytes, within one line where they lie in memory, which may keep the low nibble of the first byte or the high nibble
of the last (R26, R184, R190, R194, R199, R205, R218). -/
def State.engWrite1 (s : State) (c who : Nat) (x : CmdCtl) (va n v : Nat) (lo hi : Bool) : EngRes :=
  let region := va / 2 ^ 48
  let low := va % 2 ^ 32
  let put (m : Msg) (op : Nat) : Msg := { m with op := op, data := toBytes n v, keepLo := lo, keepHi := hi }
  if 0xFF ≤ region then .fail 8 0 low
  else if 0xFD ≤ region then
    match windowPlace c va n with
    | some (.own off) =>
      if s.spillMeets c off n then .fail 8 0 low else .ok (s.spadStore c off n (keepNib n (s.spadRead c off n) v lo hi)) 0
    | some (.core t _) => s.engAsk c who x va n true true (put (engMsg t x va) 0x23)
    | _ => .fail 8 0 low
  else match s.translate c x.asid va .write x.priv (decide (200 ≤ who)) with
    | (.page, _) => .fail 7 0 low
    | (.prot, _) => .fail 8 0 low
    | (.shut, _) => .wait s.wantDram
    | (.ecc, _) => .fail 0x0F 0 low
    | (.flash leaf _ size _, t) => .wait (t.engAskPage c x who va true leaf size)
    | (.ok pa b kind pkg, t) =>
      if kind = 3 then t.engAsk c who x va n true true (put (t.engPeer x pkg pa) 0x23)
      else
        let uc := bit b 6 == 1 || isSram pa
        t.engAsk c who x va n true false (put (t.engLine x pa uc) 0x02)

/-! ### Ranges of bytes -/

/-- A byte range cut at the 64-byte boundaries it crosses. -/
def lineCuts : Nat → Nat → Nat → List (Nat × Nat)
  | 0, _, _ => []
  | fuel + 1, va, n =>
    if n = 0 then []
    else
      let k := min n (64 - va % 64)
      (va, k) :: lineCuts fuel (va + k) (n - k)

/-- The reads of the parts of a range, in order, gathered from a bit offset. -/
def State.engReadCuts (s : State) (c who : Nat) (x : CmdCtl) : List (Nat × Nat) → Nat → Nat → EngRes
  | [], _, acc => .ok s acc
  | (va, n) :: l, sh, acc =>
    match s.engRead1 c who x va n with
    | .ok t v => State.engReadCuts t c who x l (sh + 8 * n) (acc + v * 2 ^ sh)
    | .wait t => .wait t
    | .fail a b i => .fail a b i

/-- A read of `n` bytes at an address, which fails with PROT beyond 56 bits. -/
def State.engRead (s : State) (c who : Nat) (x : CmdCtl) (va n : Nat) : EngRes :=
  if n = 0 then .ok s 0
  else if 2 ^ 56 ≤ va then .fail 8 0 (va % 2 ^ 32)
  else s.engReadCuts c who x (lineCuts (n / 64 + 2) va n) 0 0

/-- The writes of the parts of a range, in order; a kept nibble belongs to the first part or to the last. -/
def State.engWriteCuts (s : State) (c who : Nat) (x : CmdCtl) : List (Nat × Nat) → Nat → Bool → Bool → EngRes
  | [], _, _, _ => .ok s 0
  | (va, n) :: l, v, lo, hi =>
    match s.engWrite1 c who x va n (v % 2 ^ (8 * n)) lo (hi && l.isEmpty) with
    | .ok t _ => State.engWriteCuts t c who x l (v / 2 ^ (8 * n)) false hi
    | .wait t => .wait t
    | .fail a b i => .fail a b i

/-- A write of `n` bytes at an address, which fails with PROT beyond 56 bits. -/
def State.engWrite (s : State) (c who : Nat) (x : CmdCtl) (va n v : Nat) (lo hi : Bool := false) : EngRes :=
  if n = 0 then .ok s 0
  else if 2 ^ 56 ≤ va then .fail 8 0 (va % 2 ^ 32)
  else s.engWriteCuts c who x (lineCuts (n / 64 + 2) va n) v lo hi

/-- The address of row `r` of a pattern. -/
def rowAddr (base : Nat) (stride : Int) (r : Nat) : Nat := wrap 64 ((base : Int) + stride * r)

/-! ### Bank formats (R180 to R182, R251) -/

/-- The BFR of a bank; a bank that no BFMT has written is untyped (R180). -/
def State.bfrOf (s : State) (c p bank : Nat) : Nat := SMap.get 15 (s.cpart c p).bfr bank

/-- TYPE of a BFR, if it names an element type. -/
def bfrTy (b : Nat) : Option Ty := Ty.ofCode (BitVec.ofNat 4 b)

/-- Elements of a scale group, 0 for a bank without scale (R180, R181). -/
def bfrGroup (b : Nat) : Nat := if bits b 7 4 = 1 then 64 else if bits b 7 4 = 2 then 128 else 0

/-- Offset of the scale of element `e` of a bank (R181). -/
def scaleOff (b e : Nat) : Nat := bits b 23 8 * 64 + 2 * (e / bfrGroup b)

/-- Element index, in its bank, of the element at bit `w` × n of the byte at an offset (R181). -/
def bankElem (c off w n : Nat) : Nat := (off % bankSize c) * 8 / w + n

/-- A value under its group's scale (R251). -/
def scaled (v sc : XR) : XR := v.mul sc

/-- The core and offset of an address in a scratchpad window, of `n` bytes. -/
def spadOf (c va n : Nat) : Option (Nat × Nat) :=
  if va / 2 ^ 56 ≠ 0 || va / 2 ^ 48 < 0xFD || va / 2 ^ 48 = 0xFF then none
  else match windowPlace c va n with
    | some (.own off) => some (c, off)
    | some (.core t off) => some (t, off)
    | _ => none

/-- The one BFR of the banks that a byte range of a scratchpad meets, where their BFRs agree and name a type (R182). -/
def State.oneBfr (s : State) (t p off n : Nat) : Option Nat :=
  let b0 := off / bankSize t
  let b1 := (off + max n 1 - 1) / bankSize t
  let v := s.bfrOf t p b0
  if (bfrTy v).isNone then none
  else if (List.range (b1 - b0 + 1)).all fun i => s.bfrOf t p (b0 + i) == v then some v else none

/-- The one BFR of the banks that a run of bytes at an address meets, where it lies in a scratchpad (R182). -/
def State.runBfr (s : State) (c p va n : Nat) : Option Nat :=
  match spadOf c va n with
  | some (d, off) => s.oneBfr d p off n
  | none => none

/-- What reading or converting a run of elements answers: the exact values, none for a pruned position, with format reports
(subcode, detail). -/
inductive ElemRes where
  | ok (s : State) (l : List (Option XR)) (rep : List (Nat × Nat))
  | wait (s : Option State)
  | fail (code sub info : Nat)

/-- The two bytes of the scale of element `e` of a bank of core `t` (R181). -/
def State.scaleAt (s : State) (c t who : Nat) (x : CmdCtl) (b e : Nat) : EngRes :=
  let e := e % (bankSize t * 8 / (tyOfNat b).width)
  let off := scaleOff b e
  if t = c then (if s.engMarked c who off 2 then .wait none else if s.badSpad c off 2 then .fail 0x0F 0 off else .ok s (s.spadRead c off 2))
  else s.engRead1 c who x (meshBase + meshPtr t off) 2

/-- Elements of a bank under their scales, from their unscaled values (R251). -/
def State.scaleAll (s : State) (c t who : Nat) (x : CmdCtl) (b : Nat) : Nat → List XR → List (Option XR) → List (Nat × Nat) → ElemRes
  | _, [], acc, rep => .ok s acc.reverse rep
  | e, v :: l, acc, rep =>
    if bfrGroup b = 0 then State.scaleAll s c t who x b (e + 1) l (some v :: acc) rep
    else match s.scaleAt c t who x b e with
      | .ok u r => State.scaleAll u c t who x b (e + 1) l (some (v.mul (decF .bf16 r)) :: acc) rep
      | .wait u => .wait u
      | .fail a b' i => .fail a b' i

/-- The values of `n` packed elements of a type. -/
def plainElems (t : Ty) (raw n : Nat) : List XR := (List.range n).map fun e => elemAt t raw e

/-- The reports of the pairs 0x88 among `n` packed elements whose first byte has a detail of `base` (R250, R265). -/
def n4Reports (t : Ty) (raw n base : Nat) : List (Nat × Nat) :=
  if t = .n4x then ((List.range ((n + 1) / 2)).filter fun j => (raw >>> (8 * j)) % 256 == 0x88).map fun j => (3, base + j) else []

/-- SAT alone, with which copies convert into typed banks (R181). -/
def satMod : Option ModWord :=
  some { sat := true, neg := false, abs := false, scl := false, clmp := false, e := 0, clo := 0, chi := 0 }

/-- Values divided by their groups' scales before they are written to a bank of core `t`; an invalid scale writes 0 and is told (R181). -/
def State.unscaleAll (s : State) (c t who : Nat) (x : CmdCtl) (b w off : Nat) : Nat → List XR → List (Option XR) → List (Nat × Nat) → ElemRes
  | _, [], acc, rep => .ok s acc.reverse rep
  | e, v :: l, acc, rep =>
    if bfrGroup b = 0 then State.unscaleAll s c t who x b w off (e + 1) l (some v :: acc) rep
    else match s.scaleAt c t who x b (bankElem t off w e) with
      | .ok u r =>
        let sc := decF .bf16 r
        let bad := sc.isZero || sc.isNan || (match sc with | .inf _ => true | .nan => false | .fin _ _ _ _ => false)
        if bad then State.unscaleAll u c t who x b w off (e + 1) l (some XR.zero :: acc) (if rep.isEmpty then [(2, off + e * w / 8)] else rep)
        else State.unscaleAll u c t who x b w off (e + 1) l (some (v.div sc) :: acc) rep
      | .wait u => .wait u
      | .fail a b' i => .fail a b' i

/-- The packed bits of values converted to a bank's type, 4-bit types by pairs with 0 after an odd last one (R181, R258). -/
def packBank (t : Ty) (rm : Rm) (real : Bool) : List XR → Nat → Nat
  | [], _ => 0
  | [v], sh => if t.width = 4 then pairByte t rm satMod real v none * 2 ^ sh else finishAny t rm satMod real v * 2 ^ sh
  | v :: w :: l, sh =>
    if t.width = 4 then pairByte t rm satMod real v (some w) * 2 ^ sh + packBank t rm real l (sh + 8)
    else finishAny t rm satMod real v * 2 ^ sh + finishAny t rm satMod real w * 2 ^ (sh + t.width) + packBank t rm real l (sh + 2 * t.width)

/-! ### The issue of a command (R240, R241, R407) -/

/-- The barrier side of a command at its issue, given its flags; `none` where the wait for its barrier's page is on (R407). -/
inductive CtlRes where
  | ok (s : State) (x : CmdCtl)
  | trap (cause : Cause) (info : Nat)
  | flash (s : State) (leaf : Nat)
  | wait (s : State)

/-- The barrier side of a command staged from its control word (R240, R407). -/
def State.stageCtl (s : State) (c k : Nat) (bar : SReg) (trapf acq rel arv : Bool) (scope : Scope) : CtlRes :=
  let f := s.ctx c k
  let x : CmdCtl :=
    { trapf := trapf, acq := acq, rel := rel, arv := arv, scope := scope.code.toNat, ctx := k, asid := f.asid, priv := s.priv c k
      part := (match f.firing with | some g => g.part | none => 0), lid := s.lidOf c k, handle := s.handleOf c k, pc := f.pc.toNat, time := s.now
      fired := (s.keep (s.handleOf c k)).fired }
  if bar = 0 then .ok s x
  else
    let a := s.ea bar 0 0
    match s.barLocate c k a with
    | .trap cause info => .trap cause info
    | .flash t leaf => .flash t leaf
    | .wait t => .wait t
    | .at_ _ t => .ok t { x with bar := some (eaVal a) }

/-- PRIV where a command's barrier lies in the control window and its context is no supervisor, before the causes of registers and shapes (R137, R325, R407). -/
def barPriv (bar : SReg) : State → Option (Cause × Nat) := ctlCheck fun t => if bar = 0 then .inr 0 else t.ea bar 0 0

/-- Guards that the commands of a core hold. -/
def State.guardCount (s : State) (c : Nat) : Nat :=
  let p := s.apart c
  (p.inbox.foldl (fun n e => n + e.2.guards.length) 0) + (p.chans.foldl (fun n e => n + e.2.guards.length) 0)

/-- The guard of a pattern of rows in the issuing core's own scratchpad: its bounding range (R241). -/
def guardOf (c base : Nat) (stride : Int) (rows n : Nat) : List Guard :=
  if rows = 0 || n = 0 then []
  else
    let a := rowAddr base stride 0
    let b := rowAddr base stride (rows - 1)
    match spadOf c (min a b) 1, spadOf c (max a b) 1 with
    | some (t, lo), some (u, hi) => if t = c && u = c then [{ lo := lo, hi := hi + n }] else []
    | _, _ => []

/-- A command of an earlier store that ACQ waits for has been ordered (R220). -/
def State.acqReady (s : State) (c : Nat) (x : CmdCtl) : Bool := !x.acq || s.ordered c x.handle (some x.ctx)

/-! ### Status and completion (R123, R376, R408) -/

/-- What a step of a command waits for at its barrier, so that nothing it tells there is lost: a page-in, or the DRAM. A command whose page-in failed
goes on (R50, R200, R202, R408). -/
def State.barNeeds (s : State) (c who : Nat) (x : CmdCtl) (failed : Bool) : Option (Option State) :=
  match x.bar with
  | none => none
  | some bar =>
    if failed then none
    else match s.barWay c x bar with
      | .flash leaf size => some (s.engAskPage c x who bar true leaf size)
      | .shut => some s.wantDram
      | .at_ _ _ _ => none
      | .lost => none

/-- A command's release must wait for the DRAM that it writes lines back to (R50, R221). -/
def State.relShut (s : State) (x : CmdCtl) : Bool := x.rel && x.scope == 3 && s.sysPending && s.power.dram != 0

/-- The state with the writes of a command visible at SYS scope, where REL asks for it (R219, R221). -/
def State.engRelease (s : State) (x : CmdCtl) : State := if x.rel && x.scope == 3 then s.sysRelease else s

/-- The state with a status of a command written as it arises, and the command's control side after it (R123, R408). -/
def State.engSay (s : State) (c eng chan : Nat) (x : CmdCtl) (code sub info : Nat) : State × CmdCtl :=
  (s.engineStatus c eng chan x code sub info, { x with told := true })

/-- The state with the format reports of a command written (R265). -/
def State.engReports (s : State) (c eng chan : Nat) (x : CmdCtl) : List (Nat × Nat) → State × CmdCtl
  | [] => (s, x)
  | (sub, info) :: l =>
    let (t, y) := s.engSay c eng chan x 0x0C sub info
    State.engReports t c eng chan y l

/-- The state after a matrix command ended: its status, if any, and its arrival (R376). -/
def State.engFinish (s : State) (c eng chan : Nat) (x : CmdCtl) (st : Option (Nat × Nat × Nat)) : State :=
  let s := s.engRelease x
  let s := match st with
    | some (code, sub, info) => s.engineStatus c eng chan x code sub info
    | none => s
  s.engineArrive c x

end Sys2Proof.Machine
end

