-- ==== Sys2Proof/Machine/MatrixRun.lean ====
section
/-! DEFINITION. The running of matrix commands, step by step (R142, R259 to R265, R370, R374 to R391). -/
namespace Sys2Proof.Machine

/-! ### The array's registers (R370) -/

/-- Rows of a tile frame and of an accumulator frame. -/
def frameRows (c : Nat) : Nat := if isCellar c then 16 else 64
/-- Bytes of a row of a tile frame. -/
def tileBytes (c : Nat) : Nat := if isCellar c then 32 else 128
/-- Bytes of a row of an accumulator frame. -/
def accBytes (c : Nat) : Nat := if isCellar c then 64 else 256

/-- The first `n` bytes of row `r` of a frame whose rows have `rb` bytes, from byte `off`. -/
def frameRead (v rb r off n : Nat) : Nat := (v >>> (8 * (rb * r + off))) % 2 ^ (8 * n)

/-- A frame with bytes of row `r` replaced. -/
def frameWrite (v rb r off n x : Nat) : Nat := if n = 0 then v else setBits v (8 * (rb * r + off + n) - 1) (8 * (rb * r + off)) x

/-- The frame that keeps `n` bytes of each of the first `rows` rows and is zero elsewhere (R374). -/
def frameKeep (v rb rows n : Nat) : Nat :=
  (List.range rows).foldl (fun acc r => acc + frameRead v rb r 0 n * 2 ^ (8 * rb * r)) 0

/-- A tile register of the active partition of a core. -/
def State.tile (s : State) (c t : Nat) : Nat := SMap.get 0 (s.apart c).tiles t
/-- The state with a tile register written. -/
def State.setTile (s : State) (c t v : Nat) : State := s.modApart c fun p => { p with tiles := SMap.put p.tiles t v }
/-- An accumulator of the active partition of a core. -/
def State.acc (s : State) (c a : Nat) : Nat := SMap.get 0 (s.apart c).accs a
/-- The state with an accumulator written. -/
def State.setAcc (s : State) (c a v : Nat) : State := s.modApart c fun p => { p with accs := SMap.put p.accs a v }

/-- The raw bits of element (i, j) of an accumulator frame. -/
def accElem (c v i j : Nat) : Nat := frameRead v (accBytes c) i (4 * j) 4
/-- An accumulator frame with element (i, j) replaced. -/
def setElem (c v i j x : Nat) : Nat := frameWrite v (accBytes c) i (4 * j) 4 x

/-! ### Answers of a step -/

/-- What a step of a command answers: progress, its end with a status, or a wait with what it asks for first. -/
inductive MStep where
  | more (s : State) (m : MCmd)
  | fin (s : State) (m : MCmd) (st : Option (Nat × Nat × Nat))
  | wait (s : Option State)

/-- Which engine access number a matrix inbox slot has. -/
def matWho (slot : Nat) : Nat := 200 + slot

/-- Bytes of `n` elements of a type. -/
def packedBytes (t : Ty) (n : Nat) : Nat := (n * t.width + 7) / 8

/-- N of a record form (R372). -/
def spCount (sp : Nat) : Nat := if sp = 1 then 4 else if sp = 2 then 6 else if sp = 3 then 8 else 12

/-- Bytes of a group record (R259). -/
def recBytes (sp : Nat) : Nat := (9 * spCount sp + 7) / 8

/-- Bytes of a row of an operand (R379). -/
def rowBytes (t : Ty) (sp k : Nat) : Nat := if sp = 0 then packedBytes t k else (k + 23) / 24 * recBytes sp

/-! ### Row moves (R379, R380) -/

/-- A row of memory read into a tile or accumulator frame. -/
def State.loadRow (s : State) (c slot : Nat) (m : MCmd) (rows rb n : Nat) (old : Nat) (put : State → Nat → State) (tail : Bool) : MStep :=
  let r := m.rows
  match s.engRead c (matWho slot) m.ctl (rowAddr m.addrA m.strA r) n with
  | .wait t => .wait t
  | .fail a b i => .fin s m (some (a, b, i))
  | .ok t v =>
    let new := frameWrite old rb r 0 n v
    let m := { m with rows := r + 1 }
    if r + 1 < rows then .more (put t new) m
    else .fin (put t (if tail && !m.tail then frameKeep new rb rows n else new)) m none

/-- A row of a frame written to memory. -/
def State.storeRow (s : State) (c slot : Nat) (m : MCmd) (rows rb n : Nat) (v : Nat) : MStep :=
  let r := m.rows
  match s.engWrite c (matWho slot) m.ctl (rowAddr m.addrA m.strA r) n (frameRead v rb r 0 n) with
  | .wait t => .wait t
  | .fail a b i => .fin s m (some (a, b, i))
  | .ok t _ =>
    let m := { m with rows := r + 1 }
    if r + 1 < rows then .more t m else .fin t m none

/-! ### Operands of the products (R249, R250, R259, R260, R375) -/

/-- Elements `k0` to `k0 + n - 1` of row `row` of an operand of a dense type. -/
def State.denseOp (s : State) (c who : Nat) (x : CmdCtl) (o : MatOp) (t : Ty) (addr : Nat) (str : Int) (row k0 n : Nat) : ElemRes :=
  let off := k0 * t.width / 8
  let nb := packedBytes t n
  match o with
  | .tile r =>
    let raw := frameRead (s.tile c r.toNat) (tileBytes c) row off nb
    .ok s ((plainElems t raw n).map some) (n4Reports t raw n (row * 128 + off))
  | .mem _ =>
    let a := wrap 64 ((rowAddr addr str row : Nat) + (off : Nat))
    match s.engRead c who x a nb with
    | .wait u => .wait u
    | .fail e b i => .fail e b i
    | .ok u raw => .ok u ((plainElems t raw n).map some) (n4Reports t raw n (a % 2 ^ 32))

/-- Elements `k0` to `k0 + n - 1` of row `row` of an operand decoded through its bank (R181, R251). -/
def State.bankOp (s : State) (c who : Nat) (x : CmdCtl) (b addr : Nat) (str : Int) (row k0 n : Nat) : ElemRes :=
  let t := (bfrTy b).getD .i8
  let off := k0 * t.width / 8
  let nb := packedBytes t n
  let a := wrap 64 ((rowAddr addr str row : Nat) + (off : Nat))
  match s.engRead c who x a nb with
  | .wait u => .wait u
  | .fail e r i => .fail e r i
  | .ok u raw =>
    match spadOf c a nb with
    | none => .fail 8 0 (a % 2 ^ 32)
    | some (d, o) => u.scaleAll c d who x b (bankElem d o t.width 0) (plainElems t raw n) [] (n4Reports t raw n (a % 2 ^ 32))

/-- Position of value `v` of a record. -/
def recIdx (cnt rec v : Nat) : Nat := bits rec (4 * cnt + 5 * v + 4) (4 * cnt + 5 * v)

/-- The indices of a record are valid (R260). -/
def recOk (cnt rec : Nat) : Bool :=
  (List.range cnt).all fun v => decide (recIdx cnt rec v ≤ 23) && (v == 0 || decide (recIdx cnt rec (v - 1) < recIdx cnt rec v))

/-- The value of a record at a position of its group (R259). -/
def recElem (t : Ty) (cnt rec pos : Nat) : Option XR :=
  match (List.range cnt).find? fun v => recIdx cnt rec v == pos with
  | some v => some (elemAt t rec v)
  | none => none

/-- The group records that a block of expanded positions meets, read one by one, with the reports of those that start in it. -/
def State.sparseRecs (s : State) (c who : Nat) (x : CmdCtl) (o : MatOp) (t : Ty) (sp addr : Nat) (str : Int) (row k0 : Nat) :
    List Nat → List (Nat × Nat) → List (Nat × Nat) → (State × List (Nat × Nat) × List (Nat × Nat)) ⊕ EngRes
  | [], recs, rep => .inl (s, recs, rep)
  | g :: l, recs, rep =>
    let nb := recBytes sp
    let cnt := spCount sp
    let at_ : Nat × EngRes := match o with
      | .tile r => (row * 128 + g * nb, .ok s (frameRead (s.tile c r.toNat) (tileBytes c) row (g * nb) nb))
      | .mem _ =>
        let a := wrap 64 ((rowAddr addr str row : Nat) + (g * nb : Nat))
        (a % 2 ^ 32, s.engRead c who x a nb)
    match at_.2 with
    | .ok u rec =>
      let new := if 24 * g < k0 then []
        else n4Reports t (rec % 2 ^ (4 * cnt)) cnt at_.1 ++ (if recOk cnt rec then [] else [(4, at_.1)])
      State.sparseRecs u c who x o t sp addr str row k0 l (recs ++ [(g, rec)]) (rep ++ new)
    | r => .inr r

/-- Expanded positions `k0` to `k0 + n - 1` of row `row` of a sparse operand (R259, R260). -/
def State.sparseOp (s : State) (c who : Nat) (x : CmdCtl) (o : MatOp) (t : Ty) (sp addr : Nat) (str : Int) (row k0 n : Nat) : ElemRes :=
  let g0 := k0 / 24
  let g1 := (k0 + n - 1) / 24
  match s.sparseRecs c who x o t sp addr str row k0 ((List.range (g1 - g0 + 1)).map fun i => g0 + i) [] [] with
  | .inr (.wait u) => .wait u
  | .inr (.fail a b i) => .fail a b i
  | .inr (.ok u _) => .ok u [] []
  | .inl (u, recs, rep) =>
    .ok u ((List.range n).map fun i =>
      let k := k0 + i
      match recs.find? fun e => e.1 == k / 24 with
      | some (g, rec) => if recOk (spCount sp) rec then recElem t (spCount sp) rec (k - 24 * g) else none
      | none => none) rep

/-- What reading the rows of an operand answers. -/
inductive RowsRes where
  | ok (s : State) (l : List (List (Option XR))) (rep : List (Nat × Nat))
  | wait (s : Option State)
  | fail (code sub info : Nat)

/-- The rows of an operand, read in order. -/
def readRows (f : State → Nat → ElemRes) : List Nat → State → List (List (Option XR)) → List (Nat × Nat) → RowsRes
  | [], s, acc, rep => .ok s acc.reverse rep
  | r :: l, s, acc, rep =>
    match f s r with
    | .ok u e p => readRows f l u (e :: acc) (rep ++ p)
    | .wait u => .wait u
    | .fail a b i => .fail a b i

/-! ### Masks (R384, R385) -/

/-- A mask parameter header that MPBL refuses (R384). -/
def maskHeaderBad (c w : Nat) : Bool :=
  bits w 63 23 != 0 || bit w 15 != 0 || bits w 7 2 != 0 || decide (frameRows c < bits w 14 8) || bits w 22 16 == 0
  || decide (64 < bits w 22 16) || decide (2 ≤ bits w 1 0)

/-- The header of a mask that MMAM staged. -/
def maskHeader (v : Nat) : Nat := v % 2 ^ 64

/-- A void mask (R385). -/
def maskVoid (c v : Nat) : Bool := bits (maskHeader v) 14 8 == 0 || maskHeaderBad c (maskHeader v)

/-- A mask keeps position `x` of row `i` (R385). -/
def maskKeeps (v i x : Nat) : Bool :=
  let h := maskHeader v
  decide (bits h 14 8 ≤ i) || decide (bits h 22 16 ≤ x) || bit (v >>> (64 * (i + 1))) x == 1

/-! ### Products (R262, R263, R382) -/

/-- The exact sum of the products of a block that are neither pruned nor masked; nothing where there is none (R262, R263). -/
def blockSum : List (Option XR) → List (Option XR) → List Bool → Option XR → Option XR
  | some a :: la, some b :: lb, true :: lk, acc =>
    blockSum la lb lk (some (match acc with | some v => v.add (a.mul b) | none => a.mul b))
  | _ :: la, _ :: lb, _ :: lk, acc => blockSum la lb lk acc
  | _, _, _, acc => acc

/-- An accumulator element after a block sum (R262). -/
def accAdd (iacc sat : Bool) (old : Nat) (sum : XR) : Nat :=
  if iacc then
    let v := sval 32 old + rndI .rne sum
    wrap 32 (if sat then clampI v (-(2 ^ 31 : Nat)) ((2 ^ 31 : Nat) - 1) else v)
  else rndF .f32 .rne false ((decF .f32 old).add sum)

/-- The product of a block for a band of an accumulator frame. -/
def bandBlock (c : Nat) (iacc sat : Bool) (skip keep : Nat → Nat → Bool) (i0 k0 : Nat)
    (as bs : List (List (Option XR))) (v : Nat) : Nat :=
  (as.zipIdx i0).foldl (fun v (a, i) =>
    (bs.zipIdx).foldl (fun v (b, j) =>
      if skip i j then v
      else match blockSum a b ((List.range a.length).map fun k => keep i (k0 + k)) none with
        | some x => setElem c v i j (accAdd iacc sat (accElem c v i j) x)
        | none => v) v) v

/-- The operand of a product: its memory or tile place, type or bank, and record form. -/
structure ProdOp where
  op   : MatOp
  ty   : Ty
  bank : Option Nat
  sp   : Nat
  addr : Nat
  str  : Int

/-- A run of elements of a row of a product's operand. -/
def State.prodElems (s : State) (c who : Nat) (x : CmdCtl) (o : ProdOp) (row k0 n : Nat) : ElemRes :=
  match o.bank with
  | some b => s.bankOp c who x b o.addr o.str row k0 n
  | none => if o.sp = 0 then s.denseOp c who x o.op o.ty o.addr o.str row k0 n else s.sparseOp c who x o.op o.ty o.sp o.addr o.str row k0 n

/-- One block of a product over one row band (R382), with a mask where there is one; a void mask is told first, by a step of its own (R385). -/
def State.prodStep (s : State) (c slot : Nat) (m : MCmd) (d : Nat) (iacc : Bool) (a b : ProdOp) (mask : Option Nat) (mt : Nat) : MStep :=
  let who := matWho slot
  let i0 := m.rows / 16 * 16
  let k0 := 16 * m.kb
  let rows := min 16 (m.m - i0)
  let n := min 16 (m.k - k0)
  let void := match mask with | some v => maskVoid c v | none => true
  if mask.isSome && void && !m.badScale then
    let (s, x) := s.engReports c 1 slot m.ctl [(6, mt)]
    .more s { m with ctl := x, badScale := true }
  else match readRows (fun s i => s.prodElems c who m.ctl a i k0 n) ((List.range rows).map fun i => i0 + i) s [] [] with
  | .wait u => .wait u
  | .fail e r i => .fin s m (some (e, r, i))
  | .ok s1 as repA =>
    match readRows (fun s j => s.prodElems c who m.ctl b j k0 n) (List.range m.n) s1 [] [] with
    | .wait u => .wait u
    | .fail e r i => .fin s m (some (e, r, i))
    | .ok s2 bs repB =>
      let v := mask.getD 0
      let out := !void && bits (maskHeader v) 1 0 == 0
      let km := !void && bits (maskHeader v) 1 0 == 1
      let (s3, x) := s2.engReports c 1 slot m.ctl (repA ++ repB)
      let skip i j := out && !maskKeeps v i j
      let keep i k := !km || maskKeeps v i k
      let f0 := s3.acc c d
      let f1 := if out && m.kb = 0 then
          (List.range rows).foldl (fun f i => (List.range m.n).foldl (fun f j =>
            if skip (i0 + i) j then setElem c f (i0 + i) j 0xFF800000 else f) f) f0
        else f0
      let f2 := bandBlock c iacc (modSat m.mods) skip keep i0 k0 as bs f1
      let s4 := s3.setAcc c d f2
      let last := (m.k + 15) / 16
      let m := { m with ctl := x }
      if m.kb + 1 < last then .more s4 { m with kb := m.kb + 1 }
      else if i0 + 16 < m.m then .more s4 { m with rows := i0 + 16, kb := 0 }
      else .fin s4 { m with rows := m.m, kb := 0 } none

/-! ### The other commands -/

/-- MPBL: the block read, checked and written (R384). -/
def State.mpblStep (s : State) (c slot : Nat) (m : MCmd) (d : Nat) : MStep :=
  match s.engRead c (matWho slot) m.ctl m.addrA 576 with
  | .wait u => .wait u
  | .fail a b i => .fin s m (some (a, b, i))
  | .ok t raw =>
    let h := raw % 2 ^ 64
    if maskHeaderBad c h || bits raw 511 64 != 0 then .fin (t.setTile c d 0) m (some (0x0C, 6, m.addrA % 2 ^ 32))
    else
      let v := (List.range (bits h 14 8)).foldl (fun v i => frameWrite v (tileBytes c) i 0 8 (bits raw (64 * (8 + i) + 63) (64 * (8 + i)))) 0
      .fin (t.setTile c d (frameWrite v (tileBytes c) 0 8 8 h)) { m with rows := bits h 14 8 } none

/-- TTR: one row of the transpose, from the source as it stood before any write (R144, R381). -/
def State.ttrStep (s : State) (c : Nat) (m : MCmd) (t : Ty) (d a : Nat) : MStep :=
  let r := m.rows
  let src := if r = 0 then s.tile c a else m.stage
  let w := t.width
  let rb := tileBytes c
  let n := packedBytes t m.m
  let row := (List.range m.m).foldl (fun acc i => acc + (frameRead src rb i 0 rb >>> (r * w)) % 2 ^ w * 2 ^ (i * w)) 0
  let new := if r < m.k then frameWrite (s.tile c d) rb r 0 n row else s.tile c d
  let m := { m with rows := r + 1, stage := src }
  if r + 1 < m.k then .more (s.setTile c d new) m
  else .fin (s.setTile c d (if m.tail then new else frameKeep new rb m.k n)) m none

/-- The packed bits of a row converted by CCVT (R386). -/
def ccvtRow (t : Ty) (rm : Rm) (mods : Option ModWord) (real : Bool) : List XR → Nat → Nat
  | [], _ => 0
  | [v], sh => if t.width = 4 then pairByte t rm mods real v none * 2 ^ sh else finishAny t rm mods real v * 2 ^ sh
  | v :: w :: l, sh =>
    if t.width = 4 then pairByte t rm mods real v (some w) * 2 ^ sh + ccvtRow t rm mods real l (sh + 8)
    else finishAny t rm mods real v * 2 ^ sh + finishAny t rm mods real w * 2 ^ (sh + t.width) + ccvtRow t rm mods real l (sh + 2 * t.width)

/-- CCVT: one row converted (R386). -/
def State.ccvtStep (s : State) (c : Nat) (m : MCmd) (t : Ty) (isrc : Bool) (rm : Rm) (d a : Nat) : MStep :=
  let src := s.acc c a
  let r := m.rows
  let n := packedBytes t m.n
  let elems := (List.range m.n).map fun j =>
    let e := accElem c src r j
    if isrc then XR.ofInt (sval 32 e) else decF .f32 e
  let new := frameWrite (s.tile c d) (tileBytes c) r 0 n (ccvtRow t rm m.mods (!isrc) elems 0)
  let m := { m with rows := r + 1 }
  if r + 1 < m.m then .more (s.setTile c d new) m
  else .fin (s.setTile c d (if m.tail then new else frameKeep new (tileBytes c) m.m n)) m none

/-- BCPY: one row of up to 64 elements (R388). `bfrs` holds the source's BFR at 0 and the destination's at 1. After an odd count the other nibble of the
last byte stays, but for an N4X pair, which is encoded whole (R249, R258). -/
def State.bcpyStep (s : State) (c slot : Nat) (m : MCmd) (rm : Rm) : MStep :=
  let who := matWho slot
  let sb := SMap.get 15 m.bfrs 0
  let db := SMap.get 15 m.bfrs 1
  let st := (bfrTy sb).getD .i8
  let n := min 64 (m.arg - 64 * m.rows)
  let soff := m.addrB + 64 * m.rows * st.width / 8
  if n = 0 then .fin s m none
  else if s.marked c soff (packedBytes st n) then .wait none
  else if s.badSpad c soff (packedBytes st n) then .fin s m (some (0x0F, 0, soff))
  else
    let raw := s.spadRead c soff (packedBytes st n)
    let next (s : State) (m : MCmd) : MStep :=
      let m := { m with rows := m.rows + 1 }
      if 64 * m.rows < m.arg then .more s m else .fin s m none
    match bfrTy db with
    | none =>
      let doff := m.addrA + 64 * m.rows * st.width / 8
      let nb := packedBytes st n
      let v := if st.width = 4 && n % 2 = 1 then setBits raw (8 * nb - 1) (8 * nb - 4) (s.spadRead c (doff + nb - 1) 1 / 16) else raw
      let (s, x) := s.engReports c 1 slot m.ctl (n4Reports st raw n soff)
      next (s.spadStore c doff nb v) { m with ctl := x }
    | some dt =>
      let doff := m.addrA + 64 * m.rows * dt.width / 8
      match s.scaleAll c c who m.ctl sb (bankElem c soff st.width 0) (plainElems st raw n) [] (n4Reports st raw n soff) with
      | .wait u => .wait u
      | .fail a b i => .fin s m (some (a, b, i))
      | .ok s1 l rep1 =>
        match s1.unscaleAll c c who m.ctl db dt.width doff 0 (l.filterMap id) [] [] with
        | .wait u => .wait u
        | .fail a b i => .fin s m (some (a, b, i))
        | .ok s2 l2 rep2 =>
          let real := !intSource st || bfrGroup sb != 0 || bfrGroup db != 0
          let (s3, x) := s2.engReports c 1 slot m.ctl (rep1 ++ (if m.badScale then [] else rep2))
          let nb := packedBytes dt n
          let v := packBank dt rm real (l2.filterMap id) 0
          next (s3.spadStore c doff nb (if dt = .i4 && n % 2 = 1 then setBits v (8 * nb - 1) (8 * nb - 4) (s3.spadRead c (doff + nb - 1) 1 / 16) else v))
            { m with ctl := x, badScale := m.badScale || !rep2.isEmpty }

/-- The operand of a product in a command. -/
def prodOp (m : MCmd) (isB : Bool) (o : MatOp) (ty : Option Ty) (sp : Nat) : ProdOp :=
  { op := o, ty := ty.getD .i8, bank := (match ty with | some _ => none | none => some (SMap.get 15 m.bfrs (if isB then 1 else 0)))
    sp := sp, addr := if isB then m.addrB else m.addrA, str := if isB then m.strB else m.strA }

/-- The element type of a type field, nothing for the bank's. -/
def tyOfField : TyB → Option Ty
  | .ty t => some t
  | .bank => none

/-- One step of a matrix command; nothing for the commands of another family. -/
def State.matStep (s : State) (c slot : Nat) (m : MCmd) : Option MStep :=
  match m.instr with
  | .tld _ ty rowsN d _ _ x =>
    let n := rowBytes ty x.sp.toNat m.k
    some (s.loadRow c slot m (if rowsN then m.n else m.m) (tileBytes c) n (s.tile c d.toNat) (fun s v => s.setTile c d.toNat v) true)
  | .tst _ ty rowsN _ b _ x =>
    some (s.storeRow c slot m (if rowsN then m.n else m.m) (tileBytes c) (rowBytes ty x.sp.toNat m.k) (s.tile c b.toNat))
  | .tzero _ d _ => some (.fin (s.setTile c d.toNat 0) m none)
  | .tmov _ d a _ =>
    match d, a with
    | .t d, .t a => some (.fin (s.setTile c d.toNat (s.tile c a.toNat)) m none)
    | .c d, .c a => some (.fin (s.setAcc c d.toNat (s.acc c a.toNat)) m none)
    | .t _, .c _ => some (.fin s m none)
    | .c _, .t _ => some (.fin s m none)
  | .ttr _ ty d a _ _ => some (s.ttrStep c m ty d.toNat a.toNat)
  | .cld _ _ d _ _ _ => some (s.loadRow c slot m m.m (accBytes c) (4 * m.n) (s.acc c d.toNat) (fun s v => s.setAcc c d.toNat v) false)
  | .cst _ _ _ b _ _ => some (s.storeRow c slot m m.m (accBytes c) (4 * m.n) (s.acc c b.toNat))
  | .czero _ d _ => some (.fin (s.setAcc c d.toNat 0) m none)
  | .mma _ ty iacc d a b _ _ => some (s.prodStep c slot m d.toNat iacc (prodOp m false a (tyOfField ty) 0) (prodOp m true b (tyOfField ty) 0) none 0)
  | .mmas _ ty iacc d a b _ x =>
    some (s.prodStep c slot m d.toNat iacc (prodOp m false a (some ty) 0) (prodOp m true b (some ty) x.sp.toNat) none 0)
  | .mmam _ ty iacc d a b _ x =>
    some (s.prodStep c slot m d.toNat iacc (prodOp m false a (tyOfField ty) 0) (prodOp m true b (tyOfField ty) 0) (some m.mask) x.mt.toNat)
  | .mpbl _ d _ _ => some (s.mpblStep c slot m d.toNat)
  | .ccvt _ ty isrc d a _ x => some (s.ccvtStep c m ty isrc x.rm d.toNat a.toNat)
  | .bcpy _ _ _ _ x => some (s.bcpyStep c slot m x.rm)
  | _ => none

/-! ### The array's schedule (R240, R389, R390) -/

/-- The oldest command of the active partition's matrix inbox, with its slot. -/
def State.matHead (s : State) (c : Nat) : Option (Nat × MCmd) :=
  (s.apart c).inbox.foldl (fun b e => match b with
    | none => some e
    | some f => if e.2.seq < f.2.seq then some e else some f) none

/-- The state with a matrix command's record written. -/
def State.setMat (s : State) (c slot : Nat) (m : MCmd) : State := s.modApart c fun p => { p with inbox := SMap.put p.inbox slot m }

/-- An entry of PERM. -/
def State.permOf (s : State) (c i : Nat) : Nat := SMap.get 0 (s.apart c).perm i

/-- The first row whose PERM entry is out of range or repeats an earlier one (R397). -/
def State.permBad (s : State) (c n : Nat) : Option Nat :=
  (List.range n).find? fun i => decide (n ≤ s.permOf c i) || (List.range i).any fun k => s.permOf c k == s.permOf c i

/-- PERM as bytes 0 to 63 of a vector register (R404). -/
def State.permBytes (s : State) (c : Nat) : Nat := (List.range 64).foldl (fun v i => v + s.permOf c i * 2 ^ (8 * i)) 0

/-- What MFST reads of the factorisation state (R404); nothing for another command. -/
def State.mfstResult (s : State) (c : Nat) : Instr → Option Pend
  | .mfstPerm _ d => some { dst := .vec d, mask := 2 ^ 512 - 1, val := s.permBytes c, due := 0, fixed := false }
  | .mfstGrow _ d => some { dst := .scal d, mask := ones64, val := (s.apart c).grow, due := 0, fixed := false }
  | .mfstStat _ d => some { dst := .scal d, mask := ones64, val := (s.apart c).fstat, due := 0, fixed := false }
  | _ => none

/-- The state with a matrix command taken off the inbox: MFST's result written, and the context that waited for an emulation going on
(R142, R404). -/
def State.dropMat (s : State) (c slot : Nat) (m : MCmd) : State :=
  let s := s.modApart c fun p => { p with inbox := SMap.del p.inbox slot }
  let s := match s.mfstResult c m.instr with
    | some p => s.giveReg m.ctl p
    | none => s
  if !m.emul then s
  else
    let party := match List.find? (fun e => m.ctl.handle != 0 && s.firingOf (e.1 / 16) (e.1 % 16) == m.ctl.handle) s.ctxs with
      | some (key, _) => Party.ctx (key / 16) (key % 16)
      | none => Party.saved m.ctl.handle
    match s.waitOf party with
    | some r => if r.kind = .emulate slot then s.finishParty party r none else s
    | none => s

/-- A status packed in `failed`. -/
def unpackStatus (v : Nat) : Nat × Nat × Nat := (v % 256, v / 256 % 256, v / 65536)

/-- The state after a command ended with a status. -/
def State.endMat (s : State) (c slot : Nat) (m : MCmd) (st : Option (Nat × Nat × Nat)) : State :=
  ((s.engClear c (matWho slot)).engFinish c 1 slot m.ctl st).dropMat c slot m

/-- A page-in has been asked for on behalf of an engine since a message number (R390). -/
def State.pageAsked (s : State) (who since : Nat) : Bool := s.net.any fun m => m.op == 0x36 && m.ctx == who && decide (since ≤ m.id)

/-- Rows of tiles and of accumulators (from 8 on) that the next step of a command reads (R155). -/
def State.matReads (s : State) (c : Nat) (m : MCmd) : List (Nat × Nat) :=
  let rows (r lo n : Nat) : List (Nat × Nat) := (List.range n).map fun i => (r, lo + i)
  let op (o : MatOp) (lo n : Nat) : List (Nat × Nat) := match o with | .tile r => rows r.toNat lo n | .mem _ => []
  let band := m.rows / 16 * 16
  let prod (d : CReg) (a b : MatOp) : List (Nat × Nat) :=
    let n := min 16 (m.m - band)
    op a band n ++ op b 0 m.n ++ rows (8 + d.toNat) band n
  let span (d : CReg) (lo hi : Nat) : List (Nat × Nat) := rows (8 + d.toNat) lo (hi - lo)
  let column (d : CReg) (steps : Nat) : List (Nat × Nat) := span d (if m.kb + 1 < steps then m.kb else 0) m.m
  match m.instr with
  | .tst _ _ _ _ b _ _ => [(b.toNat, m.rows)]
  | .tmov _ _ (.t a) _ => rows a.toNat 0 (frameRows c)
  | .tmov _ _ (.c a) _ => rows (8 + a.toNat) 0 (frameRows c)
  | .ttr _ _ _ a _ _ => if m.rows = 0 then rows a.toNat 0 m.m else []
  | .cst _ _ _ b _ _ => [(8 + b.toNat, m.rows)]
  | .mma _ _ _ d a b _ _ => prod d a b
  | .mmas _ _ _ d a b _ _ => prod d a b
  | .mmam _ _ _ d a b _ x => prod d a b ++ (if m.rows = 0 && m.kb = 0 then rows x.mt.toNat 0 (bits (maskHeader m.mask) 14 8) else [])
  | .ccvt _ _ _ _ a _ _ => [(8 + a.toNat, m.rows)]
  | .mlu _ d _ _ => column d (min m.m m.n)
  | .mchol _ d _ _ | .mqr _ d _ _ _ => column d m.n
  | .mqapp _ qt right d a b _ _ =>
    let n := if right then m.n else m.m
    let r := if m.rk = 0 then n else min m.rk n
    let j := if qt == right then r - 1 - m.kb else m.kb
    let d := if (decF .f32 (accElem c (s.acc c b.toNat) 0 j)).isZero then [] else if right then span d 0 m.m else span d j m.m
    (8 + b.toNat, 0) :: span a (j + 1) n ++ d
  | .mtrs _ right up unit tr d a _ _ =>
    let low := up == tr
    let n := if right then m.n else m.m
    let p := if low == right then n - 1 - m.kb else m.kb
    let below := if low == right then (0, p) else (p + 1, n)
    let own := if unit then [] else span a p (p + 1)
    let rest := if below.1 = below.2 then [] else if right == tr then span a below.1 below.2 else span a p (p + 1)
    own ++ rest ++ (if right then span d 0 m.m else span d p (p + 1) ++ span d below.1 below.2)
  | .mperm _ inv _ a _ _ =>
    let r := if inv then m.rows else s.permOf c m.rows
    if m.rows = 0 && (s.permBad c m.m).isSome then [] else span a r (r + 1)
  | _ => []

/-- The state with the rows that a step wrote whole no longer uncorrectable: a row loaded over its frame, or the frame that the command's end
replaced (R155). -/
def State.mendRows (s : State) (c : Nat) (m : MCmd) (ended : Bool) : State :=
  let whole : Option Nat := match m.instr with
    | .tzero _ d _ | .mpbl _ d _ _ => some d.toNat
    | .czero _ d _ => some (8 + d.toNat)
    | .tmov _ (.t d) _ _ => some d.toNat
    | .tmov _ (.c d) _ _ => some (8 + d.toNat)
    | .tld _ _ _ d _ _ _ | .ttr _ _ d _ _ _ | .ccvt _ _ _ d _ _ _ => if m.tail then none else some d.toNat
    | .mlu _ d _ _ | .mchol _ d _ _ | .mqr _ d _ _ _ | .mqapp _ _ _ d _ _ _ _ | .mtrs _ _ _ _ _ d _ _ _ | .mperm _ _ d _ _ _ =>
      if m.tail then none else some (8 + d.toNat)
    | _ => none
  let taus : Option Nat := match m.instr with
    | .mqr _ _ a _ _ => if m.tail then none else some (8 + a.toNat)
    | _ => none
  let row : Option (Nat × Nat) := match m.instr with
    | .tld _ ty _ d _ _ x => if rowBytes ty x.sp.toNat m.k = tileBytes c then some (d.toNat, m.rows) else none
    | .cld _ _ d _ _ _ => if 4 * m.n = accBytes c then some (8 + d.toNat, m.rows) else none
    | .mperm _ inv d _ _ _ => if 4 * m.n = accBytes c then some (8 + d.toNat, if inv then s.permOf c m.rows else m.rows) else none
    | _ => none
  if (s.apart c).badRows.isEmpty then s
  else s.modApart c fun p => { p with badRows := p.badRows.filter fun e => some e != row && !(ended && (some e.1 == whole || some e.1 == taus)) }

/-- What the step of the head command, by the given meaning, makes of the state, and whether it asks for a page; nothing where it waits. A command under
way has ST 1, also while it waits for an answer (R221, R389, R390). -/
def State.runMat (s : State) (c : Nat) (emul : Bool) (f : State → Nat → MCmd → Option MStep) : Option (State × Bool) :=
  match s.matHead c with
  | none => none
  | some (slot, m) =>
    if m.follow.isSome || m.emul != emul || !s.acqReady c m.ctl || !s.engineOn c then none
    else
      let fin (t : State) (m : MCmd) (st : Option (Nat × Nat × Nat)) : Option (State × Bool) :=
        if t.relShut m.ctl then s.wantDram.map fun u => (u, false) else some (t.endMat c slot m st, false)
      match m.failed with
      | some v => fin s m (some (unpackStatus v))
      | none =>
        let bad := (s.matReads c m).find? fun e => (s.apart c).badRows.contains e
        let r : Option MStep := match bad with
          | some e => (f s slot m).map fun _ => .fin s m (some (0x0F, 1, e.2))
          | none => f s slot m
        match r with
        | none => none
        | some step =>
        match s.barNeeds c (matWho slot) m.ctl m.failed.isSome with
        | some none => none
        | some (some t) => some (t, t.pageAsked (matWho slot) s.nextMsg)
        | none =>
        match step with
        | .more t n => some (((t.engClear c (matWho slot)).mendRows c m false).setMat c slot { n with st := 1 }, false)
        | .fin t n st => fin (t.mendRows c m st.isNone) n st
        | .wait none => if m.st = 1 || s.pagePending c (matWho slot) then none else some (s.setMat c slot { m with st := 1 }, false)
        | .wait (some t) => if t.pageAsked (matWho slot) s.nextMsg then some (t, true) else some (t.setMat c slot { m with st := 1 }, false)

/-- The state with the head command waiting for a page-in, at its interruption point: it holds no element that it has read since (R382, R390). -/
def State.pageMat (s : State) (c : Nat) (t : State) : State :=
  match s.matHead c with
  | some (slot, m) => (t.engForget c (matWho slot)).setMat c slot { m with st := 3 }
  | none => t

end Sys2Proof.Machine
end

