-- ==== Sys2Proof/Machine/System.lean ====
section
/-! DEFINITION. The system family (R289 to R291, R430 to R435), and the events of its waits. -/
namespace Sys2Proof.Machine

/-! ### System registers (R289, R290) -/

/-- A system register by its number (R289). -/
inductive SysReg where
  /-- A workspace word: its offset, and the bits that are not reserved. -/
  | word (off mask : Nat)
  | csw
  | island
  | time
  | rwin (i : Nat)
  | wptr
  | asid
  | mpr (i : Nat)
  | groups
  deriving DecidableEq, Repr

/-- The system register of a number; nothing where R289 lists none. -/
def sysReg (n : Nat) : Option SysReg :=
  if n = 0 then some .csw
  else if n = 1 then some (.word 0x208 ones64)
  else if n = 2 then some (.word 0x210 0xFF1FFF)
  else if n = 3 then some (.word 0x218 ones64)
  else if n = 4 then some (.word 0x228 0x80FFFFFFFFFFFFFF)
  else if n = 5 then some (.word 0x230 ones64)
  else if n = 6 then some (.word 0x238 0x800FFFFF000FFFF8)
  else if n = 7 then some (.word 0x240 0x800FFFFF000FFFF8)
  else if n = 8 then some .island
  else if n = 9 then some .time
  else if n = 10 then some (.word 0x278 0xFFFFFFFF)
  else if n = 11 then some (.word 0x220 ones64)
  else if 0x10 ≤ n ∧ n ≤ 0x17 then some (.rwin (n - 0x10))
  else if n = 0x20 then some .wptr
  else if n = 0x21 then some .asid
  else if 0x30 ≤ n ∧ n ≤ 0x37 then some (.mpr (n - 0x30))
  else if n = 0x40 then some .groups
  else none

/-- A supervisor register (R289). -/
def SysReg.super : SysReg → Bool
  | .rwin _ | .wptr | .asid => true
  | .word _ _ | .csw | .island | .time | .mpr _ | .groups => false

/-- ISLAND of a context (R290). -/
def islandWord (c k : Nat) : Nat :=
  (if isCellar c then 0xFCFFFFFFFF else 0xFCFFFFFFFE) * 2 ^ 24 + k * 2 ^ 16 + (if isCellar c then 2 ^ 11 else 0) + c

/-- The groups of a partition that a core belongs to, ascending. -/
def State.groupsOf (s : State) (p c : Nat) : List Nat :=
  ((s.groups.filter fun e => e.1 / 256 == p && s.groupHas p (e.1 % 256) c).map fun e => e.1 % 256).take 4

/-- GROUPS of a core (R120). -/
def State.groupsWord (s : State) (c : Nat) : Nat :=
  let l := s.groupsOf (s.core c).active c
  (2 ^ l.length - 1) * 2 ^ 32 + l.foldr (fun g acc => g + 256 * acc) 0

/-- The value of a system register for a context. -/
def State.sysValue (s : State) (c k : Nat) (r : SysReg) : Nat :=
  match r with
  | .word off mask => s.wsRead c k off 8 &&& mask
  | .csw => s.csw c k
  | .island => islandWord c k
  | .time => s.timeAt c % 2 ^ 64
  | .rwin i => SMap.get 0 (s.apart c).rwin i
  | .wptr => (s.ctx c k).wptr
  | .asid => (s.ctx c k).asid
  | .mpr i =>
    match SMap.find? (s.apart c).inbox i with
    | some m => if m.ctl.ctx = k then mprWord m else 0
    | none => 0
  | .groups => s.groupsWord c

/-- The checks of MFS and MTS: the number, then the privilege (R291). -/
def sysCheck (num : BitVec 12) (s : State) : Option (Cause × Nat) :=
  match sysReg num.toNat with
  | none => some (.reservedCode, s.issue.slot)
  | some r => if r.super && !s.priv s.ic s.ik then some (.priv, num.toNat) else none

/-- MFS: a system register read (R431). -/
def execMfs (c : Ctl) (d : SReg) (num : BitVec 12) (s : State) : Host.Outcome State Fault Refusal :=
  nextState (s.issueSlot c.stall.toNat c.pred [] [.scal d] (sysCheck num) fun t =>
    match sysReg num.toNat with
    | none => .ok t
    | some r =>
      let u := if r = .time then t.logTime t.ic t.ik else t
      .ok (u.putS t.ic t.ik d (t.sysValue t.ic t.ik r) 1))

/-- The bits of a remote-access window that are not reserved (R183). -/
def rwinMask : Nat := 0xFFF80007FFF07FFF

/-- The answer of MTS to a workspace word: a store to it, with a store's interlocks (R205, R241, R291). -/
def State.wordRes (t : State) (off v : Nat) : Res :=
  let a := (t.ctx t.ic t.ik).wptr + off
  if t.marked t.ic a 8 || t.guarded t.ic a 8 then .retry t else .ok (t.spadStore t.ic a 8 v)

/-- MTS: a system register written, for the next instruction (R234, R291, R431). -/
def execMts (c : Ctl) (num : BitVec 12) (a : SReg) (s : State) : Host.Outcome State Fault Refusal :=
  nextState (s.issueSlot c.stall.toNat c.pred [.scal a] [] (sysCheck num) fun t =>
    let v := t.rs a
    match sysReg num.toNat with
    | none => .ok t
    | some r =>
      match r with
      | .word off mask => t.wordRes off (v &&& mask)
      | .csw => t.wordRes 0x200 (cswMerge (t.csw t.ic t.ik) v)
      | .rwin i => .ok (t.modApart t.ic fun p => { p with rwin := SMap.put p.rwin i (v &&& rwinMask) })
      | .wptr =>
        if v % 64 ≠ 0 || spadSize t.ic < v + 4736 then .trap .prot v
        else .ok (((t.drain t.ic t.ik).modCtx t.ic t.ik fun x => { x with wptr := v }).openArea t.ic t.ik)
      | .asid => .ok (t.modCtx t.ic t.ik fun x => { x with asid := v % 16 })
      | .island => .ok t
      | .time => .ok t
      | .mpr _ => .ok t
      | .groups => .ok t)

/-! ### CACHE and TLBI (R432, R433) -/

/-- The cores whose caches an instruction of a context acts upon (R432). -/
def State.cacheCores (s : State) (c k : Nat) : List Nat :=
  if bit (s.csw c k) 3 = 1 then compMembers c (bits (s.csw c k) 6 4) else [c]

/-- Physical line of a cached address, if it has a translation, whatever rights that grants (R432). -/
def State.cachedLine (s : State) (c k : Nat) (ea : Nat ⊕ Nat) : Option Nat :=
  match ea with
  | .inr _ => none
  | .inl va =>
    let p := (s.ctx c k).asid
    if 0xFD ≤ va / 2 ^ 48 || (s.walkStop p va).isSome then none
    else match State.walkFrom s p va 5 0 (s.rootOf p) with
      | some (_, e, level) =>
        let pa := bits e 51 12 * 4096 / levelSize level * levelSize level + va % levelSize level
        if bits e 1 0 = 1 && frameOk pa && bit e 6 == 0 then some (pa / 64) else none
      | none => none

/-- The state with a change made to the cached line of an address in every core concerned. -/
def State.cacheLine (t : State) (a : SReg) (disp : BitVec 48) (f : State → Nat → Nat → State) : Res :=
  match t.cachedLine t.ic t.ik (t.ea a 0 disp) with
  | none => .ok t
  | some line => .ok ((t.cacheCores t.ic t.ik).foldl (fun u m => f u m line) t)

/-- The state with a line that a core holds for writing ordered at its home (R210, R432). -/
def State.writeOut (s : State) (c line : Nat) : State :=
  let h := SMap.get {} s.homes line
  if h.holder = some c then { s with homes := SMap.put s.homes line { h with holder := none } } else s

/-- The state with a core's data copy of a line dropped. -/
def State.dropLine (s : State) (c line : Nat) : State := s.modCore c fun n => { n with l1 := SMap.del n.l1 line }

/-- CACHE.IINV: an instruction line dropped (R432). -/
def execCacheIinv (c : Ctl) (a : SReg) (disp : BitVec 48) (s : State) : Host.Outcome State Fault Refusal :=
  nextState (s.issueSlot c.stall.toNat c.pred [.scal a] [] (ctlCheck fun t => t.ea a 0 disp) fun t =>
    t.cacheLine a disp fun u m line => u.modCore m fun n => { n with icache := SMap.del n.icache line })

/-- CACHE.IALL: the whole instruction cache dropped (R432). -/
def execCacheIall (c : Ctl) (s : State) : Host.Outcome State Fault Refusal :=
  nextState (s.issueSlot c.stall.toNat c.pred [] [] noCheck fun t =>
    .ok ((t.cacheCores t.ic t.ik).foldl (fun u m => u.modCore m fun n => { n with icache := [] }) t))

/-- CACHE.DWB: a dirty line written to its home (R432). -/
def execCacheDwb (c : Ctl) (a : SReg) (disp : BitVec 48) (s : State) : Host.Outcome State Fault Refusal :=
  nextState (s.issueSlot c.stall.toNat c.pred [.scal a] [] (ctlCheck fun t => t.ea a 0 disp) fun t =>
    t.cacheLine a disp fun u m line => u.writeOut m line)

/-- CACHE.DINV: a data copy dropped, written back first if dirty (R432). -/
def execCacheDinv (c : Ctl) (a : SReg) (disp : BitVec 48) (s : State) : Host.Outcome State Fault Refusal :=
  nextState (s.issueSlot c.stall.toNat c.pred [.scal a] [] (ctlCheck fun t => t.ea a 0 disp) fun t =>
    t.cacheLine a disp fun u m line => (u.writeOut m line).dropLine m line)

/-- CACHE.DWBINV: a line written back, and dropped (R432). -/
def execCacheDwbinv (c : Ctl) (a : SReg) (disp : BitVec 48) (s : State) : Host.Outcome State Fault Refusal :=
  nextState (s.issueSlot c.stall.toNat c.pred [.scal a] [] (ctlCheck fun t => t.ea a 0 disp) fun t =>
    t.cacheLine a disp fun u m line => (u.writeOut m line).dropLine m line)

/-- The state with translations of a partition dropped from every TLB (R197, R433). -/
def State.tlbDrop (s : State) (p : Nat) (f : TlbEnt → Bool) : State :=
  let keep (t : TlbEnt) : Bool := !(t.part == p && f t)
  { s with cores := List.map (fun (e : Nat × Core) => (e.1, { e.2 with tlb := e.2.tlb.filter keep, utlb := e.2.utlb.filter keep })) s.cores
           stlb := List.map (fun (e : Nat × List TlbEnt) => (e.1, e.2.filter keep)) s.stlb }

/-- TLBI.PAGE: every translation of the page that holds A dropped (R433). -/
def execTlbiPage (c : Ctl) (a : SReg) (s : State) : Host.Outcome State Fault Refusal :=
  nextState (s.issueSlot c.stall.toNat c.pred [.scal a] []
    (fun t => if t.priv t.ic t.ik then none else some (.priv, t.rs a)) fun t =>
      let v := t.rs a
      .ok (t.tlbDrop (t.ctx t.ic t.ik).asid fun e => decide (e.va ≤ v) && decide (v < e.va + e.size)))

/-- TLBI.ALL: every translation of the partition dropped (R433). -/
def execTlbiAll (c : Ctl) (s : State) : Host.Outcome State Fault Refusal :=
  nextState (s.issueSlot c.stall.toNat c.pred [] [] (fun t => if t.priv t.ic t.ik then none else some (.priv, 0)) fun t =>
    .ok (t.tlbDrop (t.ctx t.ic t.ik).asid fun _ => true))

/-! ### PARK and WFM (R434, R435) -/

/-- PARK: the context parks with the instruction after it in TPC (R434). -/
def execPark (c : Ctl) (a : SReg) (s : State) : Host.Outcome State Fault Refusal :=
  nextState (s.issueSlot c.stall.toNat c.pred [.scal a] [] noCheck fun t =>
    let v := t.rs a
    let pc := t.afterPc t.ic t.ik
    let u := t.finishIssue t.ic t.ik pc c.stall.toNat
    .gone (((u.drain t.ic t.ik).wsWrite t.ic t.ik 0x208 8 pc).parkCtx t.ic t.ik v 0))

/-- Where the word that WFM waits on stands: in the issuing core's scratchpad, or in cellar SRAM, with its storage key (R435). -/
inductive WfmPlace where
  | own (key : Nat) (s : State)
  | sram (pa : Nat) (s : State)
  | busy
  | trap (cause : Cause) (info : Nat)
  | flash (s : State) (leaf : Nat)
  | shut

/-- The word at an address for WFM (R155, R435). -/
def State.wfmPlace (s : State) (c k : Nat) (ea : Nat ⊕ Nat) : WfmPlace :=
  match s.locate c k ea 8 8 .read with
  | .trap cause info => .trap cause info
  | .flash t leaf => .flash t leaf
  | .shut => .shut
  | .at_ p t =>
    match p with
    | .own off =>
      if t.marked c off 8 then .busy else if t.badSpad c off 8 then .trap .eccUncorr (eaVal ea) else .own (spadKey c (t.core c).active off) t
    | .mem pa _ => if isSram pa then .sram pa t else .trap .prot (eaVal ea)
    | .core _ _ => .trap .prot (eaVal ea)
    | .ctl _ => .trap .prot (eaVal ea)
    | .peer _ _ => .trap .prot (eaVal ea)

/-- The state with WFM's read of a word of cellar SRAM on its way (R190). -/
def State.wfmAsk (s : State) (c k pa va : Nat) : State :=
  s.sendCounted c (s.readMsg c (s.accPart c k) k (s.lidOf c k) pa 8 true) (Out.blank false (s.ctx c k).pc.toNat va 0)

/-- WFM: waits until a word differs from a value, or a timeout (R435). -/
def execWfm (c : Ctl) (d a b r : SReg) (s : State) : Host.Outcome State Fault Refusal :=
  nextState (s.issueSlot c.stall.toNat c.pred [.scal a, .scal b, .scal r] [.scal d] (ctlCheck fun t => t.ea a 0 0) fun t =>
    let ea := t.ea a 0 0
    let wait (key ask : Nat) : Wait := .wfm key (t.rs b) (t.rs r) (t.cycle t.ic) (t.cycle t.ic) d ask
    match t.wfmPlace t.ic t.ik ea with
    | .trap cause info => .trap cause info
    | .flash u leaf => .block u (.pageIn leaf)
    | .shut => .retry t.askDram
    | .busy => .retry t
    | .own key u =>
      let v := Memory.readN u.mem key 8
      if v ≠ t.rs b then .ok ((u.acquire u.ic).putVar u.ic u.ik d v 1)
      else .hold u (wait key 0)
    | .sram pa u => .hold (u.wfmAsk u.ic u.ik pa (eaVal ea)) (wait pa u.nextMsg))

/-- WFM_REREAD: the word read again, in cellar SRAM by a message, which waits while the cellar's clocks are stopped (R49, R190, R435). -/
def execWfmReread (core ctx : Nat) (s : State) : Host.Outcome State Fault Refusal :=
  nextState (match (s.ctx core ctx).wait with
    | some r =>
      match r.kind with
      | .wfm key cmp t since last d ask =>
        if (s.core core).period = 0 then s
        else if isSram key then
          (if ask ≠ 0 then s
           else (s.wfmAsk core ctx key 0).modCtx core ctx fun x =>
             { x with wait := some { r with kind := .wfm key cmp t since last d s.nextMsg } })
        else s.wfmRead core ctx (Memory.readN s.mem key 8)
      | _ => s
    | none => s)

/-! ### Results on their way (R280, R319) -/

/-- VARIABLE_LATENCY_RESULT: the `n`th result on its way to a context reaches its register, behind the older ones on that register. -/
def execVariableLatencyResult (core ctx n : Nat) (s : State) : Host.Outcome State Fault Refusal :=
  nextState (match (s.ctx core ctx).pend[n]? with
    | some p => if p.fixed then s else s.landSel core ctx fun q => q == p
    | none => s)

end Sys2Proof.Machine
end

