-- ==== Sys2Proof/Machine/Rack.lean ====
section
/-! DEFINITION. RACK and the racking engine (R157 to R172, R207, R428). -/
namespace Sys2Proof.Machine

/-! ### The result word and the checks (R158 to R160) -/

/-- RACK's result word (R159). -/
def rackWord (home reason status : Nat) (regrant : Bool) : Nat := flag regrant 27 + home * 2 ^ 16 + reason * 2 ^ 8 + status

/-- Word `i` of a cask descriptor held as one number (R165). -/
def kWord (d i : Nat) : Nat := bits d (64 * i + 63) (64 * i)

/-- A cask descriptor with a reserved bit set, a misaligned base, or VALID clear (R165, R203). -/
def caskBad (d : Nat) : Bool :=
  bits (kWord d 0) 63 56 != 0 || bits (kWord d 1) 63 32 != 0 || bits (kWord d 2) 63 56 != 0 || bits (kWord d 3) 63 56 != 0
  || bits (kWord d 4) 63 6 != 0 || kWord d 5 != 0 || kWord d 6 != 0 || kWord d 7 != 0 || bits (kWord d 0) 11 0 != 0
  || bit (kWord d 4) 4 == 0

/-- Granted rows and row bytes of a register of the matrix array: those of the last command that wrote it under a shape, or of the move that
installed it; its frame's where there is none, which is the model's choice (R160, R164, R169, log 43). -/
def State.regDims (s : State) (c i : Nat) : Nat × Nat :=
  SMap.get (frameRows c, if i < 8 then tileBytes c else accBytes c) (s.apart c).dims i

/-- The cores of a partition's share on a die that belong to every group of a descriptor (R160). -/
def State.rackCores (s : State) (p d die : Nat) : List Nat :=
  (dieCores die).filter fun c => s.inShare p c && (dGids d).all fun g => s.groupHas p g c

/-- The supervisor's place: cellar core 0, context 0 (R87). -/
def superPlace (c k : Nat) : Bool := c == 0x400 && k == 0

/-- Forwarding slots of a core that are taken, or that requests before this one will take, but for an actor's own (R167). -/
def State.fwdsTaken (s : State) (c h : Nat) : Nat :=
  ((s.core c).fwds.filter fun f => f.handle != h).length
    + (s.rackQueue.filter fun m => m.core == c && m.st == 1 && !((s.core c).fwds.any fun f => f.handle == m.handle)).length

/-- The first reason for which a racking request is refused (R160). The supervisor is never racked: its request ends as one that no core of the
target's can take, which is the model's choice (R87, log 70). -/
def State.rackReason (s : State) (c k target cask live : Nat) : Option Nat :=
  let h := s.handleOf c k
  let p := s.partOf c k
  let d := (s.keep h).desc
  let lo := dSpbase d * 4096
  let hi := (dSpbase d + dSpan d) * 4096
  if 5 ≤ target then some 11
  else if target = coreDie c then some 5
  else if bit (s.csw c k) 3 = 1 then some 3
  else if superPlace c k || (s.keep h).handlerOf ≠ 0 || (s.rackCores p d target).isEmpty then some 4
  else if (List.range (dNin d)).any fun i =>
      let e := s.portEntry p d i
      decide (peFifo e < lo) || decide (hi < peFifo e + peCap e * peTsz e) then some 6
  else if target = 4 && decide (64 < dSpbase d + dSpan d) then some 1
  else if target = 4 && (List.range 12).any fun i =>
      let x := s.regDims c i
      bit live i == 1 && (decide (16 < x.1) || decide ((if i < 8 then 32 else 64) < x.2)) then some 2
  else if cask ≠ 0 && (match (if cask % 64 = 0 && cask / 2 ^ 56 == 0 then s.partRead p cask 64 else none) with
      | none => true
      | some v => caskBad v || bits (kWord v 4) 3 0 != p) then some 13
  else if 8 ≤ s.fwdsTaken c h then some 8
  else if 64 ≤ s.rackQueue.length then some 10
  else none

/-- The state with a host RACK command completed by a racking point (R158). -/
def State.endRackCmd (s : State) (cmd : Option Nat) (status word : Nat) : State :=
  match cmd with
  | none => s
  | some n =>
    match SMap.find? s.cmds n with
    | none => s
    | some x => { s with cmds := SMap.put s.cmds n { x with st := 4, status := status, result := word } }

/-- Addresses that the checks of a racking request read: the port table, once reasons 11, 5, 3 and 4 do not apply, and a well-placed cask descriptor
(R160). -/
def State.rackLines (s : State) (c k cask : Nat) (reason : Option Nat) : List Nat :=
  let d := (s.keep (s.handleOf c k)).desc
  if reason = some 11 || reason = some 5 || reason = some 3 || reason = some 4 then []
  else (List.range (dNin d)).map (fun i => dPorts d + 16 * i)
    ++ (if cask ≠ 0 && cask % 64 = 0 && cask / 2 ^ 56 = 0 && reason != some 6 then [cask] else [])

/-- Registers that RACK's target reads. -/
def rackReads (target : RackArg) : List Dest :=
  match target with
  | .imm _ => []
  | .reg r => [.scal r]

/-- RACK: a racking point, refused at once, where the yield deadline counts afresh, or taken by the racking engine (R157, R158, R171, R428). What its checks
read is paged in first where it lies in flash (R200). -/
def execRack (c : Ctl) (d : SReg) (target : RackArg) (a b : SReg) (s : State) : Host.Outcome State Fault Refusal :=
  nextState (s.issueSlot c.stall.toNat c.pred ([.scal a, .scal b] ++ rackReads target) [.scal d] noCheck fun t =>
    let h := t.handleOf t.ic t.ik
    let asked := match target with | .imm v => v.toNat | .reg r => t.rs r % 8
    let own := (t.keep h).target
    let tgt := match own with | some x => x.1 | none => asked
    let cmd := own.map fun x => x.2
    let live := t.rs b % 2 ^ 12
    let u := if own.isSome then t.modKept h fun x => { x with target := none } else t
    if t.power.dram ≠ 0 && (t.rs a != 0 || dNin (t.keep h).desc != 0) then .retry t.askDram
    else
    let p := t.partOf t.ic t.ik
    let r := u.rackReason u.ic u.ik tgt (t.rs a) live
    let lines := t.rackLines t.ic t.ik (t.rs a) r
    match lines.findSome? fun va => match t.leafFor p va .read true with | .flash leaf _ size _ => some (va, leaf, size) | _ => none with
    | some (va, leaf, size) => .block (t.askPage t.ic t.ik p va false leaf size) (.pageIn leaf)
    | none =>
    let u := u.readsMarked p lines
    match r with
    | some reason =>
      let w := rackWord u.ic reason 7 false
      .ok (((u.endRackCmd cmd 7 w).putVar u.ic u.ik d w 1).modCtx u.ic u.ik fun x => { x with start := none })
    | none =>
      let m : Move := { handle := h, part := u.partOf u.ic u.ik, core := u.ic, ctx := u.ik, target := tgt, cask := t.rs a, live := live, d := d, cmd := cmd }
      .hold { u with rackQueue := u.rackQueue ++ [m] } (.rack d))

/-! ### The engine's present move -/

/-- The move that the racking engine runs, if it is in a state (R166). -/
def State.moveIn (s : State) (st : Nat) : Option Move :=
  match s.rackQueue with
  | m :: _ => if m.st = st then some m else none
  | [] => none

/-- The state with the present move replaced. -/
def State.setMove (s : State) (m : Move) : State := { s with rackQueue := m :: s.rackQueue.drop 1 }

/-- The state with the present move ended. -/
def State.endMove (s : State) : State := { s with rackQueue := s.rackQueue.drop 1 }

/-- The context or saved firing that waits for the racking engine. -/
def State.rackParty (s : State) (h : Nat) : Option Party :=
  let hit (w : Option WaitRec) : Bool := match w with
    | some r => (match r.kind with | .rack _ => true | _ => false)
    | none => false
  match List.find? (fun e => hit e.2.wait && s.firingOf (e.1 / 16) (e.1 % 16) == h) s.ctxs with
  | some e => some (.ctx (e.1 / 16) (e.1 % 16))
  | none => if hit (s.keep h).wait then some (.saved h) else none

/-- The state with a move's result written and its firing going on where it is; a host command ends with it (R158, R159). -/
def State.rackResult (s : State) (m : Move) (status word : Nat) : State :=
  let s := s.endRackCmd m.cmd status word
  match s.rackParty m.handle with
  | none => s
  | some p =>
    match s.waitOf p with
    | some r => s.finishParty p r (some { dst := .scal m.d, mask := ones64, val := word, due := 0, fixed := false })
    | none => s

/-! ### DRAIN and CAPTURE (R161 to R166) -/

/-- Everything that DRAIN waits for has come about: the firing's commands and streams, its messages, and its stores as for FENCE at device scope
(R166, R207, R222). -/
def State.rackDrained (s : State) (m : Move) : Bool :=
  let c := m.core
  let p := s.cpart c m.part
  !(p.inbox.any fun e => e.2.ctl.handle == m.handle) && !(p.chans.any fun e => e.2.kind != 2 && e.2.ctl.handle == m.handle)
    && !((s.core c).out.any fun o => o.handle == m.handle) && s.fenceDone c m.ctx 2
    && !(s.lauters.any fun e => e.2.inbox.any fun l => l.src == epCore c && l.ctl.handle == m.handle)
    && ([0, 1, 2, 3].all fun i => s.slotDrained c m.ctx i)

/-- Units of 64 bytes of an image's sections: header, workspace, tiles, span (R161). -/
def imageOffs (wsize spn : Nat) : Nat × Nat × Nat := (4 + wsize, 4 + wsize + 2052, 4 + wsize + 2052 + 64 * spn)

/-- A number made of words from the low end. -/
def ofWords (l : List Nat) : Nat := l.foldr (fun w acc => w % 2 ^ 64 + 2 ^ 64 * acc) 0

/-- A port state (R163). -/
def portState (count pos : Nat) : Nat := 2 ^ 14 + pos % 128 * 128 + count % 128

/-- A frame of one island in rows of another length: the first `rows` rows and `rb` bytes of each (R164). -/
def reframe (v src dst rows rb : Nat) : Nat :=
  (List.range rows).foldl (fun acc r => acc + frameRead v src r 0 rb * 2 ^ (8 * dst * r)) 0

/-- The tile section of an image as one number (R164). -/
def State.tileSection (s : State) (c live : Nat) : Nat :=
  let p := s.apart c
  let one (acc i : Nat) : Nat :=
    if bit live i = 0 then acc
    else
      let x := s.regDims c i
      let (v, src, dst, off) :=
        if i < 8 then (s.tile c i, tileBytes c, 128, 0x100 + i * 0x2000) else (s.acc c (i - 8), accBytes c, 256, 0x10100 + (i - 8) * 0x4000)
      acc + (2 ^ 32 + x.2 * 2 ^ 16 + x.1) * 2 ^ (64 * i) + reframe v src dst x.1 x.2 * 2 ^ (8 * off)
  (List.range 12).foldl one 0 + (List.range 64).foldl (fun acc i => acc + SMap.get 0 p.perm i % 64 * 2 ^ (8 * (0x60 + i))) 0
    + p.grow % 2 ^ 32 * 2 ^ (8 * 0xA0)

/-- The header of an image (R162). -/
def State.imageHeader (s : State) (m : Move) (wsize : Nat) : Nat :=
  let k := s.keep m.handle
  let d := k.desc
  let (t, sp, ck) := imageOffs wsize (dSpan d)
  let e := (s.dirOf m.handle).getD {}
  let w0 := s.recWord m.handle 0
  let w1 := s.recWord m.handle 1
  let head := ofWords [(ck + 1) * 2 ^ 32 + 2 ^ 22 + m.target * 2 ^ 19 + coreDie m.core * 2 ^ 16 + 1, m.handle, s.time, sp * 2 ^ 32 + t, ck, k.pitch0, k.pitch1, m.live]
  let shapes := Memory.readN s.mem (spadKey e.home e.part (e.ws + 0x1C0)) 64
  let ins := (List.range (dNin d)).foldl (fun acc i => acc + portState (bits w0 (14 + 7 * i) (8 + 7 * i)) (SMap.get 0 k.pos i) * 2 ^ (32 * i)) 0
  let outs := (List.range (dNout d)).foldl (fun acc j => acc + portState (bits w1 (14 + 7 * j) (8 + 7 * j)) (SMap.get 0 k.pos (8 + j)) * 2 ^ (32 * j)) 0
  head + d % 2 ^ 512 * 2 ^ 512 + shapes * 2 ^ 1024 + ins * 2 ^ 1536 + outs * 2 ^ 1792

/-- The state with lines of memory written by an agent of a partition. -/
def State.linesWrite (s : State) (p line : Nat) : Nat → Nat → State
  | 0, _ => s
  | n + 1, v => State.linesWrite (s.physWrite p (line * 64) 64 (v % 2 ^ 512) false) p (line + 1) n (v / 2 ^ 512)

/-- Lines of memory as an agent of a partition reads them, as one number. -/
def State.linesRead (s : State) (p line : Nat) : Nat → Nat
  | 0 => 0
  | n + 1 => s.lineFor p line + 2 ^ 512 * State.linesRead s p (line + 1) n

/-- The state after that many lines were read for a partition at their homes (R31, R50, R209). -/
def State.linesLook (s : State) (p line n : Nat) : State := (List.range n).foldl (fun t i => t.homeLook none p (line + i)) s

/-- First line of a partition's rack area, once it is reserved (R161). -/
def State.rackArea (s : State) (p : Nat) : Option Nat :=
  match SMap.find? s.partitions p with
  | some x => if x.area = 0 then none else some (x.area / 64)
  | none => none

/-- CAPTURE: the image written to the rack area, a forwarding record set, the old context and span freed (R161 to R167). -/
def State.capture (s : State) (m : Move) (line : Nat) : State :=
  let c := m.core
  let wsize := dWsize (s.keep m.handle).desc
  let streams := ((s.cpart c m.part).chans.filter fun e => e.2.kind == 2 && e.2.ctl.handle == m.handle)
  let s := s.modPart c m.part fun p => { p with chans := p.chans.filter fun e => !(e.2.kind == 2 && e.2.ctl.handle == m.handle) }
  let s := s.saveCtx c m.ctx
  let e := (s.dirOf m.handle).getD {}
  let d := (s.keep m.handle).desc
  let (t, sp, ck) := imageOffs wsize (dSpan d)
  let s := s.linesWrite m.part line 4 (s.imageHeader m wsize)
  let s := s.linesWrite m.part (line + 4) wsize (Memory.readN s.mem (spadKey c m.part e.ws) (wsize * 64))
  let s := s.linesWrite m.part (line + t) 2052 (s.tileSection c m.live)
  let s := s.linesWrite m.part (line + sp) (64 * dSpan d) (Memory.readN s.mem (spadKey c m.part (dSpbase d * 4096)) (dSpan d * 4096))
  let s := if m.cask = 0 then s else s.readsMarked m.part [m.cask]
  let s := s.linesWrite m.part (line + ck) 1 (if m.cask = 0 then 0 else (s.partRead m.part m.cask 64).getD 0)
  let s := (s.dropFwds m.handle).modCore c fun n =>
    { n with fwds := n.fwds ++ [{ handle := m.handle, dst := 0, ws := e.ws, wlen := wsize * 64, newWs := 0, until_ := 0 }] }
  (s.freeAllocs c m.handle [2]).setMove { m with st := 2, streams := streams }

/-- The present move in DRAIN with the context that holds its firing; nothing while a K2 entry has saved the firing, for which the engine waits until it is
dispatched again, which is the model's choice (R46, R166, log 85). -/
def State.drainMove (s : State) : Option Move :=
  match s.moveIn 1 with
  | none => none
  | some m =>
    match s.rackParty m.handle with
    | some (.ctx c k) => some { m with core := c, ctx := k }
    | some (.saved _) => none
    | none => none

/-- RACK_DRAIN: the firing's work has completed and its image is captured; a deferred trap that is due abandons the move (R166). -/
def execRackDrain (s : State) : Host.Outcome State Fault Refusal :=
  nextState (match s.drainMove with
    | none => s
    | some m =>
      if !(s.ctx m.core m.ctx).nacks.isEmpty then s.setMove { m with st := 6, reason := 14 }
      else if !s.rackDrained m then s
      else match s.rackArea m.part with
        | none => s
        | some line => if s.dramShut (line * 64) then s.askDram else s.capture m line)

/-! ### CASK and WAKE (R166, R170) -/

/-- The state with one page moved between frames: the copy, the entry, then the old frame zero-filled (R170).
A page of the pager's that has moved is none of its pool any more (R201). -/
def State.movePage (s : State) (p ea new src dst : Nat) : State :=
  let s := (s.linesLook p (src / 64) 64).linesWrite p (dst / 64) 64 (s.linesRead p (src / 64) 64)
  let s := s.physWrite p ea 8 new true
  { s.linesWrite p (src / 64) 64 0 with paged := s.paged.filterMap fun y => y.without ea }

/-- The frame to which CASK moves a page of the cask: nothing to do, a frame, or a fault (R170). -/
inductive PageMove where
  | keep
  | move (ea old new src dst : Nat)
  | fault
  deriving DecidableEq, Repr

/-- A page, or a part of memory in lines, holds data known to be uncorrectable (R30, R155, R166). -/
def State.linesBad (s : State) (line n : Nat) : Bool :=
  (s.tags.any fun e => decide (line ≤ e.1) && decide (e.1 < line + n) && s.lineBad e.1)
    || s.dirty.any (fun e => decide (line ≤ e.1) && decide (e.1 < line + n) && s.lineBad e.1)
    || s.wordsBad (line * 64) (n * 64)

/-- What CASK does with page `k` of a cask (R170); an entry or a page that cannot be read is a fault (R166). So is, as the model's choice, a page to
move whose list has address 0, or whose list entry is not aligned to 4 KiB or names the other memory (log 85). -/
def State.pageMove (s : State) (p d target k : Nat) : PageMove :=
  let va := bits (kWord d 0) 55 0 + k * 4096
  match (if (s.walkOf p va).any fun ea => s.bytesBad ea 8 then none else State.walkFrom s p va 5 0 (s.rootOf p)) with
  | none => .fault
  | some (ea, e, level) =>
    let base := bits e 51 12 * 4096
    if bits e 1 0 ≠ 1 then .keep
    else
      let list := if target ≠ 4 then (if isSram base then some (bits (kWord d 2) 55 0) else none)
        else if bit (kWord d 4) 5 = 1 && isDram base then some (bits (kWord d 3) 55 0) else none
      match list with
      | none => .keep
      | some l =>
        if level ≠ 4 || l = 0 then .fault
        else match s.partRead p (l + 8 * k) 8 with
          | none => .fault
          | some f =>
            if f % 4096 ≠ 0 || !(if target = 4 then isSram f else isDram f) then .fault
            else if s.linesBad (base / 64) 64 then .fault
            else .move ea e (setBits e 51 12 (f / 4096)) base f

/-- The state after CASK read the entries that lead to page `k`, and its list entry (R31, R193, R209). -/
def State.pageLook (s : State) (p d target k : Nat) : State :=
  let list := bits (kWord d (if target = 4 then 3 else 2)) 55 0
  (s.walkReads none p (bits (kWord d 0) 55 0 + k * 4096)).readsMarked p
    (match s.pageMove p d target k with | .move _ _ _ _ _ => [list + 8 * k] | .keep | .fault => [])

/-- CASK over the pages from `k` on: the state and the rewrites made, and whether a fault stopped it. -/
def State.caskPages (s : State) (p d target : Nat) : Nat → Nat → List (Nat × Nat × Nat) → State × List (Nat × Nat × Nat) × Bool
  | 0, _, acc => (s, acc, false)
  | n + 1, k, acc =>
    let t := s.pageLook p d target k
    match s.pageMove p d target k with
    | .keep => State.caskPages t p d target n (k + 1) acc
    | .fault => (t, acc, true)
    | .move ea old new src dst => State.caskPages (t.movePage p ea new src dst) p d target n (k + 1) ((ea, old, new) :: acc)

/-- The state with the pages that CASK moved put back, the last one first, and no TLB entry left that leads to the frames they leave (R166, R170). -/
def State.undoCask (s : State) (p : Nat) (l : List (Nat × Nat × Nat)) : State :=
  let frame (e : Nat) : Nat := bits e 51 12 * 4096
  (l.foldl (fun s x => s.movePage p x.1 x.2.1 (frame x.2.2) (frame x.2.1)) s).tlbDrop p fun e =>
    l.any fun x => decide (e.pa < frame x.2.2 + 4096) && decide (frame x.2.2 < e.pa + e.size)

/-- The state in which the present move goes back to the source die with reason 7 (R166). -/
def State.rackFault (s : State) (m : Move) : State :=
  ((s.undoCask m.part m.rewrites).report (epAgent 7) 1 m.handle 7).setMove
    { m with st := 3, reason := 7, rewrites := [], target := coreDie m.core }

/-- The pages of 4 KiB that a range touches, each by one address. -/
def pagesOf (va n : Nat) : List Nat := if n = 0 then [] else va :: (List.range ((va + n - 1) / 4096 - va / 4096)).map fun i => (va / 4096 + 1 + i) * 4096

/-- The state with a page-in asked for by a service core, unless it is under way (R200). -/
def State.svcAskPage (s : State) (svc p va leaf size : Nat) : Option State :=
  if (s.net.any fun m => m.op == 0x36 && m.src == epAgent svc && m.arg % 2 ^ 52 == leaf) || s.pageIns.any fun x => x.covers leaf then none
  else some (s.send { id := 0, src := epAgent svc, dst := epAgent 8, part := p, ch := 3, op := 0x36, taddr := va
                      arg := leaf + sizeCode size * 2 ^ 52, raddr := epAgent svc, ctx := 400 })

/-- What a service core waits for before it touches addresses of a partition: nothing, or a page-in or the DRAM, with the state in
which it has asked for it where it had not (R50, R76, R200). -/
def State.svcWait (s : State) (svc p : Nat) (vas : List Nat) : Option (Option State) :=
  match s.flashPage p vas with
  | some (va, leaf, size) => some (s.svcAskPage svc p va leaf size)
  | none =>
    if s.anyShut p vas then some s.wantDram else none

/-- Addresses that CASK reads of a move's cask: its descriptor, and the pages of the list of frames that its direction names (R170). -/
def State.caskLines (s : State) (m : Move) : List Nat :=
  m.cask :: (match s.partRead m.part m.cask 64 with
    | none => []
    | some d =>
      let l := bits (kWord d (if m.target = 4 then 3 else 2)) 55 0
      if l = 0 || (m.target = 4 && bit (kWord d 4) 5 = 0) then [] else pagesOf l (8 * bits (kWord d 1) 31 0))

/-- RACK_CASK: the pages of the cask moved and their entries rewritten; every TLB drops the range (R170). A descriptor or a list that lies in flash is paged
in first (R200). -/
def execRackCask (s : State) : Host.Outcome State Fault Refusal :=
  nextState (match s.moveIn 2 with
    | none => (match s.moveIn 5 with | some m => s.rackFault m | none => s)
    | some m =>
      if m.cask = 0 then s.setMove { m with st := 3 }
      else if s.power.dram ≠ 0 then s.askDram
      else match s.svcWait 7 m.part (s.caskLines m) with
      | some r => r.getD s
      | none =>
      match s.partRead m.part m.cask 64 with
        | none => s.rackFault m
        | some d =>
            let s := s.readsMarked m.part [m.cask]
            let base := bits (kWord d 0) 55 0
            let n := bits (kWord d 1) 31 0
            let (t, l, bad) := s.caskPages m.part d m.target n 0 []
            let t := t.tlbDrop m.part fun e => decide (e.va < base + n * 4096) && decide (base < e.va + e.size)
            if bad then t.rackFault { m with rewrites := l } else t.setMove { m with st := 3, rewrites := l })

/-- RACK_WAKE: a target die that sleeps is woken, and the move goes on when it is ready (R47, R166). -/
def execRackWake (s : State) : Host.Outcome State Fault Refusal :=
  nextState (match s.moveIn 3 with
    | none => s
    | some m => if s.dieAwake m.target then s.setMove { m with st := 4 } else (s.wakeFor m.target).getD s)

/-! ### INSTALL and RESUME (R167 to R169) -/

/-- A pointer register with the old home's place replaced by the new home's (R168). -/
def movePtr (old new w : Nat) : Nat :=
  if mkCore (bits w 42 40) (bits w 35 32) (bits w 39 36) = old && bits w 42 40 == coreDie old then
    setBits (setBits (setBits w 42 40 (coreDie new)) 39 36 (coreY new)) 35 32 (coreX new)
  else w

/-- The state with the installed workspace's pointer registers rewritten (R168). -/
def State.movePtrs (s : State) (ws old new : Nat) (part : Nat) : State :=
  (List.range 16).foldl (fun s i =>
    let a := spadKey new part (ws + 8 * (32 + i))
    { s with mem := Memory.writeN s.mem a 8 (movePtr old new (Memory.readN s.mem a 8)) }) s

/-- The state with the four shapes granted again, and REGRANT set if any changed (R169). -/
def State.regrant (s : State) (ws new part : Nat) : Bool × State :=
  let one (r : Bool × State) (i : Nat) : Bool × State :=
    let a := spadKey new part (ws + 0x1C0 + 16 * i)
    let g := Memory.readN r.2.mem a 8
    let req := Memory.readN r.2.mem (a + 8) 8
    let g' := grantWord new req
    (r.1 || g != g', { r.2 with mem := Memory.writeN r.2.mem a 8 g' })
  let r := [0, 1, 2, 3].foldl one (false, s)
  if r.1 then
    let a := spadKey new part (ws + 0x200)
    (true, { r.2 with mem := Memory.writeN r.2.mem a 8 (setBits (Memory.readN r.2.mem a 8) 2 2 1) })
  else r

/-- The state with the live registers of an image loaded into a core's matrix array, and the others zero; FSTAT reads zero (R168, R393). -/
def State.installTiles (s : State) (c part live v : Nat) : State :=
  let one (p : CorePart) (i : Nat) : CorePart :=
    let e := bits v (64 * i + 63) (64 * i)
    let rows := bits e 15 0
    let rb := bits e 31 16
    if i < 8 then
      { p with tiles := SMap.put p.tiles i (if bit live i = 1 then reframe (v >>> (8 * (0x100 + i * 0x2000))) 128 (tileBytes c) rows rb else 0)
               dims := if bit live i = 1 then SMap.put p.dims i (rows, rb) else SMap.del p.dims i }
    else
      { p with accs := SMap.put p.accs (i - 8) (if bit live i = 1 then reframe (v >>> (8 * (0x10100 + (i - 8) * 0x4000))) 256 (accBytes c) rows rb else 0)
               dims := if bit live i = 1 then SMap.put p.dims i (rows, rb) else SMap.del p.dims i }
  s.modPart c part fun p =>
    let p := (List.range 12).foldl one p
    { p with badRows := [], fstat := 0, perm := (List.range 64).foldl (fun m i => SMap.put m i (bits v (8 * (0x60 + i) + 5) (8 * (0x60 + i)))) p.perm
             grow := bits v (8 * 0xA0 + 31) (8 * 0xA0) }

/-- The state with the stream channels of a moved firing on its new home (R207). -/
def State.installStreams (s : State) (m : Move) (c ws : Nat) (spanLo spanHi : Nat) : State :=
  m.streams.foldl (fun s e =>
    let x := e.2
    let busy (ch : Nat) : Bool := (s.cpart c m.part).chans.any fun y => y.1 == ch || (y.2.kind == 1 && y.2.ch2 == ch)
    let ch := if busy e.1 then ((List.range 16).find? fun i => !busy i).getD e.1 else e.1
    let inside := decide (spanLo ≤ x.ring) && decide (x.ring + x.rsize ≤ spanHi)
    let x := if inside || x.portb then x else { x with head := x.tailc }
    let a := spadKey c m.part (ws + sbOff x.slot)
    let s := { s with mem := Memory.writeN s.mem a 8 (setBits (Memory.readN s.mem a 8) 51 48 ch) }
    s.modPart c m.part fun p => { p with chans := SMap.put p.chans ch x }) s

/-- A core qualifies to take a moved actor (R168). -/
def State.qualifies (s : State) (m : Move) (c : Nat) : Bool :=
  let d := (s.keep m.handle).desc
  (s.rackCores m.part d m.target).contains c && (s.core c).active == m.part && !(s.core c).fenced && s.spanFree c m.part d

/-- The cores that qualify, in the order of choice (R168). -/
def State.rackChoice (s : State) (m : Move) : List Nat :=
  let l := (dieCores m.target).filter fun c => s.qualifies m c
  let hint := match dHint (s.keep m.handle).desc with | some x => if l.contains x then [x] else [] | none => []
  let best := l.foldl (fun b c => match b with
    | none => some c
    | some x => if (s.freeCtxs x).length < (s.freeCtxs c).length then some c else b) none
  hint ++ (match best with | some x => [x] | none => [])

/-- The state with an actor's placement taken from its old home and made on a new one; nothing where there is no room. -/
def State.rehome (s : State) (h c : Nat) : Option State :=
  match s.dirOf h with
  | none => none
  | some e =>
    let w0 := s.recWord h 0
    let w1 := s.recWord h 1
    let t := s.modKept h fun k => { k with word0 := w0, word1 := w1, moved := k.saved.isSome }
    let t := (t.freeAllocs e.home h [0, 1, 2]).modDir h fun e => { e with loc := 1 }
    match t.placeActor h c with
    | none => none
    | some u => u.giveWorkspace h

/-- The state with the messages that wait for a moved actor sent on from a core to its new home, where they are applied next, in order, before its first
instruction (R167). -/
def State.replayForward (s : State) (c : Nat) (f : Fwd) : State :=
  let mine (m : Msg) : Bool := m.held == 3 && m.forH == f.handle
  let l := (s.parked.filter mine).map fun m => m.onTo c f
  let s := { s with parked := s.parked.filter (fun m => !mine m), net := s.net ++ l }
  { s with agenda := s.agenda ++ l.map fun m => { instr := s.msgEvent m, focus := m.id } }

/-- RACK_INSTALL: the image placed on a core that qualifies, and the firing resumed there, in a free context unless the head of the run list is due or a
COMPOSE holds the core (R131, R243); an image that cannot be read sends the firing back to its
source die, once (R166 to R169). -/
def execRackInstall (s : State) : Host.Outcome State Fault Refusal :=
  nextState (match s.moveIn 4 with
    | none => s
    | some m =>
      match s.rackArea m.part, (s.rackChoice m).findSome? fun c => (s.rehome m.handle c).map fun t => (c, t) with
      | some line, some (c, t) =>
        if s.dramShut (line * 64) then s.askDram
        else if m.reason = 0 && s.linesBad line (imageOffs (dWsize (s.keep m.handle).desc) (dSpan (s.keep m.handle).desc)).2.2 then s.rackFault m
        else
        let e := (t.dirOf m.handle).getD {}
        let d := (t.keep m.handle).desc
        let wsize := dWsize d
        let (tileAt, spanAt, len) := imageOffs wsize (dSpan d)
        let t := t.linesLook m.part line (len + 1)
        let t := { t with mem := Memory.writeN t.mem (spadKey c m.part e.ws) (wsize * 64) (s.linesRead m.part (line + 4) wsize) }
        let t := { t with mem := Memory.writeN t.mem (spadKey c m.part (dSpbase d * 4096)) (dSpan d * 4096) (s.linesRead m.part (line + spanAt) (64 * dSpan d)) }
        let t := (t.mend (spadKey c m.part e.ws) (wsize * 64)).mend (spadKey c m.part (dSpbase d * 4096)) (dSpan d * 4096)
        let t := t.movePtrs e.ws m.core c m.part
        let (changed, t) := t.regrant e.ws c m.part
        let t := t.installTiles c m.part m.live (s.linesRead m.part (line + tileAt) 2052)
        let t := t.installStreams m c e.ws (dSpbase d * 4096) ((dSpbase d + dSpan d) * 4096)
        let f : Fwd := { handle := m.handle, dst := c, newWs := e.ws, until_ := 1, wlen := wsize * 64
                         ws := match (s.core m.core).fwds.find? fun f => f.handle == m.handle with | some f => f.ws | none => 0 }
        let t := t.modCore m.core fun n => { n with fwds := n.fwds.map fun g => if g.handle == m.handle then f else g }
        let t := t.replayForward m.core f
        let status := if m.reason = 0 then 0 else 7
        let t := (t.rackResult m status (rackWord c m.reason status changed)).endMove
        match (if m.preempt || t.headDue c || (t.core c).frozen.isSome then none else (t.freeCtxs c).head?) with
        | some k => t.startFiring c k m.handle
        | none => t.enqueue c m.handle (t.actorLevel m.handle)
      | _, _ => s)

/-- RACK_DONE: an abandoned move writes its result at the old home, and the firing goes on there (R166). -/
def execRackDone (s : State) : Host.Outcome State Fault Refusal :=
  nextState (match s.moveIn 6 with
    | none => s
    | some m =>
      let t := (s.rackResult m 7 (rackWord m.core m.reason 7 false)).endMove
      match s.rackParty m.handle with
      | some (.ctx c k) => t.modCtx c k fun x => { x with preempt := if m.preempt then 2 else x.preempt, start := none }
      | _ => t)

end Sys2Proof.Machine
end

