-- ==== Sys2Proof/Machine/Firings.lean ====
section
/-! DEFINITION. Dispatch of firings, run lists, the yield deadline, deferred traps, fencing and the park control block
(R112 to R118, R128, R137 to R140, R143). -/
namespace Sys2Proof.Machine

/-! ### Sources of firings (R112, R115, R116) -/

/-- A core takes firings: its clock runs, and it is neither fenced nor frozen (R47, R128, R243). -/
def State.takes (s : State) (c : Nat) : Bool :=
  let k := s.core c
  k.period != 0 && !k.fenced && k.frozen.isNone && s.dieAwake (coreDie c)

/-- The bottom of a core's deque for its active partition (R111, R115). -/
def State.dequeBottom (s : State) (c : Nat) : Option Nat :=
  ((s.core c).deque ++ (s.core c).spill).find? fun h => handlePart h == (s.core c).active

/-- The state with an entry taken from a core's deque; spilled entries move up into its place. -/
def State.dequeDrop (s : State) (c h : Nat) : State :=
  s.modCore c fun k =>
    let l := (k.deque ++ k.spill).filter fun x => x != h
    { k with deque := l.take 64, spill := l.drop 64 }

/-- The kind of a pool record for a core: 1 homed here, 2 hinted here, 3 free to any (R112). -/
def State.poolKind (s : State) (c : Nat) (r : PoolRec) : Option Nat :=
  if r.homed then (if r.home = c then some 1 else none)
  else match dHint (s.keep r.handle).desc with
    | none => some 3
    | some x => if x = c then some 2 else if r.enq + 2000 ≤ s.time then some 3 else none

/-- A READY pool record comes before another for a core: a higher level, then its kind, then its age; among several of the first two kinds at one
level the oldest, which is the model's choice (R112, log 72). -/
def State.poolBefore (s : State) (c : Nat) (a b : PoolRec) : Bool :=
  let la := s.actorLevel a.handle
  let lb := s.actorLevel b.handle
  let ka := (s.poolKind c a).getD 4
  let kb := (s.poolKind c b).getD 4
  if la ≠ lb then lb < la else if ka ≠ kb then ka < kb else a.enq < b.enq

/-- The record that a die's pool gives a core; from another die's pool only the third kind; a saved firing once it is released on the core that it left
(R112, R224). -/
def State.poolOffer (s : State) (c die : Nat) : Option PoolRec :=
  let l := s.pool.filter fun r =>
    r.die == die && handlePart r.handle == (s.core c).active && s.poolReady r && serves c r.cls
      && (match s.poolKind c r with | none => false | some k => die == coreDie c || k == 3)
      && (r.homed || (s.placeActor r.handle c).isSome && ((s.keep r.handle).saved.isNone || s.ordered r.home r.handle none))
  l.foldl (fun b r => match b with
    | none => some r
    | some x => if s.poolBefore c r x then some r else b) none

/-- The dies whose pools a core asks, its own first (R112). -/
def poolDies (c : Nat) : List Nat := if isCellar c then [4] else [0, 1, 2, 3].map fun i => (coreDie c + i) % 4

/-- The pool record that a core may take (R112). -/
def State.poolPick (s : State) (c : Nat) : Option PoolRec := (poolDies c).findSome? fun d => s.poolOffer c d

/-- The top of a victim's deque for a thief, if the thief may take it (R116). -/
def State.stealTop (s : State) (c v : Nat) : Option Nat :=
  if (s.core v).fenced || (s.core v).frozen.isSome || v == c then none
  else match ((s.core v).deque ++ (s.core v).spill).getLast? with
    | some h => if handlePart h = (s.core c).active && serves c (dClass (s.keep h).desc) then some h else none
    | none => none

/-- The victims of a core's tier in order: cluster, die, other dies in ascending die code after its own (R116). -/
def victims (c tier : Nat) : List Nat :=
  if tier = 0 then (dieCores (coreDie c)).filter fun v => clusterOf v == clusterOf c && v != c
  else if tier = 1 then (dieCores (coreDie c)).filter fun v => v != c
  else [1, 2, 3, 4].flatMap fun i => dieCores ((coreDie c + i) % 5)

/-- A list turned so that it starts behind an element. -/
def startAfter (l : List Nat) (x : Nat) : List Nat :=
  match l.findIdx? fun y => y == x with
  | some i => l.drop (i + 1) ++ l.take (i + 1)
  | none => l

/-- The last victim of a tier. -/
def Core.lastVictim (k : Core) (tier : Nat) : Nat := if tier = 0 then k.victim1 else if tier = 1 then k.victim2 else k.victim3

/-- The steal of an idle core: the tier, the victim and the handle (R116). -/
def State.stealPick (s : State) (c : Nat) : Option (Nat × Nat × Nat) :=
  [0, 1, 2].findSome? fun t =>
    (startAfter (victims c t) ((s.core c).lastVictim t)).findSome? fun v => (s.stealTop c v).map fun h => (t, v, h)

/-- What a free context takes next (R115); `early` a handler firing that waits for an actor placed there (R340). -/
inductive Source where
  | early (h : Nat)
  | run (h : Nat)
  | own (h : Nat)
  | pool (r : PoolRec)
  | steal (tier victim h : Nat)
  deriving DecidableEq, Repr

/-- The run list's entries of a core's active partition in the order in which they are dispatched: by level, then by their place (R113). -/
def State.runOrder (s : State) (c : Nat) : List RunEnt :=
  let l := (s.core c).runList.filter fun e => handlePart e.handle == (s.core c).active
  [7, 6, 5, 4, 3, 2, 1, 0].flatMap fun n => l.filter fun e => e.level == n

/-- The deque's entries of a core's active partition from the bottom (R111). -/
def State.ownOrder (s : State) (c : Nat) : List Nat :=
  ((s.core c).deque ++ (s.core c).spill).filter fun h => handlePart h == (s.core c).active

/-- The deque's bottom comes before the run list's head: its base priority is above the head's level, unless eight firings have completed since
the entry came to the head (R115, R131). -/
def State.ownFirst (s : State) (c : Nat) : Bool :=
  match s.runHead c, s.dequeBottom c with
  | some e, some h => decide (e.level < s.basePrio h) && !s.headDue c
  | none, some _ => true
  | _, none => false

/-- The core's own sources in order: what R115 takes first, then, where that finds no room, another firing meanwhile (R115, R177). -/
def State.ownSources (s : State) (c : Nat) : List Source :=
  let runs := (s.runOrder c).map fun e => Source.run e.handle
  let owns := (s.ownOrder c).map Source.own
  (if s.headDue c then [] else (s.handlersAt c).map Source.early) ++ (if s.ownFirst c then owns.take 1 ++ runs ++ owns.drop 1 else runs ++ owns)

/-- The source beyond the core: a pool record, else a steal, for a core with an empty run list (R112, R115, R116). -/
def State.farSource (s : State) (c : Nat) : Option Source :=
  if !(s.runOrder c).isEmpty then none
  else match s.poolPick c with
    | some r => some (.pool r)
    | none => (s.stealPick c).map fun x => .steal x.1 x.2.1 x.2.2

/-- The first source that offers a firing to a core (R115). -/
def State.source (s : State) (c : Nat) : Option Source :=
  match s.ownSources c with
  | x :: _ => some x
  | [] => s.farSource c

/-- The handle that a source offers. -/
def Source.handle : Source → Nat
  | .early h => h
  | .run h => h
  | .own h => h
  | .pool r => r.handle
  | .steal _ _ h => h

/-- The launches for which a core keeps counters: those with a context, an entry, an engine command or an unanswered message on it (R125). -/
def State.coreLaunches (s : State) (c : Nat) : List Nat :=
  let k := s.core c
  let parts := s.parts.filter fun e => e.1 / 16 == c
  let l := (s.liveCtxs c).map (fun e => match e.2.firing with | some f => f.lid | none => 0)
    ++ k.out.map (fun o => o.lid) ++ k.arrivals.map (fun a => a.out.lid)
    ++ parts.flatMap (fun e => e.2.inbox.map (fun x => x.2.ctl.lid) ++ e.2.chans.map fun x => x.2.ctl.lid)
    ++ s.lauters.flatMap (fun e => (e.2.inbox.filter fun x => x.src == epCore c).map fun x => x.ctl.lid)
    ++ k.runList.map (fun e => (s.keep e.handle).lid) ++ (k.deque ++ k.spill).map fun h => (s.keep h).lid
  l.reverse.dedup.reverse

/-- A core has counters for a launch among its 32: those that have more than an entry on it come first, then the entries in their order (R125). -/
def State.hasCounters (s : State) (c lid : Nat) : Bool :=
  let l := s.coreLaunches c
  (l.take 32).contains lid || decide (l.length < 32)

/-- The state with a moved actor's placement at a core, for a source that brings it from elsewhere (R103, R116). -/
def State.fetchFiring (s : State) (c : Nat) (x : Source) : Option State :=
  match x with
  | .early _ => some s
  | .run h => some (s.modCore c fun k =>
      { k with runList := k.runList.filter fun e => e.handle != h, headWait := if k.headWait.1 = h then (0, 0) else k.headWait })
  | .own h => some (s.dequeDrop c h)
  | .pool r =>
    let t := { s with pool := s.pool.filter fun y => y.handle != r.handle }
    if r.homed then some t
    else (t.placeActor r.handle c).map fun u => u.setActorLevel r.handle (s.actorLevel r.handle)
  | .steal tier v h =>
    let t := (s.dequeDrop v h).modCore c fun k =>
      if tier = 0 then { k with victim1 := v } else if tier = 1 then { k with victim2 := v } else { k with victim3 := v }
    t.rehome h c

/-- What a firing's entry reads, its port table, shapes and pitch request, stands in DRAM in self-refresh (R50, R101, R356, R438). -/
def State.entryShut (s : State) (h : Nat) : Bool :=
  let d := (s.keep h).desc
  s.anyShut (handlePart h) [dPorts d, dShapes d, dPitch d]

/-- A source of a core itself: its run list, its deque, or what was placed there. -/
def Source.here : Source → Bool
  | .early _ => true
  | .run _ => true
  | .own _ => true
  | .pool _ => false
  | .steal _ _ _ => false

/-- The state after a context took the firing that a source offers; nothing where its launch has no counters free, or it finds no room. Handler firings
that waited for an actor come before its first firing: an actor that comes from elsewhere with such is placed, and waits in the run list for them
(R96, R125, R177, R224, R340). -/
def State.takeFiring (s : State) (c k : Nat) (x : Source) : Option State :=
  let h := x.handle
  let lid := (s.keep h).lid
  if !s.hasCounters c lid then none
  else match x with
  | .early h => s.releaseHandler h
  | .run _ | .own _ | .pool _ | .steal _ _ _ =>
  if s.handlerFirst h then
    (if x.here then none else (s.fetchFiring c x).map fun t => t.enqueue c h (t.actorLevel h))
  else if s.entryShut h then s.wantDram
  else match s.fetchFiring c x with
    | none => none
    | some t =>
      match (if (t.keep h).handlerOf = 0 then t.giveWorkspace h else some t) with
      | none => none
      | some t => if (t.ctx c k).firing.isSome then none else some (t.startFiring c k h)

/-- The state after a free context took its next firing from the core's own sources (R115). -/
def State.dispatchOwn (s : State) (c k : Nat) : Option State :=
  if !s.takes c || (s.ctx c k).firing.isSome || nctx c ≤ k then none else (s.ownSources c).findSome? fun x => s.takeFiring c k x

/-- The state after a free context took its next firing (R115). -/
def State.dispatch (s : State) (c k : Nat) : Option State :=
  match s.dispatchOwn c k with
  | some t => some t
  | none =>
    if !s.takes c || (s.ctx c k).firing.isSome || nctx c ≤ k then none
    else match s.farSource c with
      | none => none
      | some x => s.takeFiring c k x

/-- FIRING_DISPATCH (R115). -/
def execFiringDispatch (core ctx : Nat) (s : State) : Host.Outcome State Fault Refusal := nextState ((s.dispatch core ctx).getD s)

/-! ### Run lists (R113, R114) -/

/-- The entry that spills from a run list: the tail of its lowest nonempty level. -/
def spillEntry (l : List RunEnt) : Option RunEnt :=
  let low := l.foldl (fun b e => min b e.level) 8
  (l.filter fun e => e.level == low).getLast?

/-- The state with every entry of a core's run list and deque in the die pool with HOMED = 0 (R128). -/
def State.poolAll (s : State) (c : Nat) : State :=
  let l := (s.core c).runList.map (fun e => e.handle) ++ (s.core c).deque ++ (s.core c).spill
  let s := s.modCore c fun k => { k with runList := [], deque := [], spill := [] }
  l.foldl (fun t h => t.poolActor h (coreDie c) c (dClass (t.keep h).desc) false) s

/-- RUN_LIST_SPILL: entries that come to a fenced core go to the die pool (R128); as the 257th entry is due, the one at the tail of the lowest level of the 256 goes to the die pool, homed (R113). -/
def execRunListSpill (core : Nat) (s : State) : Host.Outcome State Fault Refusal :=
  nextState (if (s.core core).fenced then s.poolAll core
    else if (s.core core).runList.length ≤ 256 then s
    else match spillEntry ((s.core core).runList.take 256) with
      | none => s
      | some e =>
        (s.modCore core fun k => { k with runList := k.runList.filter fun x => x.handle != e.handle }).poolActor e.handle (coreDie core) core
          (dClass (s.keep e.handle).desc) true)

/-- HOMED_RECALL: a home with fewer than 192 entries takes its homed records back (R113). -/
def execHomedRecall (core : Nat) (s : State) : Host.Outcome State Fault Refusal :=
  nextState (if 192 ≤ (s.core core).runList.length || (s.core core).fenced then s
    else
      let mine := (s.pool.filter fun r => r.homed && r.home == core).take (256 - (s.core core).runList.length)
      mine.foldl (fun t r => ({ t with pool := t.pool.filter fun x => x.handle != r.handle }).enqueue core r.handle (t.actorLevel r.handle)) s)

/-- An entry has waited its time at a level that it may leave (R114). -/
def aged (n : Nat) (e : RunEnt) : Bool := decide (e.level < 6) && decide (e.since + 65536 ≤ n)

/-- RUN_LIST_AGING: entries that have waited 65,536 cycles move to the tail of the next level up (R114). -/
def execRunListAging (core : Nat) (s : State) : Host.Outcome State Fault Refusal :=
  let n := s.cycle core
  let old := (s.core core).runList.filter (aged n)
  nextState (old.foldl (fun t e =>
    (t.setActorLevel e.handle (e.level + 1)).modCore core fun k =>
      { k with runList := k.runList.filter (fun x => x.handle != e.handle) ++ [{ e with level := e.level + 1, since := e.since + 65536 }] }) s)

/-! ### The yield deadline and deferred traps (R118, R137, R143) -/

/-- A wait on the racking engine, during which no pre-emption takes effect (R171). -/
def Wait.isRack : Wait → Bool
  | .rack _ => true
  | .fence _ | .waitd _ _ _ _ | .bwait _ _ _ _ | .wfm _ _ _ _ _ _ _ | .compose _ _ _ _ | .reply _ _ _ _ _ | .line _ | .pageIn _ | .emulate _ => false

/-- A context waits on the racking engine. -/
def State.onRack (s : State) (c k : Nat) : Bool :=
  match (s.ctx c k).wait with
  | some r => r.kind.isRack
  | none => false

/-- A context's yield deadline has been reached (R118). -/
def State.deadlineDue (s : State) (c k : Nat) : Bool :=
  let x := s.ctx c k
  match x.firing, x.start with
  | some f, some t => f.ydl != 0 && decide (t + f.ydl ≤ s.cycle c) && !s.onRack c k
  | _, _ => false

/-- YIELD_DEADLINE: the firing is pre-empted with a deadline miss; a watchdog's pending step counts none (R118, R171). -/
def execYieldDeadline (core ctx : Nat) (s : State) : Host.Outcome State Fault Refusal :=
  nextState (if s.deadlineDue core ctx then
      let lid := s.lidOf core ctx
      let t := s.preemptCtx core ctx
      let t := t.modCore core fun k => { k with dlmiss := min (k.dlmiss + 1) 0xFFFFFFFF }
      match SMap.find? t.launches lid with
      | some l => { t with launches := SMap.put t.launches lid { l with misses := l.misses + 1 } }
      | none => t
    else if (s.ctx core ctx).preempt = 2 && !s.onRack core ctx && (s.ctx core ctx).firing.isSome then s.preemptCtx core ctx
    else s)

/-- A deferred refusal can be delivered to a context: it is at a boundary, or in a wait that a trap abandons (R137). -/
def State.nackDue (s : State) (c k : Nat) : Bool :=
  let x := s.ctx c k
  x.firing.isSome && !x.nacks.isEmpty && (match x.wait with | some r => !r.kind.kept | none => true)

/-- DEFERRED_TRAP_DELIVERY: the oldest refusal traps the context, those behind it count in EXTRA (R137). -/
def execDeferredTrapDelivery (core ctx : Nat) (s : State) : Host.Outcome State Fault Refusal :=
  nextState (if s.nackDue core ctx then s.deliverNack core ctx Cause.windowNack.code else s)

/-! ### Fencing (R128) -/

/-- The state with the bytes of a range of storage zero. -/
def State.zeroRange (s : State) (lo n : Nat) : State := { s.mend lo n with mem := s.mem.filter fun e => !(decide (lo ≤ e.1) && decide (e.1 < lo + n)) }

/-- The state with a core's part of one partition reset: engines, and its scratchpad zero (R128). -/
def State.wipePart (s : State) (c p : Nat) : State :=
  let s := s.zeroRange (spadKey c p 0) (2 ^ 20)
  s.modPart c p fun x => { rwin := x.rwin }

/-- The state with a core fenced: its run-list and deque entries go to the die pool with HOMED = 0 (R128). -/
def State.fence (s : State) (c : Nat) : State :=
  (s.modCore c fun k => { k with fenced := true }).poolAll c

/-- FENCED: writing 1 resets a fenced core's contexts, with the waits that they would send again, and its engines, wipes its scratchpad and shadow,
and returns it to service, unless no spare was left for it; messages of its launches that await answers go on awaiting them (R94, R125, R128). -/
def execFenced (core v : Nat) (s : State) : Host.Outcome State Fault Refusal :=
  nextState (if v % 2 = 1 && (s.core core).fenced && !s.fw.coresOut.contains core then
      let t := { s with ctxs := s.ctxs.filter fun e => e.1 / 16 != core }
      let t := t.wipePart core (t.core core).active
      let t := match (t.core core).shadow with | some p => t.wipePart core p | none => t
      t.modCore core fun k => { k with fenced := false, frozen := none, pair := none, resend := [] }
    else s)

/-! ### The park control block (R140) -/

/-- The state with a park command of a die ended: PSTAT.RES written, BUSY clear. -/
def State.pstat (s : State) (die v : Nat) : State :=
  { s with fw := { s.fw with pstat := SMap.put s.fw.pstat die v, pcmd := SMap.del s.fw.pcmd die } }

/-- PCMD_RESUME: a parked actor READY at the tail of its level, to go on at the TPC in its workspace; the command is in progress until then (R140). -/
def execPcmdResume (die : Nat) (s : State) : Host.Outcome State Fault Refusal :=
  let h := SMap.get 0 s.fw.phandle die
  nextState (if SMap.get 0 s.fw.pcmd die ≠ 1 then s else match s.dirOf h with
    | none => s.pstat die 2
    | some e =>
      if s.actorState h ≠ 4 then s.pstat die 1
      else
        let pc := Memory.readN s.mem (spadKey e.home e.part (e.ws + 0x208)) 8 % 2 ^ 56
        let s := s.modKept h fun k => { k with saved := some (pc, (k.saved.getD (0, e.part)).2), live := false, entry := none }
        (s.enqueue e.home h (s.actorLevel h)).pstat die 0)

/-- The state with the stream channels of a firing dropped. -/
def State.dropStreams (s : State) (c p h : Nat) : State :=
  s.modPart c p fun x => { x with chans := x.chans.filter fun e => !(e.2.kind == 2 && e.2.ctl.handle == h) }

/-- PCMD_END: a parked actor EXITED (R140). -/
def execPcmdEnd (die : Nat) (s : State) : Host.Outcome State Fault Refusal :=
  let h := SMap.get 0 s.fw.phandle die
  nextState (if SMap.get 0 s.fw.pcmd die ≠ 2 then s else match s.dirOf h with
    | none => s.pstat die 2
    | some e =>
      if s.actorState h ≠ 4 then s.pstat die 1
      else ((s.dropStreams e.home e.part h).exitActor h).pstat die 0)

end Sys2Proof.Machine
end

