-- ==== Sys2Proof/Machine/Gang.lean ====
section
/-! DEFINITION. Gang switches, partition paging, logical time, renumbering and single-core replay (R129, R130, R144 to R154, R210, R212). -/
namespace Sys2Proof.Machine

/-! ### Switch times and residency (R146, R147) -/

/-- The partitions that share a core, ascending. -/
def State.sharers (s : State) (c : Nat) : List Nat := (s.partitions.filter fun e => s.inShare e.1 c).map fun e => e.1

/-- The partition whose turn on a core follows the active one's (R146). -/
def State.nextPart (s : State) (c : Nat) : Option Nat :=
  let l := s.sharers c
  let a := (s.core c).active
  (match l.find? fun p => a < p with | some p => some p | none => l.head?).filter fun p => p != a

/-- The incoming partition is resident: in the shadow of a kettle core; a cellar core exchanges with the save area (R147, R148). -/
def State.resident (s : State) (c p : Nat) : Bool := isCellar c || (s.core c).shadow == some p

/-- The cores that a partition occupies among the cores that it shares: its gang (R146). -/
def State.gangOf (s : State) (p : Nat) : List Nat :=
  allCores.filter fun c => s.inShare p c && (s.core c).active == p && (s.nextPart c).isSome

/-- Time slice of a partition in ns; 0 for no time-sharing (R83). -/
def State.sliceOf (s : State) (p : Nat) : Nat :=
  match SMap.find? s.partitions p with
  | some x => x.slice * 1000
  | none => 0

/-- The incoming partition of every core of a gang is resident there (R147). -/
def State.gangReady (s : State) (p : Nat) : Bool :=
  (s.gangOf p).all fun c => match s.nextPart c with | some q => s.resident c q | none => true

/-- The earliest switch time of a gang in ns: its slice after it became active on the last of its cores (R146). -/
def State.gangFrom (s : State) (p : Nat) : Nat := (s.gangOf p).foldl (fun m c => max m (s.core c).activeAt) 0 + s.sliceOf p

/-- SWITCH_TIME_NOTICE: one switch time in ns for every core of the gang of a core's active partition, at least 10 µs ahead and a slice after it
became active, once each core's next partition is resident (R146, R147). -/
def execSwitchTimeNotice (core time : Nat) (s : State) : Host.Outcome State Fault Refusal :=
  let p := (s.core core).active
  nextState (if (s.nextPart core).isSome && s.sliceOf p != 0 && decide (s.time + 10000 ≤ time) && decide (s.gangFrom p ≤ time) && s.gangReady p then
      (s.gangOf p).foldl (fun t c => t.modCore c fun k => { k with switch := (s.nextPart c).map fun q => (time, q) }) s
    else s)

/-- PARTITION_PAGING: a partition of the share becomes the resident shadow of a kettle core (R147). -/
def execPartitionPaging (core part : Nat) (s : State) : Host.Outcome State Fault Refusal :=
  nextState (if !isCellar core && s.inShare part core && (s.core core).active != part && (s.core core).switch.isNone then
    s.modCore core fun k => { k with shadow := some part } else s)

/-! ### The gang switch (R149, R150) -/

/-- The state with a context stopped for a switch: a trap due at its boundary first, then its firing saved and READY (R149). -/
def State.stopCtx (s : State) (c k : Nat) : State :=
  let s := if s.nackDue c k then s.deliverNack c k Cause.windowNack.code else s
  if (s.ctx c k).firing.isNone then s else s.preemptCtx c k

/-- The state with the moves at a core that a switch abandons. That a request that still waits for its DRAIN is abandoned too, for the same reason, is
the model's choice (R171, log 85). -/
def State.abandonMoves (s : State) (c : Nat) : State :=
  { s with rackQueue := s.rackQueue.map fun m => if m.core == c && m.st == 1 then { m with st := 6, reason := 9 } else m }

/-- A partition is active on some core of its share. -/
def State.activeSomewhere (s : State) (p : Nat) : Bool := allCores.any fun c => s.inShare p c && (s.core c).active == p

/-- The state with the watchdogs of launches held or counting on, as their partitions are active nowhere or somewhere (R127, R151). -/
def State.holdWatchdogs (s : State) : State :=
  { s with launches := s.launches.map fun e =>
      let l := e.2
      (e.1, match s.activeSomewhere l.part, l.wdHold with
        | false, none => { l with wdHold := some s.time }
        | true, some t => { l with wdHold := none, wdFrom := l.wdFrom + (s.time - t) }
        | _, _ => l) }

/-- A message of a partition that travels from or to an endpoint of a core's die (R25, R150). -/
def msgAt (c p : Nat) (m : Msg) : Bool := m.part == p && (m.src % 8 == coreDie c || m.dst % 8 == coreDie c)

/-- The state with the flits of a partition in the routers of a core's die moved into fall-out buffers, in their order (R23, R149, R150). -/
def State.fallOut (s : State) (c p : Nat) : State :=
  { s with net := s.net.map fun m => if msgAt c p m && m.held == 0 then { m with held := 2 } else m }

/-- The state in which a partition comes back to a core: its flits that fell out on the die are at the head of the network, and the messages parked for
it at the core after them. The parked ones are delivered next, in order, each after the flits of its triple (R129, R130, R149, R150). -/
def State.comeBack (s : State) (c : Nat) : State :=
  let p := (s.core c).active
  let fell (m : Msg) : Bool := msgAt c p m && m.held == 2
  let mine (m : Msg) : Bool := m.held == 1 && epIsCore m.dst && coreOfEp m.dst == c && s.partOfMsg c m == p
  let back := (s.net.filter fell).map fun m => { m with held := 0 }
  let l := (s.parked.filter mine).map fun m => { m with held := 0 }
  let first := (back.filter fun m => l.any fun x => x.sameTriple m) ++ l
  let s := { s with parked := s.parked.filter (fun m => !mine m), net := back ++ l ++ s.net.filter fun m => !fell m }
  { s with agenda := s.agenda ++ first.map fun m => { instr := s.msgEvent m, focus := m.id } }

/-- The state in which no flit waits on a die all of whose cores run its partition, as a change of shares may leave it (R84, R150). -/
def State.freeFallOut (s : State) : State :=
  let free (p die : Nat) : Bool := (dieCores die).all fun c => !s.inShare p c || (s.core c).active == p
  { s with net := s.net.map fun m => if m.held == 2 && free m.part (m.src % 8) && free m.part (m.dst % 8) then { m with held := 0 } else m }

/-- The state with the engine commands of a core's partition stopped at their interruption points (R144, R389). -/
def State.stopCmds (s : State) (c p : Nat) : State :=
  s.modPart c p fun x =>
    { x with inbox := x.inbox.map fun e => (e.1, if e.2.st = 1 then { e.2 with st := 2 } else e.2)
             asked := x.asked.filter fun a => a.write }

/-- The state with the composition that holds a core dissolved: a composed firing goes on alone, a waiting COMPOSE executes again (R145, R149). -/
def State.uncompose (s : State) (c : Nat) : State :=
  match (s.core c).frozen with
  | none => s
  | some (h, k) =>
    if bit (s.csw h k) 3 = 1 then s.decompose h k
    else (s.unfreeze h k).modCtx h k fun x =>
      { x with wait := match x.wait with
          | some r => (match r.kind with | .compose _ _ _ _ => none | _ => some r)
          | none => none }

/-- The exchange of a core's active partition for another: contexts and engines stop, flits fall out, the incoming partition's flits and parked
messages come back (R144, R145, R149, R150). -/
def State.switchTo (s : State) (c p : Nat) : State :=
  let old := (s.core c).active
  let s := (((s.abandonMoves c).logMark c).uncompose c).stopCmds c old
  let s := (List.range (nctx c)).foldl (fun t k => t.stopCtx c k) s
  let s := (s.fallOut c old).modCore c fun n =>
    { n with active := p, shadow := if isCellar c then none else some old, switch := none, pair := none, activeAt := s.time }
  s.holdWatchdogs.comeBack c

/-- GANG_SWITCH: at the switch time a core exchanges its partition (R149). -/
def execGangSwitch (core : Nat) (s : State) : Host.Outcome State Fault Refusal :=
  nextState (match (s.core core).switch with
    | some (t, p) => if t ≤ s.time && s.resident core p then s.switchTo core p else s
    | none => s)

/-! ### The system state (R44) -/

/-- The system state, 0 to 3 (R44). -/
def State.systemState (s : State) : Nat :=
  if !s.allGated then 0 else if s.power.dram != 1 then 1 else if !s.power.cellarC1 then 2 else 3

/-- The state with the power controller's state changed. -/
def State.modPower (s : State) (f : Power → Power) : State := { s with power := f s.power }

/-! ### Logical time (R210, R212) -/

/-- LOGICAL_TIME_TICK: pts advances by one for every window of 64 cycles that has ended (R210). -/
def execLogicalTimeTick (core : Nat) (s : State) : Host.Outcome State Fault Refusal :=
  let n := s.cycle core / 64
  nextState (s.modCore core fun k => { k with pts := k.pts + (n - k.windows), windows := max n k.windows })

/-- A logical time has reached 2^62 (R212). -/
def State.timesHigh (s : State) : Bool :=
  decide (2 ^ 62 ≤ s.fw.pts) || (s.links.any fun (e : Nat × Link) => decide (2 ^ 62 ≤ e.2.pts)) ||
    (s.cores.any fun (e : Nat × Core) => decide (2 ^ 62 ≤ e.2.pts)) ||
    s.homes.any fun (e : Nat × HomeLine) => decide (2 ^ 62 ≤ e.2.wts) || decide (2 ^ 62 ≤ e.2.rts)

/-- The state with issue of a context stopped and resumed: a trap due at its boundary first, and a wait that has not sent its message left, so that
its instruction executes again (R149, R212). -/
def State.pauseCtx (s : State) (c k : Nat) : State :=
  let s := if s.nackDue c k then s.deliverNack c k Cause.windowNack.code else s
  (s.dropWait c k).modCtx c k fun x =>
    { x with wait := match x.wait with
        | some r => if r.kind.kept then some r else none
        | none => none }

/-- A message with the logical times that it carries zero (R212). -/
def Msg.zeroTimes (m : Msg) : Msg :=
  if m.op = 0x11 || m.op = 0x12 then { m with pts := 0, arg := 0, aux := 0 }
  else if m.op = 0x13 || m.op = 0x24 then { m with pts := 0, aux := 0 }
  else { m with pts := 0 }

/-- A renumbering is due: it has begun, or a logical time is high and the package has just entered S1, or 24 hours have passed (R212). -/
def State.renumberDue (s : State) : Bool :=
  s.timesHigh && (s.power.renum || s.power.s1At == some s.time || (match s.power.timesHighAt with | some t => decide (t + 86400000000000 ≤ s.time) | none => false))

/-- The state after the package came into S1, if it did: a renumbering that is due comes next (R44, R212). -/
def State.noteS1 (s : State) (was : Nat) : State :=
  if was ≠ 1 && s.systemState == 1 then
    let t := s.modPower fun p => { p with s1At := some s.time }
    if t.timesHigh then t.nextAct .timeRenumbering else t
  else s

/-- A renumbering that has begun waits: a store is on its way to its home or to be acknowledged, or DRAM sleeps that lines must go back to (R50, R212). -/
def State.renumberWaits (s : State) : Bool :=
  (s.cores.any fun e => !e.2.late.isEmpty || e.2.out.any fun o =>
    o.op == 0x02 || (o.op == 0x23 && s.net.any fun m => m.held == 0 && (m.id == o.id || m.re == o.id)))
    || (!s.dirty.isEmpty && s.power.dram != 0)

/-- TIME_RENUMBERING: issue stops, the stores on their way are ordered, caches are written back and dropped, every logical time is zero, those in messages too; a release and acquire for
every context (R212). -/
def execTimeRenumbering (s : State) : Host.Outcome State Fault Refusal :=
  nextState (if !s.renumberDue then s
    else if s.renumberWaits then
      { s with power := { s.power with renum := true, dramWant := s.power.dramWant || (!s.dirty.isEmpty && s.power.dram != 0) } }
    else
      let t := s.ctxs.foldl (fun u e => if e.2.firing.isSome then u.pauseCtx (e.1 / 16) (e.1 % 16) else u) s
      let t := t.writeBackAll fun _ _ => false
      let t := { t with
        homes := [], rdc := [], held := [], net := t.net.map Msg.zeroTimes, parked := t.parked.map Msg.zeroTimes
        power := { t.power with leaseEnd := [], timesHighAt := none, renum := false }
        fw := { t.fw with pts := 0 }, links := List.map (fun (e : Nat × Link) => (e.1, { e.2 with pts := 0 })) t.links
        lauters := List.map (fun (e : Nat × Lauter) => (e.1, { e.2 with inbox := e.2.inbox.map fun (x : LCmd) => { x with pts := 0 } })) t.lauters
        cores := List.map (fun (e : Nat × Core) =>
          (e.1, { e.2 with pts := 0, l1 := [], icache := [], acqTime := t.now, backlog := e.2.backlog.map Msg.zeroTimes })) t.cores }
      t.report (epAgent 9) 5 (3 * 2 ^ 56) 0)

/-! ### Replay (R154) -/

/-- Word `i` of a core's log entry `n` (R153). -/
def State.logWord (s : State) (c n i : Nat) : Nat :=
  let l := (s.core c).log
  s.physRead 0 (l.base + (n % max l.size 1) * 64 + 8 * i) 8

/-- The body bytes of a logged message (R153). -/
def State.logBody (s : State) (c n nbytes : Nat) : List Byte :=
  let first := ([4, 5, 6, 7].map fun i => s.logWord c n i).flatMap (toBytes 8)
  let more := (List.range ((nbytes - 32 + 63) / 64)).flatMap fun j => ([0, 1, 2, 3, 4, 5, 6, 7].map fun i => s.logWord c (n + 1 + j) i).flatMap (toBytes 8)
  (first ++ more).take nbytes

/-- The message of a core's log entry, answering the oldest request of its context to its source. The entry does not hold a line's lease end nor the
write time of an atomic: the least that R210 admits is the model's choice (log 86). -/
def State.logged (s : State) (c n : Nat) : Msg :=
  let w := s.logWord c n 1
  let op := bits w 15 8
  let src := srcOfCode (bits w 36 26)
  let nb := bits w 53 45
  let answers : Bool := op == 0x11 || op == 0x12 || op == 0x13 || op == 0x22 || op == 0x24 || op == 0x29
  let ctx := bits w 44 41
  let re := if answers then (match (s.core c).out.find? fun o => o.ctx == ctx && o.dst == src with | some o => o.id | none => 0) else 0
  let arg := s.logWord c n 2
  let ta := s.logWord c n 3
  let pts := (s.core c).pts
  { id := 0, src := src, dst := epCore c, part := bits w 40 37, ch := bits w 17 16, op := op, seq := bits w 25 18, arg := arg
    taddr := ta, data := s.logBody c n nb, ctx := ctx, re := re, raddr := src
    keepLo := op == 0x11 && nb != 64, pts := s.now, aux := if op = 0x11 then max arg pts + 16 else if op = 0x13 then pts else 0
    size := if op = 0x33 && bits arg 63 60 != 0 then 0x1000 else if op = 0x11 && nb = 64 then 64 - ta % 64 else 0 }

/-- The state after a core took a logged message in place of the network. -/
def State.replayMsg (s : State) (c : Nat) (m : Msg) : State :=
  let waits : Bool := match (s.ctx c m.ctx).wait with | some r => (match r.kind with | .bwait _ _ _ _ => s.waiterOf m.re == some (.ctx c m.ctx) | _ => false) | none => false
  if m.op = 0x14 then s.resendCoherent c m
  else if waits && (m.op = 0x13 || m.op = 0x24) then (s.takeOut c m.re).2.bwaitAnswer m
  else if m.ch = 1 || m.op = 0x22 || m.op = 0x24 || m.op = 0x29 then s.answerAt c m
  else if m.op = 0x31 then s.placeNow m.taddr c
  else if m.op = 0x32 then s.mailEntry m
  else if m.op = 0x37 then s.pageDone c m
  else if m.op = 0x27 || m.op = 0x28 then s.recordMsg m
  else (s.coreMsg c m).getD s

/-- LOGGED_INPUT_REPLAY: a fenced core in replay mode takes its next logged input at the logged cycle, up to a gap: the ring's end with OVF set;
nothing where the ring was overwritten past the checkpoint mark (R154). -/
def execLoggedInputReplay (core : Nat) (s : State) : Host.Outcome State Fault Refusal :=
  let l := (s.core core).log
  nextState (if !s.replaying core || l.head ≤ l.next || decide (l.markHead + l.size < l.head) then s
    else if s.logWord core l.next 0 ≠ s.logCyc core then s
    else
      let w := s.logWord core l.next 1
      let kind := bits w 7 0
      let k := bits w 44 41
      let v := s.logWord core l.next 2
      let more := if kind = 1 then (bits w 53 45 - 32 + 63) / 64 else 0
      let t := s.modCore core fun n => { n with log := { n.log with next := n.log.next + 1 + more } }
      if kind = 1 then t.replayMsg core (s.logged core l.next)
      else if kind = 2 then t.modCore core fun n => { n with log := { n.log with clock := some v } }
      else if kind = 3 then
        let cl : Cluster := SMap.get {} t.power.clusters (clusterOf core)
        { t with power := { t.power with clusters := SMap.put t.power.clusters (clusterOf core) { cl with eff := v % 16 } } }
      else if kind = 4 then (if (t.ctx core k).firing.isSome then t.preemptCtx core k else t)
      else if kind = 5 then t.modCore core fun n => { n with log := { n.log with mark := t.cycle core } }
      else t)

end Sys2Proof.Machine
end

