-- ==== Sys2Proof/Machine/Power.lean ====
section
/-! DEFINITION. The power controller and the market: states of the dies, the cellar, the DRAM and the application cores, wake contracts,
pitch triggers, rails, throttles and thermal samples (R40 to R68, R471). Each transition is one event; the worst-case times of R46 to
R52 are the times at which the default schedule raises the event that ends it (log 6). -/
namespace Sys2Proof.Machine

/-! ### Floors (R46, R54, R55) -/

/-- The wake contracts in force. -/
def State.contractsNow (s : State) : List Nat := s.power.contracts.map fun x => x.2.2.2

/-- The floor of a compute die: the shallowest of the deepest states that the contracts in force allow it. -/
def State.dieFloor (s : State) (q : Nat) : Nat :=
  s.contractsNow.foldl (fun m v => if bit v (4 + q) = 1 then min m (bits v 3 0) else m) 3

/-- A contract keeps the cellar in C0. -/
def State.cellarHeld (s : State) : Bool := s.contractsNow.any fun v => bit v 10 == 0
/-- A contract keeps the DRAM active. -/
def State.dramHeld (s : State) : Bool := s.contractsNow.any fun v => bits v 9 8 == 0
/-- The oldest contract that keeps the application cores running. -/
def State.appHeld (s : State) : Option (Nat × Nat) := (s.power.contracts.find? fun x => bit x.2.2.2 11 == 1).map fun x => (x.2.2.1, x.2.2.2)

/-! ### Clocks -/

/-- The period at which a core runs: its own, or in a composed home the slowest of its members (R62, R244). -/
def State.runPeriod (s : State) (c : Nat) : Nat :=
  match (s.core c).frozen with
  | some (h, k) =>
    if h = c && bit (s.csw c k) 3 == 1 then
      s.cores.foldl (fun p e => if e.2.frozen == some (h, k) then max p (s.ownPeriod e.1) else p) (s.ownPeriod c)
    else s.ownPeriod c
  | none => s.ownPeriod c

/-- The state with the clocks of an island running or stopped. -/
def State.islandClocks (s : State) (die : Nat) (on : Bool) : State :=
  (dieCores die).foldl (fun t c => t.setPeriod c (if on then t.runPeriod c else 0)) s

/-- The cores of a cluster (R41). -/
def clusterCores (c : Nat) : List Nat := (dieCores (if c < 64 then c / 16 else 4)).filter fun x => clusterOf x == c

/-- A cluster. -/
def State.cluster (s : State) (c : Nat) : Cluster := SMap.get {} s.power.clusters c

/-- A cluster's die is held by a critical trip (R64). -/
def State.dieTripped (s : State) (die : Nat) : Bool := s.power.clusters.any fun e => decide (e.1 < 64) && e.1 / 16 == die && e.2.trip

/-- The state with a cluster replaced: its cores' clocks follow a change of rail, and their logs a change of step (R62, R153). -/
def State.putCluster (s : State) (c : Nat) (k : Cluster) : State :=
  let old := s.cluster c
  let s := s.modPower fun p => { p with clusters := SMap.put p.clusters c k }
  let s := if old.eff = k.eff then s else (clusterCores c).foldl (fun t x => if (t.core x).log.en then t.logEvent x 3 0 k.eff else t) s
  if old.high = k.high then s
  else s.cores.foldl (fun t e =>
    if clusterOf e.1 / 16 = c / 16 && (t.core e.1).period != 0 then t.setPeriod e.1 (t.runPeriod e.1) else t) s

/-- The effective rail, step and cause of a cluster, and its refund; a boost once dropped stays so for the interval (R65). -/
def Cluster.settle (k : Cluster) (c : Nat) : Cluster :=
  let eff := max (max k.inStep k.mstep) (max (if k.clim then 4 else 0) (if k.therm then 8 else 0))
  let drop := decide (c < 64) && k.grant == 2 && (k.clim || k.therm)
  { k with eff := eff, high := decide (c < 64) && k.grant == 2 && !k.clim && !k.therm && !k.refund
           cause := if k.clim then 2 else if k.therm then 1 else 0
           refund := k.refund || drop, evRefund := k.evRefund || (drop && !k.refund)
           evClim := k.evClim || k.clim, evTherm := k.evTherm || k.therm }

/-- The state with a cluster settled anew; a boost dropped is refunded once to the next interval's supply (R65). -/
def State.settleCluster (s : State) (c : Nat) (k : Cluster) : State :=
  let n := k.settle c
  let s := if n.refund && !k.refund then s.modPower fun p => { p with refunds := p.refunds + k.boost } else s
  s.putCluster c n

/-! ### DRAM and dies asked to wake (R47, R50) -/

/-- The state with the DRAM's exit from self-refresh begun, which takes the package out of S2 and S3; before its training nothing begins (R44, R50, R89). -/
def State.dramExit (s : State) : State :=
  if s.power.dram = 1 && decide (5 ≤ s.fw.step) then (s.modPower fun p => { p with dram := 2, dramSince := s.time }).noteS1 s.systemState else s

/-- The state with a die's wake begun, once the dies are trained; an entry that is under way is aborted (R47, R48, R89). -/
def State.beginWake (s : State) (die : Nat) : State :=
  if SMap.get 0 s.power.trans die = 1 then
    (s.modPower fun p => { p with trans := SMap.del p.trans die, die := SMap.put p.die die 0, dieSince := SMap.put p.dieSince die s.time }).islandClocks die true
  else if s.dieState die < 2 || SMap.get 0 s.power.trans die = 3 || s.fw.step < 6 then s
  else (s.modPower fun p => { p with trans := SMap.put p.trans die 3, dieSince := SMap.put p.dieSince die s.time }).dramExit

/-- The state with a die in K1 back in K0, unless a critical trip holds it (R46, R64). -/
def State.leaveK1 (s : State) (die : Nat) : State :=
  if s.dieState die = 1 && !s.dieTripped die then
    (s.modPower fun p => { p with die := SMap.put p.die die 0, dieSince := SMap.put p.dieSince die s.time }).islandClocks die true
  else s

/-- The state with the cellar's return to C0 begun (R49). -/
def State.beginC0 (s : State) : State :=
  if s.power.cellarC1 then s.modPower fun p => { p with cellarC1 := false, cellarWaking := true, cellarSince := s.time } else s

/-- The state with the application cores' wake begun: the DRAM is raised first (R51). -/
def State.beginAppWake (s : State) : State :=
  if s.power.appAsleep then (s.modPower fun p => { p with appWaking := true }).dramExit else s

/-! ### Pitch triggers (R57 to R59) -/

/-- The components of a trigger's level are ready (R57). -/
def State.triggerReady (s : State) (t : Trigger) : Bool :=
  s.power.dram == 0 && (if t.level = 2 then decide (s.dieState t.die ≤ 1) && SMap.get 0 s.power.trans t.die == 0
    else if t.level = 3 then [0, 1, 2, 3].all fun q => decide (s.dieState q ≤ 1) && SMap.get 0 s.power.trans q == 0
    else true)

/-- The kettle-ready word of a trigger (R58). -/
def readyWord (t : Trigger) (now : Nat) : Nat :=
  min (now - t.time) 0xFFFFFFFF * 2 ^ 16 + t.die % 8 * 2 ^ 10 + t.level % 4 * 2 ^ 8 + (if t.failed then 3 else if t.already then 1 else if t.voided then 2 else 0)

/-- The state with a trigger's kettle-ready message on its way; a target that names no core goes to the mailbox (R58). -/
def State.postReady (s : State) (t : Trigger) : State :=
  let w := readyWord t s.time
  let c := mkCore (bits t.rtgt 42 40) (bits t.rtgt 35 32) (bits t.rtgt 39 36)
  if bits t.rtgt 55 43 = 0xFE * 32 && coreOk c then
    s.send { id := 0, src := epAgent 9, dst := epCore c, part := t.part, ch := 3, op := 0x34, taddr := t.rtgt, arg := w }
  else s.report (epAgent 9) 5 w 0

/-- The state with the triggers that have become ready answered, in the order in which they arrived, and those whose components failed (R58, R59). -/
def State.answerTriggers (s : State) : State :=
  let done (t : Trigger) : Bool := t.arrived && (t.failed || s.triggerReady t)
  let ready := s.power.triggers.filter done
  if ready.isEmpty then s
  else ready.foldl (fun u t => u.postReady t) (s.modPower fun p => { p with triggers := p.triggers.filter fun t => !done t })

/-- The state with the components that a trigger names asked to wake (R57). -/
def State.wakeForTrigger (s : State) (t : Trigger) : State :=
  let s := s.dramExit
  if t.level = 2 then s.beginWake t.die
  else if t.level = 3 then ([0, 1, 2, 3].foldl (fun u q => u.beginWake q) s).beginAppWake
  else s

/-- The dies that a trigger names (R57). -/
def Trigger.dies (t : Trigger) : List Nat := if t.level = 2 then [t.die] else if t.level = 3 then [0, 1, 2, 3] else []

/-- A component that a trigger wakes: 0 to 3 dies, 5 the DRAM, 6 the application cores (R57, R471). -/
def Trigger.wakes (t : Trigger) (i : Nat) : Bool := t.dies.contains i || i == 5 || (i == 6 && t.level == 3)

/-- Dies of a trigger whose maximum a critical trip voids (R53). -/
def State.tripsOf (s : State) (t : Trigger) : List Nat := t.dies.filter fun q => s.dieTripped q

/-- A component that a trigger names is held by a critical trip, or has an uncorrectable fault: its maximum is void (R53). -/
def State.voids (s : State) (t : Trigger) : Bool := !(s.tripsOf t).isEmpty || s.power.faulty.any fun i => t.wakes i

/-- The entry for a wake contract that is void: cause 1 a critical trip, 2 an uncorrectable fault, and the component (R53, R471). -/
def State.reportVoid (s : State) (cause component : Nat) : State := s.report (epAgent 9) 5 (2 * 2 ^ 56 + cause * 2 ^ 48 + component) 0

/-- PITCH_TRIGGER: the oldest trigger on its way reaches the power controller (R57, R59). -/
def execPitchTrigger (s : State) : Host.Outcome State Fault Refusal :=
  nextState (match s.power.triggers.findIdx? fun t => !t.arrived && decide (t.time ≤ s.time) with
    | none => s
    | some i =>
      match s.power.triggers[i]? with
      | none => s
      | some t =>
        let v := s.voids t
        let t := { t with arrived := true, time := s.time, already := s.triggerReady t, voided := v }
        let s := s.modPower fun p => { p with triggers := p.triggers.set i t }
        let s := ((s.tripsOf t).foldl (fun (u : State) q => u.reportVoid 1 q) s)
        let s := ((s.power.faulty.filter fun i => t.wakes i).foldl (fun (u : State) i => u.reportVoid 2 i) s)
        (s.wakeForTrigger t).answerTriggers)

/-- CONTRACT_IN_FORCE: every component whose floor is shallower than its state wakes (R55). -/
def execContractInForce (s : State) : Host.Outcome State Fault Refusal :=
  let s := if s.dramHeld then s.dramExit else s
  let s := if s.cellarHeld then s.beginC0 else s
  let s := if s.appHeld.isSome then s.beginAppWake else s
  nextState ([0, 1, 2, 3].foldl (fun t q =>
    if t.dieFloor q < t.dieState q then (if t.dieState q = 1 then t.leaveK1 q else t.beginWake q)
    else if SMap.get 0 t.power.trans q = 1 && decide (t.dieFloor q < 2) then t.beginWake q
    else t) s)

/-! ### Kettle dies (R46 to R48) -/

/-- The commands in the matrix and copy inboxes of a core, over every partition. -/
def State.engineBusy (s : State) (c : Nat) : Bool :=
  s.parts.any fun e => e.1 / 16 == c && (!e.2.inbox.isEmpty || e.2.chans.any fun x => x.2.kind != 2)

/-- A compute die has no work that keeps it in K0 (R46). -/
def State.dieIdle (s : State) (q : Nat) : Bool :=
  !(s.ctxs.any fun e => coreDie (e.1 / 16) == q && e.2.firing.isSome)
    && !(s.cores.any fun e => coreDie e.1 == q && (!e.2.runList.isEmpty || !e.2.deque.isEmpty || !e.2.spill.isEmpty))
    && !((dieCores q).any fun c => s.engineBusy c) && (SMap.get {} s.lauters q).inbox.isEmpty

/-- K1_ENTRY: a die without work for 1 µs stops its clocks (R46). -/
def execK1Entry (die : Nat) (s : State) : Host.Outcome State Fault Refusal :=
  nextState (if die < 4 && s.dieState die = 0 && SMap.get 0 s.power.trans die = 0 && s.dieIdle die && decide (1 ≤ s.dieFloor die)
      && decide (SMap.get 0 s.power.dieSince die + 1000 ≤ s.time) then
      (s.modPower fun p => { p with die := SMap.put p.die die 1, dieSince := SMap.put p.dieSince die s.time }).islandClocks die false
    else s)

/-- K1_EXIT: a firing, a message or a lauter command returns a die to K0 (R46). -/
def execK1Exit (die : Nat) (s : State) : Host.Outcome State Fault Refusal := nextState (s.leaveK1 die)

/-- Step 6 of the K2 entry sequence on one core: its entries go to the die's pool, ready tasks that have not begun free of their home (R46). -/
def State.poolEntries (s : State) (c : Nat) : State :=
  let k := s.core c
  let l := k.runList.map (fun e => e.handle) ++ k.deque ++ k.spill
  let s := s.modCore c fun k => { k with runList := [], deque := [], spill := [] }
  l.foldl (fun t h =>
    let x := t.keep h
    let homed := dStream x.desc || x.saved.isSome || x.handlerOf != 0
    t.poolActor h (coreDie c) c (dClass x.desc) homed) s

/-- Steps 1 to 3 of the K2 entry sequence: issue stops with every firing pre-empted, and the engines stop where they may (R46, R144). -/
def State.stopDie (s : State) (die : Nat) : State :=
  (dieCores die).foldl (fun t c => (List.range 16).foldl (fun u k => u.stopCtx c k) (t.stopCmds c (t.core c).active)) s

/-- The state of a die that has begun to enter K2 and waits for the commands that its lauter engine holds (R46). -/
def State.beginK2 (s : State) (die : Nat) : State := (s.stopDie die).modPower fun p => { p with trans := SMap.put p.trans die 1 }

/-- The K2 entry sequence of a die (R46, R144, R148, R153, R188). -/
def State.enterK2 (s : State) (die : Nat) : State :=
  let was := s.systemState
  let s := (dieCores die).foldl (fun t c => t.logMark c) (s.stopDie die)
  let s := (dieCores die).foldl (fun t c => t.poolEntries c) s
  let s := s.writeBackAll fun l d => d.cellar || quadrant (l * 64) != die
  let far := s.homes.foldl (fun m e => if isDram (e.1 * 64) && quadrant (e.1 * 64) == die then max m e.2.rts else m) 0
  let s := { s with
    homes := List.map (fun (e : Nat × HomeLine) => (e.1, match e.2.holder with | some h => if coreDie h == die then { e.2 with holder := none } else e.2 | none => e.2)) s.homes
    rdc := List.filter (fun (e : Nat × Copy) => e.1 / 2 ^ 52 != die + 1) s.rdc
    held := List.filter (fun (e : Nat × Bool) => e.2 || quadrant (e.1 * 64) != die) s.held
    stlb := SMap.del s.stlb die
    cores := List.map (fun (e : Nat × Core) =>
      (e.1, if coreDie e.1 == die then { e.2 with l1 := [], icache := [], tlb := [], utlb := [], pair := none } else e.2)) s.cores
    lauters := List.map (fun (e : Nat × Lauter) => (e.1, if e.1 == die then { e.2 with cache := [] } else e.2)) s.lauters }
  (s.modPower fun p => { p with die := SMap.put p.die die 2, trans := SMap.del p.trans die, dieSince := SMap.put p.dieSince die s.time
                                leaseEnd := SMap.put p.leaseEnd die (max far (SMap.get 0 p.leaseEnd die)) }).islandClocks die false
    |>.noteS1 was

/-- An actor of a partition is placed on a core. -/
def State.hasActor (s : State) (c p : Nat) : Bool := s.dirs.any fun e => e.2.placed && e.2.home == c && e.2.part == p

/-- A partition is resident on a die: an actor of it is placed there. -/
def State.dieResident (s : State) (die : Nat) : Bool := s.dirs.any fun e => e.2.placed && coreDie e.2.home == die

/-- RWIN0 of a core as PARTITION create writes it (R183). -/
def rwin0 (c : Nat) : Nat := if isCellar c then 0xF000000100000000 else 0xF000000400000000

/-- The state in which a core has lost what it held for a partition: its scratchpad reads zero, and the engine and window state is as PARTITION create
left it (R43, R148, R183, log 73). -/
def State.losePart (s : State) (c p : Nat) : State :=
  let s := s.zeroRange (spadKey c p 0) (2 ^ 20)
  if s.inShare p c then s.modPart c p fun _ => { rwin := [(0, rwin0 c)] } else s

/-- First byte of the DRAM that firmware reserves for a partition: rack area, parked queue and answer areas, gang save area, page-table
pool, then the pager pool (R130, R147, R161, R201, R472, log 8). -/
def partitionArea (p : Nat) : Nat := 0x100000000 + p * 0x40000000

/-- First byte of a kettle core's 1,216 KiB in a partition's gang save area (R147, log 8). -/
def saveArea (c p : Nat) : Nat := partitionArea p + 0x1000000 + (coreDie c * 64 + coreY c * 8 + coreX c) * 0x130000

/-- The state with a partition of a core paged out to its gang save area: its scratchpad to DRAM under the partition's tag, and its engine and window
state (R46, R147, R148). -/
def State.pageOut (s : State) (c p : Nat) : State :=
  let src := spadKey c p 0
  let dst := saveArea c p
  let hit (line : Nat) : Bool := decide (dst / 64 ≤ line) && decide (line < dst / 64 + 2 ^ 14)
  let lines := ((s.mem.filter fun e => decide (src ≤ e.1) && decide (e.1 < src + 2 ^ 20)).map fun e => (e.1 - src) / 64).eraseDups
  let t := { s with
    mem := s.mem.filter fun e => !hit (e.1 / 64)
    tags := List.filter (fun (e : Nat × LineMeta) => !hit e.1) s.tags
    dirty := List.filter (fun (e : Nat × Dirty) => !hit e.1) s.dirty
    held := List.filter (fun (e : Nat × Bool) => !hit e.1) s.held }
  let t := lines.foldl (fun u l => u.physWrite p (dst + 64 * l) 64 (Memory.readN s.mem (src + 64 * l) 64) false) t
  State.losePart { t with away := SMap.put t.away (16 * c + p) (s.cpart c p) } c p

/-- The state with a partition that was paged out of a core there again (R46, R147, R148). -/
def State.pageBack (s : State) (c p : Nat) : State :=
  match SMap.find? s.away (16 * c + p) with
  | none => s
  | some x =>
    let src := saveArea c p
    let l := s.mem.filter fun e => decide (src ≤ e.1) && decide (e.1 < src + 2 ^ 20)
    let t := { s with mem := l.foldl (fun (m : Memory) (e : Nat × Byte) => Memory.writeN m (spadKey c p 0 + (e.1 - src)) 1 e.2.toNat) s.mem, away := SMap.del s.away (16 * c + p) }
    t.modPart c p fun _ => x

/-- A die loses what K2 kept: every scratchpad reads zero from now on, and no core has a shadow. The policy core has paged out the partitions with an
actor there, and pages them in again before their first instruction (R43, R46, R147, R148, R415, R417, log 73). -/
def State.enterK3 (s : State) (die : Nat) : State :=
  let s := { s with lauters := SMap.del s.lauters die }
  let s := (dieCores die).foldl (fun t c =>
    ((List.range 16).foldl (fun u p => if u.hasActor c p then u.pageOut c p else u.losePart c p) t).modCore c fun k => { k with shadow := none }) s
  s.modPower fun p => { p with die := SMap.put p.die die 3, trans := SMap.del p.trans die, dieSince := SMap.put p.dieSince die s.time }

/-- K2_IDLE_ENTRY: after KIDLE2 in K1 with no entry and no pool record (R46). -/
def execK2IdleEntry (die : Nat) (s : State) : Host.Outcome State Fault Refusal :=
  nextState (if die < 4 && s.dieState die = 1 && decide (SMap.get 0 s.power.dieSince die + s.power.kidle2 ≤ s.time) && decide (2 ≤ s.dieFloor die)
      && !s.dieTripped die && s.dieIdle die && !((dieCores die).any fun c => !(s.core c).deque.isEmpty || !(s.core c).spill.isEmpty)
      && !(s.pool.any fun r => r.die == die) && s.power.dram == 0 then s.enterK2 die
    else s)

/-- K3_ENTRY: after KIDLE3 in K2 with no partition resident (R46). -/
def execK3Entry (die : Nat) (s : State) : Host.Outcome State Fault Refusal :=
  nextState (if die < 4 && s.dieState die = 2 && SMap.get 0 s.power.trans die = 0 && s.dieFloor die = 3 && !s.dieResident die
      && decide (SMap.get 0 s.power.dieSince die + s.power.kidle3 ≤ s.time) then s.enterK3 die
    else s)

/-- DIE_WAKE: a wake source reaches a die in K2 or K3, or one that enters K2 (R47, R48). -/
def execDieWake (die : Nat) (s : State) : Host.Outcome State Fault Refusal := nextState (if die < 4 then s.beginWake die else s)

/-- The state of a die that reaches K0 from K2 or K3: partitions that were paged out are there again, the cellar cache's dirty lines of the quadrant
written back, clocks running, and ready triggers answered (R46, R57, R189). -/
def State.reachK0 (s : State) (die : Nat) : State :=
  let s := (List.filter (fun (e : Nat × CorePart) => coreDie (e.1 / 16) == die) s.away).foldl (fun (t : State) (e : Nat × CorePart) => t.pageBack (e.1 / 16) (e.1 % 16)) s
  let s := s.writeBackAll fun l d => !(d.cellar && quadrant (l * 64) == die)
  let s := s.modPower fun p => { p with die := SMap.put p.die die 0, trans := SMap.del p.trans die, dieSince := SMap.put p.dieSince die s.time }
  (s.islandClocks die true).answerTriggers

/-- DIE_READY: a woken die reaches K0, once the DRAM accepts accesses and no critical trip holds the die (R46, R47, R53, R57). -/
def execDieReady (die : Nat) (s : State) : Host.Outcome State Fault Refusal :=
  nextState (if SMap.get 0 s.power.trans die = 3 && s.power.dram == 0 && !s.dieTripped die then s.reachK0 die else s)

/-! ### Cellar, DRAM and application cores (R49 to R51) -/

/-- A context waits in a WAITW: its next slot is one whose watermark holds it (R343). -/
def State.inWaitw (s : State) (c k : Nat) : Bool :=
  match s.peekLine c k (s.ctx c k).pc.toNat with
  | .line v =>
    match decode (slotBits v (slotIdx (s.ctx c k).pc.toNat)) with
    | .ok (.waitw _ _ b ch) => let m := s.markOf c ch.toNat; m.act && decide (m.wm ≤ s.readS c k b % 2 ^ 20)
    | _ => false
  | _ => false

/-- A cellar context is free or waits in WFM, WAITD, BWAIT or WAITW (R49). -/
def State.dozing (s : State) (c k : Nat) : Bool :=
  let x := s.ctx c k
  match x.firing, x.wait with
  | none, _ => true
  | some _, some r =>
    (match r.kind with
      | .waitd _ _ _ _ => true | .bwait _ _ _ _ => true | .wfm _ _ _ _ _ _ _ => true
      | .fence _ => false | .compose _ _ _ _ => false | .rack _ => false | .reply _ _ _ _ _ => false | .line _ => false
      | .pageIn _ => false | .emulate _ => false)
  | some _, none => s.inWaitw c k

/-- The cellar could doze (R49). -/
def State.cellarIdle (s : State) : Bool :=
  (dieCores 4).all fun c => (s.core c).runList.isEmpty && (List.range 4).all fun k => s.dozing c k

/-- CELLAR_C1_ENTRY: after 10 µs of dozing, its floor allowing (R49). -/
def execCellarC1Entry (s : State) : Host.Outcome State Fault Refusal :=
  nextState (if !s.power.cellarC1 && !s.power.cellarWaking && s.cellarIdle && !s.cellarHeld && decide (s.power.cellarSince + 10000 ≤ s.time) then
      (s.modPower fun p => { p with cellarC1 := true, cellarSince := s.time }).islandClocks 4 false
    else s)

/-- CELLAR_WAKE: a message, a contract or a POWER command begins the return to C0 (R49). -/
def execCellarWake (s : State) : Host.Outcome State Fault Refusal := nextState s.beginC0

/-- CELLAR_C0_REACHED: the cellar's clocks run again (R49). -/
def execCellarC0Reached (s : State) : Host.Outcome State Fault Refusal :=
  nextState (if s.power.cellarWaking then
      (s.modPower fun p => { p with cellarWaking := false, cellarSince := s.time }).islandClocks 4 true
    else s)

/-- The DRAM may enter self-refresh, but for the time DIDLE (R50, R56). -/
def State.dramRestful (s : State) : Bool :=
  s.power.dram == 0 && !s.power.dramWant && s.allGated && s.power.appAsleep && !s.dramHeld && ([0, 1, 2, 3].all fun q => SMap.get 0 s.power.trans q == 0)

/-- SELF_REFRESH_ENTRY: after DIDLE without an access (R50). -/
def execSelfRefreshEntry (s : State) : Host.Outcome State Fault Refusal :=
  nextState (if s.dramRestful && decide (s.power.dramSince + s.power.didle ≤ s.time) then
      s.modPower fun p => { p with dram := 1, dramSince := s.time }
    else s)

/-- SELF_REFRESH_EXIT: an access or a wake brings the DRAM out of self-refresh (R50). -/
def execSelfRefreshExit (s : State) : Host.Outcome State Fault Refusal := nextState s.dramExit

/-- The value that a host agent's read within one line returns (R32). -/
def State.hostValue (s : State) (pa n : Nat) : Nat :=
  if isSram pa then Memory.readN s.mem pa n else lineBytes (s.lineData (pa / 64)).1 pa n

/-- The state after a host agent's write within one line: it is ordered by write(0) after a store of the application cores that the line's home finds,
the line keeps its PTAG, and where a home holds the line dirty its copy takes the bytes; in cellar SRAM the bytes alone (R30, R32, R226). -/
def State.hostWrite (s : State) (pa n v : Nat) : State :=
  let line := pa / 64
  let s := s.homeWrite line 0
  if isSram pa then { s.mend pa n with mem := Memory.writeN s.mem pa n v }
  else
    let data := patch (s.lineData line).1 (pa % 64) n v
    let bad := s.lineBad line && decide (n < 64)
    match SMap.find? s.dirty line with
    | some d => { s with dirty := SMap.put s.dirty line { d with data := data, poison := bad } }
    | none => { s with mem := Memory.writeN s.mem (line * 64) 64 data, tags := SMap.put s.tags line { ptag := (s.lineData line).2, poison := bad } }

/-- Lines of the application cores' shared cache of 32 MiB (R3). -/
def hostCap : Nat := 2 ^ 25 / 64

/-- The state in which the application cores' shared cache has room for a line: a full one gives up a line that a free choice names, whose store is
ordered first (R3, R226, log 77). -/
def State.hostRoom (s : State) (line : Nat) : State :=
  if (SMap.find? s.hostLines line).isSome || s.hostLines.length < hostCap then s
  else
    let (w, t) := s.takeWord
    match t.hostLines[w.toNat % t.hostLines.length]? with
    | some e => let u := t.snoop e.1; { u with hostLines := SMap.del u.hostLines e.1 }
    | none => t

/-- The state with a store of an application core in their shared cache, to be ordered at the line's home; over part of a line that is known to be
uncorrectable the rest stays so (R30, R69, R226). -/
def State.appWrite (s : State) (pa n v : Nat) : State :=
  let line := pa / 64
  let s := s.hostRoom line
  let (d, bad) := match SMap.find? s.hostLines line with
    | some h => (h.data, h.poison)
    | none => ((s.lineData line).1, s.lineBad line)
  { s with hostLines := SMap.put s.hostLines line { data := patch d (pa % 64) n v, dirty := true, poison := bad && decide (n < 64) } }

/-- The value that an application core's load returns: from their shared cache, which keeps the line, or from memory (R69, R226). -/
def State.appRead (s : State) (pa n : Nat) : Nat × State :=
  let line := pa / 64
  if isSram pa then (Memory.readN s.mem pa n, s)
  else match SMap.find? s.hostLines line with
    | some h => (lineBytes h.data pa n, s)
    | none =>
      let s := s.hostRoom line
      let d := (s.lineData line).1
      (lineBytes d pa n, { s with hostLines := SMap.put s.hostLines line { data := d, dirty := false, poison := s.lineBad line } })

/-- The state after an access of a host agent: of the application cores through their cache, or of an endpoint's host straight to memory
(R32, R35, R226). -/
def State.hostAccess (s : State) (x : HostAcc) : State :=
  let s := if x.agent = 0 && (SMap.find? s.hostLines (x.pa / 64)).isSome then s else s.readDram (x.pa / 64)
  if x.write then (if x.agent = 0 && isDram x.pa then s.appWrite x.pa x.len x.val else s.hostWrite x.pa x.len x.val)
  else
    let (v, t) := if x.agent = 0 then s.appRead x.pa x.len else (s.hostValue x.pa x.len, s)
    { t with fw := { t.fw with hostRead := v } }

/-! ### Spare rows (R94) -/

/-- Spare rows of an SRAM bank, by number: 8,192 banks of 64 KiB of the kettle scratchpads and their shadows, then 64 banks of 32 KiB of the cellar
scratchpads (R94, R176, log 74). -/
def bankSpares (bank : Nat) : Nat := if bank < 8192 then 2 else 1

/-- Spare rows of all the SRAM banks (R94). -/
def sramSpares : Nat := 8192 * 2 + 64

/-- The bank of an SRAM row: rows are numbered within their bank by 16 bits (log 74). -/
def rowBank (row : Nat) : Nat := row / 2 ^ 16

/-- A row whose number names a row of DRAM, apart from the rows of on-die SRAM (R94, log 74). -/
def dramRow (row : Nat) : Bool := decide (2 ^ 40 ≤ row)

/-- Rows marked for repair that spares replace, beside those in use: SRAM rows within their bank's spares, DRAM rows as the devices allow (R94). -/
def remapRows (dram : Bool) : List Nat → List Nat → List Nat
  | [], used => used
  | r :: l, used =>
    let room : Bool := if dramRow r then dram && decide ((used.filter dramRow).length < Config.dramSpares)
      else decide ((used.filter fun u => !dramRow u && rowBank u == rowBank r).length < bankSpares (rowBank r))
    remapRows dram l (if room && !used.contains r then used ++ [r] else used)

/-- The state with the DRAM rows that are marked repaired at an exit from self-refresh, and those out of service and reported for which no spare is
left (R94, log 74). -/
def State.repairDram (s : State) : State :=
  let marks := s.fw.rowMarks.filter dramRow
  let used := remapRows true marks s.fw.rowsUsed
  let out := marks.filter fun r => !used.contains r
  let s := { s with fw := { s.fw with rowsUsed := used, rowMarks := s.fw.rowMarks.filter (fun r => !dramRow r), rowsOut := s.fw.rowsOut ++ out } }
  out.foldl (fun (t : State) r => t.report (epAgent 9) 6 r 0) s

/-! ### The DRAM's return, and the application cores' requests (R50, R51) -/

/-- DRAM_ACCEPTS_ACCESSES: the exit completes; marked rows are repaired, accesses go on and ready triggers are answered (R32, R50, R57). -/
def execDramAcceptsAccesses (s : State) : Host.Outcome State Fault Refusal :=
  nextState (if s.power.dram = 2 then
      let t := s.fw.hostWait.foldl (fun (u : State) x => u.hostAccess x) s
      let t := { t with fw := { t.fw with hostWait := [] } }
      (((t.repairDram).modPower fun p => { p with dram := 0, dramWant := false, dramSince := s.time }).answerTriggers).noteS1 s.systemState
    else s)

/-- APP_CORE_SLEEP_REQUEST: granted in S0 and S1, their caches written back, unless a contract has APP = 1: then refused with the busy indication, and
reported (R43, R51, R471). -/
def execAppCoreSleepRequest (s : State) : Host.Outcome State Fault Refusal :=
  nextState (if s.power.dram = 1 then s
    else match s.appHeld with
      | some (p, v) => (s.modPower fun p => { p with appBusy := true }).report (epAgent 9) 5 (2 ^ 56 + p % 16 * 2 ^ 16 + v % 2 ^ 16) 0
      | none =>
        let t := s.hostLines.foldl (fun u e => u.snoop e.1) s
        { t with hostLines := [] }.modPower fun p => { p with appAsleep := true, appWaking := false, appBusy := false })

/-- APP_CORE_WAKE: the DRAM is raised first; the cores run once it accepts accesses (R51). -/
def execAppCoreWake (s : State) : Host.Outcome State Fault Refusal :=
  nextState (if !s.power.appAsleep then s
    else if s.power.dram = 0 then s.modPower fun p => { p with appAsleep := false, appWaking := false }
    else s.beginAppWake)

/-! ### Throttles (R64 to R66) -/

/-- The ARG of a thermal sample (R68). -/
def State.sampleArg (s : State) (c : Nat) : Nat :=
  let k := s.cluster c
  s.time / 1000 % 2 ^ 24 * 2 ^ 40 + c % 256 * 2 ^ 32 + k.temp % 2 ^ 16 * 2 ^ 16 + k.step % 16 * 2 ^ 12

/-- TEMP of a cluster is at least a temperature; TEMP is signed (R67). -/
def Cluster.hot (k : Cluster) (t : Int) : Bool := decide (t ≤ sval 16 k.temp)

/-- The state with a die in K1, from whatever state a critical trip finds it in; one that was gated comes back as on a wake first (R46, R64). -/
def State.tripDie (s : State) (die : Nat) : State :=
  let s := if s.dieState die = 0 || s.dieState die = 1 then s else (s.reachK0 die).dramExit
  (s.modPower fun p => { p with die := SMap.put p.die die 1, trans := SMap.del p.trans die, dieSince := SMap.put p.dieSince die s.time }).islandClocks die false

/-- CRITICAL_TRIP: a cluster at 1680 or above stops, and its die goes to K1; a maximum that counts for the die is broken and reported, whatever it wakes
for (R46, R53, R64, R171). -/
def execCriticalTrip (cluster : Nat) (s : State) : Host.Outcome State Fault Refusal :=
  let k := s.cluster cluster
  let die := cluster / 16
  nextState (if cluster < 64 && k.hot 1680 && !k.trip then
      let s := (s.putCluster cluster { k with trip := true, evCrit := true }).report (epAgent 9) 1 (s.sampleArg cluster) 0
      let waits := (s.power.triggers.any fun t => t.arrived && !t.voided && t.dies.contains die) || (s.rackQueue.any fun m => m.target == die)
        || SMap.get 0 s.power.trans die == 3
      let s := s.modPower fun p => { p with triggers := p.triggers.map fun t => if t.arrived && t.dies.contains die then { t with voided := true } else t }
      let s := if waits || s.dieFloor die = 0 then s.reportVoid 1 die else s
      s.tripDie die
    else s)

/-- The state after an uncorrectable fault of a component: the maxima that name it are void and the fault is reported; where the component does not
wake, the triggers that wait for it are answered FAILED (R53, R58, R471). -/
def State.powerFault (s : State) (component : Nat) (failed : Bool) : State :=
  let hit (t : Trigger) : Bool := t.arrived && t.wakes component
  let s := s.modPower fun p =>
    { p with faulty := if p.faulty.contains component then p.faulty else p.faulty ++ [component]
             trans := if failed && SMap.get 0 p.trans component == 3 then SMap.del p.trans component else p.trans
             triggers := p.triggers.map fun t => if hit t then { t with voided := true, failed := t.failed || failed } else t }
  (s.reportVoid 2 component).answerTriggers

/-- CRITICAL_TRIP_END: below 1600 the trip releases; a die with work leaves K1 (R64). -/
def execCriticalTripEnd (cluster : Nat) (s : State) : Host.Outcome State Fault Refusal :=
  let k := s.cluster cluster
  nextState (if k.trip && !k.hot 1600 then
      let s := s.putCluster cluster { k with trip := false }
      if s.dieIdle (cluster / 16) then s else s.leaveK1 (cluster / 16)
    else s)

/-- CURRENT_LIMIT: the clusters of a die have a current limit to the end of the interval (R64, R65). -/
def execCurrentLimit (die : Nat) (s : State) : Host.Outcome State Fault Refusal :=
  nextState (if die < 4 then (List.range 16).foldl (fun t i =>
      let c := 16 * die + i
      t.settleCluster c { t.cluster c with clim := true }) s else s)

/-- THERMAL_WATCH: TEMP as the sensors give it at a tick that is a multiple of 1 µs, with what follows from it (R64, R67). -/
def execThermalWatch (cluster temp : Nat) (s : State) : Host.Outcome State Fault Refusal :=
  nextState (if 65 < cluster || s.time % 1000 != 0 then s
    else
      let k := { s.cluster cluster with temp := temp % 2 ^ 16 }
      let s := s.settleCluster cluster { k with therm := k.hot 1600 }
      if cluster < 64 && k.hot 1680 && !k.trip then s.nextAct (.criticalTrip cluster)
      else if k.trip && !k.hot 1600 then s.nextAct (.criticalTripEnd cluster)
      else s)

/-- THERMAL_SAMPLE: at a multiple of 100 µs, sampling starts, goes on with a message, or stops (R68). -/
def execThermalSample (cluster : Nat) (s : State) : Host.Outcome State Fault Refusal :=
  let k := s.cluster cluster
  let hi := sval 16 k.hi
  let lo := sval 16 k.lo
  let l := if hi ≤ lo then hi - 1 else lo
  nextState (if 65 < cluster || s.time % 100000 != 0 then s
    else if k.sampling && !k.hot (l + 1) && k.step == 0 then s.putCluster cluster { k with sampling := false }
    else if k.sampling || k.hot hi || k.step != 0 then
      (s.putCluster cluster { k with sampling := true }).report (epAgent 9) 2 (s.sampleArg cluster) 0
    else s)

/-- The first core of a cluster, whose cycles count its issue windows. -/
def firstCore (c : Nat) : Nat := (clusterCores c).headD 0

/-- THRT_STEP: the software step, in effect from the second window after the write (R66). -/
def execThrtStep (cluster v : Nat) (s : State) : Host.Outcome State Fault Refusal :=
  let k := s.cluster cluster
  nextState (if 65 < cluster then s
    else s.putCluster cluster { k with step := v % 16, pendingSteps := k.pendingSteps ++ [((s.cycle (firstCore cluster) / 16 + 2) * 16, v % 16)] })

/-- The state with the software steps that have come into effect (R66). -/
def State.stepsDue (s : State) : State :=
  s.power.clusters.foldl (fun t e =>
    e.2.pendingSteps.foldl (fun u x =>
      if x.1 ≤ u.cycle (firstCore e.1) then u.settleCluster e.1 { u.cluster e.1 with inStep := x.2, pendingSteps := (u.cluster e.1).pendingSteps.drop 1 }
      else u) t) s

/-! ### The power-token market (R62, R63) -/

/-- Weight of a core: one more than the highest priority of a RUNNING or READY firing on it; an idle core has none (R63). -/
def State.coreWeight (s : State) (c : Nat) : Nat :=
  let a := (s.liveCtxs c).foldl (fun m e => max m (1 + s.prioOf c e.1)) 0
  let b := (s.core c).runList.foldl (fun m e => max m (1 + e.level)) a
  ((s.core c).deque ++ (s.core c).spill).foldl (fun m h => max m (1 + s.basePrio h)) b

/-- The bid of a cluster: w from its firings; L and H are firmware's predictions, two free values (R63, log 3). -/
def State.bid (s : State) (c : Nat) : Nat × Nat × Nat :=
  let w := (clusterCores c).foldl (fun n x => n + s.coreWeight x) 0
  if w = 0 then (0, 0, 0)
  else
    let l := Config.freeChoice (s.fresh + 2 * c) 65536 % 65536
    (w, l, l + Config.freeChoice (s.fresh + 2 * c + 1) (65536 - l) % (65536 - l))

/-- A cluster put into the order of the market: w descending, then number ascending (R63). -/
def insertBid (x : Nat × Nat × Nat × Nat) : List (Nat × Nat × Nat × Nat) → List (Nat × Nat × Nat × Nat)
  | [] => [x]
  | y :: l => if y.2.1 < x.2.1 || (y.2.1 == x.2.1 && decide (x.1 < y.1)) then x :: y :: l else y :: insertBid x l

/-- The low-rail grants: cluster, w, L, H, cap and market step; and what is left (R63). -/
def lowGrants : List (Nat × Nat × Nat × Nat) → Nat → List ((Nat × Nat × Nat × Nat) × Nat × Nat) × Nat
  | [], rem => ([], rem)
  | b :: l, rem =>
    let L := b.2.2.1
    let g := min L rem
    let m := if L = 0 then 0 else min 15 ((16 * (L - g) + L - 1) / L)
    let r := lowGrants l (rem - g)
    ((b, g, m) :: r.1, r.2)

/-- The boosts, whole or not at all: each cluster's cap, step, and the boost granted, if any (R63). -/
def boosts : List ((Nat × Nat × Nat × Nat) × Nat × Nat) → Nat → List (Nat × Nat × Nat × Option Nat)
  | [], _ => []
  | (b, g, m) :: l, rem =>
    let d := b.2.2.2 - b.2.2.1
    if m = 0 && b.2.1 != 0 && decide (d ≤ rem) then (b.1, b.2.2.2, m, some d) :: boosts l (rem - d)
    else (b.1, g, m, none) :: boosts l rem

/-- The clearing of the market at a supply (R63). -/
def clearMarket (bids : List (Nat × Nat × Nat × Nat)) (supply : Nat) : List (Nat × Nat × Nat × Option Nat) :=
  let r := lowGrants (bids.foldr insertBid []) supply
  boosts r.1 r.2

/-- The burst reservoir when full: 20 J in units of 1/8 W for 10 µs (R63). -/
def reservoirFull : Nat := 16000000

/-- MARKET_CLEAR: every 10 µs, grants, rails and steps for the next interval; where the clearing is not complete, every cluster keeps its grant
(R62, R63, R65). -/
def execMarketClear (s : State) : Host.Outcome State Fault Refusal :=
  nextState (if s.time < s.power.marketAt + 10000 then s
    else if s.power.marketLate then
      (List.range 64).foldl (fun (t : State) c => t.settleCluster c { t.cluster c with clim := false, refund := false })
        ({ s with fresh := s.fresh + 130 }.modPower fun p =>
          { p with marketAt := s.time, marketLate := false, refunds := 0, draw := Config.freeChoice (s.fresh + 128) 0
                   reservoir := min reservoirFull (p.reservoir + 3600 - Config.freeChoice (s.fresh + 129) 0) })
    else
      let bids := (List.range 64).map fun c => (c, s.bid c)
      let draw := Config.freeChoice (s.fresh + 128) 0
      let pkg := Config.freeChoice (s.fresh + 129) 0
      let watts := if s.power.reservoir = 0 then 450 else 600
      let supply := (8 * watts - draw) + s.power.refunds
      let s := { s with fresh := s.fresh + 130 }
      let s := s.modPower fun p => { p with bids := bids, draw := draw, refunds := 0, marketAt := s.time
                                            reservoir := min reservoirFull (p.reservoir + 3600 - pkg) }
      (clearMarket bids supply).foldl (fun t x =>
        let k := t.cluster x.1
        t.settleCluster x.1 { k with cap := x.2.1, mstep := x.2.2.1, grant := if x.2.2.2.isSome then 2 else 1, boost := x.2.2.2.getD 0
                                     clim := false, refund := false }) s)

end Sys2Proof.Machine
end

