-- ==== Sys2Proof/Machine/Service.lean ====
section
/-! DEFINITION. Service cores: command packets, completion records, hand-offs, and what a service core does at a barrier or in a
partition's memory (R70 to R80, R86, R90, R95). A command is a record of `cmds` that its steps name by its number. -/
namespace Sys2Proof.Machine

/-! ### Memory of a partition as a service core reaches it -/

/-- Every page of a range lies in cellar SRAM (R90). -/
def State.inSram (s : State) (p va n : Nat) : Bool :=
  (pagesOf va n).all fun a => match s.translateFor p a .read true with | .ok pa _ _ _ => isSram pa | _ => true


/-- The first address of a range that does not translate for a read, or whose line is uncorrectable (R76). -/
def State.badAddr (s : State) (p va n : Nat) : Option Nat := (linesOf va n).find? fun a => (s.partRead p a 1).isNone

/-- The state with bytes written at a virtual address by firmware acting for a partition; nothing where one does not translate. -/
def State.svcWrite (s : State) (p : Nat) : Nat → List Byte → Option State
  | _, [] => some s
  | va, b :: l =>
    match s.virtWrite p va 1 b.toNat with
    | some t => State.svcWrite t p (va + 1) l
    | none => none

/-- The first address of a range that does not translate for a write. -/
def State.badWrite (s : State) (p va n : Nat) : Option Nat :=
  (pagesOf va n).find? fun a => match s.translateFor p a .write true with | .ok _ _ _ _ => decide (0xFD ≤ a / 2 ^ 48) | _ => true

/-! ### Commands and completion records (R73, R77) -/

/-- Entries of a queue's rings (R70). -/
def Queue.entries (q : Queue) : Nat := 2 ^ (q.log2n + 4)

/-- A queue. -/
def State.queue (s : State) (q : Nat) : Queue := SMap.get {} s.queues q
/-- The state with a queue changed. -/
def State.modQueue (s : State) (q : Nat) (f : Queue → Queue) : State := { s with queues := SMap.put s.queues q (f (s.queue q)) }
/-- The state with a command replaced. -/
def State.setCmd (s : State) (n : Nat) (x : Cmd) : State := { s with cmds := SMap.put s.cmds n x }

/-- Bits of the 8-byte word at an offset of a command block. -/
def Cmd.fld (x : Cmd) (off hi lo : Nat) : Nat := bits (ofBytes ((x.block.drop off).take 8)) hi lo

/-- The 16 bytes of a completion record as a number (R77). -/
def Cmd.record (x : Cmd) : Nat :=
  x.seq + x.status % 256 * 2 ^ 32 + x.code % 256 * 2 ^ 40 + x.result % 2 ^ 64 * 2 ^ 64

/-- A queue's completion ring holds as many records as it has entries (R73). -/
def Queue.full (q : Queue) : Bool := decide (q.entries ≤ (q.ctail + 2 ^ 32 - q.chead) % 2 ^ 32)

/-- The state with a command's record put at an address of its ring, or a KIND 1 entry where that does not translate, as a release at system scope;
then its queue's interrupt is raised (R73, R77, R219, R227). -/
def State.putRecord (s : State) (n : Nat) (x : Cmd) (va : Nat) : State :=
  let s := (s.virtWrite x.part va 16 x.record).getD (s.report (epAgent x.svc) 1 va 0)
  let s := s.sysRelease.modQueue x.q fun q => { q with ctail := (q.ctail + 1) % 2 ^ 32, irqs := q.irqs + (if x.irq then 1 else 0) }
  { s with cmds := SMap.del s.cmds n }

/-- The state with a finished command's record written: nothing where the completion ring is full or its release must wait for the DRAM (R50, R73, R77). -/
def State.writeRecord (s : State) (n : Nat) (x : Cmd) : Option State :=
  let q := s.queue x.q
  let va := q.cbase + 16 * (q.ctail % q.entries)
  if q.full then (if q.stall then none else some (s.modQueue x.q fun q => { q with stall := true }))
  else
    match s.svcWait x.svc x.part [va] with
    | some t => t
    | none => if s.power.dram != 0 && (s.sysPending || !s.inSram x.part va 16) then s.wantDram else some (s.putRecord n x va)

/-- The state with a command ended with a status and a result: its record is written now, or once it can be. -/
def State.finishCmd (s : State) (n status result : Nat) : State :=
  match SMap.find? s.cmds n with
  | none => s
  | some x =>
    let x := { x with st := 4, status := status, result := result }
    let s := s.setCmd n x
    (s.writeRecord n x).getD s

/-- The state with a part of a command handed to the core that owns it, by a message (R86). -/
def State.handOff (s : State) (n : Nat) (x : Cmd) (owner : Nat) : State :=
  (s.setCmd n { x with st := 3 }).send { id := 0, src := epAgent x.svc, dst := epAgent owner, part := x.part, ch := 3, op := 0x35, taddr := n, arg := x.code }

/-- The event of a command by its code and, for PARTITION and CASK, its operation. -/
def cmdEvent (x : Cmd) : Instr :=
  let op := x.fld 0 1 0
  match x.code with
  | 1 => .launch | 2 => .signal | 3 => .wait | 4 => .map | 5 => .unmap
  | 6 => if op = 0 then .partitionCreate else if op = 1 then .partitionChange else .partitionDestroy
  | 7 => if op = 0 then .caskRetain else if op = 1 then .caskPageOut else .caskPageIn
  | 8 => .rackCommand | 9 => .contract | 10 => .power | 11 => .load | 12 => .attest | _ => .query

/-- SERVICE_CORE_COMMAND_STEP: the owning core takes over a command that a message hands to it; or a finished command's record, which
had to wait, is written (R73, R86). -/
def execServiceCoreCommandStep (s : State) : Host.Outcome State Fault Refusal :=
  nextState (match s.focusMsg with
    | some m =>
      if m.op = 0x35 then
        if m.poison then s.discard m
        else
        let t := s.take m
        match SMap.find? t.cmds m.taddr with
        | some x => if x.st = 3 then (t.setCmd m.taddr { x with st := 1 }).nextAct (cmdEvent x) m.taddr else t
        | none => t
      else s
    | none =>
      match SMap.find? s.cmds s.focus with
      | some x => if x.st = 4 then (s.writeRecord s.focus x).getD s else s
      | none => s)

/-- The command that the focus names, where it is of a code and not finished. -/
def State.focusCmd (s : State) (code : Nat) : Option (Nat × Cmd) :=
  match SMap.find? s.cmds s.focus with
  | some x => if x.code = code && x.st < 3 then some (s.focus, x) else none
  | none => none

/-! ### Barriers (R82, R84) -/

/-- What a service core finds at a barrier address of a partition (R82). -/
inductive SvcBar where
  | at_ (b : BarLoc)
  | badBlock
  | fault
  | wait (s : Option State)

/-- The checks of a barrier address by a service core (R82, R179). -/
def State.svcBar (s : State) (svc p a : Nat) : SvcBar :=
  let region := a / 2 ^ 48
  if a % 32 ≠ 0 || region == 0xFD || 0xFF ≤ region then .badBlock
  else if region = 0xFE then
    match windowPlace 0x700 a 32 with
    | some (.core t off) => .at_ (.spad t p off)
    | _ => .badBlock
  else match s.flashPage p [a] with
    | some (va, leaf, size) => .wait (s.svcAskPage svc p va leaf size)
    | none =>
      match s.translateFor p a .atomic true with
      | .ok pa b kind _ => if kind = 1 then .at_ (.mem p pa (bit b 6 == 1)) else .fault
      | _ => .fault

/-- What an operation of a service core at a barrier answers: the generation before it, a wait, or a refusal. -/
inductive SvcDo where
  | ok (s : State) (gen : Nat)
  | wait (s : Option State)
  | refused

/-- The state with the leaf through which a service core reaches a barrier of a partition's memory marked as written (R193). -/
def State.barMark (s : State) (p a : Nat) (b : BarLoc) : State :=
  match b with
  | .spad _ _ _ => s
  | .mem _ _ _ => s.translated p a .atomic

/-- An operation of a firmware agent performed at a barrier's home; it answers the generation before it (R31, R122, R209). -/
def State.fwBarDo (s : State) (b : BarLoc) (o : BarOp) : Nat × State :=
  match b with
  | .spad _ _ _ => s.barDo b o 0
  | .mem p pa _ =>
    let r := (s.countMismatch p (pa / 64)).barDo b o s.fw.pts
    (r.1, r.2.raisePts none (r.2.barWts b))

/-- An operation of a service core at a barrier's home (R84, R122, R184). -/
def State.svcBarDo (s : State) (svc p : Nat) (b : BarLoc) (o : BarOp) : SvcDo :=
  match b with
  | .mem _ pa _ => if s.dramShut pa then .wait s.wantDram else let r := s.fwBarDo b o; .ok r.2 r.1
  | .spad t _ off =>
    if !s.dieAwake (coreDie t) then .wait (s.wakeFor (coreDie t))
    else
      let m : Msg := { id := 0, src := epAgent svc, dst := epCore t, part := p, ch := 3, op := 0x33, taddr := off }
      match s.gate t m with
      | .refuse _ => .refused
      | .park => .wait none
      | .pass => if s.granted t off 32 true m then let r := s.fwBarDo b o; .ok r.2 r.1 else .refused

/-- The state with a launch's termination barrier given up, with one KIND 1 entry (R82). -/
def State.loseTbar (s : State) (lid : Nat) (l : Launch) : State :=
  { s.report (epAgent l.svc) 1 l.tbar 0 with launches := SMap.put s.launches lid { l with tbar := 0 } }

/-- The state with an arrival or a status write of a service core at a launch's termination barrier: where the address no longer
translates or the barrier refuses, the barrier given up; nothing yet where the barrier's die must wake (R82, R127). -/
def State.svcTbar (s : State) (lid : Nat) (l : Launch) (o : BarOp) : Option State ⊕ State :=
  if l.tbar = 0 then .inr s
  else match s.svcBar l.svc l.part l.tbar with
    | .wait t => .inl t
    | .badBlock => .inr (s.loseTbar lid l)
    | .fault => .inr (s.loseTbar lid l)
    | .at_ b =>
      match (s.barMark l.part l.tbar b).svcBarDo l.svc l.part b o with
      | .ok t _ => .inr t
      | .wait (some t) => .inl (some t)
      | .wait none => (match b with
        | .spad t _ _ => if s.dieAwake (coreDie t) then .inr (s.fwBarDo b o).2 else .inl none
        | .mem _ _ _ => .inl none)
      | .refused => .inr (s.loseTbar lid l)

/-! ### Queue registers (R10, R70 to R73) -/

/-- The state with packets of a queue made available to its service core (R78). -/
def State.rouse (s : State) (q v : Nat) : State :=
  let svc := (s.queue q).svc
  { s with fw := { s.fw with wakes := SMap.put s.fw.wakes svc (SMap.get [] s.fw.wakes svc ++ [(q, v)]) } }

/-- The state in which the earlier wakes of a queue name no packet beyond a tail, and none that names nothing is left (R74, R78). -/
def State.trimWakes (s : State) (q v : Nat) : State :=
  let x := s.queue q
  let ahead (t : Nat) : Nat := (t + 2 ^ 32 - x.head) % 2 ^ 32
  let trim (w : Nat × Nat) : Nat × Nat := if w.1 = q && decide (ahead v < ahead w.2) then (q, v) else w
  { s with fw := { s.fw with wakes := List.map (fun (e : Nat × List (Nat × Nat)) => (e.1, (e.2.map trim).filter fun w => w.1 != q || w.2 != x.head)) s.fw.wakes } }

/-- WAKE_TAIL: packets made available, or the write ignored where the ring would overflow; a lower tail takes packets back (R70, R73, R74). -/
def execWakeTail (q v : Nat) (s : State) : Host.Outcome State Fault Refusal :=
  let x := s.queue q
  let v := v % 2 ^ 32
  nextState (if 64 ≤ q then s
    else if x.entries < (v + 2 ^ 32 - x.head) % 2 ^ 32 then s.modQueue q fun x => { x with ovr := true }
    else
      let s := (s.modQueue q fun x => { x with tail := v }).trimWakes q v
      if x.enable && v != x.head then s.rouse q v else s)

/-- ENABLE: a valid configuration goes into service, another sets BADCFG; clearing stops the reading of packets (R71). -/
def execEnable (q v : Nat) (s : State) : Host.Outcome State Fault Refusal :=
  let x := s.queue q
  nextState (if 64 ≤ q then s
    else if v % 2 = 0 then
      let s := s.modQueue q fun x => { x with enable := false }
      { s with fw := { s.fw with wakes := List.map (fun (e : Nat × List (Nat × Nat)) => (e.1, e.2.filter fun w => w.1 != q)) s.fw.wakes } }
    else if x.enable then s
    else if (SMap.find? s.partitions x.part).isSome && decide (x.svc ≤ 4) && decide (x.log2n ≤ 10) then
      let s := s.modQueue q fun x => { x with enable := true }
      if x.tail = x.head then s else s.rouse q x.tail
    else s.modQueue q fun x => { x with badcfg := true })

/-- CHEAD: completion-ring entries freed (R73). -/
def execChead (q v : Nat) (s : State) : Host.Outcome State Fault Refusal :=
  nextState (if 64 ≤ q then s else s.modQueue q fun x => { x with chead := v % 2 ^ 32 })

/-- The value of the 8-byte word at an offset of a queue's register block (R70). -/
def Queue.word (q : Queue) (off : Nat) : Nat :=
  if off = 0 then q.tail else if off = 8 then q.head else if off = 0x10 then q.rbase
  else if off = 0x18 then flag q.enable 16 + q.log2n * 2 ^ 8 + q.svc * 2 ^ 4 + q.part
  else if off = 0x20 then q.cbase else if off = 0x28 then q.ctail else if off = 0x30 then q.chead
  else if off = 0x38 then q.qrwin else if off = 0x40 then flag q.badcfg 2 + flag q.ovr 1 + flag q.stall 0 else 0

/-- The state with the bits under a mask written to a word of a queue's register block; the fields with a row of their own are left to
that row's operation, next on the agenda (R10, R70, R71). -/
def State.queuePut (s : State) (q off m v : Nat) : State :=
  let x := s.queue q
  let old := x.word off
  let new := (old - (old &&& m)) ||| (v &&& m)
  let ones := v &&& m
  if off = 0 then (if m % 2 ^ 32 = 0 then s else s.nextAct (.wakeTail q (new % 2 ^ 32)))
  else if off = 0x10 then (if x.enable then s else s.modQueue q fun x => { x with rbase := new % 2 ^ 56 / 64 * 64 })
  else if off = 0x18 then
    let s := if x.enable then s else s.modQueue q fun x => { x with log2n := bits new 11 8, svc := bits new 6 4, part := bits new 3 0 }
    if bits m 23 16 = 0 then s else s.nextAct (.enable q (bit new 16))
  else if off = 0x20 then (if x.enable then s else s.modQueue q fun x => { x with cbase := new % 2 ^ 56 })
  else if off = 0x30 then (if m % 2 ^ 32 = 0 then s else s.nextAct (.chead q (new % 2 ^ 32)))
  else if off = 0x38 then (if x.enable then s else s.modQueue q fun x => { x with qrwin := new % 2 ^ 40 / 2 ^ 18 * 2 ^ 18 })
  else if off = 0x40 then s.modQueue q fun x =>
    { x with badcfg := x.badcfg && bit ones 2 == 0, ovr := x.ovr && bit ones 1 == 0, stall := x.stall && bit ones 0 == 0 }
  else s

/-- First byte of the queue register blocks (R70). -/
def queueBase : Nat := 0x20000000000

/-- A port of the package is an endpoint, whose host reaches the device through its BARs (R34, R35). -/
def State.endpoint (s : State) : Bool := (s.link 8).mode == 1 || (s.link 9).mode == 1

/-- The offset in the queue register blocks that an address names: at their physical address, or as an offset in BAR0 in endpoint mode (R35, R70). -/
def State.queueOff (s : State) (addr : Nat) : Option Nat :=
  if queueBase ≤ addr && addr < queueBase + 0x10000 then some (addr - queueBase)
  else if s.endpoint && addr < 0x10000 then some addr
  else none

/-- REGISTER_WRITE: a store of up to 8 bytes within an 8-byte word of a queue's register block or of a control-window block (R8, R10, R35, R70). -/
def execRegisterWrite (addr size v : Nat) (s : State) : Host.Outcome State Fault Refusal :=
  let n := min size (8 - addr % 8)
  let sh := 8 * (addr % 8)
  nextState (if addr / 2 ^ 48 = 0xFF then s.ctlWrite addr n v
    else match s.queueOff addr with
    | none => s
    | some o =>
      s.queuePut (o / 0x400) (o % 0x400 / 8 * 8) ((2 ^ (8 * n) - 1) <<< sh) ((v % 2 ^ (8 * n)) <<< sh))

/-! ### Packets (R74 to R78) -/

/-- The least block of a command in 64-byte units (R81). -/
def minBlock (code : Nat) : Nat := if code = 1 then 2 else 1

/-- The bits of each 8-byte word that the fields of a command block take; every other bit of the block is reserved (R81 to R83). -/
def blockFields (code : Nat) : List Nat :=
  let a := 2 ^ 56 - 1
  let w := 2 ^ 64 - 1
  let h := 2 ^ 32 - 1
  match code with
  | 1 => [a, 0x1FF, a, 0x1FF, a, h, a, w, w, a, h]
  | 2 => [a, h]
  | 3 => [a, w]
  | 4 => [a, 2 ^ 52 - 1, 2 ^ 48 - 1, 0xFFF]
  | 5 => [a, 2 ^ 48 - 1]
  | 6 => [0xF03, 2 ^ 52 - 1, w, w, w, w, 0xFFFFFFFF000000FF]
  | 7 => [3, a]
  | 8 => [w, 7]
  | 9 => [0xFFFF]
  | 10 => [0xFFFFFF]
  | 11 => [a, w]
  | 12 => [w, w, w, w, a, w]
  | _ => [0xFF, a, w]

/-- Every reserved bit of a block is zero. -/
def reservedZero : List Nat → List Byte → Bool
  | [], l => l.all fun b => b == 0
  | m :: ms, l => (ofBytes (l.take 8) &&& (2 ^ 64 - 1 - m)) == 0 && reservedZero ms (l.drop 8)

/-- The chain of indirection blocks followed to a command block: its address and length in 64-byte units, a status with a result, or a
wait (R76). -/
inductive Chain where
  | block (va len : Nat)
  | ends (status result : Nat)
  | wait (s : Option State)

/-- The chaining engine (R76). -/
def State.chain (s : State) (svc p : Nat) : Nat → Nat → Nat → Chain
  | 0, va, len => if va % 64 ≠ 0 then .ends 2 0 else .block va len
  | d + 1, va, len =>
    if va % 64 ≠ 0 || len != 1 then .ends 2 0
    else match s.svcWait svc p [va] with
      | some t => .wait t
      | none =>
        match s.partRead p va 64 with
        | none => .ends 3 va
        | some v =>
          if bits v 63 56 ≠ 0 || bits v 127 78 ≠ 0 || v / 2 ^ 128 ≠ 0 || bits v 77 64 == 0 then .ends 2 0
          else match d with
            | 0 => if bits v 55 0 % 64 ≠ 0 then .ends 2 0 else .block (bits v 55 0) (bits v 77 64)
            | e + 1 => State.chain s svc p (e + 1) (bits v 55 0) 1

/-- Addresses of the indirection blocks that the chaining engine reads (R76). -/
def State.chainReads (s : State) (p : Nat) : Nat → Nat → List Nat
  | 0, _ => []
  | d + 1, va => va :: (match s.partRead p va 64 with | some v => State.chainReads s p d (bits v 55 0) | none => [])

/-- A command is served in a life-cycle state (R95). -/
def served (lc code part : Nat) (block : List Byte) : Bool :=
  if lc = 0 then code == 13
  else if lc = 3 then code == 13 || code == 11 || (code == 1 && part == 0)
  else if lc = 4 then code == 13 && (block.headD 0) == 0
  else true

/-- A queue can be read: always in full service; before that only where its rings, and the blocks of its next packet, lie in cellar SRAM (R90). -/
def State.queueUp (s : State) (q : Nat) : Bool :=
  let x := s.queue q
  let p := x.part
  decide (7 ≤ s.fw.step) || (s.inSram p x.rbase (16 * x.entries) && s.inSram p x.cbase (16 * x.entries) &&
    (match s.partRead p (x.rbase + 16 * (x.head % x.entries)) 16 with
      | none => true
      | some pk =>
        match s.chain x.svc p (bits pk 17 16) (bits pk 119 64) (bits pk 31 18) with
        | .block a len => s.inSram p a (64 * len)
        | .ends _ _ => true
        | .wait _ => false))

/-- The next entry of a service core's wakes that still has packets to read, of a queue that can be read (R78, R90). -/
def State.wakeHead (s : State) (svc : Nat) : Option (Nat × Nat) :=
  (SMap.get [] s.fw.wakes svc).find? fun w => (s.queue w.1).head != w.2 && s.queueUp w.1

/-- The state with the wakes of a service core that have been served dropped. -/
def State.dropWakes (s : State) (svc : Nat) : State :=
  { s with fw := { s.fw with wakes := SMap.put s.fw.wakes svc ((SMap.get [] s.fw.wakes svc).filter fun w => (s.queue w.1).head != w.2) } }

/-- The state with the next packet of a queue read and checked: its command begins, or ends at once; nothing where it must wait
(R73 to R78, R81, R90, R95). Which status a packet with several faults gets is the model's choice: the packet's own, then the chain and the block's
length and readability, then the life cycle, then the partition's rights, then the block's reserved bits (log 84). -/
def State.readPacket (s : State) (q : Nat) : Option State :=
  let x := s.queue q
  let p := x.part
  let va := x.rbase + 16 * (x.head % x.entries)
  if s.fw.step < 4 || !x.enable || (s.wakeHead x.svc).map Prod.fst != some q then none
  else if s.cmds.any fun e => (e.2.svc == x.svc && (e.2.st < 2 || e.2.st == 3)) || (e.2.q == q && e.2.st == 4) then none
  else if x.full then (if x.stall then none else some (s.modQueue q fun x => { x with stall := true }))
  else match s.svcWait x.svc p [va] with
    | some t => t
    | none =>
        let n := s.fw.nextCmd
        let v := s.partRead p va 16
        let pk := v.getD 0
        let code := bits pk 7 0
        let base : Cmd := { q := q, svc := x.svc, part := p, seq := bits pk 63 32, code := code, irq := bit pk 9 == 1, ser := bit pk 8 == 1, block := [] }
        let links := if bits pk 17 16 = 0 then [] else s.chainReads p (bits pk 17 16) (bits pk 119 64)
        let took (blocks : List Nat) (c : Cmd) : State :=
          let t := (s.readsMarked p (va :: blocks)).modQueue q fun x => { x with head := (x.head + 1) % 2 ^ 32 }
          let t := t.dropWakes x.svc
          { t with cmds := SMap.put t.cmds n c, fw := { t.fw with nextCmd := n + 1 } }
        let ends (blocks : List Nat) (status result : Nat) : Option State := some ((took blocks base).finishCmd n status result)
        if v.isNone then ends [] 3 va
        else if bits pk 15 10 ≠ 0 || bits pk 127 124 ≠ 0 || code = 0 || 13 < code || bits pk 31 18 = 0 || bits pk 123 120 ≠ p then ends [] 1 0
        else if base.ser && s.cmds.any fun e => e.2.q == q then none
        else match s.chain x.svc p (bits pk 17 16) (bits pk 119 64) (bits pk 31 18) with
          | .wait t => t
          | .ends status result => ends links status result
          | .block a len =>
            if len < minBlock code then ends links 2 0
            else match s.svcWait x.svc p (pagesOf a (64 * len)) with
              | some t => t
              | none =>
                match s.badAddr p a (64 * len) with
                  | some f => ends links 3 f
                  | none =>
                    let block := (s.virtBytes p a (64 * len)).getD []
                    if !served s.fw.lifecycle code p block then ends links 0x0D 0
                    else if (code = 6 || code = 10) && p != 0 then ends links 4 0
                    else if !reservedZero (blockFields code) block || ((code = 6 || code = 7) && (block.headD 0).toNat % 4 = 3) then ends links 2 0
                    else
                      let c := { base with block := block.take 128 }
                      some (((took links c).readsMarked p (linesOf a (64 * len))).nextAct (cmdEvent c) n)

/-- PACKET_READ: the service core of a queue reads its next packet (R75). -/
def execPacketRead (q : Nat) (s : State) : Host.Outcome State Fault Refusal := nextState ((s.readPacket q).getD s)

/-! ### SIGNAL, WAIT and CONTRACT (R55, R84) -/

/-- SIGNAL's next step (R84). -/
def State.signalRun (s : State) (n : Nat) (x : Cmd) : Option State :=
  let a := x.fld 0 55 0
  if x.fld 8 31 0 = 0 then some (s.finishCmd n 2 0)
  else match s.svcBar x.svc x.part a with
    | .badBlock => some (s.finishCmd n 2 0)
    | .fault => some (s.finishCmd n 3 a)
    | .wait t => t
    | .at_ b =>
      match (s.barMark x.part a b).svcBarDo x.svc x.part b (.arrive (x.fld 8 31 0)) with
      | .ok t _ => some (t.finishCmd n 0 (bGen (t.barRead b)))
      | .wait t => t
      | .refused => some (s.finishCmd n 3 a)

/-- SIGNAL: its arrivals performed as one operation (R84). -/
def execSignal (s : State) : Host.Outcome State Fault Refusal :=
  nextState (match s.focusCmd 2 with | some (n, x) => (s.signalRun n x).getD s | none => s)

/-- A generation has reached a target, compared as a signed 32-bit difference (R84). -/
def genReached (gen target : Nat) : Bool := decide (0 ≤ sval 32 (gen + 2 ^ 32 - target % 2 ^ 32))

/-- WAIT's result word (R81). -/
def State.waitWord (s : State) (b : BarLoc) : Nat := bGen (s.barRead b) + bStatus (s.barRead b) % 2 ^ 32 * 2 ^ 32

/-- The state after a service core looked at a barrier of a partition (R31, R193, R209). -/
def State.barLook (s : State) (p a : Nat) (b : BarLoc) : State :=
  match b with
  | .spad _ _ _ => s
  | .mem _ pa _ => (s.translated p a .atomic).homeLook none p (pa / 64)

/-- WAIT's next step: it ends, or is accepted and waits (R84). -/
def State.waitRun (s : State) (n : Nat) (x : Cmd) : Option State :=
  let a := x.fld 0 55 0
  match s.svcBar x.svc x.part a with
  | .badBlock => some (s.finishCmd n 2 0)
  | .fault => some (s.finishCmd n 3 a)
  | .wait t => t
  | .at_ b =>
    if (match b with | .mem _ pa _ => s.dramShut pa | .spad _ _ _ => false) then s.wantDram
    else if genReached (bGen (s.barRead b)) (x.fld 8 31 0) then some ((s.barLook x.part a b).finishCmd n 0 (s.waitWord b))
    else if x.st < 2 then
      some ((s.barLook x.part a b).setCmd n { x with st := 2, limit := if x.fld 8 63 32 = 0 then 0 else s.time + x.fld 8 63 32 * 1000 })
    else none

/-- WAIT: completes at its generation (R84). -/
def execWait (s : State) : Host.Outcome State Fault Refusal :=
  nextState (match s.focusCmd 3 with | some (n, x) => (s.waitRun n x).getD s | none => s)

/-- WAIT_TIMEOUT (R84). -/
def execWaitTimeout (s : State) : Host.Outcome State Fault Refusal :=
  nextState (match s.focusCmd 3 with
    | some (n, x) =>
      if x.st = 2 && x.limit != 0 && decide (x.limit ≤ s.time) then
        s.finishCmd n 0x0C (match s.svcBar x.svc x.part (x.fld 0 55 0) with | .at_ b => s.waitWord b | _ => 0)
      else s
    | none => s)

/-- CONTRACT: the queue's contract replaced; the previous one is the result (R55, R84). -/
def execContract (s : State) : Host.Outcome State Fault Refusal :=
  nextState (match s.focusCmd 9 with
    | some (n, x) =>
      let v := x.fld 0 15 0
      if contractBad v then s.finishCmd n 2 0
      else
        let old := (s.queue x.q).contract
        let s := s.modQueue x.q fun q => { q with contract := v }
        let s := s.modPower fun p => { p with contracts := p.contracts.filter (fun y => y.1 != 1 || y.2.1 != x.q) ++ [(1, x.q, x.part, v)] }
        (s.nextAct .contractInForce).finishCmd n 0 old
    | none => s)

end Sys2Proof.Machine
end

