-- ==== Sys2Proof/Machine/Pager.lean ====
section
/-! DEFINITION. The flash pager and the CASK command (R200 to R203). A page is known by the address of its leaf entry, which is the focus of
the flash events. A page-in that goes on when memory changes waits in `pageIns`; pages on their way to flash are in `paged` (evictions)
and in `pageOuts` (CASK page-outs). -/
namespace Sys2Proof.Machine

/-- Bytes of a page of a page size code (R83). -/
def codeSize (n : Nat) : Nat :=
  if n = 0 then 2 ^ 12 else if n = 1 then 2 ^ 16 else if n = 2 then 2 ^ 21 else if n = 3 then 2 ^ 25 else if n = 4 then 2 ^ 30 else 2 ^ 34

/-- Bytes of a partition's pager pool (R201). -/
def pagerBytes : Nat := 0x10000000

/-- A partition's entry. -/
def State.partition (s : State) (p : Nat) : Option Partition := SMap.find? s.partitions p
/-- The state with a partition's entry changed. -/
def State.modPartition (s : State) (p : Nat) (f : Partition → Partition) : State :=
  match SMap.find? s.partitions p with
  | some x => { s with partitions := SMap.put s.partitions p (f x) }
  | none => s

/-- Base of a partition's pager pool, once it is reserved (R201). -/
def State.pagerBase (s : State) (p : Nat) : Option Nat :=
  match s.partition p with
  | some x => if x.pager = 0 then none else some x.pager
  | none => none

/-- The first aligned place of a size in a partition's pager pool that no installed page takes (R201). -/
def State.pagerFrame (s : State) (p size : Nat) : Option Nat :=
  match s.pagerBase p with
  | none => none
  | some base =>
    ((List.range (pagerBytes / size)).map fun i => (base + size - 1) / size * size + i * size).find? fun f =>
      decide (f + size ≤ base + pagerBytes) && !(s.paged.any fun x => decide (x.frame < f + size) && decide (f < x.frame + x.size))

/-- An entry of a page table rewritten to FLASH with a block, its rights kept (R194, R201, R203). -/
def flashEntry (e blk : Nat) : Nat := 2 + bits e 8 2 * 4 + blk % 2 ^ 40 * 2 ^ 12
/-- An entry of a page table rewritten to memory with a frame, its bits [7:2] kept and A set (R200). -/
def installEntry (e frame : Nat) : Nat := 1 + bits e 7 2 * 4 + 2 ^ 8 + 2 ^ 9 + frame / 4096 * 2 ^ 12

/-- The state with a page copied from flash to a frame under a partition's tag (R200). -/
def State.flashToFrame (s : State) (p blk frame size : Nat) : State :=
  s.linesWrite p (frame / 64) (size / 64) (Memory.readN s.mem (flashKey blk 0) size)
/-- The state with a page copied from a frame to flash (R201, R203). -/
def State.frameToFlash (s : State) (p frame blk size : Nat) : State :=
  { s.linesLook p (frame / 64) (size / 64) with mem := Memory.writeN s.mem (flashKey blk 0) size (s.linesRead p (frame / 64) (size / 64)) }
/-- The state with a frame zero-filled. -/
def State.zeroFrame (s : State) (p frame size : Nat) : State := s.linesWrite p (frame / 64) (size / 64) 0
/-- The state with every translation of a partition that meets a range dropped. -/
def State.dropRange (s : State) (p va n : Nat) : State := s.tlbDrop p fun e => decide (e.va < va + n) && decide (va < e.va + e.size)

/-- The write to flash of a leaf's page is under way (R201, R203). -/
def State.writingPage (s : State) (leaf : Nat) : Bool :=
  (s.paged.any fun x => (leafGroup x.leaf x.size).contains leaf && x.out) || s.pageOuts.any fun x => x.1 == leaf

/-- The state with the oldest page that may be evicted from a pool evicted: its write to flash begins, or it is gone at once where nothing
was written to it; of a CONT leaf's page the sixteenths that were written go to flash (R195, R201). Nothing where the pool holds no such
page. -/
def State.evict (s : State) (p : Nat) : Option State :=
  match s.paged.find? fun x => x.part == p && !x.out && !(s.pins.any fun y => y.1 == p && x.blks.any fun b => b.1 == y.2) with
  | none => none
  | some x =>
    let wrote := x.blks.filter fun b => bit (s.physRead p b.1 8) 10 == 1
    let s := (x.blks.foldl (fun t b => t.physWrite p b.1 8 (flashEntry (t.physRead p b.1 8) b.2.1) true) s).dropRange p x.va x.size
    if wrote.isEmpty then some { s.zeroFrame p x.frame x.size with paged := s.paged.filter fun y => y.leaf != x.leaf }
    else some { s with paged := s.paged.map fun y => if y.leaf == x.leaf then { y with out := true, blks := wrote } else y }

/-- A frame of the pool, with pages evicted until there is one; nothing with the state in which an eviction's write, or no page to evict,
has to be waited for (R201). -/
def State.takeFrame (s : State) (p size : Nat) : Nat → Option Nat × State
  | 0 => (none, s)
  | n + 1 =>
    match s.pagerFrame p size with
    | some f => (some f, s)
    | none =>
      if s.paged.any fun x => x.part == p && x.out then (none, s)
      else match s.evict p with
        | some t => State.takeFrame t p size n
        | none => (none, s)

/-- The state with the held accesses of a page-in told of its end (R200, R202). -/
def State.pageReplies (s : State) (x : PageIn) (failed : Nat) : State :=
  x.askers.foldl (fun t a =>
    t.send { id := 0, src := epAgent 8, dst := a.1, part := x.part, ch := 3, op := 0x37, taddr := a.2.2 % 2 ^ 63, arg := failed
             size := a.2.2 / 2 ^ 63, ctx := a.2.1 }) s

/-- The event of a CASK command. -/
def State.caskNext (s : State) (cmd : Option Nat) : State :=
  match cmd with
  | none => s
  | some n => match SMap.find? s.cmds n with | some x => s.nextAct (cmdEvent x) n | none => s

/-- The entries of the leaf of a page-in that are still FLASH: each with its first flash block and its place in the page (R195, R200). -/
def State.flashLeaves (s : State) (x : PageIn) : List (Nat × Nat × Nat) :=
  let g := leafGroup x.leaf x.size
  (g.zipIdx.map fun e => (e.1, bits (s.physRead x.part e.1 8) 51 12, e.2 * (x.size / g.length))).filter fun e => bits (s.physRead x.part e.1 8) 1 0 == 2

/-- The state with a page-in that has been read from flash installed; of a CONT leaf each entry of the group that is still FLASH gets its own
sixteenth of the frame (R195). Nothing to do where its entry is no longer FLASH, and a wait where the
pool has no frame (R200, R201). -/
def State.installPage (s : State) (x : PageIn) : State :=
  let drop (t : State) : State := { t with pageIns := t.pageIns.filter fun y => y.leaf != x.leaf }
  if (s.flashLeaves x).isEmpty then ((drop s).pageReplies x 0).caskNext x.cmd
  else
    let (f, s) := if x.cmd.isSome then (some x.frame, s) else s.takeFrame x.part x.size (s.paged.length + 1)
    match f with
    | none => { s with pageIns := s.pageIns.map fun y => if y.leaf == x.leaf then { y with st := 2 } else y }
    | some f =>
      let l := s.flashLeaves x
      let n := x.size / (leafGroup x.leaf x.size).length
      let s := l.foldl (fun t b => (t.flashToFrame x.part b.2.1 (f + b.2.2) n).physWrite x.part b.1 8 (installEntry (t.physRead x.part b.1 8) (f + b.2.2)) true) s
      let s := if x.cmd.isSome then { s with pins := if s.pins.contains (x.part, x.leaf) then s.pins else s.pins ++ [(x.part, x.leaf)] }
        else { s with paged := s.paged ++ [{ leaf := x.leaf, part := x.part, va := x.va / x.size * x.size, size := x.size, frame := f, blks := l }] }
      ((drop s).pageReplies x 0).caskNext x.cmd

/-- The state with a page-in request taken by the pager: answered where the page is there already, merged with a read of the same leaf, or
read from flash; nothing where the DRAM or the pool is not there yet (R200, R201). -/
def State.pageRequest (s : State) (m : Msg) : Option State :=
  let ea := bits m.arg 51 0
  let size := codeSize (bits m.arg 54 52)
  let leaf := leafHead ea size
  if (s.pagerBase m.part).isNone then none
  else if s.dramShut ea then s.wantDram
  else
    let s := (s.take m).homeLook none m.part (ea / 64)
    let ask := (m.raddr, m.ctx, m.taddr % 2 ^ 63 + bit m.arg 55 * 2 ^ 63)
    let e := s.physRead m.part ea 8
    let x : PageIn := { leaf := leaf, va := m.taddr, part := m.part, size := size, write := bit m.arg 55 == 1, askers := [ask]
                        st := if (leafGroup leaf size).any s.writingPage then 0 else 1 }
    if bits e 1 0 ≠ 2 then some (s.pageReplies x 0)
    else if s.pageIns.any fun y => y.leaf == leaf then
      some { s with pageIns := s.pageIns.map fun y => if y.leaf == leaf then { y with askers := y.askers ++ [ask] } else y }
    else some { s with pageIns := s.pageIns ++ [x] }

/-- PAGE_IN_REQUEST: the flash pager takes a request (R200). -/
def execPageInRequest (s : State) : Host.Outcome State Fault Refusal :=
  nextState (match s.focusMsg with
    | some m => if s.msgEvent m = .pageInRequest then (s.pageRequest m).getD s else s
    | none => s)

/-- The state after the failed read of a page: the entry stays FLASH, the held accesses are told, and one entry goes to the mailbox (R202, R203). -/
def State.readFailed (s : State) (x : PageIn) : State :=
  let s := { s with pageIns := s.pageIns.filter fun y => y.leaf != x.leaf }
  let s := (s.pageReplies x 1).report (epAgent 8) 1 x.va 0
  match x.cmd with
  | some n => s.finishCmd n 3 x.va
  | none => s

/-- FLASH_READ_DONE: the read of the leaf in focus ends (R200, R202). -/
def execFlashReadDone (ok : Bool) (s : State) : Host.Outcome State Fault Refusal :=
  nextState (match s.pageIns.find? fun x => x.leaf == s.focus && x.st == 1 with
    | some x =>
      if s.power.dram != 0 then s.wantDram.getD s else if ok then s.installPage x else s.readFailed x
    | none => s)

/-- The state in which what waited for a flash write goes on: page-ins of the page, and those that wait for a frame (R200, R201). -/
def State.afterWrite (s : State) (leaf p : Nat) : State :=
  let s := { s with pageIns := List.map (fun (x : PageIn) => if x.covers leaf && x.st == 0 then { x with st := 1 } else x) s.pageIns }
  (s.pageIns.filter fun (x : PageIn) => x.part == p && x.st == 2).foldl (fun t x => t.installPage x) s

/-- The state after the write of a page-out of a CASK command: flash holds the page and its frame is zero-filled, or the command ends with
FAULT at the page whose transfer failed, its frame left as it is (R203, log 51). -/
def State.pageOutDone (s : State) (ok : Bool) (leaf n frame : Nat) : State :=
  let s := { s with pageOuts := s.pageOuts.filter fun x => x.1 != leaf }
  match SMap.find? s.cmds n with
  | none => s
  | some x =>
    if !ok then (s.finishCmd n 3 (bits (ofBytes ((s.virtBytes x.part (x.fld 8 55 0) 8).getD [])) 55 0 + x.step * 4096)).afterWrite leaf x.part
    else
      let blk := bits (s.physRead x.part leaf 8) 51 12
      let s := (s.frameToFlash x.part frame blk 4096).zeroFrame x.part frame 4096
      let s := { s with pins := s.pins.filter fun y => y != (x.part, leaf), paged := List.filterMap (fun (y : Paged) => y.without leaf) s.paged }
      ((s.setCmd n { x with bytes := x.bytes + 4096, step := x.step + 1 }).afterWrite leaf x.part).caskNext (some n)

/-- The state once the failure of a write to flash has been told. -/
def State.flashTold (s : State) : State := { s with fw := { s.fw with flashFails := false } }

/-- FLASH_WRITE_DONE: the write of the page whose leaf is in focus ends; its frame is zero-filled and free (R201, R203). An eviction's write
that fails is tried again (log 51). -/
def execFlashWriteDone (s : State) : Host.Outcome State Fault Refusal :=
  let ok := !s.fw.flashFails
  nextState (if s.power.dram != 0 then s.wantDram.getD s
    else match s.paged.find? fun x => x.leaf == s.focus && x.out with
    | some x =>
      if !ok then s.flashTold
      else
        let n := x.size / (leafGroup x.leaf x.size).length
        let t := (x.blks.foldl (fun t b => t.frameToFlash x.part (x.frame + b.2.2) b.2.1 n) s).zeroFrame x.part x.frame x.size
        State.afterWrite { t with paged := t.paged.filter fun y => y.leaf != x.leaf } x.leaf x.part
    | none =>
      match s.pageOuts.find? fun x => x.1 == s.focus with
      | none => s
      | some (leaf, n, frame) => s.flashTold.pageOutDone ok leaf n frame)

/-! ### CASK (R203) -/

/-- The state with a page pinned (R203). -/
def State.pin (s : State) (p leaf : Nat) : State := if s.pins.contains (p, leaf) then s else { s with pins := s.pins ++ [(p, leaf)] }

/-- The state with a CASK command's progress recorded: accepted, at a page. -/
def State.caskAt (s : State) (n : Nat) (x : Cmd) (k : Nat) : State := s.setCmd n { x with st := 2, step := k }

/-- The pages of a cask from the present one on: each done at once, or begun and waited for (R203). -/
def State.caskPagesCmd (s : State) (n : Nat) (x : Cmd) (op d : Nat) : Nat → Option State
  | 0 => some (s.finishCmd n 0 (if op = 0 then 0 else x.bytes))
  | more + 1 =>
    let p := x.part
    let k := x.step
    let va := bits (kWord d 0) 55 0 + k * 4096
    let s := s.walkReads none p va
    match State.walkFrom s p va 5 0 (s.rootOf p) with
    | none => some (s.finishCmd n 3 va)
    | some (leaf, e, level) =>
      let kind := bits e 1 0
      let x' := { x with step := k + 1 }
      if level ≠ 4 then some (s.finishCmd n 3 va)
      else if op = 1 then
        if s.writingPage leaf then none
        else if kind = 1 then
          let home := bits (kWord d 2) 55 0 + 8 * (bits (kWord d 1) 31 0 + k)
          let blk := ofBytes ((s.virtBytes p home 8).getD [])
          let t := ((s.readsMarked p [home]).physWrite p leaf 8 (flashEntry e blk) true).dropRange p va 4096
          some ({ t with pageOuts := t.pageOuts ++ [(leaf, n, bits e 51 12 * 4096)] }.caskAt n x k)
        else State.caskPagesCmd s n x' op d more
      else if op = 2 && kind = 2 then
        let at_ := bits (kWord d 2) 55 0 + 8 * k
        if s.writingPage leaf || s.pageIns.any fun y => y.covers leaf then none
        else match s.partRead p at_ 8 with
          | none => some (s.finishCmd n 3 at_)
          | some f =>
            if f % 4096 ≠ 0 || !isDram f then some (s.finishCmd n 3 at_)
            else
              let y : PageIn := { leaf := leaf, va := va, part := p, size := 4096, write := false, askers := [], st := 1, frame := f, cmd := some n }
              some ({ s.readsMarked p [at_] with pageIns := s.pageIns ++ [y] }.caskAt n { x with bytes := x.bytes + 4096 } (k + 1))
      else State.caskPagesCmd (if kind = 1 then s.pin p leaf else s) n x' op d more

/-- The first error of a cask's lists, if any: a status with a result. The reserved bits of the flash home are looked at for every operation,
and a flash home that cannot be read stops only the operation that needs it (R203, log 51). -/
def State.caskLists (s : State) (p d op : Nat) : Option (Nat × Nat) :=
  let n := bits (kWord d 1) 31 0
  let home := bits (kWord d 2) 55 0 + 8 * n
  match s.badAddr p home (8 * n) with
    | some f => if op = 1 then some (3, f) else none
    | none =>
      let v := ofBytes ((s.virtBytes p home (8 * n)).getD [])
      if (List.range n).any fun k => bits v (64 * k + 63) (64 * k + 40) != 0 then some (2, 0) else none

/-- A CASK command needs no DRAM: its descriptor, its lists and its pages lie in cellar SRAM, and none is to be read into DRAM (R90, R203). -/
def State.caskSram (s : State) (x : Cmd) : Bool :=
  let da := x.fld 8 55 0
  s.inSram x.part da 64 &&
  match s.partRead x.part da 64 with
  | none => true
  | some d =>
    let lists := bits (kWord d 2) 55 0
    let num := bits (kWord d 1) 31 0
    let va := bits (kWord d 0) 55 0
    caskBad d || ((lists = 0 || s.inSram x.part lists (16 * num)) && s.inSram x.part va (4096 * num)
      && (x.fld 0 1 0 != 2 || (s.flashPage x.part (pagesOf va (4096 * num))).isNone))

/-- CASK's next step: the hand-off to the core that owns the flash queues, the checks, then page by page (R86, R203). -/
def State.caskRun (s : State) (n : Nat) (x : Cmd) : Option State :=
  let op := x.fld 0 1 0
  let da := x.fld 8 55 0
  if s.fw.step < 5 && !s.caskSram x then none
  else if x.st = 0 then some (s.handOff n x 5)
  else if s.pageIns.any fun y => y.cmd == some n then none
  else if da % 64 ≠ 0 then some (s.finishCmd n 2 0)
  else match s.svcWait x.svc x.part [da] with
    | some t => t
    | none =>
      match s.partRead x.part da 64 with
      | none => some (s.finishCmd n 3 da)
      | some d =>
        let lists := bits (kWord d 2) 55 0
        let num := bits (kWord d 1) 31 0
        if caskBad d then some (s.finishCmd n 2 0)
        else if bits (kWord d 4) 3 0 ≠ x.part then some (s.finishCmd n 4 0)
        else match s.svcWait x.svc x.part (if lists = 0 then [] else pagesOf lists (16 * num)) with
          | some t => t
          | none =>
            if s.power.dram ≠ 0 && !s.caskSram x then s.wantDram
            else
              let t := if x.st = 1 then s.readsMarked x.part (da :: (if lists = 0 then [] else linesOf lists (16 * num))) else s
              match (if x.st = 1 then s.caskLists x.part d op else none) with
              | some (st, r) => some (t.finishCmd n st r)
              | none => t.caskPagesCmd n x op d (num - x.step)

/-- The CASK command in focus runs, where it is of an operation. -/
def State.caskOp (s : State) (op : Nat) : State :=
  match s.focusCmd 7 with
  | some (n, x) => if x.fld 0 1 0 = op then (s.caskRun n x).getD s else s
  | none => s

/-- CASK_RETAIN: the pages of a cask pinned (R203). -/
def execCaskRetain (s : State) : Host.Outcome State Fault Refusal := nextState (s.caskOp 0)
/-- CASK_PAGE_OUT: the pages of a cask written to their flash home (R203). -/
def execCaskPageOut (s : State) : Host.Outcome State Fault Refusal := nextState (s.caskOp 1)
/-- CASK_PAGE_IN: the pages of a cask read from flash into their frames (R203). -/
def execCaskPageIn (s : State) : Host.Outcome State Fault Refusal := nextState (s.caskOp 2)

end Sys2Proof.Machine
end

