-- ==== Sys2Proof/Machine/Launch.lean ====
section
/-! DEFINITION. LAUNCH, termination detection and the watchdogs (R79, R82, R90, R110, R119, R125 to R127, R225). -/
namespace Sys2Proof.Machine

/-! ### Cores of a share -/

/-- The cores of a partition's share. -/
def State.shareCores (s : State) (p : Nat) : List Nat := allCores.filter fun c => s.inShare p c

/-- Free contexts of the cores of a share on a die. -/
def State.dieFree (s : State) (share : List Nat) (die : Nat) : Nat :=
  (share.filter fun c => coreDie c == die).foldl (fun n c => n + (s.freeCtxs c).length) 0

/-- The die with the most free contexts among some dies in ascending order, the lowest on a tie (R110). -/
def State.bestDie (s : State) (share dies : List Nat) : Option Nat :=
  (dies.foldl (fun (b : Option (Nat × Nat)) d =>
    let n := s.dieFree share d
    match b with
    | none => some (n, d)
    | some x => if x.1 < n then some (n, d) else b) none).map fun x => x.2

/-- The die of a root actor; nothing where the share has no core of its class (R90, R110). -/
def State.rootDie (s : State) (p svc cls : Nat) : Option Nat :=
  let share := s.shareCores p
  let sv := share.filter fun c => serves c cls
  let die := if cls = 2 && s.fw.step < 7 then some 4
    else if cls = 0 && svc = 4 then s.bestDie share [0, 1, 2, 3]
    else if cls = 1 && svc < 4 then some 4
    else some (min svc 4)
  match die with
  | none => none
  | some d => if sv.any fun c => coreDie c == d then some d else s.bestDie sv ([0, 1, 2, 3, 4].filter fun q => sv.any fun c => coreDie c == q)

/-- The core of a root actor on a die: the most free contexts, then the lowest 8y + x; nothing where none has a free context (R110). -/
def State.rootCore (s : State) (p die cls d : Nat) : Option Nat :=
  let cands := (dieCores die).filter fun c =>
    s.inShare p c && serves c cls && !(s.core c).fenced && (dGids d).all fun g => s.groupHas p g c
  (cands.foldl (fun (b : Option (Nat × Nat)) c =>
    let n := (s.freeCtxs c).length
    match b with
    | none => if n = 0 then none else some (n, c)
    | some x => if x.1 < n then some (n, c) else b) none).map fun x => x.2

/-! ### The acquire and release of a launch's start and end (R225) -/

/-- The state after a release at SYS scope and an acquire on every core of a partition's share: dirty lines written back, every L1 copy and
every RDC copy of the partition dropped, acqTime set; before DRAM is trained there is nothing to write back to (R90, R187, R225). -/
def State.launchFence (s : State) (p : Nat) : State :=
  let s := { s with
    homes := List.map (fun (e : Nat × HomeLine) => (e.1, match e.2.holder with | some h => if s.inShare p h then { e.2 with holder := none } else e.2 | none => e.2)) s.homes
    rdc := List.filter (fun (e : Nat × Copy) => e.2.part != p) s.rdc
    cores := List.map (fun (e : Nat × Core) => (e.1, if s.inShare p e.1 then { e.2 with l1 := [], acqTime := s.now } else e.2)) s.cores }
  if s.power.dram = 0 || !s.sysPending then s.sysRelease else s

/-- The release at SYS scope of a launch's start or end must wait for DRAM to leave self-refresh (R50, R225). -/
def State.fenceShut (s : State) : Bool := decide (5 ≤ s.fw.step) && s.sysPending && s.power.dram != 0

/-- A store of a partition's share is not yet ordered at its home, or not yet acknowledged by another core or package: the release at a launch's
start or end waits for it (R219, R222, R225). -/
def State.storesOpen (s : State) (p : Nat) : Bool :=
  s.cores.any fun e => (e.2.out.any fun o => o.part == p && (o.op == 0x02 || o.op == 0x23)) || e.2.late.any fun l => l.out.part == p

/-! ### LAUNCH (R82) -/

/-- The fields of a LAUNCH block are within their rules (R82). -/
def launchBad (x : Cmd) : Bool :=
  x.fld 8 3 0 != x.part || x.fld 8 5 4 == 3 || (x.fld 8 8 6 == 7 && x.part != 0) || decide (256 < x.fld 0x18 8 0)
    || (x.fld 0x38 31 0 != 0 && !(decide (x.fld 0x38 31 0 < x.fld 0x38 63 32) && decide (x.fld 0x38 63 32 < x.fld 0x40 31 0)))

/-- The groups that a LAUNCH fills, with the launch as their holder: a status with a result, or the groups (R119). -/
def State.launchGroups (s : State) (x : Cmd) (lid : Nat) : (Nat × Nat) ⊕ SMap GroupEnt :=
  let a := x.fld 0x10 55 0
  let n := x.fld 0x18 8 0
  let p := x.part
  if a = 0 then .inr s.groups
  else match s.badAddr p a (64 * n) with
    | some f => .inl (3, f)
    | none =>
      let ent (i : Nat) : Nat := (s.partRead p (a + 64 * i) 64).getD 0
      let share : Nat × Nat := match s.partition p with | some y => (y.kettle, y.cellar) | none => (0, 0)
      let bad (i : Nat) : Bool :=
        let v := ent i
        bits v 511 264 != 0 || (bits v 255 0 &&& share.1) != bits v 255 0 || (bits v 263 256 &&& share.2) != bits v 263 256
      if (List.range n).any bad then .inl (2, 0)
      else if (List.range n).any fun i => (SMap.find? s.groups (groupKey p i)).isSome then .inl (0x0A, 0)
      else
        let gs := (List.range n).foldl (fun m i => SMap.put m (groupKey p i) { kettle := bits (ent i) 255 0, cellar := bits (ent i) 263 256, lid := lid }) s.groups
        let t := { s with groups := gs }
        if allCores.any fun c => decide (4 < ((List.range 256).filter fun g => t.groupHas p g c).length) then .inl (2, 0) else .inr gs

/-- The addresses of the group table that a LAUNCH names, one for each entry (R119). -/
def groupReads (x : Cmd) : List Nat := if x.fld 0x10 55 0 = 0 then [] else linesOf (x.fld 0x10 55 0) (64 * x.fld 0x18 8 0)

/-- What a dependent launch, or the check of a barrier address, finds (R79, R82). -/
inductive BarCheck where
  | ok
  | ends (status result : Nat)
  | wait (s : Option State)

/-- The check of TBAR or PBAR before a launch (R82, R90). -/
def State.barCheck (s : State) (svc p a : Nat) : BarCheck :=
  if a = 0 then .ok
  else match s.svcBar svc p a with
    | .badBlock => .ends 2 0
    | .fault => .ends 3 a
    | .wait t => .wait t
    | .at_ b => if s.fw.step < 5 && !(match b with | .mem _ pa _ => isSram pa | .spad _ _ _ => false) then .wait none else .ok

/-- The wait of a dependent launch for its predecessor (R79). -/
def State.predecessor (s : State) (svc p a gen : Nat) : BarCheck :=
  if a = 0 then .ok
  else match s.svcBar svc p a with
    | .at_ b =>
      if (match b with | .mem _ pa _ => s.dramShut pa | .spad _ _ _ => false) then .wait s.wantDram
      else if genReached (bGen (s.barRead b)) gen then .ok else .wait none
    | _ => .ok

/-- The state after a service core looked at the barrier of a predecessor (R31, R79, R193, R209). -/
def State.predecessorSeen (s : State) (svc p a : Nat) : State :=
  if a = 0 then s else match s.svcBar svc p a with | .at_ b => s.barLook p a b | _ => s

/-- The ranges that a launch's start reads: address and bytes (R90). -/
def launchRanges (x : Cmd) (d : Nat) : List (Nat × Nat) :=
  [(x.fld 0 55 0, 64), (dPorts d, 16 * (dNin d + dNout d)), (dShapes d, if dShapes d = 0 then 0 else 64), (x.fld 0x20 55 0, x.fld 0x28 31 0)]

/-- The launch identifier that a new launch takes. -/
def State.newLid (s : State) : Nat :=
  ((List.range 65536).map fun i => (s.fw.nextLid + i) % 65536).find? (fun l => l != 0 && (SMap.find? s.launches l).isNone) |>.getD 0

/-- The state with a launch's root placed: on its way to a core, or UNPLACED in a pool; nothing where its directory is full
(R90, R103, R110). -/
def State.placeRoot (s : State) (x : Cmd) (lid d die : Nat) : Option State :=
  let p := x.part
  let cls := x.fld 8 5 4
  let early := cls == 0 && decide (s.fw.step < 6)
  let dir := if early then 4 else die
  match s.createActor p lid (x.fld 0 55 0) d dir 0 (x.fld 0x20 55 0) with
  | none => none
  | some (h, t) =>
    let t := match SMap.find? t.launches lid with
      | some l => { t with launches := SMap.put t.launches lid { l with root := h } }
      | none => t
    match (if early then none else t.rootCore p die cls d) with
    | some c => some (t.sendPlacement (epAgent x.svc) h c)
    | none => some (t.poolActor h dir 0 cls false)

/-- The start of a launch whose block and barriers have been checked (R82, R100, R110, R119, R225). -/
def State.launchStart (s : State) (n : Nat) (x : Cmd) : Option State :=
  let p := x.part
  let da := x.fld 0 55 0
  let lid := s.newLid
  let ends (status result : Nat) : Option State := some (s.finishCmd n status result)
  if s.storesOpen p then none
  else if s.fenceShut then s.wantDram
  else match s.svcWait x.svc p (pagesOf da 64 ++ (if x.fld 0x10 55 0 = 0 then [] else pagesOf (x.fld 0x10 55 0) (64 * x.fld 0x18 8 0))) with
  | some t => t
  | none =>
    match s.launchGroups x lid with
    | .inl (status, result) => ends status result
    | .inr gs =>
      match (if da % 64 = 0 then s.partRead p da 64 else none) with
      | none => ends 5 0
      | some d =>
        if s.fw.step < 5 && !((launchRanges x d).all fun r => s.inSram p r.1 r.2) then none
        else match s.svcWait x.svc p ([dEntry d] ++ pagesOf (dPorts d) (16 * (dNin d + dNout d)) ++ [dShapes d, dPitch d].filter fun a => a != 0) with
          | some t => t
          | none =>
            let l : Launch := { root := 0, part := p, svc := x.svc, cmd := n, prio := x.fld 8 8 6, tbar := x.fld 0x30 55 0, wd1 := x.fld 0x38 31 0
                                wd2 := x.fld 0x38 63 32, wd3 := x.fld 0x40 31 0, ydl := x.fld 0x40 63 32, wdFrom := s.time, waveAt := s.time
                                wdHold := if s.activeSomewhere p then none else some s.time }
            let t := { s with groups := gs, launches := SMap.put s.launches lid l }
            let early := x.fld 8 5 4 == 0 && decide (s.fw.step < 6)
            match s.rootDie p x.svc (x.fld 8 5 4) with
            | none => ends 0x0A 0
            | some die =>
              if t.descBad p d || !descFits d (die == 4 && !early) then ends 5 0
              else match (t.readsMarked p (groupReads x ++ descReads da d)).placeRoot x lid d die with
                | none => ends 0x0A 0
                | some t =>
                  let t := { t with fw := { t.fw with nextLid := (lid + 1) % 65536 } }
                  some ((t.launchFence p).setCmd n { x with st := 2 })

/-- LAUNCH's next step (R79, R82, R90). -/
def State.launchRun (s : State) (n : Nat) (x : Cmd) : Option State :=
  let p := x.part
  if x.st ≥ 2 then none
  else if launchBad x then some (s.finishCmd n 2 0)
  else match s.barCheck x.svc p (x.fld 0x30 55 0) with
    | .ends a b => some (s.finishCmd n a b)
    | .wait t => t
    | .ok =>
      match s.barCheck x.svc p (x.fld 0x48 55 0) with
      | .ends a b => some (s.finishCmd n a b)
      | .wait t => t
      | .ok =>
        match s.predecessor x.svc p (x.fld 0x48 55 0) (x.fld 0x50 31 0) with
        | .ends a b => some (s.finishCmd n a b)
        | .wait t => t
        | .ok => (s.predecessorSeen x.svc p (x.fld 0x48 55 0)).launchStart n x

/-- LAUNCH (R82). -/
def execLaunch (s : State) : Host.Outcome State Fault Refusal :=
  nextState (match s.focusCmd 1 with | some (n, x) => (s.launchRun n x).getD s | none => s)

/-! ### What a launch still has (R125, R126) -/

/-- Handle of the occupant of a directory entry. -/
def dirHandle (key : Nat) (e : DirEnt) : Nat := mkHandle e.part (key / 2 ^ 20) e.gen (key % 2 ^ 20)

/-- The actors of a launch that have not exited, with their entries. -/
def State.actorsOf (s : State) (lid : Nat) : List (Nat × DirEnt) :=
  (s.dirs.filter fun e => e.2.lid == lid && (e.2.loc == 1 || e.2.placed)).map fun e => (dirHandle e.1 e.2, e.2)

/-- A core holds an engine command of a launch. -/
def State.engineHas (s : State) (lid : Nat) (c : Nat) : Bool :=
  s.parts.any fun e => e.1 / 16 == c && ((e.2.inbox.any fun x => x.2.ctl.lid == lid) || e.2.chans.any fun x => x.2.kind != 2 && x.2.ctl.lid == lid)

/-- A core holds a context of a launch. -/
def State.ctxHas (s : State) (lid : Nat) (c : Nat) : Bool :=
  s.ctxs.any fun e => e.1 / 16 == c && (match e.2.firing with | some f => f.lid == lid | none => false)

/-- A lauter engine holds a command of a launch. -/
def State.lauterHas (s : State) (lid : Nat) : Bool := s.lauters.any fun e => e.2.inbox.any fun x => x.ctl.lid == lid

/-- A launch's partition is switched out: it is active on none of its cores, or messages of the launch wait in fall-out buffers or are parked
(R126, R151). -/
def State.swappedOut (s : State) (lid : Nat) : Bool :=
  (match SMap.find? s.launches lid with | some l => !s.activeSomewhere l.part | none => false)
    || (s.net.any fun m => m.held != 0 && m.lid == lid) || s.parked.any fun m => m.lid == lid

/-- Every core is idle for a launch, no pool record of it is READY, and it is not swapped out (R125, R126, R151). -/
def State.launchIdle (s : State) (lid : Nat) : Bool :=
  !s.swappedOut lid &&
  !(s.ctxs.any fun e => match e.2.firing with | some f => f.lid == lid | none => false)
    && !((s.actorsOf lid).any fun a => a.2.placed && [2, 3, 4].contains (s.actorState a.1))
    && !(s.cores.any fun e => e.2.arrivals.any fun a => a.out.lid == lid)
    && !(allCores.any fun c => s.engineHas lid c) && !s.lauterHas lid
    && !(s.net.any fun m => m.op == 0x31 && m.lid == lid) && !(s.rackQueue.any fun m => (s.keep m.handle).lid == lid)
    && !(s.pool.any fun r => (s.keep r.handle).lid == lid && s.poolReady r)

/-- Sums over the cores of a launch's sent and answered counts (R125). -/
def State.launchSums (s : State) (lid : Nat) : Nat × Nat :=
  s.cores.foldl (fun r e => (r.1 + SMap.get 0 e.2.sent lid, r.2 + SMap.get 0 e.2.answered lid)) (0, 0)

/-! ### Completion (R82, R126) -/

/-- The state with a launch complete: the arrival at TBAR, the release and acquire, its entries free, its record; nothing where TBAR must
still be waited for (R82, R103, R125, R225). -/
def State.completeLaunch (s : State) (lid status : Nat) : Option State :=
  match SMap.find? s.launches lid with
  | none => none
  | some l =>
    if s.storesOpen l.part then none
    else if s.fenceShut then s.wantDram
    else match s.svcTbar lid l (.arrive 1) with
    | .inl t => t
    | .inr s =>
      let s := s.launchFence l.part
      let s := { s with
        launches := SMap.del s.launches lid
        groups := s.groups.filter fun e => e.2.lid != lid
        dirs := List.map (fun (e : Nat × DirEnt) => (e.1, if e.2.lid == lid && e.2.loc != 0 && e.2.loc != 5 then { e.2 with loc := 0 } else e.2)) s.dirs
        kept := List.filter (fun (e : Nat × Kept) => e.2.lid != lid) s.kept
        cores := List.map (fun (e : Nat × Core) => (e.1, { e.2 with sent := SMap.del e.2.sent lid, answered := SMap.del e.2.answered lid })) s.cores }
      some (s.finishCmd l.cmd status (l.errors % 2 ^ 32 + l.misses % 2 ^ 32 * 2 ^ 32))

/-- The state of a launch found quiescent: WAITING and UNPLACED actors exit, each task with an error, and the groups are released (R126). -/
def State.quiesce (s : State) (lid : Nat) : State :=
  let s := (s.actorsOf lid).foldl (fun t a =>
    let t := if dStream (t.keep a.1).desc || (t.keep a.1).handlerOf != 0 then t else t.addError lid
    t.exitActor a.1) s
  let s := { s with groups := s.groups.filter fun e => e.2.lid != lid }
  match SMap.find? s.launches lid with
  | some l => { s with launches := SMap.put s.launches lid { l with wd := 4 } }
  | none => s

/-- A wave of a launch is due: waves start at the multiples of 2,000 ns (R126). -/
def State.waveDue (s : State) (l : Launch) : Bool := !l.killed && l.wd != 4 && l.waveAt / 2000 != s.time / 2000

/-- TERMINATION_WAVE for the launch in focus (R126). -/
def execTerminationWave (s : State) : Host.Outcome State Fault Refusal :=
  let lid := s.focus
  nextState (match SMap.find? s.launches lid with
    | none => s
    | some l =>
      if l.wd = 4 then (s.completeLaunch lid 0).getD s
      else if !s.waveDue l then s
      else
        let (sent, answered) := s.launchSums lid
        let quiet := s.launchIdle lid && sent == answered
        let l := { l with waveAt := s.time, wave := if quiet then some sent else none }
        let t := { s with launches := SMap.put s.launches lid l }
        if quiet && (SMap.find? s.launches lid).any (fun o => o.wave == some sent) then
          let t := t.quiesce lid
          (t.completeLaunch lid 0).getD t
        else t)

/-! ### Watchdogs (R127) -/

/-- The watchdog's time has reached a limit in µs (R127). -/
def State.wdReached (s : State) (l : Launch) (limit : Nat) : Bool := l.wd1 != 0 && l.wdHold.isNone && decide (l.wdFrom + limit * 1000 ≤ s.time)

/-- The state with a watchdog's mailbox entry (R127). -/
def State.wdReport (s : State) (l : Launch) (lid step core : Nat) : State :=
  s.report (epAgent l.svc) 3 (step * 2 ^ 56 + lid % 65536 * 2 ^ 32 + core % 2048) (setBits l.root 55 48 0x14)

/-- The state with a pre-emption by a watchdog asked of every RUNNING firing of a launch; a firing on the racking engine takes it after its
move (R118, R127, R153, R171). -/
def State.wdPreempt (s : State) (lid : Nat) : State :=
  let live := s.ctxs.filter fun e => match e.2.firing with | some f => f.lid == lid | none => false
  let s := live.foldl (fun t e =>
    let c := e.1 / 16
    let k := e.1 % 16
    let t := if (t.core c).log.en then t.logEvent c 4 k 0 else t
    if t.onRack c k then t else t.modCtx c k fun x => { x with preempt := 2 }) s
  { s with rackQueue := List.map (fun (m : Move) => if (s.keep m.handle).lid == lid then { m with preempt := true } else m) s.rackQueue }

/-- WATCHDOG_STEP1 for the launch in focus (R127). -/
def execWatchdogStep1 (s : State) : Host.Outcome State Fault Refusal :=
  let lid := s.focus
  nextState (match SMap.find? s.launches lid with
    | none => s
    | some l =>
      if l.wd = 0 && s.wdReached l l.wd1 then
        (({ s with launches := SMap.put s.launches lid { l with wd := 1 } } : State).wdPreempt lid).wdReport l lid 1 0
      else s)

/-- The state with the moves of a launch's actors abandoned by a kill: the image discarded, rewritten cask entries restored, and the messages that wait
for such an actor on their way again, to find it gone (R129, R167, R171). That a host command whose target such a move has reached completes
NOT_MOVED with reason EXITED and the old home, as a pending one does, is the model's choice (R158, log 85). -/
def State.killMoves (s : State) (lid : Nat) : State :=
  let mine := s.rackQueue.filter fun m => (s.keep m.handle).lid == lid
  let s := mine.foldl (fun t m =>
    let t := t.undoCask m.part m.rewrites
    let mine (x : Msg) : Bool := x.held == 3 && x.forH == m.handle
    let t := { t with parked := t.parked.filter (fun x => !mine x), net := t.net ++ List.map (fun (x : Msg) => { x with held := 0, forH := 0 }) (t.parked.filter mine) }
    t.endRackCmd m.cmd 7 (m.core * 2 ^ 16 + 12 * 256 + 7)) s
  { s with rackQueue := s.rackQueue.filter fun m => (s.keep m.handle).lid != lid }

/-- The state with the contexts of a launch freed (R127, R247). -/
def State.killCtxs (s : State) (lid : Nat) : State :=
  (s.ctxs.filter fun e => match e.2.firing with | some f => f.lid == lid | none => false).foldl (fun t e =>
    ((t.dropWait (e.1 / 16) (e.1 % 16)).decompose (e.1 / 16) (e.1 % 16)).setCtx (e.1 / 16) (e.1 % 16) {}) s

/-- The state with the engine commands of a launch discarded with their progress (R144). -/
def State.killCmds (s : State) (lid : Nat) : State :=
  { s with parts := List.map (fun (e : Nat × CorePart) =>
      (e.1, { e.2 with inbox := e.2.inbox.filter fun x => x.2.ctl.lid != lid
                       marks := (e.2.chans.filter fun x => x.2.ctl.lid == lid).foldl (fun m x => SMap.del m x.1) e.2.marks
                       chans := e.2.chans.filter fun x => x.2.ctl.lid != lid })) s.parts }

/-- The state with a launch killed: moves, contexts, engine commands, entries and actors (R106, R127, R144). -/
def State.killLaunch (s : State) (lid : Nat) : State :=
  let s := ((s.killMoves lid).killCtxs lid).killCmds lid
  let mine (h : Nat) : Bool := (s.keep h).lid == lid
  let s := { s with
    cores := List.map (fun (e : Nat × Core) => (e.1, { e.2 with runList := e.2.runList.filter (fun x => !mine x.handle)
                                                                deque := e.2.deque.filter (fun h => !mine h), spill := e.2.spill.filter (fun h => !mine h) })) s.cores
    pool := s.pool.filter fun r => !mine r.handle
    net := s.net.filter fun m => !(m.op == 0x31 && m.lid == lid) }
  (s.actorsOf lid).foldl (fun t a => t.exitActor a.1) s

/-- Status word and origin of a watchdog kill (R123, R127). -/
def killStatus (svc lid : Nat) : BarOp := .status 0x14 2 (lid % 65536) false (4 * 2 ^ 12 + 5 * 256 + svc)

/-- The state with a launch killed for a reason: TBAR's status, the kill, and the launch's watchdog in STEP2; nothing where TBAR must be
waited for (R127). -/
def State.beginKill (s : State) (lid : Nat) (l : Launch) : Option State :=
  match s.svcTbar lid l (killStatus l.svc lid) with
  | .inl t => t
  | .inr s =>
    let s := s.killLaunch lid
    match SMap.find? s.launches lid with
    | some l => some { s with launches := SMap.put s.launches lid { l with wd := 2, killed := true } }
    | none => some s

/-- WATCHDOG_KILL for the launch in focus (R127). -/
def execWatchdogKill (s : State) : Host.Outcome State Fault Refusal :=
  let lid := s.focus
  nextState (match SMap.find? s.launches lid with
    | none => s
    | some l =>
      if l.wd = 1 && s.wdReached l l.wd2 then
        match s.beginKill lid l with
        | some t => if (SMap.find? t.launches lid).any fun x => x.killed then t.wdReport l lid 2 0 else t
        | none => s
      else s)

/-- The cores that hold a context or engine command of a launch. -/
def State.coresWith (s : State) (lid : Nat) : List Nat := allCores.filter fun c => s.ctxHas lid c || s.engineHas lid c

/-- WATCHDOG_FENCE for the launch in focus: each core that still holds work of it is fenced (R127, R128). -/
def execWatchdogFence (s : State) : Host.Outcome State Fault Refusal :=
  let lid := s.focus
  nextState (match SMap.find? s.launches lid with
    | none => s
    | some l =>
      let cs := s.coresWith lid
      if l.wd = 2 && s.wdReached l l.wd3 && !cs.isEmpty then
        cs.foldl (fun t c => (t.fence c).wdReport l lid 3 c) { s with launches := SMap.put s.launches lid { l with wd := 3 } }
      else s)

/-- A kill has finished: no core and no lauter engine holds anything of the launch (R127). -/
def State.killDone (s : State) (lid : Nat) : Bool := (s.coresWith lid).isEmpty && !s.lauterHas lid

/-- KILL_FINISHED for the launch in focus: it completes with KILLED (R82, R127). -/
def execKillFinished (s : State) : Host.Outcome State Fault Refusal :=
  let lid := s.focus
  nextState (match SMap.find? s.launches lid with
    | none => s
    | some l => if l.killed && s.killDone lid then (s.completeLaunch lid 0x0B).getD s else s)

end Sys2Proof.Machine
end

