-- ==== Sys2Proof/Machine/Sign.lean ====
section
/-! DEFINITION. SHAKE256, and Ed448ph as RFC 8032 defines it: the signatures of firmware images, bundles and attestation reports
(R91, R93, R445). -/
namespace Sys2Proof.Machine

/-! ### SHAKE256 (R91) -/

/-- A lane of 64 bits turned to the left. -/
def rotl64 (x n : Nat) : Nat := ((x <<< n) ||| (x >>> (64 - n))) % 2 ^ 64

/-- Round constants of Keccak-f[1600]. -/
def keccakRc : List Nat :=
  [0x0000000000000001, 0x0000000000008082, 0x800000000000808A, 0x8000000080008000, 0x000000000000808B, 0x0000000080000001,
   0x8000000080008081, 0x8000000000008009, 0x000000000000008A, 0x0000000000000088, 0x0000000080008009, 0x000000008000000A]
  ++ [0x000000008000808B, 0x800000000000008B, 0x8000000000008089, 0x8000000000008003, 0x8000000000008002, 0x8000000000000080,
   0x000000000000800A, 0x800000008000000A, 0x8000000080008081, 0x8000000000008080, 0x0000000080000001, 0x8000000080008008]

/-- Turns of the lanes, lane x + 5y. -/
def keccakRot : List Nat := [0, 1, 62, 28, 27, 36, 44, 6, 55, 20, 3, 10, 43, 25, 39, 41, 45, 15, 21, 8, 18, 2, 61, 56, 14]

/-- One round on 25 lanes. -/
def keccakRound (a : List Nat) (rc : Nat) : List Nat :=
  let at_ (l : List Nat) (i : Nat) : Nat := (l[i]?).getD 0
  let c := (List.range 5).map fun x => (List.range 5).foldl (fun v y => v ^^^ at_ a (x + 5 * y)) 0
  let d := (List.range 5).map fun x => at_ c ((x + 4) % 5) ^^^ rotl64 (at_ c ((x + 1) % 5)) 1
  let a := (List.range 25).map fun i => at_ a i ^^^ at_ d (i % 5)
  let b := (List.range 25).map fun i =>
    let x := i % 5
    let j := (x + 3 * (i / 5)) % 5 + 5 * x
    rotl64 (at_ a j) (at_ keccakRot j)
  let e := (List.range 25).map fun i =>
    let x := i % 5
    let y := i / 5 * 5
    at_ b i ^^^ ((2 ^ 64 - 1 - at_ b ((x + 1) % 5 + y)) &&& at_ b ((x + 2) % 5 + y))
  e.zipIdx.map fun v => if v.2 = 0 then v.1 ^^^ rc else v.1

/-- The permutation. -/
def keccakF (a : List Nat) : List Nat := keccakRc.foldl keccakRound a

/-- The state with a block of 136 bytes taken in. -/
def shakeAbsorb (a : List Nat) (block : List Byte) : List Nat :=
  keccakF ((List.range 25).map fun i => (a[i]?).getD 0 ^^^ (if i < 17 then ofBytes ((block.drop (8 * i)).take 8) else 0))

/-- A message with its padding. -/
def shakePad (m : List Byte) : List Byte :=
  let k := 136 - m.length % 136
  m ++ (if k = 1 then [0x9F] else 0x1F :: List.replicate (k - 2) 0 ++ [0x80])

/-- Output of a state, block by block. -/
def shakeOut (a : List Nat) : Nat → List Byte
  | 0 => []
  | n + 1 => ((a.take 17).flatMap (toBytes 8)) ++ shakeOut (keccakF a) n

/-- SHAKE256 of a message with an output length in bytes. -/
def shake256 (m : List Byte) (n : Nat) : List Byte :=
  let p := shakePad m
  let a := (List.range (p.length / 136)).foldl (fun s i => shakeAbsorb s ((p.drop (136 * i)).take 136)) (List.replicate 25 0)
  (shakeOut a ((n + 135) / 136)).take n

/-! ### Ed448ph (R91) -/

/-- The field's prime. -/
def edP : Nat := 2 ^ 448 - 2 ^ 224 - 1
/-- The order of the base point. -/
def edL : Nat := 2 ^ 446 - 13818066809895115352007386748515426880336692474882178609894547503885
/-- The curve's constant d = -39081. -/
def edD : Nat := edP - 39081

/-- A power in the field. -/
def edPow (b e : Nat) : Nat :=
  (List.range 448).foldl (fun r i => let q := r * r % edP; if e.testBit (447 - i) then q * b % edP else q) 1

/-- A point in projective coordinates. -/
structure EdPoint where
  x : Nat
  y : Nat
  z : Nat
  deriving DecidableEq, Repr

/-- The sum of two points. -/
def EdPoint.add (p q : EdPoint) : EdPoint :=
  let a := p.z * q.z % edP
  let b := a * a % edP
  let c := p.x * q.x % edP
  let d := p.y * q.y % edP
  let e := edD * c % edP * d % edP
  let f := (b + edP - e) % edP
  let g := (b + e) % edP
  let h := (p.x + p.y) * (q.x + q.y) % edP
  { x := a * f % edP * ((h + 2 * edP - c - d) % edP) % edP, y := a * g % edP * ((d + edP - c) % edP) % edP, z := f * g % edP }

/-- A multiple of a point. -/
def EdPoint.mul (p : EdPoint) (n : Nat) : EdPoint :=
  (List.range 448).foldl (fun r i => let q := r.add r; if n.testBit (447 - i) then q.add p else q) { x := 0, y := 1, z := 1 }

/-- Two points are the same. -/
def EdPoint.same (p q : EdPoint) : Bool := p.x * q.z % edP == q.x * p.z % edP && p.y * q.z % edP == q.y * p.z % edP

/-- The base point. -/
def edBase : EdPoint :=
  { x := 224580040295924300187604334099896036246789641632564134246125461686950415467406032909029192869357953282578032075146446173674602635247710
    y := 298819210078481492676017930443930673437544040154080242095928241372331506189835876003536878655418784733982303233503462500531545062832660
    z := 1 }

/-- A point from its 57 bytes. -/
def edDecode (l : List Byte) : Option EdPoint :=
  let v := ofBytes l
  let sign := v / 2 ^ 455 % 2
  let y := v % 2 ^ 455
  if l.length ≠ 57 || edP ≤ y then none
  else
    let u := (y * y + edP - 1) % edP
    let w := (edD * (y * y % edP) + edP - 1) % edP
    let u3 := u * u % edP * u % edP
    let x := u3 * w % edP * edPow (u3 * u % edP * u % edP * (w * w % edP * w % edP) % edP) ((edP - 3) / 4) % edP
    if w * (x * x % edP) % edP ≠ u || (x == 0 && sign == 1) then none
    else some { x := if x % 2 = sign then x else edP - x, y := y, z := 1 }

/-- The 57 bytes of a point. -/
def EdPoint.encode (p : EdPoint) : List Byte :=
  let i := edPow p.z (edP - 2)
  toBytes 57 (p.y * i % edP + p.x * i % edP % 2 * 2 ^ 455)

/-- The prefix of Ed448ph with an empty context: "SigEd448", 1, 0. -/
def edDom : List Byte := [0x53, 0x69, 0x67, 0x45, 0x64, 0x34, 0x34, 0x38, 1, 0]

/-- Whether an Ed448ph signature of a message verifies under a key; the prehash is SHAKE256 with 64 bytes of output (R91). -/
def ed448Verify (key msg sig : List Byte) : Bool :=
  let r := sig.take 57
  let n := ofBytes (sig.drop 57)
  match edDecode key, edDecode r with
  | some a, some p =>
    let h := ofBytes (shake256 (edDom ++ r ++ key ++ shake256 msg 64) 114) % edL
    decide (sig.length = 114) && decide (n < edL) && ((edBase.mul n).mul 4).same ((p.add (a.mul h)).mul 4)
  | _, _ => false

/-- The Ed448ph signature of a message by a secret key of 57 bytes (R93). -/
def ed448Sign (secret msg : List Byte) : List Byte :=
  let h := shake256 secret 114
  let s := (ofBytes (h.take 56) % 2 ^ 447 / 4 * 4) + 2 ^ 447
  let pub := (edBase.mul s).encode
  let ph := shake256 msg 64
  let r := ofBytes (shake256 (edDom ++ h.drop 57 ++ ph) 114) % edL
  let rb := (edBase.mul r).encode
  let k := ofBytes (shake256 (edDom ++ rb ++ pub ++ ph) 114) % edL
  rb ++ toBytes 57 ((r + k * s) % edL)

end Sys2Proof.Machine
end

