-- ==== Sys2Proof/Machine/Commands.lean ====
section
/-! DEFINITION. The commands MAP, UNMAP, PARTITION, RACK, POWER, ATTEST and QUERY (R56, R72, R80 to R85, R93, R158, R472). -/
namespace Sys2Proof.Machine

/-! ### Page tables that firmware writes (R84, R193 to R195, R472) -/

/-- First byte above partition space in the virtual space. -/
def spaceEnd : Nat := 0xFD * 2 ^ 48
/-- First byte of the grant-maxima pages (R290). -/
def maximaVa : Nat := 0xFCFFFFFFFE0000
/-- A range meets the grant-maxima pages (R290). -/
def meetsMaxima (va n : Nat) : Bool := decide (va < maximaVa + 0x20000) && decide (maximaVa < va + n)

/-- A frame of a partition's page-table pool, with the partition after it is taken (R472). -/
def Partition.takeFrame (x : Partition) : Option (Nat × Partition) :=
  match x.ptFree with
  | f :: l => some (f, { x with ptFree := l })
  | [] =>
    match x.ptRanges.find? fun r => decide (r.2.1 < r.2.2) with
    | none => none
    | some r => some (r.2.1, { x with ptRanges := x.ptRanges.map fun y => if y.1 = r.1 then (y.1, y.2.1 + 4096, y.2.2) else y })

/-- A frame of a partition's page-table pool, zero-filled (R472). -/
def State.takeTable (s : State) (p : Nat) : Option (Nat × State) :=
  match s.partition p with
  | none => none
  | some x =>
    match x.takeFrame with
    | none => none
    | some (f, y) => some (f, (s.modPartition p fun _ => y).linesWrite p (f / 64) 64 0)

/-- What writing leaves answers. -/
inductive MapRes where
  | ok (s : State)
  | noFrame (s : State)
  /-- The leaf would split a larger leaf, or take the place of a table. -/
  | clash (s : State)

/-- A leaf written at a level, with the tables above it made where they are missing (R84, R472). -/
def State.mapLeaf (s : State) (p va target e : Nat) : Nat → Nat → Nat → MapRes
  | 0, _, _ => .clash s
  | fuel + 1, level, table =>
    let ea := entryAddr table va level
    let s := s.homeLook none p (ea / 64)
    let old := s.physRead p ea 8
    let isTable : Bool := bits old 1 0 == 1 && bit old 8 == 0
    if level = target then (if isTable && level != 4 then .clash s else .ok (s.physWrite p ea 8 e true))
    else if isTable then State.mapLeaf s p va target e fuel (level + 1) (bits old 51 12 * 4096)
    else if bits old 1 0 ≠ 0 then .clash s
    else match s.takeTable p with
      | none => .noFrame s
      | some (f, t) => State.mapLeaf (t.physWrite p ea 8 (f + 1) true) p va target e fuel (level + 1) f

/-- `n` leaves written one after another, each with the frame or block that follows (R84, R195). -/
def State.mapLeaves (s : State) (p level e step : Nat) : Nat → Nat → MapRes
  | 0, _ => .ok s
  | n + 1, va =>
    match s.mapLeaf p va level e 5 0 (s.rootOf p) with
    | .ok t => State.mapLeaves t p level (e + step) step n (va + levelSize level)
    | .noFrame t => .noFrame t
    | .clash t => .clash t

/-- Level of the leaves of a page size code (R192). -/
def codeLevel (code : Nat) : Nat := if code < 2 then 4 else if code < 4 then 3 else 2

/-- The rights and kind of a leaf that MAP writes (R83, R193, R194). -/
def mapBits (f : Nat) : Nat :=
  (if bit f 7 = 1 then 2 else 1) + bit f 3 * 2 ^ 2 + bit f 4 * 2 ^ 3 + bit f 5 * 2 ^ 4 + bit f 6 * 2 ^ 6 + bit f 0 * 2 ^ 7 + 2 ^ 8

/-- The tables of a partition cannot be read yet: the DRAM sleeps, or is not trained (R50, R90). -/
def State.tablesWait (s : State) (dram : Bool) : Option (Option State) :=
  if s.fw.step < 5 then (if dram then some none else none)
  else if s.power.dram ≠ 0 then some s.wantDram else none

/-- MAP's run: a command is begun and accepted in one step once its tables can be written (R80, R83, R84). That partition 0's MAP for a partition that
does not exist ends with BAD_BLOCK is the model's choice (log 84). -/
def State.mapRun (s : State) (n : Nat) (x : Cmd) : Option State :=
  let va := x.fld 0 55 0
  let pa := x.fld 8 51 0
  let size := x.fld 0x10 47 0
  let f := x.fld 0x18 11 0
  let code := f % 8
  let flash := bit f 7 == 1
  let p := if x.part = 0 then bits f 11 8 else x.part
  let addr := if flash then pa * 4096 else pa
  let page := codeSize code
  let ends (status result : Nat) : Option State := some (s.finishCmd n status result)
  if 5 < code || (s.partition p).isNone || va % page != 0 || addr % page != 0 || size % page != 0 || decide (spaceEnd < va + size)
      || (flash && decide (2 ^ 40 ≤ pa)) then ends 2 0
  else if meetsMaxima va size then ends 4 0
  else if !flash && size != 0 && !(isDram pa && isDram (pa + size - 1)) && !(x.part == 0 && isSram pa && isSram (pa + size - 1)) then ends 4 0
  else match s.tablesWait (flash || isDram pa) with
    | some t => t
    | none =>
      let level := codeLevel code
      let e := mapBits f + (if flash then pa * 2 ^ 12 else pa)
      match s.mapLeaves p level e (levelSize level) (size / levelSize level) va with
      | .ok t => some (t.finishCmd n 0 (size / page))
      | .noFrame t => some (t.finishCmd n 0x0A 0)
      | .clash t => some (t.finishCmd n 2 0)

/-- MAP (R84). -/
def execMap (s : State) : Host.Outcome State Fault Refusal :=
  nextState (match s.focusCmd 4 with | some (n, x) => (s.mapRun n x).getD s | none => s)

/-- The entries of a table at a level, and the virtual address from which each maps, that meet a range. -/
def tableEntries (level table base lo hi : Nat) : List (Nat × Nat) :=
  ((List.range (if level = 0 then 253 else 512)).map fun i => (table + 8 * i, base + i * levelSize level)).filter fun e =>
    decide (e.2 < hi) && decide (lo < e.2 + levelSize level)

/-- A leaf meets a range without lying in it (R84). -/
def State.splitsLeaf (s : State) (p lo hi : Nat) : Nat → Nat → Nat → Nat → Bool
  | 0, _, _, _ => false
  | fuel + 1, level, table, base =>
    (tableEntries level table base lo hi).any fun e =>
      let v := s.physRead p e.1 8
      if bits v 1 0 = 0 then false
      else if bits v 1 0 = 1 && bit v 8 == 0 then State.splitsLeaf s p lo hi fuel (level + 1) (bits v 51 12 * 4096) e.2
      else decide (e.2 < lo) || decide (hi < e.2 + levelSize level)

/-- A table has no valid entry. -/
def State.emptyTable (s : State) (p table : Nat) : Bool := (List.range 512).all fun i => bits (s.physRead p (table + 8 * i) 8) 1 0 == 0

/-- The state with a frame returned to a partition's page-table pool, if it is one of the pool's (R472). -/
def State.returnTable (s : State) (p f : Nat) : State :=
  s.modPartition p fun x => if x.ptRanges.any fun r => decide (r.1 ≤ f) && decide (f < r.2.1) then { x with ptFree := f :: x.ptFree } else x

/-- The leaves in a range removed, and the tables that this leaves empty returned: the state and the number of pages (R80, R84, R472). -/
def State.unmapIn (s : State) (p lo hi : Nat) : Nat → Nat → Nat → Nat → State × Nat
  | 0, _, _, _ => (s, 0)
  | fuel + 1, level, table, base =>
    (tableEntries level table base lo hi).foldl (fun r e =>
      let r := (r.1.homeLook none p (e.1 / 64), r.2)
      let v := r.1.physRead p e.1 8
      if bits v 1 0 = 0 then r
      else if bits v 1 0 = 1 && bit v 8 == 0 then
        let f := bits v 51 12 * 4096
        let q := State.unmapIn r.1 p lo hi fuel (level + 1) f e.2
        (if q.1.emptyTable p f then (q.1.physWrite p e.1 8 0 true).returnTable p f else q.1, r.2 + q.2)
      else
        let t := r.1.physWrite p e.1 8 0 true
        let t := { t with pins := t.pins.filter (fun y => y != (p, e.1)), paged := List.filterMap (fun (y : Paged) => y.without e.1) t.paged }
        (t, r.2 + if bit v 7 = 0 || e.2 / levelSize level % 16 == 0 then 1 else 0)) (s, 0)

/-- UNMAP's run (R80, R83, R84). -/
def State.unmapRun (s : State) (n : Nat) (x : Cmd) : Option State :=
  let va := x.fld 0 55 0
  let size := x.fld 8 47 0
  let p := x.part
  let ends (status result : Nat) : Option State := some (s.finishCmd n status result)
  if va % 4096 ≠ 0 || size % 4096 ≠ 0 || decide (spaceEnd < va + size) then ends 2 0
  else if meetsMaxima va size then ends 4 0
  else match s.tablesWait (isDram (s.rootOf p)) with
    | some t => t
    | none =>
      if s.splitsLeaf p va (va + size) 5 0 (s.rootOf p) 0 then ends 2 0
      else
        let (t, k) := s.unmapIn p va (va + size) 5 0 (s.rootOf p) 0
        some ((t.dropRange p va size).finishCmd n 0 k)

/-- UNMAP (R80, R84). -/
def execUnmap (s : State) : Host.Outcome State Fault Refusal :=
  nextState (match s.focusCmd 5 with | some (n, x) => (s.unmapRun n x).getD s | none => s)

/-! ### Grant-maxima tables (R290, R355) -/

/-- The 64 bytes of an island's grant-maxima table as one number (R355). -/
def maximaTable (cellar : Bool) : Nat :=
  let l := if cellar then
      [1, 512, 8, 0, 16, 16, 32, 16, 16, 64, 16, 16, 16, 16, 16, 4, 16, 16, 48, 16, 4, 16, 24]
    else [1, 2048, 8, 0, 64, 64, 128, 64, 64, 256, 64, 64, 64, 64, 64, 16, 64, 64, 192, 64, 4, 16, 24]
  l.foldr (fun w acc => w + 2 ^ 16 * acc) 0

/-- Physical address of the two pages of the tables, at the top of cellar SRAM (log 8). -/
def maximaPa : Nat := sramBase + 0x3000000 - 0x20000

/-- The state with both tables mapped for loads into a partition (R290). -/
def State.mapMaxima (s : State) (p : Nat) : State :=
  match s.mapLeaves p 4 (maximaPa + 1 + 2 ^ 2 + 2 ^ 7 + 2 ^ 8) 4096 32 maximaVa with
  | .ok t => t
  | .noFrame t => t
  | .clash t => t

/-! ### PARTITION (R72, R83, R84, R146, R183) -/

/-- A partition with the areas in DRAM that firmware reserves for it. -/
def Partition.reserve (x : Partition) (p : Nat) : Partition :=
  let base := partitionArea p
  { x with area := base, pager := base + 0x20000000, ptRanges := x.ptRanges ++ [(base + 0x1C000000, base + 0x1C000000, base + 0x1E000000)] }

/-- The state with partition 0's share as what no other partition holds (R72, R84). -/
def State.fixShares (s : State) : State :=
  let others := s.partitions.filter fun e => e.1 != 0
  let k := others.foldl (fun acc e => acc ||| e.2.kettle) 0
  let c := others.foldl (fun acc e => acc ||| e.2.cellar) 0
  s.modPartition 0 fun x => { x with kettle := 2 ^ 256 - 1 - k % 2 ^ 256, cellar := 255 - c % 256 }

/-- The state in which no core runs, or holds as its shadow, a partition outside whose share it lies (R72, R84). -/
def State.fixCores (s : State) : State :=
  allCores.foldl (fun t c =>
    let t := match (t.core c).shadow with | some p => if t.inShare p c then t else t.modCore c fun k => { k with shadow := none } | none => t
    let t := match (t.core c).switch with | some (_, p) => if t.inShare p c then t else t.modCore c fun k => { k with switch := none } | none => t
    if t.inShare (t.core c).active c then t
    else
      let u := t.switchTo c ((t.sharers c).headD 0)
      u.modCore c fun k => { k with shadow := none }) s |>.freeFallOut

/-- The state with the remote-access windows of a partition's share as PARTITION create leaves them (R183). -/
def State.openWindows (s : State) (p : Nat) : State :=
  (s.shareCores p).foldl (fun t c => t.modPart c p fun x => { x with rwin := [(0, rwin0 c)] }) s

/-- The kettle share, the cellar share and the time slice of a PARTITION block (R83). -/
def Cmd.share (x : Cmd) : Nat × Nat × Nat := (ofBytes ((x.block.drop 0x10).take 32), x.fld 0x30 7 0, x.fld 0x30 63 32)

/-- What a PARTITION block asks for needs: the DRAM, and the compute dies for a share of kettle cores (R90). -/
def State.partitionWait (s : State) (x : Cmd) : Option (Option State) :=
  if x.st = 0 then some none
  else if s.fw.step < 5 || (x.share.1 != 0 && decide (s.fw.step < 6)) then some none
  else if s.power.dram ≠ 0 then some s.wantDram else none

/-- The state in which a partition's page-table pool in DRAM is zero-filled: its lines are those of no other tag, as no cache holds them (R472). -/
def State.fillPool (s : State) (p : Nat) : State :=
  match SMap.find? s.partitions p with
  | none => s
  | some x =>
    { s with
      mem := s.mem.filter fun e => !x.poolLine (e.1 / 64)
      tags := List.filter (fun (e : Nat × LineMeta) => !x.poolLine e.1) s.tags
      dirty := List.filter (fun (e : Nat × Dirty) => !x.poolLine e.1) s.dirty
      held := List.filter (fun (e : Nat × Bool) => !x.poolLine e.1) s.held }

/-- The state after a command first made shares overlap on a core: the slice of the partition that runs there counts from now (R146). -/
def State.newOverlaps (s old : State) : State :=
  allCores.foldl (fun t c =>
    if (old.sharers c).length < 2 && decide (2 ≤ (s.sharers c).length) then t.modCore c fun k => { k with activeAt := s.time } else t) s

/-- PARTITION create: its inline key is drawn, its page-table pool written, and its windows opened (R84, R183, R472). -/
def State.createRun (s : State) (n : Nat) (x : Cmd) : Option State :=
  let p := x.fld 0 11 8
  let root := x.fld 8 51 0
  let (k, c, slice) := x.share
  match s.partitionWait x with
  | some t => if x.st = 0 then some (s.handOff n x 6) else t
  | none =>
    if p = 0 || c % 2 = 1 || root % 4096 ≠ 0 || !frameOk root then some (s.finishCmd n 2 0)
    else if (s.partition p).isSome then some (s.finishCmd n 0x0A 0)
    else
      let (w, t) := s.takeWord
      let y : Partition := Partition.reserve { root := root, kettle := k, cellar := c, slice := slice, inlineKey := w.toNat } p
      let t := { t with partitions := SMap.put t.partitions p y }
      some (((((t.fillPool p).fixShares.fixCores).openWindows p).mapMaxima p |>.newOverlaps s).finishCmd n 0 p)

/-- PARTITION change (R84). -/
def State.changeRun (s : State) (n : Nat) (x : Cmd) : Option State :=
  let p := x.fld 0 11 8
  let (k, c, slice) := x.share
  match s.partitionWait x with
  | some t => if x.st = 0 then some (s.handOff n x 6) else t
  | none =>
    if p = 0 || c % 2 = 1 || (s.partition p).isNone then some (s.finishCmd n 2 0)
    else some (((((s.modPartition p fun y => { y with kettle := k, cellar := c, slice := slice }).fixShares).fixCores).newOverlaps s).finishCmd n 0 p)

/-- The state with every DRAM line of a partition zero with PTAG 16 (R84). -/
def State.zeroLines (s : State) (p : Nat) : State :=
  let mine (line : Nat) : Bool := isDram (line * 64) &&
    ((s.metaOf line).ptag == p || (match SMap.find? s.dirty line with | some d => d.ptag == p | none => false))
  { s with
    mem := s.mem.filter fun e => !mine (e.1 / 64)
    tags := List.filter (fun (e : Nat × LineMeta) => !mine e.1) s.tags
    dirty := List.filter (fun (e : Nat × Dirty) => !(mine e.1 && e.2.ptag == p)) s.dirty }

/-- The state with a partition's queues out of service; commands already begun go on (R71, R84). -/
def State.closeQueues (s : State) (p : Nat) : State :=
  let mine (q : Nat) : Bool := (s.queue q).part == p
  { s with
    queues := List.map (fun (e : Nat × Queue) => (e.1, if e.2.part == p then { e.2 with enable := false } else e.2)) s.queues
    fw := { s.fw with wakes := List.map (fun (e : Nat × List (Nat × Nat)) => (e.1, e.2.filter fun w => !mine w.1)) s.fw.wakes } }

/-- The state without a partition: its lines, scratchpads, actors, pages and messages; a queue's contract stays until the next CONTRACT on the queue
(R55, R84). -/
def State.dropPartition (s : State) (p : Nat) : State :=
  let s := s.zeroLines p
  let s := { s with
    partitions := SMap.del s.partitions p, away := s.away.filter fun (e : Nat × CorePart) => e.1 % 16 != p
    dirs := List.map (fun (e : Nat × DirEnt) => (e.1, if e.2.part == p then { e.2 with loc := 0 } else e.2)) s.dirs
    kept := List.filter (fun (e : Nat × Kept) => handlePart e.1 != p) s.kept
    pool := s.pool.filter fun r => handlePart r.handle != p
    groups := List.filter (fun (e : Nat × GroupEnt) => e.1 / 256 != p) s.groups
    paged := s.paged.filter (fun y => y.part != p), pins := s.pins.filter fun y => y.1 != p
    pageIns := s.pageIns.filter fun y => y.part != p
    parked := s.parked.filter (fun m => m.part != p), net := s.net.filter fun m => m.part != p
    lauters := List.map (fun (e : Nat × Lauter) =>
      (e.1, { e.2 with slots := e.2.slots.filter (fun g => g.2.part != p), insts := e.2.insts.filter fun a => a.2.part != p })) s.lauters }
  let s := s.modPower fun w => { w with contracts := w.contracts.filter fun c => c.1 == 1 || c.2.2.1 != p }
  let s := { s.tlbDrop p fun _ => true with
    cores := List.map (fun (e : Nat × Core) => (e.1, { e.2 with allocs := e.2.allocs.filter (fun a => a.part != p) })) s.cores }
  (allCores.foldl (fun t c => (t.wipePart c p).modPart c p fun _ => {}) s).fixShares.fixCores

/-- A begun command that only waits for something that a partition's end takes away: WAIT at its barrier, RACK for its actor's racking point. -/
def Cmd.idles (x : Cmd) : Bool := x.st == 2 && (x.code == 3 || x.code == 8)

/-- PARTITION destroy: the partition's queues close and its launches are killed; commands already begun write their records, WAIT and RACK that
still wait with FAULT; then its lines are zero, and the partition and its key are gone (R71, R77, R84, log 54). -/
def State.destroyRun (s : State) (n : Nat) (x : Cmd) : Option State :=
  let p := x.fld 0 11 8
  if x.st = 0 then some (s.handOff n x 6)
  else if p = 0 || (s.partition p).isNone then some (s.finishCmd n 2 0)
  else if x.st < 2 then some ((s.closeQueues p).setCmd n { x with st := 2 })
  else match List.find? (fun (e : Nat × Launch) => e.2.part == p && !e.2.killed) s.launches with
    | some e => s.beginKill e.1 e.2
    | none =>
      if List.any s.launches fun (e : Nat × Launch) => e.2.part == p then none
      else if List.any s.cmds fun (e : Nat × Cmd) => e.2.part == p && e.2.st != 4 && !e.2.idles then none
      else match List.find? (fun (e : Nat × Cmd) => e.2.part == p && e.2.idles) s.cmds with
        | some e => some (s.finishCmd e.1 3 (e.2.fld 0 55 0))
        | none =>
          if List.any s.cmds fun (e : Nat × Cmd) => e.2.part == p then none
          else if s.power.dram ≠ 0 then s.wantDram
          else some ((s.dropPartition p).finishCmd n 0 p)

/-- The PARTITION command in focus runs, where it is of an operation. -/
def State.partitionOp (s : State) (op : Nat) (f : State → Nat → Cmd → Option State) : State :=
  match s.focusCmd 6 with
  | some (n, x) => if x.fld 0 1 0 = op then (f s n x).getD s else s
  | none => s

/-- PARTITION_CREATE (R84). -/
def execPartitionCreate (s : State) : Host.Outcome State Fault Refusal := nextState (s.partitionOp 0 State.createRun)
/-- PARTITION_CHANGE (R84). -/
def execPartitionChange (s : State) : Host.Outcome State Fault Refusal := nextState (s.partitionOp 1 State.changeRun)
/-- PARTITION_DESTROY (R84). -/
def execPartitionDestroy (s : State) : Host.Outcome State Fault Refusal := nextState (s.partitionOp 2 State.destroyRun)

/-! ### RACK (R158) -/

/-- RACK's run: the pending target of an actor recorded, in place of one not yet used (R158). That a handle of another partition is DENIED whether or
not it names an actor is the model's choice (R81, R104, log 85). -/
def State.rackCmdRun (s : State) (n : Nat) (x : Cmd) : Option State :=
  let h := x.fld 0 63 0
  if x.st ≥ 2 then none
  else if handlePart h ≠ x.part then some (s.finishCmd n 4 0)
  else match s.dirOf h with
    | none => some (s.finishCmd n 7 (rackWord 0 12 7 false))
    | some e =>
      if e.loc = 3 then some (s.finishCmd n 7 (rackWord e.home 12 7 false))
      else
        let s := match (s.keep h).target with
          | some (_, m) => s.finishCmd m 7 (rackWord e.home 15 7 false)
          | none => s
        some ((s.modKept h fun k => { k with target := some (x.fld 8 2 0, n) }).setCmd n { x with st := 2 })

/-- RACK_COMMAND (R158). -/
def execRackCommand (s : State) : Host.Outcome State Fault Refusal :=
  nextState (match s.focusCmd 8 with | some (n, x) => (s.rackCmdRun n x).getD s | none => s)

/-! ### POWER (R46, R56) -/

/-- The nibble of a component in a POWER block: 0 to 3 the compute dies, 4 the cellar, 5 the DRAM. -/
def Cmd.comp (x : Cmd) (i : Nat) : Nat := x.fld 0 (4 * i + 3) (4 * i)

/-- A POWER block names a state that its component does not have (R83). -/
def powerBad (x : Cmd) : Bool :=
  ([0, 1, 2, 3].any fun q => decide (3 < x.comp q) && x.comp q != 15) || [4, 5].any fun i => decide (1 < x.comp i) && x.comp i != 15

/-- The state that a command leaves a die in: the named one, or its floor (R56). -/
def State.dieGoal (s : State) (x : Cmd) (q : Nat) : Nat := min (x.comp q) (s.dieFloor q)

/-- The next move of a die toward a state: nothing where it is there; a wait, or a state. K0 or K1 ends an entry into K2 that is under way, and the
partitions that K3 finds on the die go to DRAM first (R46 to R48, R56). -/
def State.dieMove (s : State) (q goal : Nat) : Option (Option State) :=
  let k := s.dieState q
  let tr := SMap.get 0 s.power.trans q
  if tr = 3 then some none
  else if goal ≤ 1 then
    (if tr = 1 then some (some (s.beginWake q)) else if 2 ≤ k then some (some (s.beginWake q)) else if goal = 0 && k = 1 then (if s.dieTripped q then some none else some (some (s.leaveK1 q))) else none)
  else if k = goal then none
  else if k = 3 then some (some (s.beginWake q))
  else if k = 2 then (if s.dieResident q && s.power.dram != 0 then some s.wantDram else some (some (s.enterK3 q)))
  else if s.dieTripped q then some none
  else if !(SMap.get {} s.lauters q).inbox.isEmpty then
    (if tr = 1 then some none else some (some (s.beginK2 q)))
  else some (some (s.enterK2 q))

/-- The DRAM cannot rest after the command's die moves: a floor, a die in K0 or K1, or running application cores (R56). -/
def State.dramStays (s : State) : Bool := s.dramHeld || !s.allGated || !s.power.appAsleep

/-- A POWER command's components: done in `step`, one bit each; bit 6 says that a component was held (R56). That the command begins the entry of a die
into K2 again after a wake aborted it is the model's choice (R48, log 84). -/
def State.powerStep (s : State) (n : Nat) (x : Cmd) : Option State :=
  let isDone (i : Nat) : Bool := bit x.step i == 1 || x.comp i == 15
  let held : Bool := bit x.step 6 == 1
  let note (t : State) (i : Nat) (h : Bool) : Option State :=
    let v := x.step ||| 2 ^ i
    some (t.setCmd n { x with st := 2, step := if h then v ||| 64 else v })
  let next := [0, 1, 2, 3].findSome? fun q =>
    if isDone q then none
    else match s.dieMove q (s.dieGoal x q) with
      | none => some (note s q (decide (s.dieGoal x q < x.comp q)))
      | some none => none
      | some (some t) => some (some (t.setCmd n { x with st := 2 }))
  match next with
  | some t => t
  | none =>
    if !isDone 4 then
      (if x.comp 4 = 1 then note s 4 s.cellarHeld
       else if s.power.cellarC1 then some (s.beginC0.setCmd n { x with st := 2 })
       else if s.power.cellarWaking then none else note s 4 false)
    else if !([0, 1, 2, 3].all isDone) then none
    else if !isDone 5 then
      (if x.comp 5 = 0 then (if s.power.dram = 0 then note s 5 false else if s.power.dram = 1 then some (s.dramExit.setCmd n { x with st := 2 }) else none)
       else if s.dramStays then note s 5 true
       else if s.power.dram = 1 then note s 5 false
       else if s.dramRestful then some ((s.modPower fun p => { p with dram := 1, dramSince := s.time }).setCmd n { x with st := 2 })
       else none)
    else some (s.finishCmd n (if held then 6 else 0) s.systemState)

/-- POWER's run: at the policy core, component by component, once what it names is trained; it wakes sleeping application cores, unless it names the
self-refresh that they would prevent (R51, R56, R86, R90, log 47). -/
def State.powerRun (s : State) (n : Nat) (x : Cmd) : Option State :=
  if powerBad x then some (s.finishCmd n 2 0)
  else if ([0, 1, 2, 3].any fun q => x.comp q != 15) && decide (s.fw.step < 6) then none
  else if x.comp 5 ≠ 15 && decide (s.fw.step < 5) then none
  else if x.st = 0 then some (s.handOff n x 6)
  else if x.st < 2 then some ((if x.comp 5 = 1 then s else s.beginAppWake).setCmd n { x with st := 2 })
  else s.powerStep n x

/-- POWER (R56). -/
def execPower (s : State) : Host.Outcome State Fault Refusal :=
  nextState (match s.focusCmd 10 with | some (n, x) => (s.powerRun n x).getD s | none => s)

/-! ### ATTEST and QUERY (R85, R93) -/

/-- Bytes written to a command's buffer with its end: FAULT where the buffer cannot be written, a wait where it must (R50, R77, R200). -/
def State.bufferOut (s : State) (n : Nat) (x : Cmd) (va : Nat) (l : List Byte) : Option State :=
  match s.svcWait x.svc x.part (pagesOf va l.length) with
  | some t => t
  | none =>
    match s.badWrite x.part va l.length with
    | some f => some (s.finishCmd n 3 f)
    | none =>
      match s.svcWrite x.part va l with
      | some t => some (t.finishCmd n 0 l.length)
      | none => some (s.finishCmd n 3 va)

/-- A list of bytes of a length, cut or filled with zeros. -/
def padTo (n : Nat) (l : List Byte) : List Byte := l.take n ++ List.replicate (n - l.length) 0

/-- Spare link lanes in use, in both directions of the die and ring links (R16, R94). -/
def State.lanesUsed (s : State) : Nat :=
  (List.range 8).foldl (fun n i => n + (2 - min 2 (s.link i).tx.spares) + (2 - min 2 (s.link i).rx.spares)) 0

/-- Spares used and left of each kind: kettle cores, SRAM rows, link lanes, DRAM rows (R94, log 74). -/
def State.spares (s : State) : List (Nat × Nat) :=
  let cores := s.fw.repaired.length
  let sram := (s.fw.rowsUsed.filter fun r => !dramRow r).length
  let dram := (s.fw.rowsUsed.filter dramRow).length
  [(cores, 16 - cores), (sram, sramSpares - sram), (s.lanesUsed, 32 - s.lanesUsed), (dram, Config.dramSpares - dram)]

/-- Total spares in use (R93, R94). -/
def State.sparesUsed (s : State) : Nat := s.spares.foldl (fun n x => n + x.1) 0

/-- The firmware measurement: of the update image where bring-up took one (R91 to R93). -/
def State.fwDigest (s : State) : List Byte := if s.fw.updated then shake256 s.fw.image 64 else Config.measurement 0

/-- What the alias key pair is derived from: the measurements of the firmware image and of the board configuration (R92). -/
def State.identity (s : State) : List Byte := padTo 64 s.fwDigest ++ padTo 64 (Config.measurement 1)

/-- Bytes 0 to 271 of an attestation report (R93). -/
def State.reportBody (s : State) (x : Cmd) : List Byte :=
  let digests := match s.partition x.part with | some y => y.digests | none => []
  toBytes 8 1 ++ toBytes 8 386 ++ x.block.take 32 ++ toBytes 2 s.fw.lifecycle ++ toBytes 2 x.part ++ toBytes 2 s.fw.package
    ++ toBytes 2 s.sparesUsed ++ toBytes 8 0 ++ padTo 64 s.fwDigest ++ padTo 64 (Config.measurement 1)
    ++ padTo 64 (shake256 digests 64) ++ toBytes 8 s.time ++ toBytes 8 0

/-- ATTEST's run, at the policy core (R86, R93). -/
def State.attestRun (s : State) (n : Nat) (x : Cmd) : Option State :=
  if x.st = 0 then some (s.handOff n x 6)
  else if x.fld 0x28 63 0 < 386 then some (s.finishCmd n 2 0)
  else
    let body := s.reportBody x
    s.bufferOut n x (x.fld 0x20 55 0) (body ++ padTo 114 (ed448Sign (Config.aliasSecret s.fw.package s.identity) body))

/-- ATTEST (R93). -/
def execAttest (s : State) : Host.Outcome State Fault Refusal :=
  nextState (match s.focusCmd 12 with | some (n, x) => (s.attestRun n x).getD s | none => s)

/-- The bytes of a QUERY item for a buffer length: item 1 gives the kettle's table, and the cellar's after it where the buffer holds both
(R85, R355). -/
def State.queryItem (s : State) (item len : Nat) : List Byte :=
  if item = 0 then
    padTo 32 (Config.queryLayout 0 [7, Config.stepping, s.fw.package, s.fw.lifecycle, if 7 ≤ s.fw.step then 1 else 0, s.fw.version, s.fw.rollback])
  else if item = 1 then toBytes 64 (maximaTable false) ++ (if 128 ≤ len then toBytes 64 (maximaTable true) else [])
  else if item = 2 then padTo 64 (Config.queryLayout 2 (s.spares.flatMap fun x => [x.1, x.2]))
  else if item = 3 then
    padTo 64 (Config.queryLayout 3 ((List.range 96).flatMap fun c => [SMap.get 0 s.fw.soft c, SMap.get 0 s.fw.uncorr c, SMap.get 0 s.fw.mismatch c]))
  else padTo 2048 (Config.certificate s.fw.package s.identity)

/-- QUERY's run (R85). -/
def State.queryRun (s : State) (n : Nat) (x : Cmd) : Option State :=
  let item := x.fld 0 7 0
  let len := x.fld 0x10 63 0
  let l := s.queryItem item len
  if 5 ≤ item || len < l.length then some (s.finishCmd n 2 0) else s.bufferOut n x (x.fld 8 55 0) l

/-- QUERY (R85). -/
def execQuery (s : State) : Host.Outcome State Fault Refusal :=
  nextState (match s.focusCmd 13 with | some (n, x) => (s.queryRun n x).getD s | none => s)

end Sys2Proof.Machine
end

