-- ==== Sys2Proof/Machine/Emit.lean ====
section
/-! DEFINITION. What LOAD emits for an Opnobex module: descriptors, port tables, the entry code of each actor and the root task (R447, R448).
Each module takes 2 MiB of the partition's memory, at addresses that the model chooses (log 75). -/
namespace Sys2Proof.Machine

/-- An actor that the translation of a module gives: its descriptor words, with the body in word 0 and without the port table's address; its port-table
entries, input ports first, each as the actor that its PEER names and its word 1; and the firings after which it exits, 0 for no limit (R447). -/
structure OpxActor where
  desc  : List Nat
  ports : List (Nat × Nat)
  limit : Nat
  deriving DecidableEq, Repr

/-- A translated module: its actors, and the addresses at which the root's descriptor, and the symbol index of the root in the loaded graph header, are
written too, where there are such (R446). -/
structure OpxModule where
  actors : List OpxActor
  root   : Option Nat
  header : Option (Nat × Nat)
  deriving DecidableEq, Repr

/-! ### Places (log 75) -/

/-- Modules for which a partition's emission space in DRAM has room. -/
def opxMax : Nat := 8192
/-- First byte of the virtual memory in which modules are emitted. -/
def emitVa : Nat := 0xE0000000
/-- First byte of a partition's emission space in DRAM. -/
def emitPa (p : Nat) : Nat := 0x8000000000 + p * 0x400000000
/-- Bytes that a module takes. -/
def opxSize : Nat := 0x200000

/-- Address of a module's wiring barrier; a module stands at its slot of 2 MiB. -/
def opxBase (i : Nat) : Nat := emitVa + i * opxSize
/-- Address of the root's descriptor. -/
def opxRoot (i : Nat) : Nat := opxBase i + 64
/-- Address of an actor's descriptor. -/
def opxDesc (i a : Nat) : Nat := opxBase i + 128 + 64 * a
/-- Address of an actor's port table. -/
def OpxModule.table (m : OpxModule) (i a : Nat) : Nat :=
  opxDesc i m.actors.length + 16 * (m.actors.take a).foldl (fun n x => n + x.ports.length) 0
/-- Address of an actor's entry line; the root's code comes after those of the actors. -/
def OpxModule.entry (m : OpxModule) (i a : Nat) : Nat := (m.table i m.actors.length + 63) / 64 * 64 + 64 * a

/-! ### Code (R268, R269, R448) -/

/-- A line of up to five instructions with marks on some slots, and its parity. -/
def emitLine (l : List Instr) (marks : Nat) : Nat :=
  let body := l.zipIdx.foldl (fun n x => n + ((encode x.1).getD 0).toNat * 2 ^ (96 * x.2)) 0
  let par := (List.range 8).foldl (fun p i => p + parity60 (bits body (60 * i + 59) (60 * i)) * 2 ^ i) 0
  body + (par + marks * 256) * 2 ^ 480

/-- The control of an emitted slot: always executed, with the longest stall. -/
def emitCtl : Ctl := { stall := 15, pk := 0, pn := false }

/-- The immediate of a jump from a line to a slot (R278). -/
def jumpImm (src dst : Nat) : Word := BitVec.ofInt 64 (((lineAddr dst : Int) - lineAddr src) / 64 * 8 + slotIdx dst)

/-- The entry line of an actor: where FIRING, which s29 holds above 2^32, is 0, it waits past generation 0 of the barrier whose address s28 holds; then it
goes to its body (R438, R448). -/
def entryLine (here body : Nat) : Nat :=
  emitLine [.lpad 15 .firing, .brc emitCtl .i64 .lt 29 0 4, .brc emitCtl .i64 .ge 29 28 4, .bwait emitCtl false 0 28 0, .j 15 (jumpImm here body)] 17

/-- The port-table entries of a module that name an actor, by their addresses (R101, R448). -/
def OpxModule.naming (m : OpxModule) (i a : Nat) : List Nat :=
  m.actors.zipIdx.flatMap fun x => (x.1.ports.zipIdx.filter fun y => y.1.1 == a).map fun y => m.table i x.2 + 16 * y.2

/-- The root task: the wiring barrier, every actor in descending number with its handle stored where its PEER is named, and the arrival (R448). -/
def OpxModule.rootCode (m : OpxModule) (i : Nat) : List Instr :=
  [.lpad 15 .firing, .movi 15 2 (BitVec.ofNat 64 (opxBase i)), .binit emitCtl 2 (.imm 1)]
  ++ ((List.range m.actors.length).reverse.flatMap fun a =>
      [.movi 15 3 (BitVec.ofNat 64 (opxDesc i a)), .spawn emitCtl 4 3 0 2]
      ++ (m.naming i a).flatMap fun e => [.movi 15 5 (BitVec.ofNat 64 e), .st emitCtl .i64 5 0 4 0])
  ++ [.barr emitCtl 0 2 (.imm 1), .retire emitCtl 0]

/-- Instructions as lines of five; the first line's first slot is marked. -/
def codeLines (l : List Instr) : List Nat :=
  (List.range ((l.length + 4) / 5)).map fun n => emitLine ((l.drop (5 * n)).take 5) (if n = 0 then 1 else 0)

/-! ### Emission -/

/-- Descriptor words as one number. -/
def descBytes (l : List Nat) : Nat := l.foldr (fun w acc => w % 2 ^ 64 + 2 ^ 64 * acc) 0

/-- The root's descriptor: a task of any class with a workspace of 74 units (R99, R448). -/
def OpxModule.rootDesc (m : OpxModule) (i : Nat) : Nat :=
  descBytes [m.entry i m.actors.length, 0x0503 * 2 ^ 48 + 2 * 2 ^ 27 + 74]

/-- An actor's descriptor in its module: it enters at its entry line, and names its port table where it has ports (R99, R448). -/
def OpxModule.actorDesc (m : OpxModule) (i a : Nat) (x : OpxActor) : Nat :=
  descBytes (((x.desc.set 0 (m.entry i a)).set 4 (if x.ports.isEmpty then 0 else m.table i a)))

/-- What a module writes: address, bytes and value. -/
def OpxModule.writes (m : OpxModule) (i : Nat) : List (Nat × Nat × Nat) :=
  [(opxBase i, 64, 0), (opxRoot i, 64, m.rootDesc i)]
  ++ (m.actors.zipIdx.flatMap fun x =>
      (opxDesc i x.2, 64, m.actorDesc i x.2 x.1) :: (m.entry i x.2, 64, entryLine (m.entry i x.2) (x.1.desc.headD 0))
      :: x.1.ports.zipIdx.map fun y => (m.table i x.2 + 16 * y.2, 16, y.1.2 * 2 ^ 64))
  ++ (codeLines (m.rootCode i)).zipIdx.map fun x => (m.entry i (m.actors.length + x.2), 64, x.1)

/-- The state with a byte written by LOAD through a page that grants an access, whose leaf is marked (R193). -/
def State.loadByte (s : State) (p va : Nat) (a : Access) (b : Nat) : State :=
  match s.translateFor p va a true with
  | .ok pa _ _ _ => (s.translated p va a).physWrite p pa 1 b true
  | _ => s

/-- The state with bytes of an installed object written by LOAD, through whichever access their page grants (R441, R446). -/
def State.loadBytes (s : State) (p va n v : Nat) : State :=
  (List.range n).foldl (fun t i =>
    let b := (v >>> (8 * i)) % 256
    match t.translateFor p (va + i) .write true with
    | .ok _ _ _ _ => t.loadByte p (va + i) .write b
    | _ => t.loadByte p (va + i) .fetch b) s

/-- The first slot from a number on at which a partition's virtual memory holds nothing, among those that a search covers. -/
def State.emitSlot (s : State) (p i : Nat) : Option Nat :=
  ((List.range 65536).map fun k => i + k).find? fun k =>
    match s.mapLeaf p (opxBase k) 3 0 5 0 (s.rootOf p) with
    | .clash _ => false
    | .ok _ => (State.walkFrom s p (opxBase k) 5 0 (s.rootOf p)).isNone
    | .noFrame _ => true

/-- The state with a module emitted into a partition; nothing where no page table or no room is left for it (R443, R448, R472). -/
def State.emitModule (s : State) (p : Nat) (m : OpxModule) : Option State :=
  match s.partition p, s.emitSlot p 0 with
  | some y, some i =>
    let pa := emitPa p + y.emitted * opxSize
    if opxMax ≤ y.emitted then none
    else match s.mapLeaf p (opxBase i) 3 (pa + 1 + 2 ^ 2 + 2 ^ 3 + 2 ^ 4 + 2 ^ 8) 5 0 (s.rootOf p) with
      | .noFrame _ => none
      | .clash _ => none
      | .ok t =>
        let t := (m.writes i).foldl (fun (u : State) w => u.physWrite p (pa + (w.1 - opxBase i)) w.2.1 w.2.2 true) t
        let t := match m.root with
          | some va => t.loadBytes p va 64 (m.rootDesc i)
          | none => t
        let t := match m.header with
          | some (va, n) => t.loadBytes p va 8 n
          | none => t
        some (t.modPartition p fun x =>
          { x with emitted := y.emitted + 1
                   limits := x.limits ++ (m.actors.zipIdx.filter fun y => y.1.limit != 0).map fun y => (opxDesc i y.2, y.1.limit) })
  | _, _ => none

/-- The state with modules emitted one after another, each with its object's number; the number of the first that cannot be (R443, R447). -/
def State.emitAll (s : State) (p : Nat) : List (Nat × OpxModule) → Nat ⊕ State
  | [] => .inr s
  | (k, m) :: l =>
    match s.emitModule p m with
    | some t => State.emitAll t p l
    | none => .inl k

end Sys2Proof.Machine
end

