-- ==== Sys2Proof/Machine/Load.lean ====
section
/-! DEFINITION. LOAD: bundles, code objects, the partition's namespace, and Opnobex modules (R91, R439 to R448). A bundle, and an object
in it, is one little-endian number with its length in bytes. -/
namespace Sys2Proof.Machine

/-- The `n` bytes at an offset of a blob. -/
def blobN (v off n : Nat) : Nat := (v >>> (8 * off)) % 2 ^ (8 * n)

/-! ### ELF files (R439) -/

/-- A section: name offset, type, flags, address, file offset, size. -/
structure Sect where
  name : Nat
  ty   : Nat
  fl   : Nat
  addr : Nat
  off  : Nat
  size : Nat
  link : Nat
  deriving DecidableEq, Repr

/-- A loaded segment: flags, file offset, address, bytes in the file and in memory. -/
structure Seg where
  fl    : Nat
  off   : Nat
  addr  : Nat
  fsize : Nat
  msize : Nat
  deriving DecidableEq, Repr

/-- A symbol: name, st_info, section index, value and size. -/
structure Sym where
  name  : List Byte
  info  : Nat
  shndx : Nat
  value : Nat
  size  : Nat
  deriving DecidableEq, Repr

/-- Section `i` of an object. -/
def sectAt (v i : Nat) : Sect :=
  let a := blobN v 40 8 + 64 * i
  { name := blobN v a 4, ty := blobN v (a + 4) 4, fl := blobN v (a + 8) 8, addr := blobN v (a + 16) 8, off := blobN v (a + 24) 8
    size := blobN v (a + 32) 8, link := blobN v (a + 40) 4 }

/-- The sections of an object. -/
def sects (v : Nat) : List Sect := (List.range (blobN v 60 2)).map (sectAt v)

/-- The PT_LOAD segments of an object. -/
def segs (v : Nat) : List Seg :=
  ((List.range (blobN v 56 2)).filter fun i => blobN v (blobN v 32 8 + 56 * i) 4 == 1).map fun i =>
    let a := blobN v 32 8 + 56 * i
    { fl := blobN v (a + 4) 4, off := blobN v (a + 8) 8, addr := blobN v (a + 16) 8, fsize := blobN v (a + 32) 8, msize := blobN v (a + 40) 8 }

/-- Bytes up to a zero byte, at most `fuel`. -/
def cString (v : Nat) : Nat → Nat → List Byte
  | _, 0 => []
  | off, fuel + 1 => if blobN v off 1 = 0 then [] else BitVec.ofNat 8 (blobN v off 1) :: cString v (off + 1) fuel

/-- A name of ASCII characters as bytes. -/
def ascii (s : String) : List Byte := s.toList.map fun c => BitVec.ofNat 8 c.toNat

/-- The name of a section. -/
def sectName (v : Nat) (x : Sect) : List Byte := cString v ((sectAt v (blobN v 62 2)).off + x.name) 64

/-- The section of a name. -/
def sectOf (v : Nat) (name : String) : Option Sect := (sects v).find? fun x => sectName v x == ascii name

/-- The symbols of an object. -/
def syms (v : Nat) : List Sym :=
  match sectOf v ".symtab", sectOf v ".strtab" with
  | some t, some n =>
    (List.range (t.size / 24)).map fun i =>
      let a := t.off + 24 * i
      { name := cString v (n.off + blobN v a 4) 4096, info := blobN v (a + 4) 1, shndx := blobN v (a + 6) 2, value := blobN v (a + 8) 8, size := blobN v (a + 16) 8 }
  | _, _ => []

/-- A global or weak symbol. -/
def Sym.outer (x : Sym) : Bool := x.info / 16 == 1 || x.info / 16 == 2
/-- A weak symbol. -/
def Sym.weak (x : Sym) : Bool := x.info / 16 == 2

/-- A module for Opnobex (R439). -/
def isOpx (v : Nat) : Bool := bit (blobN v 48 4) 8 == 1

/-- A section does not have its alignment, or is absent where it is not optional (R439). -/
def sectBad (v : Nat) (name : String) (algn : Nat) (optional : Bool) : Bool :=
  match sectOf v name with
  | some x => x.addr % algn != 0
  | none => !optional

/-- An object of `n` bytes fails the checks of R439 and R444 on the file itself. -/
def objectBad (v n : Nat) : Bool :=
  let shnum := blobN v 60 2
  let phnum := blobN v 56 2
  decide (n < 64) || blobN v 0 4 != 0x464C457F || blobN v 4 1 != 2 || blobN v 5 1 != 1 || blobN v 6 1 != 1 || blobN v 7 1 != 0
  || blobN v 16 2 != 2 || blobN v 18 2 != 0x5147 || blobN v 48 4 % 256 != 1 || blobN v 48 4 / 512 != 0
  || (phnum != 0 && (blobN v 54 2 != 56 || decide (n < blobN v 32 8 + 56 * phnum)))
  || (shnum != 0 && (blobN v 58 2 != 64 || decide (n < blobN v 40 8 + 64 * shnum) || decide (shnum ≤ blobN v 62 2)))
  || (sects v).any (fun x => x.ty == 4 || x.ty == 9 || (x.ty != 0 && x.ty != 8 && decide (n < x.off + x.size)))
  || (match sectOf v ".text" with | some x => bit x.fl 1 == 0 || bit x.fl 2 == 0 || x.addr % 64 != 0 || x.size % 64 != 0 | none => true)
  || sectBad v ".actors" 64 false || sectBad v ".shapes" 16 false || sectBad v ".lh.link" 16 true
  || (sectOf v ".symtab").isNone || (sectOf v ".strtab").isNone || (sectOf v ".opx.graph").isSome != isOpx v
  || (segs v).any fun x => decide (x.msize < x.fsize) || decide (n < x.off + x.fsize) || decide (spaceEnd < x.addr + x.msize)

/-- How LOAD reaches the pages of a segment: by X, or by W (R439). -/
def Seg.access (x : Seg) : Access := if bit x.fl 0 = 1 then .fetch else .write

/-- A walk that does not lead, or will not lead after a wait, to memory of the device. -/
def Walk.unfit : Walk → Bool
  | .ok _ _ k _ => k != 1
  | .page | .prot | .ecc => true
  | .flash _ _ _ _ | .shut => false

/-- Segments of an object against the partition's maps and the ranges installed before (R439, R443). -/
def State.segsBad (s : State) (p : Nat) (ranges : List (Nat × Nat)) (v : Nat) : Bool :=
  (segs v).any fun x =>
    ((pagesOf x.addr x.msize).any fun a => (s.translateFor p a x.access true).unfit)
    || ranges.any fun r => rangesMeet x.addr x.msize r.1 r.2

/-- The first page of an object's segments that lies in flash. -/
def State.segFlash (s : State) (p v : Nat) : Option (Nat × Nat × Nat) :=
  (segs v).findSome? fun x => (pagesOf x.addr x.msize).findSome? fun a =>
    match s.translateFor p a x.access true with | .flash leaf _ size _ => some (a, leaf, size) | _ => none

/-! ### The namespace (R441, R445) -/

/-- A definition in a partition's namespace: name, address, weak, and body digest. -/
abbrev Def_ := List Byte × Nat × Bool × List Byte

/-- The byte of an object's image at an address: a segment's file byte, or zero. -/
def imageByte (v a : Nat) : Byte :=
  match (segs v).find? fun x => decide (x.addr ≤ a) && decide (a < x.addr + x.fsize) with
  | some x => BitVec.ofNat 8 (blobN v (x.off + (a - x.addr)) 1)
  | none => 0

/-- Body digest of a symbol (R445). -/
def bodyDigest (v : Nat) (x : Sym) : List Byte :=
  shake256 (toBytes 1 x.info ++ toBytes 8 x.size ++ (List.range x.size).map fun i => imageByte v (x.value + i)) 32

/-- The namespace with an object's definitions, from symbol `i` on; the index of a refused duplicate otherwise (R445). -/
def addDefs (v : Nat) : List Sym → Nat → List Def_ → Nat ⊕ List Def_
  | [], _, ns => .inr ns
  | x :: l, i, ns =>
    if !x.outer || x.shndx = 0 then addDefs v l (i + 1) ns
    else
      let d := bodyDigest v x
      match ns.find? fun y => y.1 == x.name with
      | none => addDefs v l (i + 1) (ns ++ [(x.name, x.value, x.weak, d)])
      | some y => if y.2.2.2 == d || (y.2.2.1 && x.weak) then addDefs v l (i + 1) ns else .inl i

/-- The link entries of an object resolved: places with addresses, or the symbol index of one that is not defined (R441). -/
def resolveLinks (v : Nat) (table : List Sym) (ns : List Def_) : Nat ⊕ List (Nat × Nat) :=
  match sectOf v ".lh.link" with
  | none => .inr []
  | some sec =>
    (List.range (sec.size / 16)).foldl (fun r i =>
      match r with
      | .inl e => .inl e
      | .inr l =>
        let w := blobN v (sec.off + 16 * i) 8
        let k := w % 2 ^ 32
        match table[k]? with
        | none => .inl k
        | some x =>
          if 2 ^ 32 ≤ w || !x.outer || x.shndx != 0 then .inl k
          else match ns.find? fun y => y.1 == x.name with
            | some y => .inr (l ++ [(sec.addr + 16 * i + 8, y.2.1)])
            | none => if x.weak then .inr (l ++ [(sec.addr + 16 * i + 8, 0)]) else .inl k) (.inr [])

/-! ### Opnobex modules (R446, R447) -/

/-- An edge of a graph: producer and its port, consumer and its port, rates and token bytes. -/
structure Edge where
  src : Nat
  sport : Nat
  dst : Nat
  dport : Nat
  prod : Nat
  cons : Nat
  tsz : Nat
  deriving DecidableEq, Repr

/-- An instruction that the portable subset excludes (R446). -/
def notPortable : Instr → Bool
  | .mfs _ _ _ | .mts _ _ _ | .cacheIinv _ _ _ | .cacheIall _ | .cacheDwb _ _ _ | .cacheDinv _ _ _ | .cacheDwbinv _ _ _ | .tlbiPage _ _
  | .tlbiAll _ | .park _ _ | .wfm _ _ _ _ _ | .compose _ _ _ _ | .decomp _ | .pitch _ _ _ _ | .rack _ _ _ _ _ | .pwalk _ _ _ _
  | .pset _ true _ _ _ => true
  | _ => false

/-- An instruction in the slot of an object's code at an address. -/
def codeAt (v a : Nat) : Option Instr :=
  let line := ofBytes ((List.range 64).map fun i => imageByte v (lineAddr a + i))
  match decode (slotBits line (slotIdx a)) with
  | .ok i => some i
  | .error _ => none

/-- The code of an object holds an instruction that the portable subset excludes. -/
def subsetBad (v : Nat) : Bool :=
  match sectOf v ".text" with
  | none => false
  | some x => (List.range (x.size / 64)).any fun i => [0, 1, 2, 3, 4].any fun k => (codeAt v (x.addr + 64 * i + 12 * k)).any notPortable

/-- Words of an actor entry of a graph. -/
def actorWord (v off a i : Nat) : Nat := blobN v (off + 64 + 32 * a + 8 * i) 8

/-- Edge `e` of a graph at an offset with `nact` actors. -/
def edgeAt (v off nact e : Nat) : Edge :=
  let a := off + 64 + 32 * nact + 16 * e
  let w0 := blobN v a 8
  let w1 := blobN v (a + 8) 8
  { src := bits w0 15 0, sport := bits w0 18 16, dst := bits w0 47 32, dport := bits w0 50 48, prod := bits w1 6 0, cons := bits w1 14 8, tsz := bits w1 27 16 }

/-- Reserved bits of an edge entry. -/
def edgeReserved (v off nact e : Nat) : Bool :=
  let a := off + 64 + 32 * nact + 16 * e
  let w0 := blobN v a 8
  let w1 := blobN v (a + 8) 8
  bits w0 31 19 != 0 || bits w0 63 51 != 0 || bit w1 7 != 0 || bit w1 15 != 0 || bits w1 63 28 != 0

/-- An actor entry breaks R446. -/
def graphActorBad (v off a : Nat) (table : List Sym) : Bool :=
  let w0 := actorWord v off a 0
  let w1 := actorWord v off a 1
  let w2 := actorWord v off a 2
  bits w0 63 32 != 0 || bits w1 63 21 != 0 || bits w2 63 32 != 0 || actorWord v off a 3 != 0 || decide (bits w1 15 0 < 74)
    || decide (16384 < bits w1 15 0) || bits w1 17 16 == 3 || bits w1 20 18 == 7
    || (bits w2 31 0 != 0 && (table[bits w2 31 0]?).isNone)
    || (match table[bits w0 31 0]? with
      | some x => !slotOk x.value || (match codeAt v x.value with | some (.lpad _ .firing) => false | _ => true)
      | none => true)

/-- Ports of a list that should run 0, 1, … without gaps, at most 8. -/
def portsBad (l : List Nat) : Bool := decide (8 < l.length) || (List.range l.length).any fun i => !l.contains i

/-- The actors reached from a set in one direction of the edges, in a number of rounds. -/
def reach (es : List Edge) (both : Bool) : Nat → List Nat → List Nat
  | 0, l => l
  | n + 1, l => reach es both n ((l ++ es.flatMap fun e => (if l.contains e.src then [e.dst] else []) ++ if both && l.contains e.dst then [e.src] else []).dedup)

/-- A graph has a cycle: some actor is reached from one of its own consumers. -/
def cyclic (es : List Edge) (nact : Nat) : Bool :=
  (List.range nact).any fun a => (reach es false nact ((es.filter fun e => e.src == a).map fun e => e.dst)).contains a

/-- Relative rates spread from actor 0 over the edges: numerator and denominator of each actor reached (R447). -/
def spread (es : List Edge) : Nat → SMap (Nat × Nat) → SMap (Nat × Nat)
  | 0, m => m
  | n + 1, m => spread es n (es.foldl (fun m e =>
      match SMap.find? m e.src, SMap.find? m e.dst with
      | some x, none => let g := Nat.gcd (x.1 * e.prod) (x.2 * e.cons); SMap.put m e.dst (x.1 * e.prod / g, x.2 * e.cons / g)
      | none, some y => let g := Nat.gcd (y.1 * e.cons) (y.2 * e.prod); SMap.put m e.src (y.1 * e.cons / g, y.2 * e.prod / g)
      | _, _ => m) m)

/-- The repetition vector of a connected graph: the least positive integers in the rates' proportions (R447). -/
def repetition (es : List Edge) (nact : Nat) : List Nat :=
  let m := spread es nact [(0, (1, 1))]
  let l := m.foldl (fun n e => Nat.lcm n e.2.2) 1
  let q := (List.range nact).map fun a => match SMap.find? m a with | some x => x.1 * (l / x.2) | none => 1
  let g := q.foldl Nat.gcd 0
  q.map fun x => x / max g 1

/-- One firing of the schedule: tokens on each edge and the most there have been, and firings left (R447). -/
def fireOne (es : List Edge) (tok most left : List Nat) : Option (List Nat × List Nat × List Nat) :=
  let ready (a : Nat) : Bool := decide (0 < (left[a]?).getD 0) && (es.zipIdx.all fun x => x.1.dst != a || decide (x.1.cons ≤ (tok[x.2]?).getD 0))
  match ((List.range left.length).filter ready).getLast? with
  | none => none
  | some a =>
    let tok := es.zipIdx.map fun x => (tok[x.2]?).getD 0 + (if x.1.src = a then x.1.prod else 0) - (if x.1.dst = a then x.1.cons else 0)
    some (tok, List.zipWith max most tok, left.set a ((left[a]?).getD 0 - 1))

/-- The greatest token count of each edge over a period (R447). -/
def schedule (es : List Edge) : Nat → List Nat → List Nat → List Nat → List Nat
  | 0, _, most, _ => most
  | n + 1, tok, most, left => match fireOne es tok most left with | some r => schedule es n r.1 r.2.1 r.2.2 | none => most

/-- A consumer's FIFO offsets from the start of its span, by input port, with the bytes they take (R447). -/
def fifoOffs (ins : List (Nat × Nat)) : List Nat × Nat :=
  ins.foldl (fun r x => (r.1 ++ [r.2], r.2 + (x.1 * x.2 + 63) / 64 * 64)) ([], 0)

/-- The core of an actor of a class: HINT (R447). -/
def State.opxCore (s : State) (p cls a : Nat) : Option Nat :=
  let l := allCores.filter fun c => s.inShare p c && serves c (if cls = 2 then 0 else cls)
  l[a % max l.length 1]?

/-- The edge into an input port, or out of an output port. -/
def edgeOf (es : List Edge) (caps : List Nat) (f : Edge → Bool) : Option (Edge × Nat) :=
  (es.zipIdx.find? fun x => f x.1).map fun x => (x.1, (caps[x.2]?).getD 0)

/-- Where the root of a module is written too: its descriptor at the symbol that ROOT names, where there is one; otherwise the index of a symbol after the
last of the module's goes into the loaded header (R446, log 79). -/
def rootPlaces (v : Nat) (sec : Sect) (table : List Sym) : Option Nat × Option (Nat × Nat) :=
  let k := bits (blobN v (sec.off + 8) 8) 55 0
  match if k = 0 then none else table[k]? with
  | some x => (some x.value, none)
  | none =>
    (none, if (segs v).any fun g => decide (g.addr ≤ sec.addr) && decide (sec.addr + 64 ≤ g.addr + g.msize) then some (sec.addr + 8, table.length) else none)

/-- The translation of a module: the failing entry, or what is emitted for it (R447, R448). -/
def State.translateOpx (s : State) (p v : Nat) (table : List Sym) : Nat ⊕ OpxModule :=
  match sectOf v ".opx.graph" with
  | none => .inl 0
  | some sec =>
    let off := sec.off
    let h := blobN v off 8
    let nact := bits h 15 0
    let nedge := bits h 31 16
    if sec.size < 64 || nact = 0 || 1024 < nact || 4096 < nedge || decide (sec.size < 64 + 32 * nact + 16 * nedge)
        || bits (blobN v (off + 8) 8) 63 56 != 0 || blobN v (off + 16) 48 != 0 || subsetBad v then .inl 0
    else
      let es := (List.range nedge).map (edgeAt v off nact)
      match (List.range nact).find? fun a => graphActorBad v off a table with
      | some a => .inl a
      | none =>
        match (List.range nedge).find? fun i => edgeReserved v off nact i || (match es[i]? with
            | some e => decide (nact ≤ e.src) || decide (nact ≤ e.dst) || e.prod == 0 || e.cons == 0 || e.tsz == 0 | none => true) with
        | some i => .inl (nact + i)
        | none =>
          let ins (a : Nat) := es.filter fun e => e.dst == a
          let outs (a : Nat) := es.filter fun e => e.src == a
          match (List.range nact).find? fun a => portsBad ((ins a).map fun e => e.dport) || portsBad ((outs a).map fun e => e.sport) with
          | some a => .inl a
          | none =>
            if (reach es true nact [0]).length < nact || cyclic es nact then .inl 0
            else
              let q := repetition es nact
              match (List.range nedge).find? fun i => match es[i]? with
                  | some e => (q[e.src]?).getD 0 * e.prod != (q[e.dst]?).getD 0 * e.cons | none => true with
              | some i => .inl (nact + i)
              | none =>
                let zero := es.map fun _ => 0
                let most := schedule es (q.foldl (· + ·) 0) zero zero q
                let caps := List.zipWith (fun (e : Edge) m => max (max e.prod e.cons) m) es most
                match (List.range nedge).find? fun i => decide (127 < (caps[i]?).getD 0) with
                | some i => .inl (nact + i)
                | none =>
                  let fifos (a : Nat) := fifoOffs ((List.range (ins a).length).map fun i =>
                    match edgeOf es caps (fun e => e.dst == a && e.dport == i) with | some x => (x.2, x.1.tsz) | none => (0, 0))
                  let spn (a : Nat) := ((fifos a).2 + 4095) / 4096
                  let core (a : Nat) := s.opxCore p (bits (actorWord v off a 1) 17 16) a
                  let base (a : Nat) := if spn a = 0 then 0 else (List.range a).foldl (fun n b => if core b == core a then n + spn b else n) 1
                  match (List.range nact).find? fun a => (core a).isNone || decide (255 < spn a)
                      || decide ((if (core a).any isCellar then 64 else 256) < base a + spn a) with
                  | some a => .inl a
                  | none =>
                    let places := rootPlaces v sec table
                    .inr { root := places.1, header := places.2, actors := (List.range nact).map fun a =>
                      let w1 := actorWord v off a 1
                      let ni := (ins a).length
                      let no := (outs a).length
                      let body := match table[bits (actorWord v off a 0) 31 0]? with | some x => x.value | none => 0
                      let shp := bits (actorWord v off a 2) 31 0
                      let shapes := if shp = 0 then 0 else match table[shp]? with | some x => x.value | none => 0
                      let inE (i : Nat) := edgeOf es caps fun e => e.dst == a && e.dport == i
                      let outE (j : Nat) := edgeOf es caps fun e => e.src == a && e.sport == j
                      let rate (x : Option (Edge × Nat)) (f : Edge → Nat) : Nat := match x with | some y => f y.1 | none => 0
                      let port (x : Option (Edge × Nat)) (out : Bool) : Nat × Nat := match x with
                        | some y => (if out then y.1.dst else y.1.src, (if out then y.1.dport * 2 ^ 48 else 0) + y.1.tsz * 2 ^ 36 + y.2 * 2 ^ 29
                            + (base y.1.dst * 4096 + ((fifos y.1.dst).1[y.1.dport]?).getD 0))
                        | none => (nact, 0)
                      { desc := [body, 0x0503 * 2 ^ 48 + spn a * 2 ^ 40 + no * 2 ^ 36 + ni * 2 ^ 32 + bits w1 20 18 * 2 ^ 29 + bits w1 17 16 * 2 ^ 27 + 2 ^ 26 + bits w1 15 0,
                        (List.range ni).foldl (fun n i => n + rate (inE i) (fun e => e.cons) * 2 ^ (8 * i)) 0,
                        (List.range no).foldl (fun n j => n + rate (outE j) (fun e => e.prod) * 2 ^ (8 * j)) 0,
                        0, shapes, 0, base a * 2 ^ 52 + 2 ^ 51 + (core a).getD 0 * 2 ^ 40]
                        limit := (q[a]?).getD 0 * bits h 63 32
                        ports := ((List.range ni).map fun i => port (inE i) false) ++ (List.range no).map fun j => port (outE j) true } }

/-! ### Bundles (R442, R443) -/

/-- What LOAD has gathered before it writes anything: the new ranges and namespace, the link entries and the modules. -/
structure Loading where
  ranges  : List (Nat × Nat)
  names   : List Def_
  links   : List (Nat × Nat)
  /-- Each with the number of its object. -/
  modules : List (Nat × OpxModule)
  deriving DecidableEq, Repr

/-- The result word of a failure of LOAD at an object: its number, and a symbol's or a graph entry's (R443). -/
def loadAt (i k : Nat) : Nat := i * 2 ^ 32 + k % 2 ^ 32

/-- Step 3 of LOAD: the ranges installed with those of the bundle's objects from number `i` on (R439, R443). -/
def State.loadRanges (s : State) (p : Nat) : List (Nat × Nat) → Nat → List (Nat × Nat) → (Nat × Nat) ⊕ List (Nat × Nat)
  | [], _, r => .inr r
  | (v, n) :: l, i, r =>
    if objectBad v n || s.segsBad p r v then .inl (2, loadAt i 0)
    else State.loadRanges s p l (i + 1) (r ++ (segs v).map fun x => (x.addr, x.msize))

/-- Step 4 of LOAD: the namespace after each of the objects from number `i` on (R443, R445). -/
def loadNames : List (Nat × Nat) → Nat → List Def_ → (Nat × Nat) ⊕ List (List Def_)
  | [], _, _ => .inr []
  | (v, _) :: l, i, ns =>
    match addDefs v (syms v) 0 ns with
    | .inl k => .inl (8, loadAt i k)
    | .inr names =>
      match loadNames l (i + 1) names with
      | .inl e => .inl e
      | .inr rest => .inr (names :: rest)

/-- Step 5 of LOAD: the link entries of each object, against the definitions up to its own (R441, R443). -/
def loadLinks : List ((Nat × Nat) × List Def_) → Nat → List (Nat × Nat) → (Nat × Nat) ⊕ List (Nat × Nat)
  | [], _, acc => .inr acc
  | ((v, _), ns) :: l, i, acc =>
    match resolveLinks v (syms v) ns with
    | .inl k => .inl (2, loadAt i k)
    | .inr links => loadLinks l (i + 1) (acc ++ links)

/-- Step 6 of LOAD: the Opnobex modules translated (R443, R447). -/
def State.loadModules (s : State) (p : Nat) : List (Nat × Nat) → Nat → List (Nat × OpxModule) → (Nat × Nat) ⊕ List (Nat × OpxModule)
  | [], _, acc => .inr acc
  | (v, _) :: l, i, acc =>
    if !isOpx v then State.loadModules s p l (i + 1) acc
    else match s.translateOpx p v (syms v) with
      | .inl k => .inl (2, loadAt i k)
      | .inr m => State.loadModules s p l (i + 1) (acc ++ [(i, m)])

/-- Steps 3 to 6 of LOAD, each on every object of the bundle in order: a status with a result, or what is to be installed (R443). -/
def State.loadObjects (s : State) (p : Nat) (objs : List (Nat × Nat)) (r : Loading) : (Nat × Nat) ⊕ Loading :=
  match s.loadRanges p objs 0 r.ranges with
  | .inl e => .inl e
  | .inr ranges =>
    match loadNames objs 0 r.names with
    | .inl e => .inl e
    | .inr names =>
      match loadLinks (objs.zip names) 0 r.links with
      | .inl e => .inl e
      | .inr links =>
        match s.loadModules p objs 0 r.modules with
        | .inl e => .inl e
        | .inr modules => .inr { ranges := ranges, names := names.getLastD r.names, links := links, modules := modules }

/-- The state with a segment of an object written, zero beyond its bytes in the file (R443). -/
def State.loadSeg (s : State) (p v : Nat) (x : Seg) : State :=
  (List.range x.msize).foldl (fun t i => t.loadByte p (x.addr + i) x.access (if i < x.fsize then blobN v (x.off + i) 1 else 0)) s

/-- A bundle's header fields are wrong for its length (R442). -/
def bundleBad (v len : Nat) : Bool :=
  let nobj := blobN v 6 2
  let key := blobN v 16 8 % 16
  decide (len < 64 + 114) || blobN v 0 4 != 0x4E42484C || blobN v 4 2 != 1 || blobN v 8 8 != len || blobN v 16 8 / 256 != 0 || decide (2 < key)
    || blobN v 24 40 != 0 || (if key = 2 then nobj != 0 || len != 64 + 57 + 114 else nobj == 0 || decide (64 < nobj) || bits (blobN v 16 8) 7 4 != 0)
    || (key != 2 && (decide (len < 64 + 16 * nobj + 114) || (List.range nobj).any fun i =>
      let o := blobN v (64 + 16 * i) 8
      o % 64 != 0 || decide (o < 64 + 16 * nobj) || decide (len - 114 < o + blobN v (72 + 16 * i) 8)))

/-- The keys under which a bundle's signature may verify: the owner's, with the test key in PROVISIONED; the partition's; or the vendor's for a bundle of
code in RETURNED. That such a bundle which is not signed by the vendor ends with BAD_SIGNATURE is the model's choice (R91, R95, R442, log 76). -/
def State.bundleKeys (s : State) (p key : Nat) : List (List Byte) :=
  if s.fw.lifecycle = 3 && key != 2 then ([0, 1, 2, 3].filter fun i => bit s.fw.revoked i == 0).map fun i => Config.publicKey (3 + i)
  else if key = 1 then (if p = 0 then [] else match s.partition p with | some x => if x.key.isEmpty then [] else [x.key] | none => [])
  else if s.fw.lifecycle = 1 then [Config.publicKey 1, Config.publicKey 7] else [Config.publicKey 1]

/-- Step 7 of LOAD (R191, R443). -/
def State.installBundle (s : State) (p v len : Nat) (objs : List (Nat × Nat)) (r : Loading) : State :=
  let s := objs.foldl (fun t o => (segs o.1).foldl (fun t x => t.loadSeg p o.1 x) t) s
  let s := r.links.foldl (fun t x => t.loadBytes p x.1 8 x.2) s
  let s := s.modPartition p fun x =>
    { x with ranges := r.ranges, names := r.names, loads := x.loads + 1
             digests := x.digests ++ shake256 (toBytes (len - 114) v) 64 }
  { s with cores := List.map (fun (e : Nat × Core) => (e.1, if s.inShare p e.1 then { e.2 with icache := [] } else e.2)) s.cores }

/-- Steps 1 and 2 of LOAD, at dispatch core 5: the status that ends it, if any (R86, R91, R442, R443). -/
def State.bundleCheck (s : State) (p v len : Nat) : Option Nat :=
  let key := blobN v 16 8 % 16
  if bundleBad v len then some 2
  else if key = 2 && p ≠ 0 then some 4
  else if !((s.bundleKeys p key).any fun k => ed448Verify k (toBytes (len - 114) v) (toBytes 114 (v >>> (8 * (len - 114))))) then some 9
  else none

/-- Steps 3 to 7 of LOAD on a bundle whose signature has been checked, at the policy core (R86, R442, R443). -/
def State.loadBundle (s : State) (n : Nat) (x : Cmd) (v len : Nat) : Option State :=
  let p := x.part
  let key := blobN v 16 8 % 16
  let ends (status result : Nat) : Option State := some (s.finishCmd n status result)
  if key = 2 then
    let q := bits (blobN v 16 8) 7 4
    if (s.partition q).isNone then ends 2 0
    else
      let (w, s) := s.takeWord
      some ((s.modPartition q fun y => { y with key := toBytes 57 (blobN v 64 57) }).finishCmd n 0 w.toNat)
  else
    let objs := (List.range (blobN v 6 2)).map fun i =>
      (blobN v (blobN v (64 + 16 * i) 8) (blobN v (72 + 16 * i) 8), blobN v (72 + 16 * i) 8)
    match objs.findSome? fun o => s.segFlash p o.1 with
    | some (va, leaf, size) => s.svcAskPage x.svc p va leaf size
    | none =>
      match s.svcWait x.svc p (objs.flatMap fun o => (segs o.1).flatMap fun g => pagesOf g.addr g.msize) with
      | some t => t
      | none =>
        match s.partition p with
        | none => ends 2 0
        | some y =>
          match s.loadObjects p objs { ranges := y.ranges, names := y.names, links := [], modules := [] } with
          | .inl (status, result) => ends status result
          | .inr r =>
            match if r.modules.isEmpty then none else s.tablesWait true with
            | some t => t
            | none =>
              let t := s.installBundle p v len objs r
              match t.emitAll p r.modules with
              | .inl k => ends 2 (loadAt k 0)
              | .inr t => some (t.finishCmd n 0 ((y.loads + 1) % 2 ^ 32))

/-- LOAD's run: its signature is checked by the core that has the root of trust's requests, the rest is the policy core's (R86, R443). -/
def State.loadRun (s : State) (n : Nat) (x : Cmd) : Option State :=
  let va := x.fld 0 55 0
  let len := x.fld 8 63 0
  if x.st = 0 then some (s.handOff n x 5)
  else if len < 64 + 114 then some (s.finishCmd n 2 0)
  else match s.svcWait x.svc x.part (pagesOf va len) with
    | some t => t
    | none =>
      match s.badAddr x.part va len with
      | some f => some (s.finishCmd n 3 f)
      | none =>
        let v := (s.partRead x.part va len).getD 0
        if x.step = 0 then
          match s.bundleCheck x.part v len with
          | some status => some (s.finishCmd n status 0)
          | none => some ((s.readsMarked x.part (pagesOf va len)).handOff n { x with step := 1 } 6)
        else s.loadBundle n x v len

/-- LOAD (R443). -/
def execLoad (s : State) : Host.Outcome State Fault Refusal :=
  nextState (match s.focusCmd 11 with | some (n, x) => (s.loadRun n x).getD s | none => s)

end Sys2Proof.Machine
end

