-- ==== Sys2Proof/Machine/Bringup.lean ====
section
/-! DEFINITION. Bring-up, the life cycle, host accesses, and links (R16, R18, R32, R36 to R42, R72, R87 to R90, R95, R450, R453). -/
namespace Sys2Proof.Machine

/-! ### Cold reset: steps 1 to 3 of bring-up (R89) -/

/-- The DRAM lines that hold something, or stand under a tag. -/
def State.dramLines (s : State) : List Nat :=
  (List.map (fun (e : Host.Cell) => e.1 / 64) s.mem ++ List.map (fun (e : Nat × LineMeta) => e.1) s.tags
    ++ List.map (fun (e : Nat × Dirty) => e.1) s.dirty).dedup.filter fun l => isDram (l * 64)

/-- The state with a DRAM line unspecified, in its data and its tag (R9, R89). -/
def State.freeLine (s : State) (line : Nat) : State :=
  let tag := Config.freeChoice s.fresh 17 % 17
  let mem := (List.range 64).foldl (fun m i => Memory.set m (line * 64 + i) (Config.freeByte (s.fresh + 1 + i))) s.mem
  { s with mem := mem, tags := if tag = 16 then s.tags else SMap.put s.tags line { ptag := tag }, fresh := s.fresh + 65 }

/-- Bytes of the page-table pool in cellar SRAM, right after partition 0's root (R72, R472). -/
def rootPool (fw : Firmware) : Nat × Nat × Nat := (fw.root0 + 4096, fw.root0 + 4096, fw.root0 + 4096 + 0x100000)

/-- Partition 0 at step 2: every core, no time slice (R72). -/
def partition0 (fw : Firmware) : Partition := { root := fw.root0, kettle := 2 ^ 256 - 1, cellar := 255, ptRanges := [rootPool fw] }

/-- A range of cellar SRAM meets code that firmware places there: the `.text` of the supervisor image, or another program's (R450, R467). -/
def superMeets (fw : Firmware) (a n : Nat) : Bool :=
  rangesMeet fw.superBase fw.superText a n || fw.codeMaps.any fun x => rangesMeet x.2.1 x.2.2 a n

/-- The leaf of a page of cellar SRAM in partition 0: uncached and supervisor only, for code or for data (R450). -/
def sramLeaf (a : Nat) (text : Bool) : Nat := a + 1 + 2 ^ 2 + (if text then 2 ^ 4 else 2 ^ 3) + 2 ^ 5 + 2 ^ 6 + 2 ^ 8

/-- The state that a mapping leaves, whatever it answers. -/
def MapRes.state : MapRes → State
  | .ok s => s
  | .noFrame s => s
  | .clash s => s

/-- The state with pages of code mapped into partition 0 at a virtual address of their own (R450, R467). -/
def State.mapCode (s : State) (va pa n : Nat) : State :=
  (List.range ((n + 4095) / 4096)).foldl (fun t i => (t.mapLeaf 0 (va + i * 4096) 4 (sramLeaf (pa + i * 4096) true) 5 0 t.fw.root0).state) s

/-- The state with cellar SRAM mapped into partition 0 at its physical addresses, 2 MiB pages, and 4 KiB pages where code lies; code with a virtual address
of its own is mapped there too (R450, R467). -/
def State.mapSram (s : State) : State :=
  s.fw.codeMaps.foldl (fun (t : State) x => if x.1 = x.2.1 then t else t.mapCode x.1 x.2.1 x.2.2) <| (List.range 24).foldl (fun t i =>
    let a := sramBase + i * 0x200000
    if superMeets t.fw a 0x200000 then
      (List.range 512).foldl (fun u j =>
        let b := a + j * 4096
        (u.mapLeaf 0 b 4 (sramLeaf b (superMeets u.fw b 4096)) 5 0 u.fw.root0).state) t
    else (t.mapLeaf 0 a 3 (sramLeaf a false) 5 0 t.fw.root0).state) s

/-- The supervisor's descriptor: a stream actor without ports, of class cellar and priority 7, with a workspace of 74 units (R453). -/
def superDesc (fw : Firmware) : Nat := fw.superBase + (0x0503 * 2 ^ 48 + 7 * 2 ^ 29 + 2 ^ 27 + 2 ^ 26 + 74) * 2 ^ 64

/-- The state with the supervisor's firing in context 0 of cellar core 0, where there is a supervisor image (R87, R453). -/
def State.startSupervisor (s : State) : State :=
  if s.fw.superImage.isEmpty then s
  else
    let s := { s with mem := Memory.writeN s.mem s.fw.superBase s.fw.superImage.length (ofBytes s.fw.superImage) }
    let lid := s.fw.nextLid
    let s := { s with launches := SMap.put s.launches lid { root := 0, part := 0, svc := 4, cmd := 0, prio := 7, waveAt := s.time }
                      fw := { s.fw with nextLid := lid + 1 } }
    match s.createActor 0 lid 0 (superDesc s.fw) 4 0 0 with
    | none => s
    | some (h, t) =>
      match t.placeActor h 0x400 with
      | none => s
      | some t =>
        let t := match SMap.find? t.launches lid with
          | some l => { t with launches := SMap.put t.launches lid { l with root := h } }
          | none => t
        (t.setActorLevel h 7).startFiring 0x400 0 h

/-- Step 1's check of the firmware update image: it verifies under a vendor key that is not revoked, and its version is not below the rollback counter
(R89, R91). -/
def Firmware.imageOk (fw : Firmware) : Bool :=
  let n := fw.image.length - 114
  decide (114 < fw.image.length) && decide (fw.rollback ≤ fw.imageVersion)
    && [0, 1, 2, 3].any fun i => bit fw.revoked i == 0 && ed448Verify (Config.publicKey (3 + i)) (fw.image.take n) (fw.image.drop n)

/-- The pair of rows of a die that a kettle core stands in, with one spare (R94). -/
def rowPair (c : Nat) : Nat := coreDie c * 4 + coreY c / 2

/-- The failed cores of a repair map that spares replace: the first of each pair of rows (R94). -/
def repairable : List Nat → List Nat → List Nat
  | [], done => done
  | c :: l, done => repairable l (if isCellar c || !coreOk c || done.any (fun d => rowPair d == rowPair c) then done else done ++ [c])

/-- The firmware complex after a cold reset: fuses and board configuration stay, counters and orders do not; the update image is taken or ignored, and
repairs take effect (R71, R88, R89, R91, R94, R156). -/
def Firmware.cold (fw : Firmware) : Firmware :=
  { step := 3, lifecycle := fw.lifecycle, package := fw.package, packages := fw.packages, port0 := fw.port0, port1 := fw.port1
    version := if fw.imageOk then fw.imageVersion else 1, rollback := fw.rollback, revoked := fw.revoked
    image := fw.image, imageVersion := fw.imageVersion, updated := fw.imageOk, repairMap := fw.repairMap
    repaired := repairable fw.repairMap [], rowsUsed := remapRows true fw.rowMarks fw.rowsUsed
    rowsOut := fw.rowsOut ++ fw.rowMarks.filter fun r => !(remapRows true fw.rowMarks fw.rowsUsed).contains r
    coresOut := fw.repairMap.filter fun c => coreOk c && !(repairable fw.repairMap []).contains c
    mailbox := fw.mailbox, root0 := fw.root0, rbase0 := fw.rbase0, cbase0 := fw.cbase0, superBase := fw.superBase, superImage := fw.superImage
    superText := fw.superText, codeMaps := fw.codeMaps }

/-- Links after a cold reset: each port in the mode that the board configuration gives it, and the four ×4 root ports (R34). -/
def linksOf (fw : Firmware) : SMap Link :=
  [(8, { mode := fw.port0 }), (9, { mode := fw.port1 })] ++ [10, 11, 12, 13].map fun i => (i, { lanes := 4 })

/-- The state with what no spare could repair out of service and reported: cores of the repair map fenced, and rows (R88, R94, log 74). -/
def State.spareless (s : State) (old : Firmware) : State :=
  let s := s.fw.coresOut.foldl (fun (t : State) c =>
    (t.modCore c fun k => { k with fenced := true }).report (epAgent 9) 6 c 0) s
  (old.rowMarks.filter fun r => !s.fw.rowsUsed.contains r).foldl (fun (t : State) r => t.report (epAgent 9) 6 r 0) s

/-- The package right after steps 1 to 3 of bring-up: on-die memory wiped, every field at its reset value, what stood in DRAM unspecified, the
cellar in C0, partition 0 set up, and the supervisor running (R9, R72, R89, R450, R453). -/
def State.coldReset (s : State) : State :=
  let lines := s.dramLines
  let t : State := { State.reset with
    mem := s.mem.filter fun e => decide (2 ^ 62 ≤ e.1), fresh := s.fresh, fw := s.fw.cold, queues := [(0, Queue.reset0 s.fw)]
    partitions := [(0, partition0 s.fw)], links := linksOf s.fw }
  let t := lines.foldl (fun u l => u.freeLine l) t
  let t := { t with mem := Memory.writeN (Memory.writeN t.mem maximaPa 64 (maximaTable false)) (maximaPa + 0x10000) 64 (maximaTable true) }
  ((((t.openWindows 0).mapSram).mapMaxima 0).islandClocks 4 true).startSupervisor.spareless s.fw

/-- COLD_RESET (R89). -/
def execColdReset (s : State) : Host.Outcome State Fault Refusal := nextState s.coldReset

/-! ### Steps 4 to 7 (R89, R90) -/

/-- The state with bring-up at a step. -/
def State.atStep (s : State) (n : Nat) : State := { s with fw := { s.fw with step := n } }

/-- REDUCED_SERVICE (R90). -/
def execReducedService (s : State) : Host.Outcome State Fault Refusal := nextState (if s.fw.step = 3 then s.atStep 4 else s)

/-- LPDDR6_TRAINED: the DRAM is active, partition 0's key is drawn, and its areas are reserved in it (R72, R89, R472). -/
def execLpddr6Trained (s : State) : Host.Outcome State Fault Refusal :=
  nextState (if s.fw.step = 4 then
      let (w, t) := (s.atStep 5).takeWord
      ((t.modPartition 0 fun x => { Partition.reserve x 0 with inlineKey := w.toNat }).fillPool 0).modPower fun p =>
        { p with dram := 0, dramWant := false, dramSince := s.time }
    else s)

/-- The state with the kettle-class records of the cellar's pool moved to the pools of the dies that R110 chooses for their launches (R90). -/
def State.movePool (s : State) : State :=
  { s with pool := s.pool.map fun r =>
      if r.die = 4 && r.cls == 0 then
        let svc := match SMap.find? s.launches (s.keep r.handle).lid with | some l => l.svc | none => 4
        match s.rootDie (handlePart r.handle) svc 0 with
        | some d => { r with die := d }
        | none => r
      else r }

/-- COMPUTE_DIES_TRAINED: scratchpads wiped, dies in K0 with their clocks running, pool records moved. That step 6 leaves the dies in K0, where R89 admits
K0 or K1, is the model's choice (R89, R90, log 84). -/
def execComputeDiesTrained (s : State) : Host.Outcome State Fault Refusal :=
  nextState (if s.fw.step = 5 then
      let t := s.atStep 6
      let t := { t with mem := t.mem.filter fun e => !(decide (2 ^ 60 ≤ e.1) && decide (e.1 < spadKey 0x400 0 0)) }
      let t := [0, 1, 2, 3].foldl (fun u q =>
        (u.modPower fun p => { p with die := SMap.put p.die q 0, dieSince := SMap.put p.dieSince q u.time }).islandClocks q true) t
      t.movePool
    else s)

/-- FULL_SERVICE (R89). -/
def execFullService (s : State) : Host.Outcome State Fault Refusal := nextState (if s.fw.step = 6 then s.atStep 7 else s)

/-- LIFE_CYCLE_TRANSITION: one state forward, or to SCRAPPED, on a signed image or order; on-die memory is wiped, DRAM is zero with
PTAG 16, and the package starts anew (R95). -/
def execLifeCycleTransition (target : Nat) (s : State) : Host.Outcome State Fault Refusal :=
  nextState (if s.fw.lifecycle < target && (target == s.fw.lifecycle + 1 || target == 4) && decide (target ≤ 4) then
      { State.reset with mem := s.mem.filter (fun e => decide (2 ^ 62 ≤ e.1)), fresh := s.fresh, now := s.now, nextMsg := s.nextMsg
                         fw := { s.fw.cold with step := 0, lifecycle := target }, queues := [(0, Queue.reset0 s.fw)] }
    else s)

/-! ### Host agents (R32) -/

/-- The physical address that a host agent's access reaches: an application core's own, or through BAR2 of an endpoint the ring window of a queue
(R35, R70). -/
def State.hostPlace (s : State) (agent pa : Nat) : Option Nat :=
  if agent = 0 then (if s.power.appAsleep then none else some pa)
  else if agent = 1 && s.endpoint && pa < 2 ^ 24 then some ((s.queue (pa / 2 ^ 18)).qrwin + pa % 2 ^ 18)
  else none

/-- HOST_DRAM_ACCESS: a host agent's read or write of up to 64 bytes within a line of DRAM or cellar SRAM; one that must wait for the DRAM to leave
self-refresh is kept, and is performed then (R32, R35, R50, R69). -/
def execHostDramAccess (op : HostOp) (pa len v : Nat) (s : State) : Host.Outcome State Fault Refusal :=
  nextState (match s.hostPlace op.agent pa with
    | none => s
    | some a =>
      let n := min len (64 - a % 64)
      let x : HostAcc := { agent := op.agent, write := op.write, pa := a, len := n, val := v % 2 ^ (8 * n) }
      if !(isDram a || isSram a) then s
      else if s.dramShut a && !(op.agent == 0 && (SMap.find? s.hostLines (a / 64)).isSome) then
        let t := s.wantDram.getD s
        { t with fw := { t.fw with hostWait := t.fw.hostWait ++ [x] } }
      else s.hostAccess x)

/-! ### Links and the mesh clock (R16, R18, R36 to R42) -/

/-- A KIND 6 entry about a link (R16, R39, R88). -/
def State.linkReport (s : State) (i : Nat) : State := s.report (epAgent 9) 6 i 0

/-- One direction of a link after a failed replay: the eighth in a row swaps a lane for a spare; nothing where no spare is left (R16). -/
def Lanes.fail (x : Lanes) : Option Lanes :=
  if x.fails + 1 < 8 then some { x with fails := x.fails + 1 }
  else if 0 < x.spares then some { fails := 0, spares := x.spares - 1 }
  else none

/-- FLIT_REPLAY: a replay of one direction succeeds, or fails; the eighth failure in a row swaps a lane for a spare of that direction, or leaves a die
or ring link at half width, which is reported. No message is lost or reordered (R16, R37, R94). -/
def execFlitReplay (link : LinkDir) (failed : Bool) (s : State) : Host.Outcome State Fault Refusal :=
  let x := s.link link.link
  let d := if link.tx then x.tx else x.rx
  let put (y : Lanes) : Link := if link.tx then { x with tx := y } else { x with rx := y }
  nextState (if 13 < link.link then s
    else if !failed then s.setLink link.link (put { d with fails := 0 })
    else if 8 ≤ link.link then s.setLink link.link (put { d with fails := d.fails + 1 })
    else match d.fail with
      | some y => s.setLink link.link (put y)
      | none =>
        let t := s.setLink link.link { put { d with fails := 0 } with half := true }
        if x.half then t else t.linkReport link.link)

/-- MESH_CLOCK_SAMPLE: at a multiple of 1 µs, a domain's mean queue occupancy in 1/1024 raises or lowers its clock one step; none is taken while every
compute die is gated (R18, R42). -/
def execMeshClockSample (domain occ : Nat) (s : State) : Host.Outcome State Fault Refusal :=
  let f := s.meshClock domain
  let g := if 512 < occ && f < 2400 then f + 200 else if occ < 128 && 800 < f then f - 200 else f
  nextState (if 4 < domain || s.time % 1000 != 0 || s.allGated then s else s.modPower fun p => { p with mesh := SMap.put p.mesh domain g })

/-- PEER_LINK_DOWN: a message for a peer port that carries none returns to its sender as a window NACK, whatever its channel; without one, the port goes down and is reported (R36, R39). -/
def execPeerLinkDown (link : Nat) (s : State) : Host.Outcome State Fault Refusal :=
  nextState (match s.focusMsg with
    | some m =>
      if s.msgEvent m = .peerLinkDown link then (s.take m).refuse { m with ack := true } 4
      else s
    | none => if 1 < link then s else (s.setLink (8 + link) { s.link (8 + link) with down := true }).linkReport (8 + link))

/-- PEER_LANE_SHED: a peer link sheds lanes from 16 to 8 to 4, or restores them, one step (R38). -/
def execPeerLaneShed (link : Nat) (shed : Bool) (s : State) : Host.Outcome State Fault Refusal :=
  let x := s.link (8 + link)
  let n := if shed then (if x.lanes = 16 then 8 else 4) else (if x.lanes = 4 then 8 else 16)
  nextState (if 1 < link then s else s.setLink (8 + link) { x with lanes := n })

end Sys2Proof.Machine
end

