-- ==== Sys2Proof/Machine/CopyRun.lean ====
section
/-! DEFINITION. The running of copy channels: copies, CSR gathers and stream bindings (R144, R181, R199, R204 to R207, R218, R240,
R265, R408 to R413). -/
namespace Sys2Proof.Machine

/-- Which engine access number a copy channel has. -/
def chanWho (ch : Nat) : Nat := 100 + ch

/-- The state with a channel's command replaced. -/
def State.setChan (s : State) (c ch : Nat) (m : CCmd) : State := s.modApart c fun p => { p with chans := SMap.put p.chans ch m }

/-- The command of a channel. -/
def State.chan (s : State) (c ch : Nat) : Option CCmd := SMap.find? (s.apart c).chans ch

/-! ### Elements of a source -/

/-- A run of source elements: type, bank format, and the byte and nibble of each of `total` elements. -/
structure CopyView where
  ty    : Ty
  bank  : Option Nat
  total : Nat
  loc   : Nat → Nat × Nat

/-- Address of element `n` of an affine pattern (R348, R409). -/
def affineAddr (m : CCmd) (n : Nat) : Nat :=
  let i0 := n % max m.cnt0 1
  let i1 := n / max m.cnt0 1 % max m.cnt1 1
  let i2 := n / (max m.cnt0 1 * max m.cnt1 1)
  wrap 64 ((m.src : Int) + i0 * m.str0 + i1 * m.str1 + i2 * m.str2)

/-- The type of a copy's source elements: the descriptor's, or the source bank's (R409). -/
def copyTy (m : CCmd) : Ty := if m.sty = 15 then (bfrTy (SMap.get 15 m.bfrs 0)).getD .i8 else tyOfNat m.sty

/-- The source of a copy or stream: its pattern. -/
def patternView (m : CCmd) : CopyView :=
  { ty := copyTy m, bank := if m.sty = 15 then some (SMap.get 15 m.bfrs 0) else none, total := m.total
    loc := fun n => (affineAddr m n, n % 2) }

/-- The values of CSRG from nonzero `first` on; an odd start of a packed type is rounded down (R249, R413). -/
def valuesView (m : CCmd) (first : Nat) : CopyView :=
  let w := (tyOfNat m.vty).width
  let first := if w = 4 then first / 2 * 2 else first
  { ty := tyOfNat m.vty, bank := none, total := m.total, loc := fun n => (wrap 64 (m.values + (first + n) * w / 8 : Nat), (first + n) % 2) }

/-- The column indices of CSRG from nonzero `first` on (R413). -/
def indexView (m : CCmd) (first : Nat) : CopyView :=
  { ty := .u32, bank := none, total := m.total, loc := fun n => (wrap 64 (m.colidx + 4 * (first + n) : Nat), 0) }

/-- A nibble of a byte. -/
def nibOf (b nib : Nat) : Nat := if nib = 1 then b / 16 % 16 else b % 16

/-- The raw bits of an element. -/
def State.rawElem (s : State) (c who : Nat) (x : CmdCtl) (v : CopyView) (n : Nat) : EngRes :=
  let (a, nib) := v.loc n
  if v.ty.width = 4 then
    match s.engRead c who x a 1 with
    | .ok t b => .ok t (nibOf b nib)
    | r => r
  else s.engRead c who x a (v.ty.width / 8)

/-- The place of the other nibble of an N4X element's pair: the element that pairs with it, or its own byte where there is none (R250). -/
def CopyView.partner (v : CopyView) (n : Nat) : Nat × Nat :=
  let (a, nib) := v.loc n
  if nib = 0 then (if n + 1 < v.total then v.loc (n + 1) else (a, 1))
  else if n = 0 then (a, 0) else v.loc (n - 1)

/-- The exact value of an element before its scale, with a report of its pair 0x88 (R250, R265). -/
def State.plainElem (s : State) (c who : Nat) (x : CmdCtl) (v : CopyView) (n : Nat) : ElemRes :=
  match s.rawElem c who x v n with
  | .wait t => .wait t
  | .fail a b i => .fail a b i
  | .ok t raw =>
    if v.ty = .n4x then
      let (a, nib) := v.loc n
      let (b, nib2) := v.partner n
      match t.engRead c who x b 1 with
      | .wait t => .wait t
      | .fail a b i => .fail a b i
      | .ok t byte =>
        let other := nibOf byte nib2
        let pair := if nib = 0 then raw + 16 * other else other + 16 * raw
        let (lo, hi, bad) := decodePair pair
        .ok t [some (XR.ofInt (if nib = 0 then lo else hi))] (if bad && (nib == 0 || n == 0) then [(3, a % 2 ^ 32)] else [])
    else .ok t [some (decElem v.ty raw)] []

/-- The value of an element under its bank's scale (R251). -/
def State.copyElem (s : State) (c who : Nat) (x : CmdCtl) (v : CopyView) (n : Nat) : ElemRes :=
  match s.plainElem c who x v n with
  | .ok t l rep =>
    match v.bank with
    | none => .ok t l rep
    | some b =>
      let (a, nib) := v.loc n
      match spadOf c a 1 with
      | none => .fail 8 0 (a % 2 ^ 32)
      | some (d, off) => t.scaleAll c d who x b (bankElem d off v.ty.width (if v.ty.width = 4 then nib else 0)) (l.filterMap id) [] rep
  | r => r

/-- The values of elements of a run, in order. -/
def State.copyElems (s : State) (c who : Nat) (x : CmdCtl) (v : CopyView) : List Nat → List (Option XR) → List (Nat × Nat) → ElemRes
  | [], acc, rep => .ok s acc rep
  | n :: l, acc, rep =>
    match s.copyElem c who x v n with
    | .ok t e r => State.copyElems t c who x v l (acc ++ e) (rep ++ r)
    | .wait t => .wait t
    | .fail a b i => .fail a b i

/-- The raw bits of elements of a run, packed. -/
def State.rawElems (s : State) (c who : Nat) (x : CmdCtl) (v : CopyView) : List Nat → Nat → Nat → EngRes
  | [], _, acc => .ok s acc
  | n :: l, sh, acc =>
    match s.rawElem c who x v n with
    | .ok t r => State.rawElems t c who x v l (sh + v.ty.width) (acc + r * 2 ^ sh)
    | r => r

/-! ### Granules (R410) -/

/-- Granules of 64 bytes that a range meets. -/
def granules (a n : Nat) : Nat := if n = 0 then 0 else (a + n - 1) / 64 - a / 64 + 1

/-- What a granule answers: the state, the elements done, reports, and whether a scale was invalid. -/
inductive GranRes where
  | ok (s : State) (next : Nat) (rep : List (Nat × Nat))
  | wait (s : Option State)
  | fail (code sub info : Nat)

/-- The granule of a destination that starts at element `n0`: its source elements read, then its bytes written (R181, R249, R410). -/
def State.granule (s : State) (c who : Nat) (x : CmdCtl) (v : CopyView) (dst : Nat) (dbfr : Option Nat) (rm : Rm) (n0 : Nat) : GranRes :=
  let dty := match dbfr with | some b => (bfrTy b).getD .i8 | none => v.ty
  let w := dty.width
  let lo := dst + n0 * w / 8
  let hi := min (dst + (v.total * w + 7) / 8) ((lo / 64 + 1) * 64)
  let n1 := min v.total ((hi - dst) * 8 / w)
  let l := (List.range (n1 - n0)).map fun i => n0 + i
  match dbfr with
  | none =>
    match s.rawElems c who x v l 0 0 with
    | .wait t => .wait t
    | .fail a b i => .fail a b i
    | .ok t raw =>
      match t.engWrite c who x lo (hi - lo) raw false (w == 4 && (n1 - n0) % 2 == 1) with
      | .wait t => .wait t
      | .fail a b i => .fail a b i
      | .ok t _ => .ok t n1 []
  | some b =>
    match s.copyElems c who x v l [] [] with
    | .wait t => .wait t
    | .fail a b i => .fail a b i
    | .ok t vals rep =>
      match spadOf c lo (hi - lo) with
      | none => .fail 8 0 (lo % 2 ^ 32)
      | some (d, off) =>
        match t.unscaleAll c d who x b w off 0 (vals.filterMap id) [] [] with
        | .wait t => .wait t
        | .fail a b i => .fail a b i
        | .ok t out rep2 =>
          let real := !intSource v.ty || (match v.bank with | some q => bfrGroup q != 0 | none => false) || bfrGroup b != 0
          match t.engWrite c who x lo (hi - lo) (packBank dty rm real (out.filterMap id) 0) with
          | .wait t => .wait t
          | .fail a b i => .fail a b i
          | .ok t _ => .ok t n1 (rep ++ rep2)

/-- The bytes that a remote access to a core's scratchpad touches: a load, a store or a barrier operation (R205). -/
def Msg.touches (m : Msg) : Option (Nat × Nat) :=
  if m.op = 0x21 then some (m.taddr % 2 ^ 32, m.size)
  else if m.op = 0x23 then some (m.taddr % 2 ^ 32, m.data.length)
  else if m.op = 0x33 then some (m.taddr % 2 ^ 32, 32)
  else none

/-- The state `t` with the remote accesses that a watermark held in `s`, and none holds now, due in the owner's next cycle (R205). -/
def State.freeHeld (s t : State) (c : Nat) : State :=
  { t with net := t.net.map fun m =>
      match m.touches with
      | some (off, n) => if m.dst == epCore c && s.marked c off n && !t.marked c off n then { m with after := t.timeOf c (t.cycle c + 1) } else m
      | none => m }

/-- The state with a channel's watermark moved up to an offset; ACT clears at HI (R204). -/
def State.fillTo (s : State) (c ch off : Nat) : State :=
  s.freeHeld (s.modApart c fun p =>
    match SMap.find? p.marks ch with
    | none => p
    | some k =>
      if !k.act then p
      else
        let wm := min k.hi (max k.wm off)
        { p with marks := SMap.put p.marks ch { k with wm := wm, act := decide (wm < k.hi) } }) c

/-- The state with a channel's watermark cleared; where all is filled it stands at HI (R204). -/
def State.clearMark (s : State) (c ch : Nat) (full : Bool) : State :=
  s.freeHeld (s.modApart c fun p => match SMap.find? p.marks ch with
    | none => p
    | some k => { p with marks := SMap.put p.marks ch { k with act := false, wm := if full && k.act then k.hi else k.wm } }) c

/-- The state after a beat of a command that landed: reports, one decrement unless it is the last beat, and the elements done
(R265, R408). -/
def State.landBeat (s : State) (c ch : Nat) (m : CCmd) (done : Nat) (rep : List (Nat × Nat)) (last : Bool) : State :=
  let rep := if m.badScale then rep.filter fun r => r.1 != 2 else rep
  let (s, x) := (s.engClear c (chanWho ch)).engReports c 2 ch m.ctl rep
  let s := if last || m.beats = 0 then s else s.engineLanded c x 1
  s.setChan c ch { m with ctl := x, done := done, beats := if last then m.beats else m.beats - 1, ended := last
                          badScale := m.badScale || rep.any fun r => r.1 == 2 }

/-- The state with a command ended early with a status (R410). -/
def State.failChan (s : State) (c ch : Nat) (m : CCmd) (st : Nat × Nat × Nat) : State :=
  (s.engClear c (chanWho ch)).setChan c ch { m with failed := some (st.1 + 256 * st.2.1 + 65536 * st.2.2), ended := true }

/-- The bytes below the granule after element `n` of a destination: the offset up to which it is filled. -/
def filledTo (dst w total n bytes : Nat) : Nat := if total ≤ n then dst + bytes else dst + n * w / 8

/-- One beat of CPY or CPYF (R410). -/
def State.cpyBeat (s : State) (c ch : Nat) (m : CCmd) : Option State :=
  match s.granule c (chanWho ch) m.ctl (patternView m) m.dst m.dbfr m.rm m.done with
  | .wait t => t
  | .fail a b i => some (s.failChan c ch m (a, b, i))
  | .ok t n rep =>
    let w := match m.dbfr with | some b => ((bfrTy b).getD .i8).width | none => (copyTy m).width
    let t := match spadOf c m.dst 1 with
      | some (d, off) => if d = c then t.fillTo c ch (filledTo off w m.total n m.bytes) else t
      | none => t
    some (t.landBeat c ch m n rep (decide (m.total ≤ n)))

/-- The result of CSRG written to its register, s0 taking none (R413). -/
def State.giveCount (s : State) (m : CCmd) (v : Nat) : State :=
  s.giveReg m.ctl { dst := .scal (BitVec.ofNat 6 m.wid), mask := ones64, val := v, due := 0, fixed := false }

/-- The guard of bytes of the issuing core's own scratchpad from an address on (R241). -/
def guardFrom (c va n : Nat) : List Guard :=
  match spadOf c va 1 with
  | some (d, off) => if d = c && n != 0 then [{ lo := off, hi := min (spadSize c) (off + n) }] else []
  | none => []

/-- The guards of CSRG once its row pointers are read: the indices and values that it gathers (R241, R413). -/
def csrGuards (c : Nat) (m : CCmd) (first n : Nat) : List Guard :=
  let w := (tyOfNat m.vty).width
  guardFrom c (m.colidx + 4 * first) (4 * n) ++ guardFrom c (m.values + first * w / 8) ((n * w + 7) / 8)

/-- One beat of CSRG: the row pointers first, then the granules of the indices and of the values (R413). -/
def State.csrgBeat (s : State) (c ch : Nat) (m : CCmd) : Option State :=
  let who := chanWho ch
  if m.first = 0 then
    match s.engRead c who m.ctl (wrap 64 (m.src + 4 * m.row0 : Nat)) 4 with
    | .wait t => t
    | .fail a b i => some (s.failChan c ch m (a, b, i))
    | .ok t p0 =>
      match t.engRead c who m.ctl (wrap 64 (m.src + 4 * (m.row0 + m.nrows) : Nat)) 4 with
      | .wait t => t
      | .fail a b i => some (s.failChan c ch m (a, b, i))
      | .ok t p1 =>
        if p1 < p0 then some (t.failChan c ch m (0x0C, 9, m.row0))
        else
          let d := p1 - p0
          let t := (t.engClear c who).giveCount m d
          let (t, x) := if m.cap < d then t.engSay c 2 ch m.ctl 0x0C 10 d else (t, m.ctl)
          let n := min d m.cap
          some (t.setChan c ch { m with ctl := x, first := p0 + 1, total := n, ended := n == 0, guards := csrGuards c m p0 n })
  else
    let first := m.first - 1
    if m.done < m.total then
      match s.granule c who m.ctl (indexView m first) (localBase + m.dst) none m.rm m.done with
      | .wait t => t
      | .fail a b i => some (s.failChan c ch m (a, b, i))
      | .ok t n rep => some ((t.fillTo c ch (m.dst + 4 * n)).landBeat c ch m n rep false)
    else
      let k := m.done - m.total
      match s.granule c who m.ctl (valuesView m first) (localBase + m.dst2) m.dbfr m.rm k with
      | .wait t => t
      | .fail a b i => some (s.failChan c ch m (a, b, i))
      | .ok t n rep =>
        let w := match m.dbfr with | some b => ((bfrTy b).getD .i8).width | none => (tyOfNat m.vty).width
        some ((t.fillTo c m.ch2 (m.dst2 + n * w / 8)).landBeat c ch m (m.total + n) rep (decide (m.total ≤ n)))

/-- The next beat of a channel's command; nothing where it waits or has ended. -/
def State.chanBeat (s : State) (c ch : Nat) : Option State :=
  match s.chan c ch with
  | none => none
  | some m =>
    if m.kind = 2 || m.ended || !s.acqReady c m.ctl || !s.engineOn c then none
    else match s.barNeeds c (chanWho ch) m.ctl m.failed.isSome with
    | some r => r
    | none =>
    match m.failed with
      | some _ => some (s.setChan c ch { m with ended := true })
      | none => if m.kind = 0 then s.cpyBeat c ch m else s.csrgBeat c ch m

/-- The state with the follow-on of a CPYF started, or given the copy's status (R412). -/
def State.releaseFollow (s : State) (c ch : Nat) (failed : Option Nat) : State :=
  s.modApart c fun p =>
    { p with inbox := p.inbox.map fun e => if e.2.follow == some ch then (e.1, { e.2 with follow := none, failed := failed }) else e }

/-- The end of a channel's command: its release, its status, the decrement of what has not landed, its arrival (R408). -/
def State.chanEnd (s : State) (c ch : Nat) : Option State :=
  match s.chan c ch with
  | none => none
  | some m =>
    if m.kind = 2 || !m.ended || !s.engineOn c then none
    else match s.barNeeds c (chanWho ch) m.ctl m.failed.isSome with
    | some r => r
    | none =>
    if s.relShut m.ctl then s.wantDram
    else
      let s := s.engRelease m.ctl
      let s := match m.failed with
        | some v => let st := unpackStatus v; s.engineStatus c 2 ch m.ctl st.1 st.2.1 st.2.2
        | none => s
      let s := (s.engineLanded c m.ctl m.beats).engineArrive c m.ctl
      let s := s.clearMark c ch m.failed.isNone
      let s := if m.kind = 1 then s.clearMark c m.ch2 m.failed.isNone else s
      some ((s.releaseFollow c ch m.failed).dropChan c ch)

/-! ### Stream channels (R206, R207) -/

/-- The room of an input ring, in elements. -/
def ringRoom (m : CCmd) : Nat := ringCap m - (m.head - m.tailc)

/-- The next beat of a stream binding's channel: one element filled into the ring, or drained from it (R206). -/
def State.streamBeat (s : State) (c ch : Nat) : Option State :=
  match s.chan c ch with
  | none => none
  | some m =>
    if m.kind ≠ 2 || m.portb || m.ended || !s.engineOn c then none
    else
      let who := chanWho ch
      let v := patternView m
      let w := v.ty.width
      let stop (s : State) : Option State := some (((s.engClear c who).setChan c ch { m with ended := true }).addError m.ctl.lid)
      if m.out then
        if m.head ≤ m.tailc then none
        else
          let raw := s.spadBits c (m.ring * 8 + m.tailc % ringCap m * w) w
          let (a, nib) := v.loc m.tailc
          let r := if w = 4 then s.engWrite c who m.ctl a 1 (if nib = 1 then raw * 16 else raw) (nib == 1) (nib != 1)
            else s.engWrite c who m.ctl a (w / 8) raw
          match r with
          | .wait t => t
          | .fail _ _ _ => stop s
          | .ok t _ => some ((t.engClear c who).setChan c ch { m with tailc := m.tailc + 1 })
      else if m.total ≤ m.head || ringRoom m = 0 then none
      else
        match s.rawElem c who m.ctl v m.head with
        | .wait t => t
        | .fail _ _ _ => stop s
        | .ok t raw => some (((t.engClear c who).setSpadBits c (m.ring * 8 + m.head % ringCap m * w) w raw).setChan c ch { m with head := m.head + 1 })

/-! ### The events of the copy engine -/

/-- COPY_BEAT: the next beat of a copy channel (R240, R410). -/
def execCopyBeat (core ch : Nat) (s : State) : Host.Outcome State Fault Refusal :=
  nextState (match s.chanBeat core ch with
    | some t => t.modApart core fun p => { p with turn := (ch + 1) % 16 }
    | none => s)

/-- COPY_COMPLETE: the end of a copy channel's command (R408, R412). -/
def execCopyComplete (core ch : Nat) (s : State) : Host.Outcome State Fault Refusal := nextState ((s.chanEnd core ch).getD s)

/-- STREAM_CHANNEL_BEAT: one element of a stream binding moved (R206). -/
def execStreamChannelBeat (core ch : Nat) (s : State) : Host.Outcome State Fault Refusal := nextState ((s.streamBeat core ch).getD s)

/-- The oldest held remote access to a channel's range that can be performed now (R205). -/
def State.heldAccess (s : State) (c ch : Nat) : Option Msg :=
  match SMap.find? (s.apart c).marks ch with
  | none => none
  | some k =>
    List.find? (fun m => m.dst == epCore c && m.held == 0 && s.headOfTriple m && (m.touches.any fun x => rangesMeet x.1 x.2 k.lo (k.hi - k.lo))
      && (s.deliver m).isSome) s.net

/-- WATERMARK_RELEASE: a remote access that waited at a watermark is performed once the watermark has passed it or is clear (R205). -/
def execWatermarkRelease (core ch : Nat) (s : State) : Host.Outcome State Fault Refusal :=
  nextState (match s.heldAccess core ch with
    | some m => (s.deliver m).getD s
    | none => s)

end Sys2Proof.Machine
end

