-- ==== Sys2Proof/Machine/Factor.lean ====
section
/-! DEFINITION. The factorisation commands, step by step (R392 to R403), and the events that run the matrix array. -/
namespace Sys2Proof.Machine

/-! ### Elements -/

/-- Element (i, j) of an accumulator frame as F32 (R392). -/
def fget (c f i j : Nat) : XR := decF .f32 (accElem c f i j)
/-- The frame with element (i, j) written, a NaN in its canonical form (R253, R396). -/
def fput (c f i j : Nat) (x : XR) : Nat := setElem c f i j (rndF .f32 .rne false x)

/-- Numbers `lo` to `hi - 1`. -/
def span (lo hi : Nat) : List Nat := (List.range (hi - lo)).map fun i => lo + i

/-- Greatest magnitude of elements, NaN if one is NaN. -/
def maxAbs (l : List XR) : XR := l.foldl (fun b x => XR.max b x.abs) XR.zero

/-- A frame after a change at each number of a list. -/
def overF (l : List Nat) (f : Nat) (g : Nat → Nat → Nat) : Nat := l.foldl g f

/-- The tail of a destination accumulator at completion (R374, R396). -/
def facTail (c : Nat) (m : MCmd) (f : Nat) : Nat := if m.tail then f else frameKeep f (accBytes c) m.m (4 * m.n)

/-- The state with GROW written. -/
def State.setGrow (s : State) (c : Nat) (x : XR) : State := s.modApart c fun p => { p with grow := rndF .f32 .rne false x }
/-- The state with flags of FSTAT set. -/
def State.orFstat (s : State) (c v : Nat) : State := s.modApart c fun p => { p with fstat := p.fstat ||| v }
/-- GROW as a value. -/
def State.growOf (s : State) (c : Nat) : XR := decF .f32 (s.apart c).grow

/-- The growth at the end of a factorisation (R398 to R400). -/
def State.endGrow (s : State) (c : Nat) (mx : XR) : State := s.setGrow c (mx.div (s.growOf c))

/-! ### MLU (R398) -/

/-- Two rows of a frame exchanged in their first `n` columns. -/
def swapRows (c f a b n : Nat) : Nat :=
  if a = b then f
  else overF (List.range n) f fun g k => fput c (fput c g a k (fget c f b k)) b k (fget c f a k)

/-- The pivot row of a column, and whether a candidate is NaN (R398). -/
def pivotRow (c f j m : Nat) : Nat × Bool :=
  match (span j m).find? fun i => (fget c f i j).isNan with
  | some i => (i, true)
  | none => ((span (j + 1) m).foldl (fun b i => if (fget c f b j).abs.lt (fget c f i j).abs then i else b) j, false)

/-- Elements on and above the diagonal. -/
def upperOf (c f m n : Nat) : List XR := (List.range m).flatMap fun i => (span i n).map fun k => fget c f i k

/-- One column of MLU (R398). -/
def State.mluStep (s : State) (c slot : Nat) (m : MCmd) (d : Nat) : MStep :=
  let f := s.acc c d
  let s := if m.kb = 0 then
      (s.setGrow c (maxAbs ((List.range m.m).flatMap fun i => (List.range m.n).map fun k => fget c f i k))).modApart c fun p =>
        { p with fstat := 0, perm := (List.range 64).map fun i => (i, i) }
    else s
  let j := m.kb
  let (p, nan) := pivotRow c f j m.m
  let s := if nan then s.orFstat c 1 else s
  let f := swapRows c f j p m.n
  let (pj, pp) := (s.permOf c j, s.permOf c p)
  let s := s.modApart c fun q => { q with perm := SMap.put (SMap.put q.perm j pp) p pj }
  let piv := fget c f j j
  let thr := decF .f32 m.arg
  let fin (s : State) (f : Nat) (m : MCmd) (st : Option (Nat × Nat × Nat)) : MStep :=
    .fin ((s.setAcc c d (if st.isSome then f else facTail c m f)).endGrow c (maxAbs (upperOf c f m.m m.n))) m st
  let next (s : State) (f : Nat) (m : MCmd) : MStep :=
    if j + 1 < min m.m m.n then .more (s.setAcc c d f) { m with kb := j + 1 } else fin s f { m with kb := j + 1 } none
  if piv.abs.lt thr || piv.abs.numEq thr then
    let s := s.orFstat c 2
    if m.ctl.trapf then fin s f m (some (0x0E, 1, j))
    else
      let (s, x) := s.engSay c 1 slot m.ctl 0x0E 1 j
      next s (overF (span (j + 1) m.m) f fun g i => fput c g i j XR.zero) { m with ctl := x }
  else
    let f := overF (span (j + 1) m.m) f fun g i => fput c g i j ((fget c g i j).div piv)
    let f := overF (span (j + 1) m.m) f fun g i =>
      overF (span (j + 1) m.n) g fun h k => fput c h i k (fma32 (fget c h i j).negate (fget c h j k) (fget c h i k))
    next s f m

/-! ### MCHOL (R399) -/

/-- Elements on and below the diagonal. -/
def lowerOf (c f n : Nat) : List XR := (List.range n).flatMap fun i => (List.range (i + 1)).map fun k => fget c f i k

/-- One column of MCHOL (R399). -/
def State.mcholStep (s : State) (c slot : Nat) (m : MCmd) (d : Nat) : MStep :=
  let f := s.acc c d
  let n := m.n
  let s := if m.kb = 0 then (s.setGrow c (maxAbs (lowerOf c f n))).modApart c fun p => { p with fstat := 0 } else s
  let j := m.kb
  let dv := fget c f j j
  let next (s : State) (f : Nat) (m : MCmd) : MStep :=
    if j + 1 < n then .more (s.setAcc c d f) { m with kb := j + 1 }
    else .fin ((s.setAcc c d (facTail c m f)).endGrow c (maxAbs (lowerOf c f n))) { m with kb := j + 1 } none
  if !(XR.zero.lt dv) then
    let s := s.orFstat c 4
    if m.ctl.trapf then .fin (s.setAcc c d f) m (some (0x0E, 2, j))
    else
      let (s, x) := s.engSay c 1 slot m.ctl 0x0E 2 j
      next s (overF (span j n) f fun g i => fput c g i j XR.zero) { m with ctl := x }
  else
    let l := rne32 dv.sqrt
    let f := fput c f j j l
    let f := overF (span (j + 1) n) f fun g i => fput c g i j ((fget c g i j).div l)
    let f := overF (span (j + 1) n) f fun g k =>
      overF (span k n) g fun h i => fput c h i k (fma32 (fget c h i j).negate (fget c h k j) (fget c h i k))
    next s f m

/-! ### MQR and MQAPP (R400, R401) -/

/-- One column of MQR; of cA it computes the first N elements of row 0, and the tail is all the rest (R374, R396, R400). -/
def State.mqrStep (s : State) (c : Nat) (m : MCmd) (d a : Nat) : MStep :=
  let f := s.acc c d
  let s := if m.kb = 0 then
      (s.setGrow c (maxAbs ((List.range m.m).flatMap fun i => (List.range m.n).map fun k => fget c f i k))).modApart c fun p => { p with fstat := 0 }
    else s
  let j := m.kb
  let sum := (span (j + 1) m.m).foldl (fun z i => fma32 (fget c f i j) (fget c f i j) z) XR.zero
  let alpha := fget c f j j
  let (f, tau) : Nat × XR :=
    if sum.isZero && !alpha.isNan then (f, XR.zero)
    else
      let nrm := rne32 (fma32 alpha alpha sum).sqrt
      let beta := if alpha.neg then nrm else nrm.negate
      let tau := rne32 ((beta.add alpha.negate).div beta)
      let scal := rne32 (XR.one.div (alpha.add beta.negate))
      (fput c (overF (span (j + 1) m.m) f fun g i => fput c g i j ((fget c g i j).mul scal)) j j beta, tau)
  let s := s.setAcc c a (fput c (s.acc c a) 0 j tau)
  let f := if tau.isZero then f
    else overF (span (j + 1) m.n) f fun g k =>
      let w := (span (j + 1) m.m).foldl (fun w i => fma32 (fget c g i j) (fget c g i k) w) (fget c g j k)
      let t := rne32 (tau.mul w)
      let g := fput c g j k ((fget c g j k).add t.negate)
      overF (span (j + 1) m.m) g fun h i => fput c h i k (fma32 t.negate (fget c h i j) (fget c h i k))
  if j + 1 < m.n then .more (s.setAcc c d f) { m with kb := j + 1 }
  else
    let s := (s.setAcc c d (facTail c m f)).endGrow c (maxAbs (upperOf c f m.m m.n))
    .fin (if m.tail then s else s.setAcc c a (frameKeep (s.acc c a) (accBytes c) 1 (4 * m.n))) { m with kb := j + 1 } none

/-- One reflector of MQAPP (R401). -/
def State.mqappStep (s : State) (c : Nat) (m : MCmd) (qt right : Bool) (d a b : Nat) : MStep :=
  let f := s.acc c d
  let va := s.acc c a
  let n := if right then m.n else m.m
  let r := if m.rk = 0 then n else min m.rk n
  let j := if qt == right then r - 1 - m.kb else m.kb
  let tau := fget c (s.acc c b) 0 j
  let f := if tau.isZero then f
    else if right then
      overF (List.range m.m) f fun g q =>
        let w := (span (j + 1) n).foldl (fun w k => fma32 (fget c g q k) (fget c va k j) w) (fget c g q j)
        let t := rne32 (tau.mul w)
        let g := fput c g q j ((fget c g q j).add t.negate)
        overF (span (j + 1) n) g fun h k => fput c h q k (fma32 t.negate (fget c va k j) (fget c h q k))
    else
      overF (List.range m.n) f fun g z =>
        let w := (span (j + 1) n).foldl (fun w i => fma32 (fget c va i j) (fget c g i z) w) (fget c g j z)
        let t := rne32 (tau.mul w)
        let g := fput c g j z ((fget c g j z).add t.negate)
        overF (span (j + 1) n) g fun h i => fput c h i z (fma32 t.negate (fget c va i j) (fget c h i z))
  if m.kb + 1 < r then .more (s.setAcc c d f) { m with kb := m.kb + 1 }
  else .fin (s.setAcc c d (facTail c m f)) { m with kb := m.kb + 1 } none

/-! ### MTRS and MPERM (R402, R403) -/

/-- One pivot of MTRS (R402). -/
def State.mtrsStep (s : State) (c : Nat) (m : MCmd) (right up unit tr : Bool) (d a : Nat) : MStep :=
  let f := s.acc c d
  let t := s.acc c a
  let te i k := if tr then fget c t k i else fget c t i k
  let low := up == tr
  let n := if right then m.n else m.m
  let f :=
    if right then
      let p := if low then n - 1 - m.kb else m.kb
      let f := if unit then f else overF (List.range m.m) f fun g q => fput c g q p ((fget c g q p).div (te p p))
      overF (if low then List.range p else span (p + 1) n) f fun g k =>
        overF (List.range m.m) g fun h q => fput c h q k (fma32 (fget c h q p).negate (te p k) (fget c h q k))
    else
      let p := if low then m.kb else n - 1 - m.kb
      let f := if unit then f else overF (List.range m.n) f fun g z => fput c g p z ((fget c g p z).div (te p p))
      overF (if low then span (p + 1) n else List.range p) f fun g i =>
        overF (List.range m.n) g fun h z => fput c h i z (fma32 (te i p).negate (fget c h p z) (fget c h i z))
  if m.kb + 1 < n then .more (s.setAcc c d f) { m with kb := m.kb + 1 }
  else .fin (s.setAcc c d (facTail c m f)) { m with kb := m.kb + 1 } none

/-- One row of MPERM (R403). -/
def State.mpermStep (s : State) (c : Nat) (m : MCmd) (inv : Bool) (d a : Nat) : MStep :=
  match (if m.rows = 0 then s.permBad c m.m else none) with
  | some i => .fin s m (some (0x0C, 7, i))
  | none =>
    let i := m.rows
    let p := s.permOf c i
    let src := s.acc c a
    let (t, r) := if inv then (p, i) else (i, p)
    let f := overF (List.range m.n) (s.acc c d) fun g k => fput c g t k (fget c src r k)
    let m := { m with rows := i + 1 }
    if i + 1 < m.m then .more (s.setAcc c d f) m else .fin (s.setAcc c d (facTail c m f)) m none

/-- One step of a factorisation command; nothing for the commands of another family. -/
def State.facStep (s : State) (c slot : Nat) (m : MCmd) : Option MStep :=
  match m.instr with
  | .mlu _ d _ _ => some (s.mluStep c slot m d.toNat)
  | .mchol _ d _ _ => some (s.mcholStep c slot m d.toNat)
  | .mqr _ d a _ _ => some (s.mqrStep c m d.toNat a.toNat)
  | .mqapp _ qt right d a b _ _ => some (s.mqappStep c m qt right d.toNat a.toNat b.toNat)
  | .mtrs _ right up unit tr d a _ _ => some (s.mtrsStep c m right up unit tr d.toNat a.toNat)
  | .mperm _ inv d a _ _ => some (s.mpermStep c m inv d.toNat a.toNat)
  | .mfstPerm _ _ | .mfstGrow _ _ | .mfstStat _ _ => some (.fin s m none)
  | _ => none

/-! ### The events of the array -/

/-- MATRIX_COMMAND_RUN: the next step of the head command of a core's array (R240, R382, R389). -/
def execMatrixCommandRun (core : Nat) (s : State) : Host.Outcome State Fault Refusal :=
  nextState (match s.runMat core false fun s slot m => s.matStep core slot m with
    | some (t, false) => t
    | some (_, true) => s
    | none => s)

/-- FACTORISATION_RUN: the next step of the head command, a factorisation (R396). -/
def execFactorisationRun (core : Nat) (s : State) : Host.Outcome State Fault Refusal :=
  nextState (match s.runMat core false fun s slot m => s.facStep core slot m with
    | some (t, _) => t
    | none => s)

/-- MATRIX_PAGE_IN_WAIT: the head command meets a FLASH leaf; its page is asked for and it waits with ST 3 (R390). -/
def execMatrixPageInWait (core : Nat) (s : State) : Host.Outcome State Fault Refusal :=
  nextState (match s.matHead core with
    | none => s
    | some (_, m) =>
      match s.runMat core m.emul fun s slot m => s.matStep core slot m with
      | some (t, true) => s.pageMat core t
      | some (_, false) => s
      | none => s)

/-- CELLAR_EMULATION: the next step of a command that the policy core emulates (R142). -/
def execCellarEmulation (core : Nat) (s : State) : Host.Outcome State Fault Refusal :=
  nextState (match s.runMat core true fun s slot m => s.matStep core slot m with
    | some (t, false) => t
    | some (_, true) => s
    | none => s)

end Sys2Proof.Machine
end

