-- ==== Sys2Proof/Machine/Matrix.lean ====
section
/-! DEFINITION. The matrix and factorisation families at their issue (R371 to R388, R392 to R395, R404). -/
namespace Sys2Proof.Machine

/-! ### The issue of a command -/

/-- Slot bits [47:0] of the executing instruction, the TINFO of RESERVED_CODE. -/
def State.slotInfo (s : State) : Nat := s.issue.slot

/-- Size class of a type of a shape that TLD, TST, TTR and the products compare (R354, R373). -/
def sizeClass (t : Ty) : Nat := t.width

/-- A grant whose type is of another size class than the instruction's (R373). -/
def classDiffers (grant : Nat) (t : Ty) : Bool :=
  match Ty.ofCode (BitVec.ofNat 4 (bits grant 51 48)) with
  | some u => sizeClass u != sizeClass t
  | none => false

/-- The active extent of a command: M, N, K and the reflector count (R374, R392). -/
def State.mExtent (t : State) (sh : ShReg) (x : SReg) : Nat × Nat × Nat × Nat :=
  let g := t.grant sh
  let v := if x = 0 then 0 else t.rs x
  let dim (f d : Nat) : Nat := if f = 0 then d else min f d
  (dim (bits v 15 0) (bits g 15 0), dim (bits v 31 16) (bits g 31 16), dim (bits v 47 32) (bits g 47 32), bits v 47 32)

/-- A memory operand of a command: which field, base and stride registers, rows, bytes of a row, element size, and whether it is read. -/
structure MemOp where
  isB   : Bool
  base  : SReg
  str   : SReg
  rows  : Nat
  bytes : Nat
  es    : Nat
  src   : Bool
  algn  : Nat := 1

/-- Registers that a control word and its operands read. -/
def mReads (m : MCtl) (sh : Option ShReg) (more : List Dest) : List Dest :=
  more ++ (match sh with | some h => [.shape h] | none => []) ++ (if m.x = 0 then [] else [.scal m.x])
    ++ (if m.sa = 0 then [] else [.scal m.sa]) ++ (if m.sb = 0 then [] else [.scal m.sb]) ++ (if m.bar = 0 then [] else [.scal m.bar])

/-- The state with a command in the lowest free matrix inbox slot; nothing where the inbox or the guards are full (R240, R241). -/
def State.matPut (t : State) (m : MCmd) : Option (Nat × State) :=
  let c := t.ic
  let p := t.apart c
  match (List.range 8).find? fun i => (SMap.find? p.inbox i).isNone with
  | none => none
  | some i =>
    if 8 < t.guardCount c + m.guards.length then none
    else some (i, t.modApart c fun p => { p with inbox := SMap.put p.inbox i { m with seq := p.seq }, seq := p.seq + 1 })

/-- The first memory operand with a misaligned address or stride (R375). -/
def State.memMisaligned (t : State) (l : List MemOp) : Option Nat :=
  l.findSome? fun o =>
    let a := eaVal (t.ea o.base 0 0)
    let st := t.rs o.str
    if a % (max o.es o.algn) ≠ 0 || st % o.es ≠ 0 then some a else none

/-- The first memory operand whose base lies beyond 56 bits (R325). -/
def State.memBeyond (t : State) (l : List MemOp) : Option Nat :=
  l.findSome? fun o => match t.ea o.base 0 0 with | .inr v => some v | .inl _ => none

/-- A command with its memory operands staged (R240, R241, R375). -/
def State.stageOps (t : State) (c : Nat) (m : MCmd) (l : List MemOp) : MCmd :=
  l.foldl (fun m o =>
    let a := eaVal (t.ea o.base 0 0)
    let st := sval 64 (t.rs o.str)
    let m := if o.isB then { m with addrB := a, strB := st } else { m with addrA := a, strA := st }
    if o.src then { m with guards := m.guards ++ guardOf c a st o.rows o.bytes } else m) m

/-- The row bytes that a grant gives a tile: its K in the grant's own type (R355). -/
def grantBytes (g : Nat) : Nat := packedBytes (tyOfNat (bits g 51 48)) (bits g 47 32)

/-- The frames that a command writes under a shape, with their granted rows and row bytes; accumulators from 8 on (R164, R374, R392, log 43). -/
def grantDims (c g : Nat) : Instr → List (Nat × Nat × Nat)
  | .tld _ ty rowsN d _ _ x => [(d.toNat, if rowsN then bits g 31 16 else bits g 15 0, rowBytes ty x.sp.toNat (bits g 47 32))]
  | .ttr _ ty d _ _ _ => [(d.toNat, min (frameRows c) (bits g 47 32), packedBytes ty (bits g 15 0))]
  | .ccvt _ ty _ d _ _ _ => [(d.toNat, bits g 15 0, min (tileBytes c) (max (grantBytes g) (packedBytes ty (bits g 31 16))))]
  | .cld _ _ d _ _ _ | .mma _ _ _ d _ _ _ _ | .mmas _ _ _ d _ _ _ _ | .mmam _ _ _ d _ _ _ _ | .mlu _ d _ _ | .mchol _ d _ _ | .mqapp _ _ _ d _ _ _ _
  | .mtrs _ _ _ _ _ d _ _ _ | .mperm _ _ d _ _ _ => [(8 + d.toNat, bits g 15 0, 4 * bits g 31 16)]
  | .mqr _ d a _ _ => [(8 + d.toNat, bits g 15 0, 4 * bits g 31 16), (8 + a.toNat, bits g 15 0, 4 * bits g 31 16)]
  | _ => []

/-- The state with the granted dimensions of the frames that a command writes recorded; a move takes its source's (R164, log 43). -/
def State.noteDims (s : State) (i : Instr) (g : Nat) : State :=
  s.modApart s.ic fun p =>
    match i with
    | .tmov _ (.t d) (.t a) _ =>
      { p with dims := match SMap.find? p.dims a.toNat with | some x => SMap.put p.dims d.toNat x | none => SMap.del p.dims d.toNat }
    | .tmov _ (.c d) (.c a) _ =>
      { p with dims := match SMap.find? p.dims (8 + a.toNat) with
                 | some x => SMap.put p.dims (8 + d.toNat) x
                 | none => SMap.del p.dims (8 + d.toNat) }
    | _ => { p with dims := (grantDims s.ic g i).foldl (fun m e => SMap.put m e.1 e.2) p.dims }

/-- The staging and the queueing of a command whose checks of its own have passed (R240, R371 to R376, R407). -/
def State.matQueue (t : State) (instr : Instr) (x : MCtl) (sh : Option ShReg) (ops : List MemOp) (f : MCmd → MCmd) : Nat × State ⊕ Res :=
  let c := t.ic
  let k := t.ik
  match t.memMisaligned ops with
  | some a => .inr (.trap .misalign a)
  | none =>
    match t.stageCtl c k x.bar x.trapf x.acq x.rel (x.bar != 0) x.scope with
    | .trap cause info => .inr (.trap cause info)
    | .flash u leaf => .inr (.block u (.pageIn leaf))
    | .wait u => .inr (.retry u)
    | .ok u ctl =>
      match t.memBeyond ops with
      | some v => .inr (.trap .prot v)
      | none =>
        let e := match sh with | some h => t.mExtent h x.x | none => (0, 0, 0, 0)
        let m : MCmd := { instr := instr, ctl := ctl, mods := t.mods, seq := 0, m := e.1, n := e.2.1, k := e.2.2.1, rk := e.2.2.2
                          tail := (match sh with | some h => t.tailTu h | none => true) }
        match u.matPut (f (t.stageOps c m ops)) with
        | none => .inr (.retry t)
        | some (i, v) => .inl (i, v.noteDims instr (match sh with | some h => t.grant h | none => 0))

/-- The answer of a matrix instruction: its command queued, and the context held while the policy core emulates it (R142, R240). -/
def State.matRes (t : State) (instr : Instr) (x : MCtl) (sh : Option ShReg) (ops : List MemOp) (f : MCmd → MCmd) (emul : Bool) : Res :=
  let emul := emul && isCellar t.ic
  match t.matQueue instr x sh ops (fun m => { f m with emul := emul }) with
  | .inr r => r
  | .inl (slot, u) => if emul then .hold u (.emulate slot) else .ok u

/-- The issue of a matrix instruction: the RESERVED_CODE, PRIV and SHAPE checks first (R137, R353, R373, R407), then its own body. -/
def State.issueMat (s : State) (c : Ctl) (x : MCtl) (sh : Option (ShReg × List Nat)) (more : List Dest) (resv : State → Bool)
    (tooWide : State → Bool) (body : State → Res) : State :=
  s.issueSlot c.stall.toNat c.pred (mReads x (sh.map Prod.fst) more) []
    (bothChecks (fun t => if resv t then some (.reservedCode, t.slotInfo) else none) (bothChecks (barPriv x.bar) fun t =>
      match sh with
        | none => none
        | some (h, kinds) =>
          match shapeCheck h kinds t with
          | some r => some r
          | none => if tooWide t then some (.shape, shapeInfo h) else none))
    body

/-- What the issue of a matrix instruction checks and does. -/
structure MatSpec where
  ctl     : Ctl
  x       : MCtl
  sh      : Option (ShReg × List Nat)
  more    : List Dest
  resv    : State → Bool
  tooWide : State → Bool
  body    : State → Res

/-- The state after the issue of a matrix instruction. -/
def State.issueSpec (s : State) (p : MatSpec) : State := s.issueMat p.ctl p.x p.sh p.more p.resv p.tooWide p.body

/-- No further shape limit. -/
def fitsAll (_ : State) : Bool := false

/-- Element size of a memory operand of a type, 1 byte for 4-bit types (R375). -/
def elemSize (t : Ty) : Nat := max 1 (t.width / 8)

/-! ### Loads, stores, moves (R379 to R381) -/

/-- The kind that TLD and TST need for their record form, and no other (R373, R379). -/
def moveResv (t : State) (ty : Ty) (sh : ShReg) (m : MCtl) : Bool :=
  let g := t.grant sh
  classDiffers g ty || (if m.sp = 0 then bits g 53 52 != 1 else bits g 53 52 != 2)

/-- The memory operand of TLD and TST. -/
def moveOp (t : State) (ty : Ty) (rowsN : Bool) (a : SReg) (sh : ShReg) (m : MCtl) (src : Bool) : MemOp :=
  let e := t.mExtent sh m.x
  { isB := false, base := a, str := m.sa, rows := if rowsN then e.2.1 else e.1, bytes := rowBytes ty m.sp.toNat e.2.2.1, es := elemSize ty, src := src }

/-- The issue of TLD. -/
def tldSpec (c : Ctl) (ty : Ty) (rowsN : Bool) (d : TReg) (a : SReg) (sh : ShReg) (m : MCtl) : MatSpec :=
  { ctl := c, x := m, sh := (some (sh, [1, 2])), more := [.scal a], resv := (fun t => moveResv t ty sh m), tooWide := fitsAll
    body := fun t =>
    t.matRes (.tld c ty rowsN d a sh m) m (some sh) [moveOp t ty rowsN a sh m true] id (ty == .f8e5) }

/-- TLD: rows of memory into a tile (R379). -/
def execTld (c : Ctl) (ty : Ty) (rowsN : Bool) (d : TReg) (a : SReg) (sh : ShReg) (m : MCtl) (s : State) : Host.Outcome State Fault Refusal :=
  nextState (s.issueSpec (tldSpec c ty rowsN d a sh m))

/-- The issue of TST. -/
def tstSpec (c : Ctl) (ty : Ty) (rowsN : Bool) (a : SReg) (b : TReg) (sh : ShReg) (m : MCtl) : MatSpec :=
  { ctl := c, x := m, sh := (some (sh, [1, 2])), more := [.scal a], resv := (fun t => moveResv t ty sh m), tooWide := fitsAll
    body := fun t =>
    t.matRes (.tst c ty rowsN a b sh m) m (some sh) [moveOp t ty rowsN a sh m false] id (ty == .f8e5) }

/-- TST: rows of a tile into memory (R379). -/
def execTst (c : Ctl) (ty : Ty) (rowsN : Bool) (a : SReg) (b : TReg) (sh : ShReg) (m : MCtl) (s : State) : Host.Outcome State Fault Refusal :=
  nextState (s.issueSpec (tstSpec c ty rowsN a b sh m))

/-- No RESERVED_CODE check beyond the decoder's. -/
def noResv (_ : State) : Bool := false

/-- The issue of TZERO. -/
def tzeroSpec (c : Ctl) (d : TReg) (m : MCtl) : MatSpec :=
  { ctl := c, x := m, sh := none, more := [], resv := noResv, tooWide := fitsAll
    body := fun t => t.matRes (.tzero c d m) m none [] id false }

/-- TZERO: a tile cleared (R381). -/
def execTzero (c : Ctl) (d : TReg) (m : MCtl) (s : State) : Host.Outcome State Fault Refusal :=
  nextState (s.issueSpec (tzeroSpec c d m))

/-- The issue of TMOV. -/
def tmovSpec (c : Ctl) (d a : TileReg) (m : MCtl) : MatSpec :=
  { ctl := c, x := m, sh := none, more := [], resv := noResv, tooWide := fitsAll
    body := fun t => t.matRes (.tmov c d a m) m none [] id false }

/-- TMOV: a frame copied (R381). -/
def execTmov (c : Ctl) (d a : TileReg) (m : MCtl) (s : State) : Host.Outcome State Fault Refusal :=
  nextState (s.issueSpec (tmovSpec c d a m))

/-- The issue of TTR. -/
def ttrSpec (c : Ctl) (ty : Ty) (d a : TReg) (sh : ShReg) (m : MCtl) : MatSpec :=
  { ctl := c, x := m, sh := (some (sh, [1])), more := [], resv := (fun t => classDiffers (t.grant sh) ty), tooWide := (fun t => let e := t.mExtent sh m.x; decide (frameRows t.ic < e.2.2.1) || decide (tileBytes t.ic < e.1 * ty.width / 8))
    body := fun t =>
    t.matRes (.ttr c ty d a sh m) m (some sh) [] id (ty == .f8e5) }

/-- TTR: a tile transposed (R381). -/
def execTtr (c : Ctl) (ty : Ty) (d a : TReg) (sh : ShReg) (m : MCtl) (s : State) : Host.Outcome State Fault Refusal :=
  nextState (s.issueSpec (ttrSpec c ty d a sh m))

/-- The memory operand of CLD and CST. -/
def accOp (t : State) (a : SReg) (sh : ShReg) (m : MCtl) (src : Bool) : MemOp :=
  let e := t.mExtent sh m.x
  { isB := false, base := a, str := m.sa, rows := e.1, bytes := 4 * e.2.1, es := 4, src := src }

/-- The issue of CLD. -/
def cldSpec (c : Ctl) (ty : Ty) (d : CReg) (a : SReg) (sh : ShReg) (m : MCtl) : MatSpec :=
  { ctl := c, x := m, sh := (some (sh, [1, 3])), more := [.scal a], resv := noResv, tooWide := fitsAll
    body := fun t =>
    t.matRes (.cld c ty d a sh m) m (some sh) [accOp t a sh m true] id false }

/-- CLD: rows of memory into an accumulator (R380). -/
def execCld (c : Ctl) (ty : Ty) (d : CReg) (a : SReg) (sh : ShReg) (m : MCtl) (s : State) : Host.Outcome State Fault Refusal :=
  nextState (s.issueSpec (cldSpec c ty d a sh m))

/-- The issue of CST. -/
def cstSpec (c : Ctl) (ty : Ty) (a : SReg) (b : CReg) (sh : ShReg) (m : MCtl) : MatSpec :=
  { ctl := c, x := m, sh := (some (sh, [1, 3])), more := [.scal a], resv := noResv, tooWide := fitsAll
    body := fun t =>
    t.matRes (.cst c ty a b sh m) m (some sh) [accOp t a sh m false] id false }

/-- CST: rows of an accumulator into memory (R380). -/
def execCst (c : Ctl) (ty : Ty) (a : SReg) (b : CReg) (sh : ShReg) (m : MCtl) (s : State) : Host.Outcome State Fault Refusal :=
  nextState (s.issueSpec (cstSpec c ty a b sh m))

/-- The issue of CZERO. -/
def czeroSpec (c : Ctl) (d : CReg) (m : MCtl) : MatSpec :=
  { ctl := c, x := m, sh := none, more := [], resv := noResv, tooWide := fitsAll
    body := fun t => t.matRes (.czero c d m) m none [] id false }

/-- CZERO: an accumulator cleared (R381). -/
def execCzero (c : Ctl) (d : CReg) (m : MCtl) (s : State) : Host.Outcome State Fault Refusal :=
  nextState (s.issueSpec (czeroSpec c d m))

/-! ### Products (R382 to R385) -/

/-- The registers of a product's operands. -/
def opReads : MatOp → List Dest
  | .tile _ => []
  | .mem a => [.scal a]

/-- The memory operand of a product, if it is one. -/
def prodMem (isB : Bool) (o : MatOp) (str : SReg) (rows bytes es : Nat) : List MemOp :=
  match o with
  | .tile _ => []
  | .mem a => [{ isB := isB, base := a, str := str, rows := rows, bytes := bytes, es := es, src := true }]

/-- What decoding a product's bank operand at issue finds: the BFR of every bank that holds bytes of its rows, or that it cannot be decoded
(R182, R375, R382). -/
def State.bankOf (t : State) (o : MatOp) (str : SReg) (rows k : Nat) : Option Nat :=
  match o with
  | .tile _ => none
  | .mem a =>
    match t.ea a 0 0 with
    | .inr _ => none
    | .inl va =>
      let st := sval 64 (t.rs str)
      let p := (t.core t.ic).active
      match spadOf t.ic va 1 with
      | none => none
      | some (d, off) =>
        let b := t.bfrOf d p (off / bankSize d)
        match bfrTy b with
        | none => none
        | some ty => if (List.range rows).all fun r => t.runBfr t.ic p (rowAddr va st r) (packedBytes ty k) == some b then some b else none

/-- The bank formats of a product whose type is the banks'; nothing where they cannot be decoded, or do not suit an I32 accumulator
(R182, R261, R382). -/
def State.prodBanks (t : State) (iacc : Bool) (a b : MatOp) (sh : ShReg) (m : MCtl) : Option (Nat × Nat) :=
  let e := t.mExtent sh m.x
  match t.bankOf a m.sa e.1 e.2.2.1, t.bankOf b m.sb e.2.1 e.2.2.1 with
  | some x, some y =>
    let plain (v : Nat) : Bool := bfrGroup v == 0 && ((bfrTy v).any fun t => t.isIntOp)
    if iacc && !(plain x && plain y) then none else some (x, y)
  | _, _ => none

/-- The RESERVED_CODE checks of MMA and MMAM that need the state; with TY = 15 the type that must suit the shape is the shape's own
(R182, R373, R382). -/
def State.prodResv (t : State) (ty : TyB) (iacc : Bool) (a b : MatOp) (sh : ShReg) (m : MCtl) : Bool :=
  match ty with
  | .ty u => classDiffers (t.grant sh) u
  | .bank =>
    (t.prodBanks iacc a b sh m).isNone

/-- MMA and MMAM queued (R382, R385). -/
def State.prodRes (t : State) (instr : Instr) (ty : TyB) (iacc : Bool) (a b : MatOp) (sh : ShReg) (m : MCtl) (f : MCmd → MCmd) : Res :=
  let e := t.mExtent sh m.x
  let banks := match ty with | .ty _ => none | .bank => t.prodBanks iacc a b sh m
  let ta := match ty with | .ty u => u | .bank => (match banks with | some x => (bfrTy x.1).getD .i8 | none => .i8)
  let tb := match ty with | .ty u => u | .bank => (match banks with | some x => (bfrTy x.2).getD .i8 | none => .i8)
  let ops := prodMem false a m.sa e.1 (packedBytes ta e.2.2.1) (elemSize ta) ++ prodMem true b m.sb e.2.1 (packedBytes tb e.2.2.1) (elemSize tb)
  t.matRes instr m (some sh) ops
    (fun x => f { x with bfrs := (match banks with | some (p, q) => [(0, p), (1, q)] | none => []) }) (ta == .f8e5 || tb == .f8e5)

/-- The issue of MMA. -/
def mmaSpec (c : Ctl) (ty : TyB) (iacc : Bool) (d : CReg) (a b : MatOp) (sh : ShReg) (m : MCtl) : MatSpec :=
  { ctl := c, x := m, sh := (some (sh, [1])), more := (opReads a ++ opReads b), resv := (fun t => t.prodResv ty iacc a b sh m), tooWide := fitsAll
    body := fun t =>
    t.prodRes (.mma c ty iacc d a b sh m) ty iacc a b sh m id }

/-- MMA: C = C + A × B (R382). -/
def execMma (c : Ctl) (ty : TyB) (iacc : Bool) (d : CReg) (a b : MatOp) (sh : ShReg) (m : MCtl) (s : State) : Host.Outcome State Fault Refusal :=
  nextState (s.issueSpec (mmaSpec c ty iacc d a b sh m))

/-- The issue of MMAS. -/
def mmasSpec (c : Ctl) (ty : Ty) (iacc : Bool) (d : CReg) (a b : MatOp) (sh : ShReg) (m : MCtl) : MatSpec :=
  { ctl := c, x := m, sh := (some (sh, [2])), more := (opReads a ++ opReads b), resv := (fun t => classDiffers (t.grant sh) ty), tooWide := fitsAll
    body := fun t =>
    let e := t.mExtent sh m.x
    t.matRes (.mmas c ty iacc d a b sh m) m (some sh)
      (prodMem false a m.sa e.1 (packedBytes ty e.2.2.1) 1 ++ prodMem true b m.sb e.2.1 (rowBytes ty m.sp.toNat e.2.2.1) 1) id (ty == .n4x) }

/-- MMAS: C = C + A × B with B in N-of-24 form (R259, R383). -/
def execMmas (c : Ctl) (ty : Ty) (iacc : Bool) (d : CReg) (a b : MatOp) (sh : ShReg) (m : MCtl) (s : State) : Host.Outcome State Fault Refusal :=
  nextState (s.issueSpec (mmasSpec c ty iacc d a b sh m))

/-- The mask that MMAM reads at its issue from its mask tile: the header, then the rows (R385). -/
def State.maskTile (t : State) (mt : Nat) : Nat :=
  let v := t.tile t.ic mt
  let rb := tileBytes t.ic
  (List.range (min (bits (frameRead v rb 0 8 8) 14 8) (frameRows t.ic))).foldl
    (fun acc i => acc + frameRead v rb i 0 8 * 2 ^ (64 * (i + 1))) (frameRead v rb 0 8 8)

/-- The mask of MMAM is in OUT mode and its accumulator would be I32 (R385). -/
def State.maskOutInt (t : State) (iacc : Bool) (mt : Nat) : Bool :=
  let v := t.maskTile mt
  iacc && !maskVoid t.ic v && bits v 1 0 == 0

/-- The issue of MMAM. -/
def mmamSpec (c : Ctl) (ty : TyB) (iacc : Bool) (d : CReg) (a b : MatOp) (sh : ShReg) (m : MCtl) : MatSpec :=
  { ctl := c, x := m, sh := (some (sh, [1])), more := (opReads a ++ opReads b), resv := (fun t => t.prodResv ty iacc a b sh m || t.maskOutInt iacc m.mt.toNat), tooWide := fitsAll
    body := fun t =>
    t.prodRes (.mmam c ty iacc d a b sh m) ty iacc a b sh m fun x => { x with mask := t.maskTile m.mt.toNat } }

/-- MMAM: a masked product (R385). -/
def execMmam (c : Ctl) (ty : TyB) (iacc : Bool) (d : CReg) (a b : MatOp) (sh : ShReg) (m : MCtl) (s : State) : Host.Outcome State Fault Refusal :=
  nextState (s.issueSpec (mmamSpec c ty iacc d a b sh m))

/-- The issue of MPBL. -/
def mpblSpec (c : Ctl) (d : TReg) (a : SReg) (m : MCtl) : MatSpec :=
  { ctl := c, x := m, sh := none, more := [.scal a], resv := noResv, tooWide := fitsAll
    body := fun t =>
    t.matRes (.mpbl c d a m) m none [{ isB := false, base := a, str := 0, rows := 1, bytes := 576, es := 1, src := true, algn := 64 }] id false }

/-- MPBL: a mask parameter block into a tile (R384). -/
def execMpbl (c : Ctl) (d : TReg) (a : SReg) (m : MCtl) (s : State) : Host.Outcome State Fault Refusal :=
  nextState (s.issueSpec (mpblSpec c d a m))

/-! ### Conversion and bank formats (R386 to R388) -/

/-- The issue of CCVT. -/
def ccvtSpec (c : Ctl) (ty : Ty) (isrc : Bool) (d : TReg) (a : CReg) (sh : ShReg) (m : MCtl) : MatSpec :=
  { ctl := c, x := m, sh := (some (sh, [1])), more := [], resv := noResv, tooWide := (fun t => decide (tileBytes t.ic < packedBytes ty (t.mExtent sh m.x).2.1))
    body := fun t =>
    t.matRes (.ccvt c ty isrc d a sh m) m (some sh) [] id (ty == .f8e5) }

/-- CCVT: an accumulator converted into a tile (R386). -/
def execCcvt (c : Ctl) (ty : Ty) (isrc : Bool) (d : TReg) (a : CReg) (sh : ShReg) (m : MCtl) (s : State) : Host.Outcome State Fault Refusal :=
  nextState (s.issueSpec (ccvtSpec c ty isrc d a sh m))

/-- A bank that the core has (R387). -/
def bankBad (t : State) (bank : BitVec 4) : Bool := decide (nbanks t.ic ≤ bank.toNat)

/-- BFMT: a bank's format written (R180, R387). -/
def execBfmt (c : Ctl) (a : SReg) (bank : BitVec 4) (s : State) : Host.Outcome State Fault Refusal :=
  nextState (s.issueSlot c.stall.toNat c.pred [.scal a] []
    (fun t =>
      let v := t.rs a % 2 ^ 24
      if bankBad t bank || v % 16 = 14 || 3 ≤ bits v 7 4 then some (.reservedCode, t.slotInfo) else none) fun t =>
    let v := t.rs a % 2 ^ 24
    let per := bankSize t.ic * 8 / (tyOfNat (v % 16)).width
    if bfrGroup v ≠ 0 && decide (spadSize t.ic < bits v 23 8 * 64 + 2 * ((per + bfrGroup v - 1) / bfrGroup v)) then .trap .prot (t.rs a)
    else .ok (t.modApart t.ic fun p => { p with bfr := SMap.put p.bfr bank.toNat v }))

/-- BFMT.RD: a bank's format read (R387). -/
def execBfmtRd (c : Ctl) (d : SReg) (bank : BitVec 4) (s : State) : Host.Outcome State Fault Refusal :=
  nextState (s.issueSlot c.stall.toNat c.pred [] [.scal d]
    (fun t => if bankBad t bank then some (.reservedCode, t.slotInfo) else none) fun t =>
    .ok (t.putVar t.ic t.ik d (t.bfrOf t.ic (t.core t.ic).active bank.toNat) 1))

/-- The one format of a range of banks that a copy writes: untyped, or one BFR; nothing where they differ (R182, R410). -/
def State.destBfr (s : State) (t p off n : Nat) : Option Nat :=
  let b0 := off / bankSize t
  let b1 := (off + max n 1 - 1) / bankSize t
  let v := s.bfrOf t p b0
  if (List.range (b1 - b0 + 1)).all fun i => s.bfrOf t p (b0 + i) == v || ((bfrTy v).isNone && (bfrTy (s.bfrOf t p (b0 + i))).isNone) then some v
  else none

/-- The element types of BCPY's source and destination, by the banks of their first bytes; an untyped destination takes the source's (R388). -/
def State.bcpyTypes (t : State) (src dst : Nat) : Ty × Ty :=
  let p := (t.core t.ic).active
  let st := (bfrTy (t.bfrOf t.ic p (src / bankSize t.ic))).getD .i8
  (st, (bfrTy (t.bfrOf t.ic p (dst / bankSize t.ic))).getD st)

/-- The banks that a BCPY of at least one element meets within the scratchpad cannot be decoded, or those of its destination differ (R182, R388, log 86). -/
def State.bcpyResv (t : State) (src dst n : Nat) : Bool :=
  let p := (t.core t.ic).active
  let size := spadSize t.ic
  let (st, dt) := t.bcpyTypes src dst
  n != 0 && ((decide (src < size) && (t.oneBfr t.ic p src (min (packedBytes st n) (size - src))).isNone)
    || (decide (dst < size) && (t.destBfr t.ic p dst (min (packedBytes dt n) (size - dst))).isNone))

/-- The issue of BCPY. -/
def bcpySpec (c : Ctl) (a b r : SReg) (m : MCtl) : MatSpec :=
  { ctl := c, x := m, sh := none, more := [.scal a, .scal b, .scal r], tooWide := fitsAll
    resv := fun t => t.bcpyResv (t.rs b) (t.rs a) (t.rs r % 2 ^ 32)
    body := fun t =>
    let n := t.rs r % 2 ^ 32
    let dst := t.rs a
    let src := t.rs b
    let p := (t.core t.ic).active
    let (st, dt) := t.bcpyTypes src dst
    let sn := packedBytes st n
    let past (at_ len : Nat) : Bool := at_ / 2 ^ 20 != 0 || (n != 0 && decide (spadSize t.ic < at_ + len))
    if past src sn then .trap .prot src
    else if past dst (packedBytes dt n) then .trap .prot dst
    else
      let sb := t.bfrOf t.ic p (src / bankSize t.ic)
      let db := t.bfrOf t.ic p (dst / bankSize t.ic)
      t.matRes (.bcpy c a b r m) m none []
        (fun x => { x with addrA := dst, addrB := src, arg := n, bfrs := [(0, sb), (1, db)]
                           guards := if n = 0 then [] else [{ lo := src, hi := src + sn }] })
        (n != 0 && (st == .f8e5 || (bfrTy db).any fun u => u == .f8e5)) }

/-- BCPY: elements converted from bank to bank (R388). -/
def execBcpy (c : Ctl) (a b r : SReg) (m : MCtl) (s : State) : Host.Outcome State Fault Refusal :=
  nextState (s.issueSpec (bcpySpec c a b r m))

/-- The issue of the matrix instructions that may follow a CPYF (R412). -/
def matSpec (i : Instr) : Option MatSpec :=
  match i with
  | .tld c ty rowsN d a sh m => some (tldSpec c ty rowsN d a sh m)
  | .tst c ty rowsN a b sh m => some (tstSpec c ty rowsN a b sh m)
  | .tzero c d m => some (tzeroSpec c d m)
  | .tmov c d a m => some (tmovSpec c d a m)
  | .ttr c ty d a sh m => some (ttrSpec c ty d a sh m)
  | .cld c ty d a sh m => some (cldSpec c ty d a sh m)
  | .cst c ty a b sh m => some (cstSpec c ty a b sh m)
  | .czero c d m => some (czeroSpec c d m)
  | .mma c ty iacc d a b sh m => some (mmaSpec c ty iacc d a b sh m)
  | .mmas c ty iacc d a b sh m => some (mmasSpec c ty iacc d a b sh m)
  | .mmam c ty iacc d a b sh m => some (mmamSpec c ty iacc d a b sh m)
  | .mpbl c d a m => some (mpblSpec c d a m)
  | .ccvt c ty isrc d a sh m => some (ccvtSpec c ty isrc d a sh m)
  | .bcpy c a b r m => some (bcpySpec c a b r m)
  | _ => none

/-! ### Factorisations (R392 to R395) -/

/-- The issue of a factorisation: its shape holds TY 11, and its active extent keeps a limit (R392, R394). -/
def State.issueFac (s : State) (c : Ctl) (instr : Instr) (sh : ShReg) (m : MCtl) (bad : Nat → Nat → Bool) : State :=
  s.issueMat c m (some (sh, [3])) []
    noResv (fun t => let e := t.mExtent sh m.x; bits (t.grant sh) 51 48 != 11 || bad e.1 e.2.1) fun t =>
    t.matRes instr m (some sh) [] (fun x => { x with arg := t.wsRead t.ic t.ik 0x278 4 }) false

/-- No limit beyond the shape's. -/
def anyExtent (_ _ : Nat) : Bool := false

/-- MLU (R398). -/
def execMlu (c : Ctl) (d : CReg) (sh : ShReg) (m : MCtl) (s : State) : Host.Outcome State Fault Refusal :=
  nextState (s.issueFac c (.mlu c d sh m) sh m anyExtent)
/-- MCHOL (R399). -/
def execMchol (c : Ctl) (d : CReg) (sh : ShReg) (m : MCtl) (s : State) : Host.Outcome State Fault Refusal :=
  nextState (s.issueFac c (.mchol c d sh m) sh m fun x y => x != y)
/-- MQR (R400). -/
def execMqr (c : Ctl) (d a : CReg) (sh : ShReg) (m : MCtl) (s : State) : Host.Outcome State Fault Refusal :=
  nextState (s.issueFac c (.mqr c d a sh m) sh m fun x y => decide (x < y))
/-- MQAPP (R401). -/
def execMqapp (c : Ctl) (qt right : Bool) (d a b : CReg) (sh : ShReg) (m : MCtl) (s : State) : Host.Outcome State Fault Refusal :=
  nextState (s.issueFac c (.mqapp c qt right d a b sh m) sh m anyExtent)
/-- MTRS (R402). -/
def execMtrs (c : Ctl) (right up unit tr : Bool) (d a : CReg) (sh : ShReg) (m : MCtl) (s : State) : Host.Outcome State Fault Refusal :=
  nextState (s.issueFac c (.mtrs c right up unit tr d a sh m) sh m anyExtent)
/-- MPERM (R403). -/
def execMperm (c : Ctl) (inv : Bool) (d a : CReg) (sh : ShReg) (m : MCtl) (s : State) : Host.Outcome State Fault Refusal :=
  nextState (s.issueFac c (.mperm c inv d a sh m) sh m anyExtent)

/-- The answer of MFST: a command in inbox order, for whose result a reader waits; with an empty inbox the state is read at once (R280, R404). -/
def State.mfstRes (t : State) (instr : Instr) (now : State) : Res :=
  if (t.apart t.ic).inbox.isEmpty then .ok now
  else
    let x : MCtl := { x := 0, sa := 0, sb := 0, bar := 0, trapf := false, acq := false, rel := false, scope := .core, rm := .rne, mt := 0, sp := 0 }
    match t.matQueue instr x none [] id with
    | .inr r => r
    | .inl (_, u) => .ok u

/-- MFST.PERM: the permutation into bytes 0 to 63 of a vector register (R404). -/
def execMfstPerm (c : Ctl) (d : VReg) (s : State) : Host.Outcome State Fault Refusal :=
  nextState (s.issueSlot c.stall.toNat c.pred [] [.vec d] noCheck fun t =>
    t.mfstRes (.mfstPerm c d) (t.putV t.ic t.ik d (2 ^ 512 - 1) (t.permBytes t.ic) 1 false))
/-- MFST.GROW (R404). -/
def execMfstGrow (c : Ctl) (d : SReg) (s : State) : Host.Outcome State Fault Refusal :=
  nextState (s.issueSlot c.stall.toNat c.pred [] [.scal d] noCheck fun t =>
    t.mfstRes (.mfstGrow c d) (t.putVar t.ic t.ik d (t.apart t.ic).grow 1))
/-- MFST.STAT (R404). -/
def execMfstStat (c : Ctl) (d : SReg) (s : State) : Host.Outcome State Fault Refusal :=
  nextState (s.issueSlot c.stall.toNat c.pred [] [.scal d] noCheck fun t =>
    t.mfstRes (.mfstStat c d) (t.putVar t.ic t.ik d (t.apart t.ic).fstat 1))

end Sys2Proof.Machine
end

