-- ==== Sys2Proof/Machine/Copy.lean ====
section
/-! DEFINITION. The copy engine's instructions at their issue (R406 to R414). -/
namespace Sys2Proof.Machine

/-! ### Copies (R409 to R411) -/

/-- Word `i` of a descriptor in a vector register. -/
def vWord (v i : Nat) : Nat := bits v (64 * i + 63) (64 * i)

/-- The reserved fields, counts and type of a copy descriptor that trap (R409, R410). -/
def copyDescBad (v : Nat) : Bool :=
  bits (vWord v 0) 63 56 != 0 || bits (vWord v 1) 63 56 != 0 || bits (vWord v 2) 63 52 != 0 || vWord v 6 != 0 || vWord v 7 != 0
    || bits (vWord v 2) 51 48 == 14 || bits (vWord v 2) 15 0 == 0 || bits (vWord v 2) 31 16 == 0 || bits (vWord v 2) 47 32 == 0

/-- Lowest address of an affine pattern and the distance to its highest (R241, R409). -/
def patternSpan (src : Nat) (l : List (Nat × Int)) : Int × Int :=
  l.foldl (fun r e =>
    let d := ((e.1 : Int) - 1) * e.2
    (r.1 + min 0 d, r.2 + max 0 d)) ((src : Int), (src : Int))

/-- Counts and strides of a copy descriptor. -/
def copyDims (v : Nat) : List (Nat × Int) :=
  [(bits (vWord v 2) 15 0, sval 64 (vWord v 3)), (bits (vWord v 2) 31 16, sval 64 (vWord v 4)), (bits (vWord v 2) 47 32, sval 64 (vWord v 5))]

/-- The part of a pattern's span in one scratchpad: its core, first offset and bytes. -/
def spanSpad (c : Nat) (lo hi : Int) (w : Nat) : Option (Nat × Nat × Nat) :=
  if lo < 0 then none
  else match spadOf c lo.toNat 1, spadOf c (hi.toNat + w - 1) 1 with
    | some (d, a), some (e, b) => if d = e then some (d, a, b + 1 - a) else none
    | _, _ => none

/-- Addresses of an affine pattern's elements; a stride of 0 names one place. -/
def patternAddrs (src : Nat) (l : List (Nat × Int)) : List Int :=
  l.foldl (fun acc e => acc.flatMap fun a => (List.range (if e.2 = 0 then 1 else e.1)).map fun i => a + i * e.2) [(src : Int)]

/-- The source bank's format of a copy whose STYPE is 15, the same in every bank that holds an element of its pattern; nothing where it cannot be decoded
(R182, R409). -/
def State.copyBank (t : State) (v : Nat) : Option Nat :=
  let c := t.ic
  let (lo, hi) := patternSpan (bits (vWord v 0) 55 0) (copyDims v)
  match spanSpad c lo hi 1 with
  | none => none
  | some (d, off, n) =>
    let p := (t.core c).active
    let src := bits (vWord v 0) 55 0
    match spadOf c src 1 with
    | none => none
    | some (e, o) =>
      let b := t.bfrOf e p (o / bankSize e)
      match bfrTy b with
      | none => none
      | some ty =>
        let whole := t.oneBfr d p off (n + elemSize ty - 1) == some b
        if whole || (patternAddrs src (copyDims v)).all fun a => t.runBfr c p a.toNat (elemSize ty) == some b then some b else none

/-- The RESERVED_CODE checks of a copy's descriptor (R182, R410). -/
def State.copyResv (t : State) (v : Nat) : Bool :=
  copyDescBad v || (bits (vWord v 2) 51 48 == 15 && (t.copyBank v).isNone)

/-- The destination of a copy: its core and offset where it lies in a scratchpad; or the trap of R410. -/
inductive CopyDst where
  | spad (c off : Nat)
  | mem
  | bad

/-- Where a copy's destination range lies (R410). -/
def copyDst (c dst n : Nat) : CopyDst :=
  if 0xFF ≤ dst / 2 ^ 48 then .bad
  else if 0xFD ≤ dst / 2 ^ 48 then
    match windowPlace c dst n with
    | some (.own off) => .spad c off
    | some (.core t off) => .spad t off
    | _ => .bad
  else .mem

/-- A channel can take a command: no command and no active watermark (R411). -/
def State.chanFree (s : State) (c ch : Nat) : Bool :=
  !s.chanBusy c ch && !(SMap.get {} (s.apart c).marks ch).act

/-- The answer of a copy's checks and staging: the state with its command and watermark in place, or what the instruction answers. -/
def State.copyStage (t : State) (v : Nat) (e : ECtl) : State ⊕ Res :=
  let c := t.ic
  let k := t.ik
  let p := (t.core c).active
  let src := bits (vWord v 0) 55 0
  let dst := bits (vWord v 1) 55 0
  let sty := bits (vWord v 2) 51 48
  let sb := if sty = 15 then t.copyBank v else none
  let ty := match sb with | some b => (bfrTy b).getD .i8 | none => tyOfNat sty
  let total := bits (vWord v 2) 15 0 * bits (vWord v 2) 31 16 * bits (vWord v 2) 47 32
  let ch := e.ch.toNat
  let first : Option Nat := match copyDst c dst 1 with
    | .spad d off => some (t.bfrOf d p (off / bankSize d))
    | .mem => none
    | .bad => none
  let dty := match first with | some b => (match bfrTy b with | some u => u | none => ty) | none => ty
  let bytes := packedBytes dty total
  let dbfr : Option (Option Nat) := match copyDst c dst bytes with
    | .spad d off => (match t.destBfr d p off bytes with
      | some b => some (if (bfrTy b).isSome then some b else none)
      | none => none)
    | .mem => some none
    | .bad => some none
  match dbfr with
  | none => .inr (.trap .reservedCode t.slotInfo)
  | some dbfr =>
    if dst % elemSize dty ≠ 0 then .inr (.trap .misalign dst)
    else if src % elemSize ty ≠ 0 then .inr (.trap .misalign src)
    else match t.stageCtl c k e.bar e.trapf e.acq e.rel e.arv e.scope with
      | .trap cause info => .inr (.trap cause info)
      | .flash u leaf => .inr (.block u (.pageIn leaf))
      | .wait u => .inr (.retry u)
      | .ok u ctl =>
        let place := copyDst c dst bytes
        match place with
        | .bad => .inr (.trap .prot dst)
        | _ =>
          let (lo, hi) := patternSpan src (copyDims v)
          let guards : List Guard := match spanSpad c lo hi (elemSize ty) with
            | some (d, off, n) => if d = c then [{ lo := off, hi := off + n }] else []
            | none => []
          if !t.chanFree c ch || 8 < t.guardCount c + guards.length then .inr (.retry t)
          else
            let beats := granules dst bytes
            let m : CCmd :=
              { kind := 0, ctl := ctl, src := src, dst := dst, sty := sty, cnt0 := bits (vWord v 2) 15 0, cnt1 := bits (vWord v 2) 31 16
                cnt2 := bits (vWord v 2) 47 32, str0 := sval 64 (vWord v 3), str1 := sval 64 (vWord v 4), str2 := sval 64 (vWord v 5)
                rm := e.rm, dbfr := dbfr, bfrs := (match sb with | some b => [(0, b)] | none => []), beats := beats, guards := guards
                total := total, bytes := bytes }
            let u := u.modApart c fun q =>
              let marks := match place with
                | .spad d off => if d = c then SMap.put q.marks ch { act := true, lo := off, hi := off + bytes, wm := off } else q.marks
                | .mem => q.marks
                | .bad => q.marks
              { q with chans := SMap.put q.chans ch { m with seq := q.seq }, seq := q.seq + 1, marks := marks }
            .inl (u.engineExpect c ctl beats)

/-- The registers that a copy instruction reads. -/
def copyReads (a : VReg) (e : ECtl) : List Dest := .vec a :: (if e.bar = 0 then [] else [.scal e.bar])

/-- CPY: a copy command (R410). -/
def execCpy (c : Ctl) (a : VReg) (e : ECtl) (s : State) : Host.Outcome State Fault Refusal :=
  nextState (s.issueSlot c.stall.toNat c.pred (copyReads a e) []
    (bothChecks (fun t => if t.copyResv (t.rv a) then some (.reservedCode, t.slotInfo) else none) (barPriv e.bar)) fun t =>
    match t.copyStage (t.rv a) e with
    | .inl u => .ok u
    | .inr r => r)

/-! ### CPYF (R412) -/

/-- The follow-on of a CPYF: a matrix instruction other than BFMT in the next slot, without a predicate (R412). -/
def State.followOn (s : State) : Option MatSpec :=
  match s.issue.nextSlot with
  | none => none
  | some b =>
    match decode b with
    | .ok i =>
      match matSpec i with
      | some p => if p.ctl.pk == 0 && !p.ctl.pn then some p else none
      | none => none
    | .error _ => none

/-- The state with the follow-on just queued waiting for its channel's copy (R412). -/
def State.linkFollow (s : State) (c ch seq : Nat) : State :=
  s.modApart c fun p => { p with inbox := p.inbox.map fun e => if e.2.seq == seq then (e.1, { e.2 with follow := some ch }) else e }

/-- CPYF with its follow-on, as one instruction (R412). -/
def State.cpyfIssue (s : State) (c : Ctl) (a : VReg) (e : ECtl) (p : MatSpec) : State :=
  s.issueSlot c.stall.toNat c.pred (copyReads a e ++ mReads p.x (p.sh.map Prod.fst) p.more) []
    (bothChecks (fun t => if t.copyResv (t.rv a) || p.resv t then some (.reservedCode, t.slotInfo) else none)
      (bothChecks (bothChecks (barPriv e.bar) (barPriv p.x.bar)) fun t =>
        match p.sh with
        | none => none
        | some (h, kinds) =>
          match shapeCheck h kinds t with
          | some r => some r
          | none => if p.tooWide t then some (.shape, shapeInfo h) else none)) fun t =>
    match t.copyStage (t.rv a) e with
    | .inr r => r
    | .inl u =>
      let seq := (u.apart u.ic).seq
      match p.body u with
      | .ok w => .ok (w.linkFollow w.ic e.ch.toNat seq)
      | .hold w k => .hold (w.linkFollow w.ic e.ch.toNat seq) k
      | .retry _ => .retry t
      | .block w k => .block { t with net := w.net, nextMsg := w.nextMsg, seqs := w.seqs } k
      | .trap cause info => .trap cause info
      | .trapWith _ cause info => .trap cause info
      | .jump w pc => .jump w pc
      | .gone w => .gone w

/-- CPYF: a copy with a follow-on matrix command that starts when the copy has landed; its placement is a decode check, made whatever its predicate
(R276, R412). -/
def execCpyf (c : Ctl) (a : VReg) (e : ECtl) (s : State) : Host.Outcome State Fault Refusal :=
  nextState (match s.followOn with
    | none => s.issueSlot c.stall.toNat none [] [] (fun t => some (.reservedCode, t.slotInfo)) fun t => .ok t
    | some p => ({ s with issue := { s.issue with len := 2 } } : State).cpyfIssue c a e p)

/-! ### CSRG (R413) -/

/-- The reserved fields, counts and type of a CSR descriptor that trap (R413). -/
def csrDescBad (v : Nat) : Bool :=
  bits (vWord v 0) 63 56 != 0 || bits (vWord v 1) 63 56 != 0 || bits (vWord v 2) 63 56 != 0 || bits (vWord v 3) 63 32 == 0
    || bits (vWord v 4) 63 44 != 0 || decide (13 < bits (vWord v 4) 43 40) || bits (vWord v 5) 63 32 != 0 || bits (vWord v 5) 31 0 == 0
    || vWord v 6 != 0 || vWord v 7 != 0

/-- The answer of CSRG's checks and staging; which indices and values it gathers is not known yet, and its guards cover what may follow their addresses
until its row pointers are read (R241, R413). -/
def State.csrStage (t : State) (v : Nat) (d : SReg) (e : ECtl) : Res :=
  let c := t.ic
  let k := t.ik
  let p := (t.core c).active
  let vty := tyOfNat (bits (vWord v 4) 43 40)
  let idst := bits (vWord v 4) 19 0
  let vdst := bits (vWord v 4) 39 20
  let cap := bits (vWord v 5) 31 0
  let rowptr := bits (vWord v 0) 55 0
  let colidx := bits (vWord v 1) 55 0
  let values := bits (vWord v 2) 55 0
  let ch := e.ch.toNat
  let ch2 := e.ch2.toNat
  let ibytes := 4 * cap
  let dty := match bfrTy (t.bfrOf c p (vdst / bankSize c)) with | some u => u | none => vty
  let vbytes := packedBytes vty cap
  match t.destBfr c p vdst vbytes with
  | none => .trap .reservedCode t.slotInfo
  | some b =>
    if idst % 4 ≠ 0 then .trap .misalign (localBase + idst)
    else if vdst % elemSize dty ≠ 0 then .trap .misalign (localBase + vdst)
    else if rowptr % 4 ≠ 0 then .trap .misalign rowptr
    else if colidx % 4 ≠ 0 then .trap .misalign colidx
    else if values % elemSize vty ≠ 0 then .trap .misalign values
    else match t.stageCtl c k e.bar e.trapf e.acq e.rel e.arv e.scope with
      | .trap cause info => .trap cause info
      | .flash u leaf => .block u (.pageIn leaf)
      | .wait u => .retry u
      | .ok u ctl =>
        if spadSize c < idst + ibytes then .trap .prot (localBase + idst)
        else if spadSize c < vdst + vbytes then .trap .prot (localBase + vdst)
        else
        let rest := spadSize c
        let guards := guardFrom c (rowptr + 4 * bits (vWord v 3) 31 0) (4 * bits (vWord v 3) 63 32 + 4) ++ guardFrom c colidx rest ++ guardFrom c values rest
        if !t.chanFree c ch || !t.chanFree c ch2 || 8 < t.guardCount c + guards.length then .retry t
        else
          let beats := granules idst ibytes + granules vdst vbytes
          let m : CCmd :=
            { kind := 1, ctl := ctl, src := rowptr, dst := idst, dst2 := vdst, vty := bits (vWord v 4) 43 40, cap := cap
              row0 := bits (vWord v 3) 31 0, nrows := bits (vWord v 3) 63 32, colidx := colidx, values := values, rm := e.rm
              dbfr := if (bfrTy b).isSome then some b else none, beats := beats, ch2 := ch2, bytes := ibytes, bytes2 := vbytes
              wid := d.toNat, guards := guards }
          let u := u.modApart c fun q =>
            let marks := SMap.put q.marks ch { act := true, lo := idst, hi := idst + ibytes, wm := idst }
            { q with chans := SMap.put q.chans ch { m with seq := q.seq }, seq := q.seq + 1
                     marks := SMap.put marks ch2 { act := true, lo := vdst, hi := vdst + vbytes, wm := vdst } }
          .ok (u.engineExpect c ctl beats)

/-- CSRG: rows of a compressed matrix gathered (R413). -/
def execCsrg (c : Ctl) (d : SReg) (a : VReg) (e : ECtl) (s : State) : Host.Outcome State Fault Refusal :=
  nextState (s.issueSlot c.stall.toNat c.pred (copyReads a e) [.scal d]
    (bothChecks (fun t => if csrDescBad (t.rv a) then some (.reservedCode, t.slotInfo) else none) (barPriv e.bar)) fun t => t.csrStage (t.rv a) d e)

/-! ### WMARK (R414) -/

/-- WMARK.ARM: a range armed (R414). -/
def execWmarkArm (c : Ctl) (a b : SReg) (ch : BitVec 4) (s : State) : Host.Outcome State Fault Refusal :=
  nextState (s.issueSlot c.stall.toNat c.pred [.scal a, .scal b] [] noCheck fun t =>
    let lo := t.rs a % 2 ^ 20
    let hi := t.rs b % 2 ^ 20
    if spadSize t.ic ≤ lo || spadSize t.ic < hi then .trap .prot (t.rs a)
    else if t.chanBusy t.ic ch.toNat then .retry t
    else .ok (t.freeHeld (t.modApart t.ic fun p =>
      { p with marks := SMap.put p.marks ch.toNat { act := decide (lo < hi), lo := lo, hi := hi, wm := lo } }) t.ic))

/-- WMARK.ADV: an armed watermark moved up (R414). -/
def execWmarkAdv (c : Ctl) (a : SReg) (ch : BitVec 4) (s : State) : Host.Outcome State Fault Refusal :=
  nextState (s.issueSlot c.stall.toNat c.pred [.scal a] [] noCheck fun t =>
    if t.chanBusy t.ic ch.toNat then .ok t else .ok (t.fillTo t.ic ch.toNat (t.rs a % 2 ^ 20)))

/-- WMARK.CLR: a watermark cleared (R414). -/
def execWmarkClr (c : Ctl) (ch : BitVec 4) (s : State) : Host.Outcome State Fault Refusal :=
  nextState (s.issueSlot c.stall.toNat c.pred [] [] noCheck fun t =>
    if t.chanBusy t.ic ch.toNat then .retry t else .ok (t.clearMark t.ic ch.toNat false))

/-- WMARK.RD: the lowest offset not yet filled, with ACT (R414). -/
def execWmarkRd (c : Ctl) (d : SReg) (ch : BitVec 4) (s : State) : Host.Outcome State Fault Refusal :=
  nextState (s.issueSlot c.stall.toNat c.pred [] [.scal d] noCheck fun t =>
    let k := SMap.get {} (t.apart t.ic).marks ch.toNat
    .ok (t.putVar t.ic t.ik d (k.wm % 2 ^ 20 + if k.act then 2 ^ 63 else 0) 1))

end Sys2Proof.Machine
end

