-- ==== Sys2Proof/Machine/Float.lean ====
section
/-! DEFINITION. Scalar floating-point instructions (R316 to R319). -/
namespace Sys2Proof.Machine

/-- The decoded low bits of a floating-point source (R316). -/
def State.rf (s : State) (ty : Ty) (r : SReg) : XR := decF ty (s.rs r)

/-- A floating-point instruction whose exact result is rounded once to its type under the modifiers (R255, R256, R316). -/
def State.floatOp (s : State) (c : Ctl) (ty : Ty) (d : SReg) (srcs : List SReg) (lat : Nat) (fixed : Bool) (f : State → XR) : State :=
  s.issueSlot c.stall.toNat c.pred (srcs.map .scal) [.scal d] noCheck fun t =>
    .ok (t.addPend t.ic t.ik (.scal d) ones64 (finishF ty .rne t.mods (f t)) lat fixed)

/-- FADD (R316). -/
def execFadd (c : Ctl) (ty : Ty) (d a b : SReg) (s : State) : Host.Outcome State Fault Refusal :=
  nextState (s.floatOp c ty d [a, b] 4 true fun t => (t.rf ty a).add (t.rf ty b))

/-- FMUL (R316). -/
def execFmul (c : Ctl) (ty : Ty) (d a b : SReg) (s : State) : Host.Outcome State Fault Refusal :=
  nextState (s.floatOp c ty d [a, b] 4 true fun t => (t.rf ty a).mul (t.rf ty b))

/-- FFMA: A × B + C rounded once (R316). -/
def execFfma (c : Ctl) (ty : Ty) (d a b r : SReg) (s : State) : Host.Outcome State Fault Refusal :=
  nextState (s.floatOp c ty d [a, b, r] 4 true fun t => ((t.rf ty a).mul (t.rf ty b)).add (t.rf ty r))

/-- FDIV, within 16 cycles (R316, R319). -/
def execFdiv (c : Ctl) (ty : Ty) (d a b : SReg) (s : State) : Host.Outcome State Fault Refusal :=
  nextState (s.floatOp c ty d [a, b] 16 false fun t => (t.rf ty a).div (t.rf ty b))

/-- FSQRT, within 20 cycles (R316, R319). -/
def execFsqrt (c : Ctl) (ty : Ty) (d a : SReg) (s : State) : Host.Outcome State Fault Refusal :=
  nextState (s.floatOp c ty d [a] 20 false fun t => (t.rf ty a).sqrt)

/-- FCMP: 1 where the condition holds, else 0 (R304, R317). -/
def execFcmp (c : Ctl) (ty : Ty) (cond : Cond) (d a b : SReg) (s : State) : Host.Outcome State Fault Refusal :=
  nextState (s.issueSlot c.stall.toNat c.pred [.scal a, .scal b] [.scal d] noCheck fun t =>
    .ok (t.putS t.ic t.ik d (if condF cond (t.rf ty a) (t.rf ty b) then 1 else 0) 4))

/-- A converted scalar as it is written: an integer through ext, a float zero-extended (R318). -/
def widenScalar (t : Ty) (v : Nat) : Nat := if t.integer then t.widen v else v % 2 ^ t.width

/-- FCVT: a conversion in a rounding mode (R257, R318). -/
def execFcvt (c : Ctl) (ty : Ty) (d a : SReg) (src : Ty) (rm : Rm) (s : State) : Host.Outcome State Fault Refusal :=
  nextState (s.issueSlot c.stall.toNat c.pred [.scal a] [.scal d] noCheck fun t =>
    let v := finishAny ty rm t.mods (!intSource src) (decElem src (t.rs a % 2 ^ src.width))
    .ok (t.putS t.ic t.ik d (widenScalar ty v) 4))

end Sys2Proof.Machine
end

