-- ==== Sys2Proof/Machine/Lauter.lean ====
section
/-! DEFINITION. The lauter engines (R415 to R420). -/
namespace Sys2Proof.Machine

/-! ### LAUT at its issue -/

/-- The registers that LAUT reads. -/
def lautReads (a b : SReg) (e : ECtl) : List Dest := [.scal a, .scal b] ++ (if e.bar = 0 then [] else [.scal e.bar])

/-- A local-window address as the mesh-window address of a core (R415, R427). -/
def toMesh (c va : Nat) : Nat := if va / 2 ^ 48 = 0xFD then meshBase + meshPtr c va else va

/-- LAUT in each of its forms: one active message with the staged registers (R407, R415). -/
def State.lautIssue (s : State) (c : Ctl) (fn : Nat) (ty : Nat) (d a b : SReg) (e : ECtl) : State :=
  s.issueSlot c.stall.toNat c.pred (lautReads a b e) [.scal d] (barPriv e.bar) fun t =>
    let n := t.ic
    match t.stageCtl n t.ik e.bar e.trapf e.acq e.rel e.arv e.scope with
    | .trap cause info => .trap cause info
    | .flash u leaf => .block u (.pageIn leaf)
    | .wait u => .retry u
    | .ok u x =>
      if t.signalHeld then .retry t
      else
        let va := if fn = 2 then toMesh n (t.rs a) else t.rs a
        let id := u.nextMsg
        let flags := flag x.trapf 0 + flag x.acq 1 + flag x.rel 2 + flag x.arv 3 + x.scope * 16 + flag x.priv 6 + flag (d != 0) 7
          + x.asid * 256 + fn * 2 ^ 16 + ty * 2 ^ 20 + flag x.bar.isSome 24 + x.fired % 2 ^ 32 * 2 ^ 32
        let body := toBytes 8 va ++ toBytes 8 (t.rs b) ++ toBytes 8 flags ++ toBytes 8 (x.bar.getD 0) ++ toBytes 8 x.handle ++ toBytes 8 x.pc
          ++ toBytes 8 x.time ++ toBytes 8 id
        let u := { u with nextMsg := id + 1 }
        let u := u.sendCounted n { u.accMsg n t.ik 2 0x26 (epLauter e.eng.toNat) 0 with arg := 3, data := body, keepHi := x.rel, part := x.part }
          (Out.blank true x.pc 0 x.handle)
        if d = 0 then .ok u
        else .hold u (.reply [{ id := id, off := 0, len := 8, nib := 0 }] 0 (.scal d .i64) false [])

/-- LAUT.LOAD (R415, R418). -/
def execLautLoad (c : Ctl) (d a b : SReg) (e : ECtl) (s : State) : Host.Outcome State Fault Refusal := nextState (s.lautIssue c 0 0 d a b e)
/-- LAUT.RESET (R415, R418). -/
def execLautReset (c : Ctl) (d a b : SReg) (e : ECtl) (s : State) : Host.Outcome State Fault Refusal := nextState (s.lautIssue c 1 0 d a b e)
/-- LAUT.MASK (R415, R418). -/
def execLautMask (c : Ctl) (ty : Ty) (d a b : SReg) (e : ECtl) (s : State) : Host.Outcome State Fault Refusal :=
  nextState (s.lautIssue c 2 ty.code.toNat d a b e)
/-- LAUT.ADV (R415, R418). -/
def execLautAdv (c : Ctl) (d a b : SReg) (e : ECtl) (s : State) : Host.Outcome State Fault Refusal := nextState (s.lautIssue c 3 0 d a b e)

/-! ### The commands (R416 to R420) -/

/-- What running a lauter command answers: a wait, progress of the command, or the engine and result after it, with the subcode and detail of a
failure. -/
inductive LautRes where
  | wait (s : Option State)
  | more (s : State) (e : Lauter) (l : LCmd)
  | done (s : State) (e : Lauter) (word : Nat) (fail : Option (Nat × Nat))

/-- The answer to an access that a lauter engine makes by a message: sent where it has not been, then its value, or its failure (R184, R415). -/
def State.lautAsk (s : State) (die : Nat) (x : CmdCtl) (va n : Nat) (write : Bool) (pts : Nat) (m : Msg) : EngRes :=
  let e := SMap.get {} s.lauters die
  match e.asked.find? fun a => a.va == va && a.n == n && a.write == write with
  | some a => if a.st = 0 then .wait none else if a.st = 1 then .ok s a.val else .fail 7 0 (va % 2 ^ 32)
  | none =>
    let t := s.send { m with src := epLauter die, raddr := replyAddr (epLauter die), ctx := x.ctx, lid := x.lid, pts := pts, size := n, ack := true }
    let f : Lauter := { e with asked := e.asked ++ [{ who := 300 + die, va := va, n := n, write := write, id := s.nextMsg }] }
    .wait (some { t with lauters := SMap.put t.lauters die f })

/-- The copy of a line that a lauter engine may read: of its die's remote-data cache, or of the cellar cache, at the logical time of the issuing core
(R218, R415). -/
def State.lautCopy (s : State) (die c : Nat) (l : LCmd) (pa : Nat) : Option Copy :=
  if die < 4 && quadrant pa == die then none
  else (SMap.find? s.rdc (rdcKey die (pa / 64))).filter fun y =>
    copyUsable c { s.core c with pts := l.pts, acqTime := if l.ctl.acq then l.ctl.time else 0 } y l.ctl.asid s.now

/-- A table read of one line's bytes, through the issuing core's translations (R415, R420, log 78); windows hold no tables. -/
def State.lautRead1 (s : State) (die c : Nat) (l : LCmd) (va n : Nat) : EngRes :=
  let low := va % 2 ^ 32
  let x := l.ctl
  if 0xFD ≤ va / 2 ^ 48 then .fail 8 0 low
  else match s.translate c x.asid va .read x.priv false with
    | (.page, _) => .fail 7 0 low
    | (.prot, _) => .fail 8 0 low
    | (.shut, _) => .wait s.wantDram
    | (.ecc, _) => .fail 0x0F 0 low
    | (.flash leaf _ size _, t) => .wait (t.engAskPage c x (300 + die) va false leaf size)
    | (.ok pa b kind pkg, t) =>
      if kind = 3 then t.lautAsk die x va n false l.pts (t.engPeer x pkg pa)
      else
        let uc := bit b 6 == 1 || isSram pa
        match (if uc then none else t.lautCopy die c l pa) with
        | some y => .ok t (lineBytes y.data pa n)
        | none => t.lautAsk die x va n false l.pts (t.engLine x pa uc)

/-- The reads of the parts of a range, in order, gathered from a bit offset. -/
def State.lautReadCuts (s : State) (die c : Nat) (l : LCmd) : List (Nat × Nat) → Nat → Nat → EngRes
  | [], _, acc => .ok s acc
  | (va, n) :: rest, sh, acc =>
    match s.lautRead1 die c l va n with
    | .ok t v => State.lautReadCuts t die c l rest (sh + 8 * n) (acc + v * 2 ^ sh)
    | r => r

/-- A table read of `n` bytes, 512 bits at a time (R417, R420). -/
def State.lautRead (s : State) (die c : Nat) (l : LCmd) (va n : Nat) : EngRes := s.lautReadCuts die c l (lineCuts (n / 64 + 2) va n) 0 0

/-- The failure result word: SUB with the depth and state of the instance, whichever partition's, where it is ACTIVE (R419). -/
def lautWord (sub : Nat) (i : Option Automaton) : Nat :=
  match i with
  | some a => sub * 2 ^ 60 + a.stack.length * 2 ^ 49 + a.state * 2 ^ 37
  | none => sub * 2 ^ 60

/-- A grammar table header that breaks R416. -/
def headerBad (h : Nat) : Bool :=
  let w i := bits h (64 * i + 63) (64 * i)
  bits (w 0) 63 40 != 0 || bits (w 0) 39 32 == 0 || bit (w 0) 31 != 0 || bits (w 0) 30 24 == 0 || decide (64 < bits (w 0) 30 24)
    || bits (w 0) 23 16 == 0 || bits (w 0) 15 13 != 0 || bits (w 0) 12 0 == 0 || decide (4096 < bits (w 0) 12 0)
    || bits (w 1) 63 44 != 0 || decide (bits (w 0) 12 0 ≤ bits (w 1) 43 32) || bits (w 1) 31 19 != 0
    || bits (w 1) 18 0 == 0 || decide (262144 < bits (w 1) 18 0)
    || bits (w 2) 63 56 != 0 || bits (w 3) 63 56 != 0 || bits (w 4) 63 56 != 0 || w 5 != 0 || w 6 != 0 || w 7 != 0

/-- The grammar of a header. -/
def grammarOf (p h : Nat) : Grammar :=
  let w i := bits h (64 * i + 63) (64 * i)
  { part := p, nclass := bits (w 0) 39 32, depth := bits (w 0) 30 24, nsym := bits (w 0) 23 16, nstates := bits (w 0) 12 0
    start := bits (w 1) 43 32, vocab := bits (w 1) 18 0, classmap := bits (w 2) 55 0, trans := bits (w 3) 55 0, midx := bits (w 4) 55 0 }

/-- LOAD (R418). -/
def State.lautLoad (s : State) (e : Lauter) (die c : Nat) (l : LCmd) : LautRes :=
  let g := l.b
  let fail (sub info : Nat) (s : State) : LautRes := .done s e (lautWord sub none) (some (sub, info))
  let own := match SMap.find? e.slots g with | some x => x.part == l.ctl.part | none => true
  if 8 ≤ g || !own then fail 5 g s
  else if l.a % 64 ≠ 0 then fail 6 l.a s
  else match s.lautRead die c l l.a 64 with
    | .wait t => .wait t
    | .fail _ _ i => fail 7 i s
    | .ok t h =>
      if headerBad h then fail 6 l.a t
      else .done t { e with slots := SMap.put e.slots g (grammarOf l.ctl.part h), cache := e.cache.filter (fun m => m.1.1 != g)
                            insts := e.insts.filter (fun i => i.2.slot != g) } 0 none

/-- RESET (R418). -/
def lautReset (s : State) (e : Lauter) (l : LCmd) : LautRes :=
  let i := l.a
  let g := l.b
  let old := SMap.find? e.insts i
  let own := match old with | some a => a.part == l.ctl.part | none => true
  match SMap.find? e.slots g with
  | none => .done s e (lautWord 5 old) (some (5, g))
  | some x =>
    if 8 ≤ g || x.part != l.ctl.part then .done s e (lautWord 5 old) (some (5, g))
    else if 256 ≤ i || !own then .done s e (lautWord 5 old) (some (5, i))
    else
      let a : Automaton := { slot := g, part := l.ctl.part, state := x.start, stack := [] }
      .done s { e with insts := SMap.put e.insts i a } (lautWord 0 (some a)) none

/-- The instance of a command, active and of its partition (R418). -/
def lautInst (e : Lauter) (l : LCmd) (i : Nat) : Option (Automaton × Grammar) :=
  match SMap.find? e.insts i with
  | none => none
  | some a =>
    if a.part != l.ctl.part then none
    else match SMap.find? e.slots a.slot with
      | some g => some (a, g)
      | none => none

/-- Masks kept in 2 MiB, the least recently used dropped (R417). -/
def trimCache (vocab : Nat → Nat) : List ((Nat × Nat × Nat) × Nat) → Nat → List ((Nat × Nat × Nat) × Nat)
  | [], _ => []
  | m :: l, used =>
    let n := used + (vocab m.1.1 + 7) / 8
    if 2 ^ 21 < n then [] else m :: trimCache vocab l n

/-- A mask of an instance, from the cache or fetched; a misaligned mask pointer answers its own address (R416, R417, R420). -/
def State.lautMaskBits (s : State) (e : Lauter) (die c : Nat) (l : LCmd) (a : Automaton) (g : Grammar) : (State × Lauter × Nat) ⊕ (EngRes ⊕ Nat) :=
  let top := a.stack.headD 0
  let key := (a.slot, a.state, top)
  let vocab (k : Nat) : Nat := match SMap.find? e.slots k with | some x => x.vocab | none => 0
  let keep (m : Nat) : Lauter := { e with cache := trimCache vocab ((key, m) :: e.cache.filter (fun x => x.1 != key)) 0 }
  match e.cache.find? fun x => x.1 == key with
  | some x => .inl (s, keep x.2, x.2)
  | none =>
    let at_ := g.midx + 8 * (a.state * (g.nsym + 1) + top)
    match s.lautRead die c l at_ 8 with
    | .wait t => .inr (.inl (.wait t))
    | .fail x y i => .inr (.inl (.fail x y i))
    | .ok t p =>
      if p = 0 then .inl (t, keep 0, 0)
      else if p % 64 ≠ 0 then .inr (.inr at_)
      else match t.lautRead die c l p ((g.vocab + 7) / 8) with
        | .wait t => .inr (.inl (.wait t))
        | .fail x y i => .inr (.inl (.fail x y i))
        | .ok t m => let m := m % 2 ^ g.vocab; .inl (t, keep m, m)

/-- A disallowed logit written through the owner's windows by a message to it (R184, R418). -/
def State.lautWrite (s : State) (die : Nat) (l : LCmd) (va n v : Nat) : EngRes :=
  let t := mkCore (bits va 42 40) (bits va 35 32) (bits va 39 36)
  if va / 2 ^ 48 ≠ 0xFE || bits va 47 43 ≠ 0 || !coreOk t || spadSize t < va % 2 ^ 32 + n then .fail 8 0 (va % 2 ^ 32)
  else s.lautAsk die l.ctl va n true l.pts { engMsg t l.ctl va with op := 0x23, data := toBytes n v }

/-- The disallowed logits of a beat of `n` tokens from token `t` on: 0 all written, 1 some not yet acknowledged, 2 some sent now; or where one
failed. -/
def State.lautLogits (die : Nat) (l : LCmd) (w v mask : Nat) : Nat → Nat → State → Nat → (State × Nat) ⊕ Nat
  | 0, _, s, held => .inl (s, held)
  | n + 1, t, s, held =>
    if mask.testBit t then State.lautLogits die l w v mask n (t + 1) s held
    else match s.lautWrite die l (l.a + t * w) w v with
      | .ok u _ => State.lautLogits die l w v mask n (t + 1) u held
      | .wait (some u) => State.lautLogits die l w v mask n (t + 1) u 2
      | .wait none => State.lautLogits die l w v mask n (t + 1) s (max held 1)
      | .fail _ _ i => .inr i

/-- The pattern of minus infinity of a logit type. -/
def minusInf (t : Ty) : Nat := if t = .bf16 then 0xFF80 else if t = .f16 then 0xFC00 else 0xFF800000

/-- Set bits among the first `n` of a number, with the last one's place. -/
def countSet (m : Nat) : Nat → Nat × Nat
  | 0 => (0, 0)
  | n + 1 =>
    let (k, last) := countSet m n
    if m.testBit n then (k + 1, n) else (k, last)

/-- The answer of a MASK: the survivors counted from the mask alone (R418, R419). -/
def maskWord (a : Automaton) (m vocab : Nat) : Nat :=
  let (n, last) := countSet m vocab
  lautWord 0 (some a) + n + (if n = 1 then 2 ^ 59 + last * 2 ^ 19 else 0)

/-- MASK: its mask first, then its disallowed logits, 512 tokens a beat (R418). -/
def State.lautMask (s : State) (e : Lauter) (die c : Nat) (l : LCmd) : LautRes :=
  match lautInst e l l.b with
  | none => .done s e (lautWord 5 (SMap.find? e.insts l.b)) (some (5, l.b))
  | some (a, g) =>
    let w := l.ty.width / 8
    let fail (s : State) (e : Lauter) (sub info : Nat) : LautRes := .done s e (lautWord sub (some a)) (some (sub, info))
    if l.a / 2 ^ 48 ≠ 0xFE || l.a % w ≠ 0 then fail s e 7 l.a
    else match l.mask with
      | none =>
        (match s.lautMaskBits e die c l a g with
          | .inr (.inl (.wait t)) => .wait t
          | .inr (.inl (.fail _ _ i)) => fail s e 7 i
          | .inr (.inl (.ok t _)) => fail t e 7 0
          | .inr (.inr p) => fail s e 6 p
          | .inl (t, f, m) => .more t f { l with mask := some m })
      | some m =>
        let first := 512 * l.beats
        match State.lautLogits die l w (minusInf l.ty) m (min 512 (g.vocab - first)) first s 0 with
        | .inr i => fail s e 7 i
        | .inl (t, held) =>
          if held ≠ 0 then .wait (if held = 2 then some t else none)
          else if first + 512 < g.vocab then .more t e { l with beats := l.beats + 1 } else .done t e (maskWord a m g.vocab) none

/-- ADV (R418). -/
def State.lautAdv (s : State) (e : Lauter) (die c : Nat) (l : LCmd) : LautRes :=
  match lautInst e l l.b with
  | none => .done s e (lautWord 5 (SMap.find? e.insts l.b)) (some (5, l.b))
  | some (a, g) =>
    let tok := l.a
    let fail (s : State) (sub info : Nat) : LautRes := .done s e (lautWord sub (some a)) (some (sub, info))
    if g.vocab ≤ tok then fail s 4 tok
    else match s.lautRead die c l (g.classmap + tok) 1 with
      | .wait t => .wait t
      | .fail _ _ i => fail s 7 i
      | .ok t cls =>
        if g.nclass ≤ cls then fail t 6 (g.classmap + tok)
        else
          let ea := g.trans + 4 * (a.state * g.nclass + cls)
          match t.lautRead die c l ea 4 with
          | .wait t => .wait t
          | .fail _ _ i => fail t 7 i
          | .ok t x =>
            let act := bits x 30 29
            let sym := bits x 19 12
            let next := bits x 11 0
            if bit x 31 = 0 then fail t 3 tok
            else if act = 3 || ((act = 1 || act = 2) && (sym = 0 || g.nsym < sym)) || g.nstates ≤ next then fail t 6 ea
            else if act = 1 && a.stack.length = g.depth then fail t 1 tok
            else if act = 2 && a.stack.isEmpty then fail t 2 tok
            else if act = 2 && a.stack.head? != some sym then fail t 3 tok
            else
              let st := if act = 1 then sym :: a.stack else if act = 2 then a.stack.tail else a.stack
              let b := { a with state := next, stack := st }
              .done t { e with insts := SMap.put e.insts l.b b } (lautWord 0 (some b)) none

/-- The state after a lauter command ended: its status, arrival and reply (R408, R415, R420). -/
def State.lautEnd (s : State) (die : Nat) (e : Lauter) (l : LCmd) (rest : List LCmd) (word : Nat) (bad : Option (Nat × Nat)) : State :=
  let t := { s with lauters := SMap.put s.lauters die { e with inbox := rest, asked := [] } }
  let t := t.engFinish (coreOfEp l.src) 3 0 l.ctl (bad.map fun f => (0x0D, f.1, f.2 % 2 ^ 32))
  if l.reply then t.send { id := 0, src := epLauter die, dst := l.src, part := l.ctl.part, ch := 3, op := 0x33, arg := word
                           ctx := l.ctl.ctx, lid := l.ctl.lid, re := l.msg }
  else t

/-- A lauter engine runs: also while its die enters K2, which waits for its inbox to empty (R46, R415). -/
def State.lautOn (s : State) (die : Nat) : Bool := if die = 4 then s.dieAwake 4 else SMap.get 3 s.power.die die == 0

/-- The state after a step of the head command of a lauter engine; nothing where it waits, or where the engine's island has stopped or enters K2
(R46, R415). -/
def State.lautRun (s : State) (die : Nat) : Option State :=
  let e := SMap.get {} s.lauters die
  if !s.lautOn die then none
  else match e.inbox with
    | [] => none
    | l :: rest =>
      let c := coreOfEp l.src
      if !s.acqReady c l.ctl then none
      else match s.barNeeds c (300 + die) l.ctl l.failed.isSome with
      | some t => t
      | none =>
        let r := match l.failed with
          | some a => LautRes.done s e (lautWord 7 (if l.fn = 2 || l.fn = 3 then SMap.find? e.insts l.b else none)) (some (7, a % 2 ^ 32))
          | none =>
            if l.fn = 0 then s.lautLoad e die c l else if l.fn = 1 then lautReset s e l
            else if l.fn = 2 then s.lautMask e die c l else s.lautAdv e die c l
        match r with
        | .wait t => t
        | .more t e l => some { t with lauters := SMap.put t.lauters die { e with inbox := l :: rest, asked := [] } }
        | .done t e word bad => if t.relShut l.ctl then s.wantDram else some (t.lautEnd die e l rest word bad)

/-- LAUTER_COMMAND_RUN: the oldest command of a lauter engine, which is never interrupted (R415). -/
def execLauterCommandRun (die : Nat) (s : State) : Host.Outcome State Fault Refusal := nextState ((s.lautRun die).getD s)

end Sys2Proof.Machine
end

