-- ==== Sys2Proof/Machine/Mask.lean ====
section
/-! DEFINITION. Mask instructions (R369). -/
namespace Sys2Proof.Machine

/-- A mask instruction with a result r: the selected bits of r, the others of D (R369). -/
def State.maskOp (s : State) (c : Ctl) (d : SReg) (reads : List Dest) (pre : State → Option (Cause × Nat)) (f : State → Nat) : State :=
  s.issueSlot c.stall.toNat none (maskReads c ++ reads ++ [.scal d]) [.scal d] pre fun t =>
    let sel := t.maskOf c
    .ok (t.putS t.ic t.ik d ((f t &&& sel) ||| (t.rs d &&& (ones64 - sel))) 1)

/-- KAND (R369). -/
def execKand (c : Ctl) (d a b : SReg) (s : State) : Host.Outcome State Fault Refusal :=
  nextState (s.maskOp c d [.scal a, .scal b] noCheck fun t => t.rs a &&& t.rs b)

/-- KOR (R369). -/
def execKor (c : Ctl) (d a b : SReg) (s : State) : Host.Outcome State Fault Refusal :=
  nextState (s.maskOp c d [.scal a, .scal b] noCheck fun t => t.rs a ||| t.rs b)

/-- KXOR (R369). -/
def execKxor (c : Ctl) (d a b : SReg) (s : State) : Host.Outcome State Fault Refusal :=
  nextState (s.maskOp c d [.scal a, .scal b] noCheck fun t => t.rs a ^^^ t.rs b)

/-- KNOT (R369). -/
def execKnot (c : Ctl) (d a : SReg) (s : State) : Host.Outcome State Fault Refusal :=
  nextState (s.maskOp c d [.scal a] noCheck fun t => ones64 - t.rs a)

/-- KPOPC: ones of A among the selected bits (R369). -/
def execKpopc (c : Ctl) (d a : SReg) (s : State) : Host.Outcome State Fault Refusal :=
  nextState (s.issueSlot c.stall.toNat none (maskReads c ++ [.scal a]) [.scal d] noCheck fun t =>
    .ok (t.putS t.ic t.ik d (countOnes 64 (t.rs a &&& t.maskOf c)) 1))

/-- KFIRST: the lowest one of A among the selected bits, or 64 (R369). -/
def execKfirst (c : Ctl) (d a : SReg) (s : State) : Host.Outcome State Fault Refusal :=
  nextState (s.issueSlot c.stall.toNat none (maskReads c ++ [.scal a]) [.scal d] noCheck fun t =>
    .ok (t.putS t.ic t.ik d (countTrail 64 (t.rs a &&& t.maskOf c)) 1))

/-- The mask of the groups that start below a count (R369). -/
def groupsBelow (g n : Nat) : Nat := (List.range 64).foldl (fun r j => if j * g < n then r + 2 ^ j else r) 0

/-- KSET: the mask of the first elements of an extent, or an immediate (R369). -/
def execKset (c : Ctl) (d : SReg) (src : KsetArg) (s : State) : Host.Outcome State Fault Refusal :=
  match src with
  | .extent ty a sh x =>
    nextState (s.maskOp c d ([.scal a, .shape sh] ++ extReads x) (shapeCheck sh [0]) fun t =>
      groupsBelow (maskGroup ty.width) (min (t.rs a) (t.extent sh ty.width x)))
  | .imm v => nextState (s.maskOp c d [] noCheck fun _ => imm64 v)

/-- KMOV (R369). -/
def execKmov (c : Ctl) (d a : SReg) (s : State) : Host.Outcome State Fault Refusal :=
  nextState (s.maskOp c d [.scal a] noCheck fun t => t.rs a)

end Sys2Proof.Machine
end

