-- ==== Sys2Proof/Machine/Modifier.lean ====
section
/-! DEFINITION. MOD: the modifiers of the next slot, which issues with it as one instruction (R283 to R285). -/
namespace Sys2Proof.Machine

/-- What a modified instruction accepts: its destination type and every flag, or SAT only (R284). -/
inductive Accepts where
  | all (ty : Ty)
  | sat
  deriving DecidableEq, Repr

/-- A target that accepts modifiers, with its meaning; nothing for every other instruction (R284). -/
def modTarget (i : Instr) : Option (Accepts × (State → Host.Outcome State Fault Refusal)) :=
  match i with
  | .add c ty d a b => some (.all ty, execAdd c ty d a b)
  | .sub c ty d a b => some (.all ty, execSub c ty d a b)
  | .mul c ty d a b => some (.all ty, execMul c ty d a b)
  | .min c ty d a b => some (.all ty, execMin c ty d a b)
  | .max c ty d a b => some (.all ty, execMax c ty d a b)
  | .fadd c ty d a b => some (.all ty, execFadd c ty d a b)
  | .fmul c ty d a b => some (.all ty, execFmul c ty d a b)
  | .ffma c ty d a b r => some (.all ty, execFfma c ty d a b r)
  | .fdiv c ty d a b => some (.all ty, execFdiv c ty d a b)
  | .fsqrt c ty d a => some (.all ty, execFsqrt c ty d a)
  | .fcvt c ty d a src rm => some (.all ty, execFcvt c ty d a src rm)
  | .vadd c ty d a b sh x => some (.all ty, execVadd c ty d a b sh x)
  | .vsub c ty d a b sh x => some (.all ty, execVsub c ty d a b sh x)
  | .vmul c ty d a b sh x => some (.all ty, execVmul c ty d a b sh x)
  | .vfma c ty d a b sh x => some (.all ty, execVfma c ty d a b sh x)
  | .vmin c ty d a b sh x => some (.all ty, execVmin c ty d a b sh x)
  | .vmax c ty d a b sh x => some (.all ty, execVmax c ty d a b sh x)
  | .vcvt c ty d a sh src rm x => some (.all ty, execVcvt c ty d a sh src rm x)
  | .vqnt c ty d a b sh src rm x => some (.all ty, execVqnt c ty d a b sh src rm x)
  | .vdq c ty d a b sh src x => some (.all ty, execVdq c ty d a b sh src x)
  | .vreds c ty d a b sh x => some (.all ty, execVreds c ty d a b sh x)
  | .vscan c ty d a sh x => some (.all ty, execVscan c ty d a sh x)
  | .vexp2 c ty d a sh x => some (.all ty, execVexp2 c ty d a sh x)
  | .vlog2 c ty d a sh x => some (.all ty, execVlog2 c ty d a sh x)
  | .vrcp c ty d a sh x => some (.all ty, execVrcp c ty d a sh x)
  | .vrsq c ty d a sh x => some (.all ty, execVrsq c ty d a sh x)
  | .ccvt c ty isrc d a sh m => some (.all ty, execCcvt c ty isrc d a sh m)
  | .mma c ty iacc d a b sh m => some (.sat, execMma c ty iacc d a b sh m)
  | .mmas c ty iacc d a b sh m => some (.sat, execMmas c ty iacc d a b sh m)
  | .mmam c ty iacc d a b sh m => some (.sat, execMmam c ty iacc d a b sh m)
  | _ => none

/-- The flags of a modifier word that a target accepts (R284). -/
def modFits (m : ModWord) (a : Accepts) : Bool :=
  match a with
  | .all ty => !(m.clmp && ty == .n4x)
  | .sat => !m.neg && !m.abs && !m.scl && !m.clmp

/-- MOD: the next slot executed with its modifiers; a misplaced MOD traps (R284, R285). -/
def execMod (m : ModWord) (s : State) : Host.Outcome State Fault Refusal :=
  let trap : State := s.preciseTrap s.ic s.ik .reservedCode s.issue.slot
  match s.issue.nextSlot with
  | none => nextState trap
  | some b =>
    match decode b with
    | .error _ => nextState trap
    | .ok i =>
      match modTarget i with
      | none => nextState trap
      | some (a, run) =>
        if !modFits m a then nextState trap
        else run { s with issue := { s.issue with len := 2, slot := bits b.toNat 47 0, mods := some m } }

end Sys2Proof.Machine
end

