-- ==== Sys2Proof/Machine/Dispatch.lean ====
section
/-! DEFINITION. One arm for each instruction: a direct call of its meaning. -/
namespace Sys2Proof.Machine

/-- What an instruction does. -/
def exec (i : Instr) (s : State) : Host.Outcome State Fault Refusal :=
  match i with
  | .lifeCycleTransition target => Sys2Proof.Machine.execLifeCycleTransition target s
  | .wakeTail q v => Sys2Proof.Machine.execWakeTail q v s
  | .enable q v => Sys2Proof.Machine.execEnable q v s
  | .chead q v => Sys2Proof.Machine.execChead q v s
  | .registerWrite addr size v => Sys2Proof.Machine.execRegisterWrite addr size v s
  | .packetRead q => Sys2Proof.Machine.execPacketRead q s
  | .hostDramAccess op pa len v => Sys2Proof.Machine.execHostDramAccess op pa len v s
  | .writeBack line => Sys2Proof.Machine.execWriteBack line s
  | .deferredTrapDelivery core ctx => Sys2Proof.Machine.execDeferredTrapDelivery core ctx s
  | .flashReadDone ok => Sys2Proof.Machine.execFlashReadDone ok s
  | .flitReplay link failed => Sys2Proof.Machine.execFlitReplay link failed s
  | .meshClockSample domain occ => Sys2Proof.Machine.execMeshClockSample domain occ s
  | .peerLinkDown link => Sys2Proof.Machine.execPeerLinkDown link s
  | .peerLaneShed link shed => Sys2Proof.Machine.execPeerLaneShed link shed s
  | .k1Entry die => Sys2Proof.Machine.execK1Entry die s
  | .k1Exit die => Sys2Proof.Machine.execK1Exit die s
  | .k2IdleEntry die => Sys2Proof.Machine.execK2IdleEntry die s
  | .k3Entry die => Sys2Proof.Machine.execK3Entry die s
  | .dieWake die => Sys2Proof.Machine.execDieWake die s
  | .dieReady die => Sys2Proof.Machine.execDieReady die s
  | .criticalTrip cluster => Sys2Proof.Machine.execCriticalTrip cluster s
  | .criticalTripEnd cluster => Sys2Proof.Machine.execCriticalTripEnd cluster s
  | .currentLimit die => Sys2Proof.Machine.execCurrentLimit die s
  | .thermalWatch cluster temp => Sys2Proof.Machine.execThermalWatch cluster temp s
  | .thermalSample cluster => Sys2Proof.Machine.execThermalSample cluster s
  | .thrtStep cluster v => Sys2Proof.Machine.execThrtStep cluster v s
  | .firingDispatch core ctx => Sys2Proof.Machine.execFiringDispatch core ctx s
  | .runListSpill core => Sys2Proof.Machine.execRunListSpill core s
  | .homedRecall core => Sys2Proof.Machine.execHomedRecall core s
  | .runListAging core => Sys2Proof.Machine.execRunListAging core s
  | .yieldDeadline core ctx => Sys2Proof.Machine.execYieldDeadline core ctx s
  | .fenced core v => Sys2Proof.Machine.execFenced core v s
  | .pcmdResume die => Sys2Proof.Machine.execPcmdResume die s
  | .pcmdEnd die => Sys2Proof.Machine.execPcmdEnd die s
  | .switchTimeNotice core time => Sys2Proof.Machine.execSwitchTimeNotice core time s
  | .gangSwitch core => Sys2Proof.Machine.execGangSwitch core s
  | .partitionPaging core part => Sys2Proof.Machine.execPartitionPaging core part s
  | .cellarEmulation core => Sys2Proof.Machine.execCellarEmulation core s
  | .logicalTimeTick core => Sys2Proof.Machine.execLogicalTimeTick core s
  | .matrixCommandRun core => Sys2Proof.Machine.execMatrixCommandRun core s
  | .factorisationRun core => Sys2Proof.Machine.execFactorisationRun core s
  | .matrixPageInWait core => Sys2Proof.Machine.execMatrixPageInWait core s
  | .copyBeat core ch => Sys2Proof.Machine.execCopyBeat core ch s
  | .copyComplete core ch => Sys2Proof.Machine.execCopyComplete core ch s
  | .streamChannelBeat core ch => Sys2Proof.Machine.execStreamChannelBeat core ch s
  | .lauterCommandRun die => Sys2Proof.Machine.execLauterCommandRun die s
  | .watermarkRelease core ch => Sys2Proof.Machine.execWatermarkRelease core ch s
  | .fenceComplete core ctx => Sys2Proof.Machine.execFenceComplete core ctx s
  | .waitdComplete core ctx => Sys2Proof.Machine.execWaitdComplete core ctx s
  | .composeComplete core ctx => Sys2Proof.Machine.execComposeComplete core ctx s
  | .wfmReread core ctx => Sys2Proof.Machine.execWfmReread core ctx s
  | .variableLatencyResult core ctx n => Sys2Proof.Machine.execVariableLatencyResult core ctx n s
  | .loggedInputReplay core => Sys2Proof.Machine.execLoggedInputReplay core s
  | .nop stall => Sys2Proof.Machine.execNop stall s
  | .mod m => Sys2Proof.Machine.execMod m s
  | .lpad stall k => Sys2Proof.Machine.execLpad stall k s
  | .j stall imm => Sys2Proof.Machine.execJ stall imm s
  | .jal stall d imm => Sys2Proof.Machine.execJal stall d imm s
  | .jr c a imm => Sys2Proof.Machine.execJr c a imm s
  | .jalr c d a imm => Sys2Proof.Machine.execJalr c d a imm s
  | .ret c a => Sys2Proof.Machine.execRet c a s
  | .brc c ty cond a b imm => Sys2Proof.Machine.execBrc c ty cond a b imm s
  | .brz c ne a imm => Sys2Proof.Machine.execBrz c ne a imm s
  | .loop c d imm => Sys2Proof.Machine.execLoop c d imm s
  | .trap c imm => Sys2Proof.Machine.execTrap c imm s
  | .eret c => Sys2Proof.Machine.execEret c s
  | .add c ty d a b => Sys2Proof.Machine.execAdd c ty d a b s
  | .sub c ty d a b => Sys2Proof.Machine.execSub c ty d a b s
  | .mul c ty d a b => Sys2Proof.Machine.execMul c ty d a b s
  | .mulh c ty d a b => Sys2Proof.Machine.execMulh c ty d a b s
  | .div c ty d a b => Sys2Proof.Machine.execDiv c ty d a b s
  | .rem c ty d a b => Sys2Proof.Machine.execRem c ty d a b s
  | .and c ty d a b => Sys2Proof.Machine.execAnd c ty d a b s
  | .or c ty d a b => Sys2Proof.Machine.execOr c ty d a b s
  | .xor c ty d a b => Sys2Proof.Machine.execXor c ty d a b s
  | .andn c ty d a b => Sys2Proof.Machine.execAndn c ty d a b s
  | .shl c ty d a b => Sys2Proof.Machine.execShl c ty d a b s
  | .shr c ty d a b => Sys2Proof.Machine.execShr c ty d a b s
  | .sra c ty d a b => Sys2Proof.Machine.execSra c ty d a b s
  | .rol c ty d a b => Sys2Proof.Machine.execRol c ty d a b s
  | .clz c ty d a => Sys2Proof.Machine.execClz c ty d a s
  | .ctz c ty d a => Sys2Proof.Machine.execCtz c ty d a s
  | .popc c ty d a => Sys2Proof.Machine.execPopc c ty d a s
  | .min c ty d a b => Sys2Proof.Machine.execMin c ty d a b s
  | .max c ty d a b => Sys2Proof.Machine.execMax c ty d a b s
  | .sel c d a b r => Sys2Proof.Machine.execSel c d a b r s
  | .cmp c ty cond d a b => Sys2Proof.Machine.execCmp c ty cond d a b s
  | .movi stall d imm => Sys2Proof.Machine.execMovi stall d imm s
  | .ext c ty d a => Sys2Proof.Machine.execExt c ty d a s
  | .bfx c sx d a pos len => Sys2Proof.Machine.execBfx c sx d a pos len s
  | .bfi c d a b pos len => Sys2Proof.Machine.execBfi c d a b pos len s
  | .fadd c ty d a b => Sys2Proof.Machine.execFadd c ty d a b s
  | .fmul c ty d a b => Sys2Proof.Machine.execFmul c ty d a b s
  | .ffma c ty d a b r => Sys2Proof.Machine.execFfma c ty d a b r s
  | .fdiv c ty d a b => Sys2Proof.Machine.execFdiv c ty d a b s
  | .fsqrt c ty d a => Sys2Proof.Machine.execFsqrt c ty d a s
  | .fcmp c ty cond d a b => Sys2Proof.Machine.execFcmp c ty cond d a b s
  | .fcvt c ty d a src rm => Sys2Proof.Machine.execFcvt c ty d a src rm s
  | .padd c d a b => Sys2Proof.Machine.execPadd c d a b s
  | .pset c core d a b => Sys2Proof.Machine.execPset c core d a b s
  | .pget c field d a => Sys2Proof.Machine.execPget c field d a s
  | .pwalk c d a b => Sys2Proof.Machine.execPwalk c d a b s
  | .lea c scale d a b disp => Sys2Proof.Machine.execLea c scale d a b disp s
  | .ld c ty d a b disp => Sys2Proof.Machine.execLd c ty d a b disp s
  | .st c ty a b r disp => Sys2Proof.Machine.execSt c ty a b r disp s
  | .ldp c ty d p inc => Sys2Proof.Machine.execLdp c ty d p inc s
  | .stp c ty p inc r => Sys2Proof.Machine.execStp c ty p inc r s
  | .ldv c ty d a sh x disp => Sys2Proof.Machine.execLdv c ty d a sh x disp s
  | .stv c ty d a sh x disp => Sys2Proof.Machine.execStv c ty d a sh x disp s
  | .ldvg c ty d a b sh disp => Sys2Proof.Machine.execLdvg c ty d a b sh disp s
  | .stvs c ty d a b sh disp => Sys2Proof.Machine.execStvs c ty d a b sh disp s
  | .pref c die a b disp => Sys2Proof.Machine.execPref c die a b disp s
  | .amo c ty op far d a b disp => Sys2Proof.Machine.execAmo c ty op far d a b disp s
  | .cas c ty far d a b r disp => Sys2Proof.Machine.execCas c ty far d a b r disp s
  | .fence c scope => Sys2Proof.Machine.execFence c scope s
  | .msgH c a b r => Sys2Proof.Machine.execMsgH c a b r s
  | .msgD c a b => Sys2Proof.Machine.execMsgD c a b s
  | .msggS c self gid a b => Sys2Proof.Machine.execMsggS c self gid a b s
  | .msggD c self gid a b => Sys2Proof.Machine.execMsggD c self gid a b s
  | .waitd c d b r => Sys2Proof.Machine.execWaitd c d b r s
  | .binit c a cnt => Sys2Proof.Machine.execBinit c a cnt s
  | .barr c d a b => Sys2Proof.Machine.execBarr c d a b s
  | .expect c a b => Sys2Proof.Machine.execExpect c a b s
  | .bwait c chk d a b => Sys2Proof.Machine.execBwait c chk d a b s
  | .waitw c d b ch => Sys2Proof.Machine.execWaitw c d b ch s
  | .sbind c out vreg portb d a sh ch slot => Sys2Proof.Machine.execSbind c out vreg portb d a sh ch slot s
  | .sfree c d slot => Sys2Proof.Machine.execSfree c d slot s
  | .shape c tu kind ty d req => Sys2Proof.Machine.execShape c tu kind ty d req s
  | .shget c field d a => Sys2Proof.Machine.execShget c field d a s
  | .vadd c ty d a b sh x => Sys2Proof.Machine.execVadd c ty d a b sh x s
  | .vsub c ty d a b sh x => Sys2Proof.Machine.execVsub c ty d a b sh x s
  | .vmul c ty d a b sh x => Sys2Proof.Machine.execVmul c ty d a b sh x s
  | .vfma c ty d a b sh x => Sys2Proof.Machine.execVfma c ty d a b sh x s
  | .vmin c ty d a b sh x => Sys2Proof.Machine.execVmin c ty d a b sh x s
  | .vmax c ty d a b sh x => Sys2Proof.Machine.execVmax c ty d a b sh x s
  | .vand c ty d a b sh x => Sys2Proof.Machine.execVand c ty d a b sh x s
  | .vor c ty d a b sh x => Sys2Proof.Machine.execVor c ty d a b sh x s
  | .vxor c ty d a b sh x => Sys2Proof.Machine.execVxor c ty d a b sh x s
  | .vshl c ty d a b sh x => Sys2Proof.Machine.execVshl c ty d a b sh x s
  | .vshr c ty d a b sh x => Sys2Proof.Machine.execVshr c ty d a b sh x s
  | .vsra c ty d a b sh x => Sys2Proof.Machine.execVsra c ty d a b sh x s
  | .vcmp c ty cond d a b sh x => Sys2Proof.Machine.execVcmp c ty cond d a b sh x s
  | .vsel c ty d a b sh x => Sys2Proof.Machine.execVsel c ty d a b sh x s
  | .vcvt c ty d a sh src rm x => Sys2Proof.Machine.execVcvt c ty d a sh src rm x s
  | .vqnt c ty d a b sh src rm x => Sys2Proof.Machine.execVqnt c ty d a b sh src rm x s
  | .vdq c ty d a b sh src x => Sys2Proof.Machine.execVdq c ty d a b sh src x s
  | .vreds c ty d a b sh x => Sys2Proof.Machine.execVreds c ty d a b sh x s
  | .vredm c ty index max d a sh x => Sys2Proof.Machine.execVredm c ty index max d a sh x s
  | .vscan c ty d a sh x => Sys2Proof.Machine.execVscan c ty d a sh x s
  | .vperm c ty d a b sh x => Sys2Proof.Machine.execVperm c ty d a b sh x s
  | .vslide c ty dn d a b sh x => Sys2Proof.Machine.execVslide c ty dn d a b sh x s
  | .vbcast c ty d src sh x => Sys2Proof.Machine.execVbcast c ty d src sh x s
  | .viota c ty d a b sh x => Sys2Proof.Machine.execViota c ty d a b sh x s
  | .vexp2 c ty d a sh x => Sys2Proof.Machine.execVexp2 c ty d a sh x s
  | .vlog2 c ty d a sh x => Sys2Proof.Machine.execVlog2 c ty d a sh x s
  | .vrcp c ty d a sh x => Sys2Proof.Machine.execVrcp c ty d a sh x s
  | .vrsq c ty d a sh x => Sys2Proof.Machine.execVrsq c ty d a sh x s
  | .vmovs c ty dir b => Sys2Proof.Machine.execVmovs c ty dir b s
  | .kand c d a b => Sys2Proof.Machine.execKand c d a b s
  | .kor c d a b => Sys2Proof.Machine.execKor c d a b s
  | .kxor c d a b => Sys2Proof.Machine.execKxor c d a b s
  | .knot c d a => Sys2Proof.Machine.execKnot c d a s
  | .kpopc c d a => Sys2Proof.Machine.execKpopc c d a s
  | .kfirst c d a => Sys2Proof.Machine.execKfirst c d a s
  | .kset c d src => Sys2Proof.Machine.execKset c d src s
  | .kmov c d a => Sys2Proof.Machine.execKmov c d a s
  | .tld c ty rowsN d a sh m => Sys2Proof.Machine.execTld c ty rowsN d a sh m s
  | .tst c ty rowsN a b sh m => Sys2Proof.Machine.execTst c ty rowsN a b sh m s
  | .tzero c d m => Sys2Proof.Machine.execTzero c d m s
  | .tmov c d a m => Sys2Proof.Machine.execTmov c d a m s
  | .ttr c ty d a sh m => Sys2Proof.Machine.execTtr c ty d a sh m s
  | .cld c ty d a sh m => Sys2Proof.Machine.execCld c ty d a sh m s
  | .cst c ty a b sh m => Sys2Proof.Machine.execCst c ty a b sh m s
  | .czero c d m => Sys2Proof.Machine.execCzero c d m s
  | .mma c ty iacc d a b sh m => Sys2Proof.Machine.execMma c ty iacc d a b sh m s
  | .mmas c ty iacc d a b sh m => Sys2Proof.Machine.execMmas c ty iacc d a b sh m s
  | .mmam c ty iacc d a b sh m => Sys2Proof.Machine.execMmam c ty iacc d a b sh m s
  | .mpbl c d a m => Sys2Proof.Machine.execMpbl c d a m s
  | .ccvt c ty isrc d a sh m => Sys2Proof.Machine.execCcvt c ty isrc d a sh m s
  | .bfmt c a bank => Sys2Proof.Machine.execBfmt c a bank s
  | .bfmtRd c d bank => Sys2Proof.Machine.execBfmtRd c d bank s
  | .bcpy c a b r m => Sys2Proof.Machine.execBcpy c a b r m s
  | .mlu c d sh m => Sys2Proof.Machine.execMlu c d sh m s
  | .mchol c d sh m => Sys2Proof.Machine.execMchol c d sh m s
  | .mqr c d a sh m => Sys2Proof.Machine.execMqr c d a sh m s
  | .mqapp c qt right d a b sh m => Sys2Proof.Machine.execMqapp c qt right d a b sh m s
  | .mtrs c right up unit tr d a sh m => Sys2Proof.Machine.execMtrs c right up unit tr d a sh m s
  | .mperm c inv d a sh m => Sys2Proof.Machine.execMperm c inv d a sh m s
  | .mfstPerm c d => Sys2Proof.Machine.execMfstPerm c d s
  | .mfstGrow c d => Sys2Proof.Machine.execMfstGrow c d s
  | .mfstStat c d => Sys2Proof.Machine.execMfstStat c d s
  | .cpy c a e => Sys2Proof.Machine.execCpy c a e s
  | .cpyf c a e => Sys2Proof.Machine.execCpyf c a e s
  | .csrg c d a e => Sys2Proof.Machine.execCsrg c d a e s
  | .wmarkArm c a b ch => Sys2Proof.Machine.execWmarkArm c a b ch s
  | .wmarkAdv c a ch => Sys2Proof.Machine.execWmarkAdv c a ch s
  | .wmarkClr c ch => Sys2Proof.Machine.execWmarkClr c ch s
  | .wmarkRd c d ch => Sys2Proof.Machine.execWmarkRd c d ch s
  | .lautLoad c d a b e => Sys2Proof.Machine.execLautLoad c d a b e s
  | .lautReset c d a b e => Sys2Proof.Machine.execLautReset c d a b e s
  | .lautMask c ty d a b e => Sys2Proof.Machine.execLautMask c ty d a b e s
  | .lautAdv c d a b e => Sys2Proof.Machine.execLautAdv c d a b e s
  | .spawn c d a b r => Sys2Proof.Machine.execSpawn c d a b r s
  | .decr c wait a b => Sys2Proof.Machine.execDecr c wait a b s
  | .retire c a => Sys2Proof.Machine.execRetire c a s
  | .yield c => Sys2Proof.Machine.execYield c s
  | .compose c d code b => Sys2Proof.Machine.execCompose c d code b s
  | .decomp c => Sys2Proof.Machine.execDecomp c s
  | .pitch c level die a => Sys2Proof.Machine.execPitch c level die a s
  | .rack c d target a b => Sys2Proof.Machine.execRack c d target a b s
  | .port c d port cnt => Sys2Proof.Machine.execPort c d port cnt s
  | .mfs c d num => Sys2Proof.Machine.execMfs c d num s
  | .mts c num a => Sys2Proof.Machine.execMts c num a s
  | .cacheIinv c a disp => Sys2Proof.Machine.execCacheIinv c a disp s
  | .cacheIall c => Sys2Proof.Machine.execCacheIall c s
  | .cacheDwb c a disp => Sys2Proof.Machine.execCacheDwb c a disp s
  | .cacheDinv c a disp => Sys2Proof.Machine.execCacheDinv c a disp s
  | .cacheDwbinv c a disp => Sys2Proof.Machine.execCacheDwbinv c a disp s
  | .tlbiPage c a => Sys2Proof.Machine.execTlbiPage c a s
  | .tlbiAll c => Sys2Proof.Machine.execTlbiAll c s
  | .park c a => Sys2Proof.Machine.execPark c a s
  | .wfm c d a b r => Sys2Proof.Machine.execWfm c d a b r s
  | .coldReset => Sys2Proof.Machine.execColdReset s
  | .reducedService => Sys2Proof.Machine.execReducedService s
  | .lpddr6Trained => Sys2Proof.Machine.execLpddr6Trained s
  | .computeDiesTrained => Sys2Proof.Machine.execComputeDiesTrained s
  | .fullService => Sys2Proof.Machine.execFullService s
  | .launch => Sys2Proof.Machine.execLaunch s
  | .signal => Sys2Proof.Machine.execSignal s
  | .wait => Sys2Proof.Machine.execWait s
  | .waitTimeout => Sys2Proof.Machine.execWaitTimeout s
  | .map => Sys2Proof.Machine.execMap s
  | .unmap => Sys2Proof.Machine.execUnmap s
  | .partitionCreate => Sys2Proof.Machine.execPartitionCreate s
  | .partitionChange => Sys2Proof.Machine.execPartitionChange s
  | .partitionDestroy => Sys2Proof.Machine.execPartitionDestroy s
  | .caskRetain => Sys2Proof.Machine.execCaskRetain s
  | .caskPageOut => Sys2Proof.Machine.execCaskPageOut s
  | .caskPageIn => Sys2Proof.Machine.execCaskPageIn s
  | .rackCommand => Sys2Proof.Machine.execRackCommand s
  | .contract => Sys2Proof.Machine.execContract s
  | .power => Sys2Proof.Machine.execPower s
  | .load => Sys2Proof.Machine.execLoad s
  | .attest => Sys2Proof.Machine.execAttest s
  | .query => Sys2Proof.Machine.execQuery s
  | .readWithLease => Sys2Proof.Machine.execReadWithLease s
  | .writeThroughToHome => Sys2Proof.Machine.execWriteThroughToHome s
  | .farAtomic => Sys2Proof.Machine.execFarAtomic s
  | .dataWithWriteTime => Sys2Proof.Machine.execDataWithWriteTime s
  | .writeAcknowledgement => Sys2Proof.Machine.execWriteAcknowledgement s
  | .farAtomicResult => Sys2Proof.Machine.execFarAtomicResult s
  | .coherentNack => Sys2Proof.Machine.execCoherentNack s
  | .remoteScratchpadLoad => Sys2Proof.Machine.execRemoteScratchpadLoad s
  | .remoteLoadData => Sys2Proof.Machine.execRemoteLoadData s
  | .remoteScratchpadStore => Sys2Proof.Machine.execRemoteScratchpadStore s
  | .remoteStoreAcknowledgement => Sys2Proof.Machine.execRemoteStoreAcknowledgement s
  | .registerDeposit => Sys2Proof.Machine.execRegisterDeposit s
  | .activeMessage => Sys2Proof.Machine.execActiveMessage s
  | .portCountAdvance => Sys2Proof.Machine.execPortCountAdvance s
  | .dependenceDecrement => Sys2Proof.Machine.execDependenceDecrement s
  | .windowNack => Sys2Proof.Machine.execWindowNack s
  | .placement => Sys2Proof.Machine.execPlacement s
  | .trapOrFaultMessage => Sys2Proof.Machine.execTrapOrFaultMessage s
  | .engineReply => Sys2Proof.Machine.execEngineReply s
  | .kettleReadyMessage => Sys2Proof.Machine.execKettleReadyMessage s
  | .serviceCoreCommandStep => Sys2Proof.Machine.execServiceCoreCommandStep s
  | .pageInRequest => Sys2Proof.Machine.execPageInRequest s
  | .pageInDone => Sys2Proof.Machine.execPageInDone s
  | .badFlitDiscard => Sys2Proof.Machine.execBadFlitDiscard s
  | .marketClear => Sys2Proof.Machine.execMarketClear s
  | .cellarC1Entry => Sys2Proof.Machine.execCellarC1Entry s
  | .cellarWake => Sys2Proof.Machine.execCellarWake s
  | .selfRefreshEntry => Sys2Proof.Machine.execSelfRefreshEntry s
  | .selfRefreshExit => Sys2Proof.Machine.execSelfRefreshExit s
  | .appCoreSleepRequest => Sys2Proof.Machine.execAppCoreSleepRequest s
  | .appCoreWake => Sys2Proof.Machine.execAppCoreWake s
  | .pitchTrigger => Sys2Proof.Machine.execPitchTrigger s
  | .contractInForce => Sys2Proof.Machine.execContractInForce s
  | .watchdogStep1 => Sys2Proof.Machine.execWatchdogStep1 s
  | .watchdogKill => Sys2Proof.Machine.execWatchdogKill s
  | .watchdogFence => Sys2Proof.Machine.execWatchdogFence s
  | .killFinished => Sys2Proof.Machine.execKillFinished s
  | .terminationWave => Sys2Proof.Machine.execTerminationWave s
  | .timeRenumbering => Sys2Proof.Machine.execTimeRenumbering s
  | .rackDrain => Sys2Proof.Machine.execRackDrain s
  | .rackCask => Sys2Proof.Machine.execRackCask s
  | .rackWake => Sys2Proof.Machine.execRackWake s
  | .rackInstall => Sys2Proof.Machine.execRackInstall s
  | .rackDone => Sys2Proof.Machine.execRackDone s
  | .messageForward => Sys2Proof.Machine.execMessageForward s
  | .barrierInitialise => Sys2Proof.Machine.execBarrierInitialise s
  | .barrierArrive => Sys2Proof.Machine.execBarrierArrive s
  | .barrierLanded => Sys2Proof.Machine.execBarrierLanded s
  | .barrierExpect => Sys2Proof.Machine.execBarrierExpect s
  | .barrierStatusWrite => Sys2Proof.Machine.execBarrierStatusWrite s
  | .barrierWaitRegister => Sys2Proof.Machine.execBarrierWaitRegister s
  | .bwaitResend => Sys2Proof.Machine.execBwaitResend s
  | .bwaitReply => Sys2Proof.Machine.execBwaitReply s
  | .dramAcceptsAccesses => Sys2Proof.Machine.execDramAcceptsAccesses s
  | .cellarC0Reached => Sys2Proof.Machine.execCellarC0Reached s
  | .flashWriteDone => Sys2Proof.Machine.execFlashWriteDone s

end Sys2Proof.Machine
end

