-- ==== Sys2Proof/Machine/Inputs.lean ====
section
/-! DEFINITION. What happens to the package from outside or by physical accident: bit errors, messages from other packages, faults of components, and
new images in flash (R28, R30, R31, R36, R53, R91, R94, R155, R156, log 5). -/
namespace Sys2Proof.Machine

/-- The state with a counter of a die's error block one higher, saturating (R156). -/
def State.countErr (s : State) (die k : Nat) : State :=
  { s with fw := { s.fw with errs := SMap.put s.fw.errs (8 * die + k) (min (SMap.get 0 s.fw.errs (8 * die + k) + 1) (2 ^ 32 - 1)) } }

/-- The die on which a word of a scratchpad or of cellar SRAM is stored. -/
def wordDie (key : Nat) : Nat := if key < 2 ^ 60 then 4 else coreDie ((key - 2 ^ 60) / 2 ^ 24)

/-- The state with a word of a scratchpad or of cellar SRAM uncorrectable until it is stored whole (R155). -/
def State.spoilWord (s : State) (key : Nat) : State :=
  let w := key / 8 * 8
  let t := s.countErr (wordDie w) 3
  { t with fw := { t.fw with badWords := if t.fw.badWords.contains w then t.fw.badWords else t.fw.badWords ++ [w] } }

/-- The state with a row of a tile or accumulator uncorrectable (R155). -/
def State.spoilRow (s : State) (c p reg row : Nat) : State :=
  (s.countErr (coreDie c) 3).modPart c p fun x => { x with badRows := if x.badRows.contains (reg, row) then x.badRows else x.badRows ++ [(reg, row)] }

/-- The state after an uncorrectable error in a cached line: a dirty line goes on with POISON, clean copies are dropped and fetched again (R155). -/
def State.spoilCache (s : State) (line : Nat) (dirty : Bool) : State :=
  let s := s.countErr (if isSram (line * 64) then 4 else quadrant (line * 64)) 3
  if dirty then
    match SMap.find? s.dirty line with
    | some d => { s with dirty := SMap.put s.dirty line { d with poison := true } }
    | none => s
  else
    { s with held := SMap.del s.held line, rdc := s.rdc.filter (fun (e : Nat × Copy) => e.1 % 2 ^ 52 != line)
             cores := List.map (fun (e : Nat × Core) => (e.1, { e.2 with l1 := SMap.del e.2.l1 line, icache := SMap.del e.2.icache line })) s.cores }

/-- The state with symbol errors in a DRAM line, which the next read finds (R30, R31). -/
def State.spoilDram (s : State) (line : Nat) (correctable : Bool) : State :=
  let m := s.metaOf line
  if isDram (line * 64) then { s with tags := SMap.put s.tags line { m with err := max m.err (if correctable then 1 else 2) } } else s

/-- The state after a soft error that its code corrected: counted for the die, and for its row, whose fourth marks it (R155, R156). -/
def State.softFix (s : State) (die kind row : Nat) : State :=
  if 4 < die || 2 < kind then s
  else
    let t := (s.countErr die kind).noteFix row
    if t.fw.rowMarks.length = s.fw.rowMarks.length then t else t.countErr die 4

/-- The state with a message of another package's at a peer port that is up; it goes on in the package, or out by the other port (R34, R36, R39). -/
def State.arrive (s : State) (port : Nat) (m : Msg) : State :=
  if s.portUp port && m.spkg != s.fw.package then
    let dst := if m.dst % 8 = 6 && m.dpkg = s.fw.package then epPort port else m.dst
    { s with net := s.net ++ [{ m with id := s.nextMsg, held := 0, dst := dst }], nextMsg := s.nextMsg + 1 }
  else s

/-- The state after an input (log 5). -/
def State.takeInput (s : State) (i : Input) : State :=
  match i with
  | .flitError id => { s with net := s.net.map fun m => if m.id = id then { m with poison := true } else m }
  | .dramError line correctable => s.spoilDram line correctable
  | .fromPeer port m => s.arrive port m
  | .wordError key => s.spoilWord key
  | .frameError core part reg row => s.spoilRow core part reg row
  | .cacheError line dirty => s.spoilCache line dirty
  | .lineParity core => s.modCore core fun k => { k with parity := true }
  | .softError die kind row => s.softFix die kind row
  | .powerFault component failed => s.powerFault component failed
  | .marketLate => s.modPower fun p => { p with marketLate := true }
  | .flashFails => { s with fw := { s.fw with flashFails := true } }
  | .repairMap cores => { s with fw := { s.fw with repairMap := cores } }
  | .updateImage version image => { s with fw := { s.fw with image := image, imageVersion := version } }

end Sys2Proof.Machine
end

