-- ==== Sys2Proof/Machine/Events.lean ====
section
/-! DEFINITION. The default schedule: the event that comes about next by itself, and the time to which an idle package advances (log 5).
What comes from outside the package (sensors, host stores and accesses, links, requests of the operating system, signed orders) is never
chosen here; it enters by the agenda and by the inputs. -/
namespace Sys2Proof.Machine

/-- An event, and the message, command or record it acts on. -/
def ev (i : Instr) (focus : Nat := 0) : Option Act := some { instr := i, focus := focus }

/-! ### Results, messages and waits -/

/-- A variable-latency result that is due, as its event. -/
def State.dueResult (s : State) : Option Act :=
  s.ctxs.findSome? fun e =>
    let c := e.1 / 16
    let k := e.1 % 16
    match e.2.pend.findIdx? fun p => !p.fixed && decide (p.due ≤ s.cycle c) with
    | some n => some { instr := .variableLatencyResult c k n }
    | none => none

/-- The wake that a message for a sleeping island brings about, or for a die that enters K2, whose entry it ends (R46 to R49). -/
def State.wakeEvent (s : State) (die : Nat) : Option Act :=
  if die = 4 then (if s.power.cellarC1 then ev .cellarWake else none)
  else if s.dieState die = 1 then (if s.dieTripped die then none else ev (.k1Exit die))
  else if s.fw.step < 6 || SMap.get 0 s.power.trans die == 3 then none
  else ev (.dieWake die)

/-- The event of a message, if it can come about now. -/
def State.msgDue (s : State) (m : Msg) : Option Act :=
  if m.held != 0 || !s.headOfTriple m then none
  else
    let i := s.msgEvent m
    let asleep : Option Nat :=
      if epIsCore m.dst then (if s.dieAwake (coreDie (coreOfEp m.dst)) then none else some (coreDie (coreOfEp m.dst)))
      else if m.op = 0x26 && bits m.arg 7 0 = 3 then (if s.dieAwake (m.dst % 8) then none else some (m.dst % 8)) else none
    if i = .pageInRequest then (if (s.pageRequest m).isSome then ev i m.id else none)
    else if i = .serviceCoreCommandStep then ev i m.id
    else match asleep with
      | some die => s.wakeEvent die
      | none =>
        if i = .bwaitReply || i = .messageForward || i = .badFlitDiscard || (s.portOf m).any (fun p => !s.portUp p) then ev i m.id
        else if (s.deliver m).isSome then ev i m.id
        else none

/-- A barrier operation, on its way to its home (R122). -/
def isBarOp (m : Msg) : Bool := m.size == 0x1000 && (m.op == 0x03 || (m.op == 0x33 && bits m.arg 63 60 != 0))

/-- The place of a barrier operation among those that reach a home in one cycle: initialisations, status writes, arrivals and decrements,
expectations, then registrations of waits (R122). -/
def barRank (m : Msg) : Nat :=
  let op := bits m.arg 63 60
  if op = 3 then 0 else if op = 1 || op = 5 then 2 else if op = 2 then 3 else if op = 4 then 4 else 1

/-- The oldest message that can be delivered; of barrier operations at one barrier, the first in their order (R122). -/
def State.messageDue (s : State) : Option Act :=
  match s.net.find? fun m => (s.msgDue m).isSome with
  | none => none
  | some m =>
    if !isBarOp m then s.msgDue m
    else
      let mates := s.net.filter fun x => isBarOp x && x.dst == m.dst && x.taddr == m.taddr && (s.msgDue x).isSome
      s.msgDue (mates.foldl (fun b x => if barRank x < barRank b then x else b) m)

/-- The completion of a context's wait, if it has come about. -/
def State.waitDue (s : State) : Option Act :=
  s.ctxs.findSome? fun e =>
    let c := e.1 / 16
    let k := e.1 % 16
    if (s.core c).period = 0 then none
    else match e.2.wait with
      | none => none
      | some r =>
        match r.kind with
        | .fence n => if s.fenceDone c k n then ev (.fenceComplete c k) else none
        | .waitd _ _ _ _ => if s.waitdDone c k then ev (.waitdComplete c k) else none
        | .compose n t since _ =>
          if (s.freeze c k n).composeReady c k n || decide (since + t ≤ s.cycle c) || (s.freeze c k n).cores != s.cores then ev (.composeComplete c k) else none
        | .wfm key cmp t since _ _ ask =>
          if ask = 0 && (Memory.readN s.mem key 8 != cmp || (t != 0 && decide (since + t ≤ s.cycle c))) then ev (.wfmReread c k) else none
        | .bwait _ _ _ _ => none
        | .rack _ => none
        | .reply _ _ _ _ _ => none
        | .line _ => none
        | .pageIn _ => none
        | .emulate _ => none

/-- A trap or pre-emption that is due on a context. -/
def State.boundaryDue (s : State) : Option Act :=
  s.ctxs.findSome? fun e =>
    let c := e.1 / 16
    let k := e.1 % 16
    if e.2.firing.isNone || (s.core c).period = 0 then none
    else if s.nackDue c k then ev (.deferredTrapDelivery c k)
    else if s.deadlineDue c k || (e.2.preempt = 2 && !s.onRack c k) then ev (.yieldDeadline c k)
    else none

/-! ### Engines -/

/-- The next step of a core's matrix array, if there is one. -/
def State.matDue (s : State) (c : Nat) : Option Act :=
  match s.matHead c with
  | none => none
  | some (_, m) =>
    match s.runMat c m.emul fun s slot m => s.matStep c slot m with
    | some (_, true) => ev (.matrixPageInWait c)
    | some (_, false) => ev (if m.emul then .cellarEmulation c else .matrixCommandRun c)
    | none => if (s.runMat c false fun s slot m => s.facStep c slot m).isSome then ev (.factorisationRun c) else none

/-- The next step of a core's copy channels and stream bindings, from the channel that is served next. -/
def State.copyDue (s : State) (c : Nat) : Option Act :=
  let p := s.apart c
  ((List.range 16).map fun i => (p.turn + i) % 16).findSome? fun ch =>
    match SMap.find? p.chans ch with
    | none => none
    | some _ =>
      if (s.chanBeat c ch).isSome then ev (.copyBeat c ch)
      else if (s.chanEnd c ch).isSome then ev (.copyComplete c ch)
      else if (s.streamBeat c ch).isSome then ev (.streamChannelBeat c ch)
      else none

/-- The next step of an engine. -/
def State.engineDue (s : State) : Option Act :=
  match s.parts.findSome? (fun e =>
      let c := e.1 / 16
      if e.1 % 16 != (s.core c).active || (e.2.inbox.isEmpty && e.2.chans.isEmpty) then none
      else match s.matDue c with
        | some a => some a
        | none => s.copyDue c) with
  | some a => some a
  | none => s.lauters.findSome? fun e => if !e.2.inbox.isEmpty && (s.lautRun e.1).isSome then ev (.lauterCommandRun e.1) else none

/-! ### Queues, commands and pages -/

/-- The next step of a command. -/
def State.cmdRun (s : State) (n : Nat) (x : Cmd) : Option State :=
  match x.code with
  | 1 => s.launchRun n x
  | 2 => s.signalRun n x
  | 3 => s.waitRun n x
  | 4 => s.mapRun n x
  | 5 => s.unmapRun n x
  | 6 => if x.fld 0 1 0 = 0 then s.createRun n x else if x.fld 0 1 0 = 1 then s.changeRun n x else s.destroyRun n x
  | 7 => s.caskRun n x
  | 8 => s.rackCmdRun n x
  | 9 => some s
  | 10 => s.powerRun n x
  | 11 => s.loadRun n x
  | 12 => s.attestRun n x
  | _ => s.queryRun n x

/-- The next step of a command or queue. -/
def State.cmdDue (s : State) : Option Act :=
  match s.cmds.findSome? (fun e =>
      let x := e.2
      if x.st = 4 then (if (s.writeRecord e.1 x).isSome then ev .serviceCoreCommandStep e.1 else none)
      else if x.st = 3 then none
      else if x.code = 3 && x.st = 2 && x.limit != 0 && decide (x.limit ≤ s.time) then ev .waitTimeout e.1
      else if (s.cmdRun e.1 x).isSome then ev (cmdEvent x) e.1
      else none) with
  | some a => some a
  | none => s.queues.findSome? fun e => if e.2.enable && (s.readPacket e.1).isSome then ev (.packetRead e.1) else none

/-- A flash transfer that ends: they end at once in the default schedule, and succeed. -/
def State.flashDue (s : State) : Option Act :=
  if s.power.dram ≠ 0 then (if s.power.dramWant || (s.pageIns.isEmpty && s.paged.isEmpty && s.pageOuts.isEmpty) then none
    else match s.pageIns.find? fun x => x.st == 1 with | some x => ev (.flashReadDone true) x.leaf | none => none)
  else match s.paged.find? fun x => x.out with
    | some x => ev .flashWriteDone x.leaf
    | none =>
      match s.pageOuts with
      | x :: _ => ev .flashWriteDone x.1
      | [] => match s.pageIns.find? fun x => x.st == 1 with | some x => ev (.flashReadDone true) x.leaf | none => none

/-! ### Firings, partitions, racking and launches -/

/-- Something stands in a run list, a deque or a pool. -/
def State.anyReady (s : State) : Bool :=
  !s.pool.isEmpty || s.kept.any (fun (e : Nat × Kept) => e.2.handlerOf == 0 && !e.2.handlers.isEmpty) || s.cores.any fun e => !e.2.runList.isEmpty || !e.2.deque.isEmpty || !e.2.spill.isEmpty

/-- The upkeep of a core's run list and its replay (R113, R114, R128, R154, R210). -/
def State.coreDue (s : State) (c : Nat) : Option Act :=
  let k := s.core c
  if k.fenced && !(k.runList.isEmpty && k.deque.isEmpty && k.spill.isEmpty) then ev (.runListSpill c)
  else if k.period = 0 then none
  else if k.windows < s.cycle c / 64 then ev (.logicalTimeTick c)
  else if 256 < k.runList.length then ev (.runListSpill c)
  else if !k.fenced && k.runList.length < 192 && s.pool.any (fun r => r.homed && r.home == c) then ev (.homedRecall c)
  else if k.runList.any (aged (s.cycle c)) then ev (.runListAging c)
  else if s.replaying c && decide (k.log.next < k.log.head) && decide (k.log.head ≤ k.log.markHead + k.log.size)
      && s.logWord c k.log.next 0 == s.logCyc c then ev (.loggedInputReplay c)
  else none

/-- The dispatch of a firing to a free context: first from the cores' own lists, so that an owner comes before a thief, then from the pools and by
steals (R115, R116). -/
def State.dispatchDue (s : State) : Option Act :=
  let each (f : Nat → Nat → Bool) : Option Act :=
    s.cores.findSome? fun e => (s.freeCtxs e.1).findSome? fun i => if f e.1 i then ev (.firingDispatch e.1 i) else none
  if !s.anyReady then none
  else match each fun c i => (s.dispatchOwn c i).isSome with
    | some a => some a
    | none => each fun c i => (s.dispatch c i).isSome

/-- A gang switch whose time has come (R149). -/
def State.switchDue (s : State) : Option Act :=
  s.cores.findSome? fun e => match e.2.switch with
    | some (t, p) => if t ≤ s.time && s.resident e.1 p then ev (.gangSwitch e.1) else none
    | none => none

/-- The notice of a gang's next switch time, a slice after it became active and 10 µs ahead at least, once its successors are resident; before that
their paging (R146, R147). -/
def State.gangDue (s : State) : Option Act :=
  if s.partitions.length < 2 then none
  else allCores.findSome? fun c =>
    let p := (s.core c).active
    if (s.core c).switch.isSome || s.sliceOf p == 0 then none
    else match s.nextPart c with
      | none => none
      | some q =>
        if !s.resident c q then ev (.partitionPaging c q)
        else if s.gangReady p then ev (.switchTimeNotice c (max (s.gangFrom p) (s.time + 10000)))
        else none

/-- A park command in progress (R140). -/
def State.parkDue (s : State) : Option Act :=
  s.fw.pcmd.findSome? fun e => if e.2 = 1 then ev (.pcmdResume e.1) else if e.2 = 2 then ev (.pcmdEnd e.1) else none

/-- The next step of the racking engine (R166). -/
def State.rackDue (s : State) : Option Act :=
  let shut := s.power.dram != 0 && s.power.dramWant
  match s.rackQueue with
  | [] => none
  | m :: _ =>
    if m.st = 1 then
      (match s.drainMove with
      | some m => if !(s.ctx m.core m.ctx).nacks.isEmpty || (s.rackDrained m && (s.rackArea m.part).isSome && !shut) then ev .rackDrain else none
      | none => none)
    else if m.st = 2 then (if m.cask != 0 && (shut || (s.power.dram == 0 && s.svcWait 7 m.part (s.caskLines m) == some none)) then none else ev .rackCask)
    else if m.st = 5 then ev .rackCask
    else if m.st = 3 then (if s.dieAwake m.target then ev .rackWake else s.wakeEvent m.target)
    else if m.st = 4 then
      (if !shut && (s.rackArea m.part).isSome && ((s.rackChoice m).findSome? fun c => s.rehome m.handle c).isSome then ev .rackInstall else none)
    else ev .rackDone

/-- What a launch's watchdog, wave or end brings about (R126, R127). -/
def State.launchDue (s : State) : Option Act :=
  s.launches.findSome? fun e =>
    let lid := e.1
    let l := e.2
    if l.killed then
      (if s.killDone lid then (if (s.completeLaunch lid 0x0B).isSome then ev .killFinished lid else none)
       else if l.wd = 2 && s.wdReached l l.wd3 && !(s.coresWith lid).isEmpty then ev .watchdogFence lid else none)
    else if l.wd = 4 then (if (s.completeLaunch lid 0).isSome then ev .terminationWave lid else none)
    else if l.wd = 0 && s.wdReached l l.wd1 then ev .watchdogStep1 lid
    else if l.wd = 1 && s.wdReached l l.wd2 then (if (s.beginKill lid l).isSome then ev .watchdogKill lid else none)
    else if s.waveDue l then ev .terminationWave lid
    else none

/-! ### Power and bring-up -/

/-- Time in ns that bring-up has reached a step by (R89). -/
def stepTime (step : Nat) : Nat :=
  if step < 3 then 0 else if step = 3 then 40000000 else if step = 4 then 650000000 else if step = 5 then 900000000 else 1000000000

/-- The next step of bring-up, at its latest time (R89). -/
def State.bringDue (s : State) : Option Act :=
  if 7 ≤ s.fw.step || s.time < stepTime s.fw.step then none
  else if s.fw.step < 3 then ev .coldReset
  else if s.fw.step = 3 then ev .reducedService
  else if s.fw.step = 4 then ev .lpddr6Trained
  else if s.fw.step = 5 then ev .computeDiesTrained
  else ev .fullService

/-- Time in ns at which a waking die is ready at the latest (R52). -/
def State.readyAt (s : State) (die : Nat) : Nat := SMap.get 0 s.power.dieSince die + (if s.dieState die = 3 then 1100000 else 35000)

/-- The next transition of a compute die. -/
def State.dieDue (s : State) (q : Nat) : Option Act :=
  let p := s.power
  let k := s.dieState q
  let since := SMap.get 0 p.dieSince q
  let tr := SMap.get 0 p.trans q
  if tr = 3 then (if p.dram = 0 && !s.dieTripped q && s.readyAt q ≤ s.time then ev (.dieReady q) else none)
  else if k = 0 && tr = 0 then (if since + 1000 ≤ s.time && decide (1 ≤ s.dieFloor q) && s.dieIdle q then ev (.k1Entry q) else none)
  else if k = 1 then
    (if s.dieTripped q then none
     else if !s.dieIdle q then ev (.k1Exit q)
     else if since + p.kidle2 ≤ s.time && decide (2 ≤ s.dieFloor q) && p.dram == 0 && !(s.pool.any fun r => r.die == q)
        && !((dieCores q).any fun c => !(s.core c).deque.isEmpty || !(s.core c).spill.isEmpty) then ev (.k2IdleEntry q) else none)
  else if k = 2 && tr = 0 && since + p.kidle3 ≤ s.time && s.dieFloor q == 3 && !s.dieResident q then ev (.k3Entry q)
  else none

/-- A contract's floor is shallower than a component's state (R55). -/
def State.floorDue (s : State) : Bool :=
  let p := s.power
  !p.contracts.isEmpty && ((s.dramHeld && p.dram == 1 && decide (5 ≤ s.fw.step)) || (s.cellarHeld && p.cellarC1) || (s.appHeld.isSome && p.appAsleep && !p.appWaking)
    || ([0, 1, 2, 3].any fun q => SMap.get 0 p.trans q == 1 && decide (s.dieFloor q < 2))
    || [0, 1, 2, 3].any fun q => decide (s.dieFloor q < s.dieState q) && SMap.get 0 p.trans q != 3
        && (if s.dieState q = 1 then !s.dieTripped q else decide (6 ≤ s.fw.step)))

/-- The next transition of the DRAM, the cellar, the application cores, a die, or the market. -/
def State.powerDue (s : State) : Option Act :=
  let p := s.power
  if p.dramWant && p.dram == 1 && decide (5 ≤ s.fw.step) then ev .selfRefreshExit
  else if p.dram = 2 && p.dramSince + 18000 ≤ s.time then ev .dramAcceptsAccesses
  else if p.cellarWaking && p.cellarSince + 2000 ≤ s.time then ev .cellarC0Reached
  else if p.triggers.any (fun t => !t.arrived && decide (t.time ≤ s.time)) then ev .pitchTrigger
  else if s.floorDue then ev .contractInForce
  else if p.appWaking && p.dram == 0 then ev .appCoreWake
  else match [0, 1, 2, 3].findSome? s.dieDue with
    | some a => some a
    | none =>
      if p.marketAt + 10000 ≤ s.time && decide (6 ≤ s.fw.step) then ev .marketClear
      else if !p.cellarC1 && !p.cellarWaking && decide (p.cellarSince + 10000 ≤ s.time) && decide (3 ≤ s.fw.step) && !s.cellarHeld && s.cellarIdle then ev .cellarC1Entry
      else if decide (p.dramSince + p.didle ≤ s.time) && s.dramRestful then ev .selfRefreshEntry
      else if s.renumberDue && !(s.power.renum && s.renumberWaits && (s.dirty.isEmpty || p.dram != 1 || p.dramWant)) then ev .timeRenumbering
      else none

/-! ### The schedule -/

/-- The first of some choices that is one. -/
def firstOf : List (Unit → Option Act) → Option Act
  | [] => none
  | f :: l =>
    match f () with
    | some a => some a
    | none => firstOf l

/-- The event that comes about before any slot issues at this time: bring-up, results that land, traps and pre-emptions at a boundary, and gang
switches (R89, R137, R149, R280, log 5). -/
def State.earlyEvent (s : State) : Option Act :=
  firstOf [fun _ => s.bringDue, fun _ => s.dueResult, fun _ => s.boundaryDue, fun _ => s.switchDue]

/-- The event that comes about once the slots of this time have issued, so that what arrives in a cycle comes after what issues in it
(R109, R186, log 5). -/
def State.lateEvent (s : State) : Option Act :=
  firstOf [fun _ => s.messageDue, fun _ => s.waitDue, fun _ => s.engineDue, fun _ => s.parkDue, fun _ => s.cmdDue, fun _ => s.flashDue, fun _ => s.rackDue,
    fun _ => s.launchDue, fun _ => s.gangDue, fun _ => s.powerDue, fun _ => s.cores.findSome? (fun e => s.coreDue e.1), fun _ => s.dispatchDue]

/-- Times in units of 1/336 ns, some of them past, at which something may happen by itself. -/
def State.times (s : State) : List Nat :=
  let p := s.power
  let ns : List Nat :=
    [if 7 ≤ s.fw.step then 0 else stepTime s.fw.step, p.dramSince + 18000, p.cellarSince + 2000, p.cellarSince + 10000, p.dramSince + p.didle,
      if 6 ≤ s.fw.step then p.marketAt + 10000 else 0, (match p.timesHighAt with | some t => t + 86400000000000 | none => 0)]
    ++ ([0, 1, 2, 3].flatMap fun q =>
        let since := SMap.get 0 p.dieSince q
        if SMap.get 0 p.trans q = 3 then [s.readyAt q]
        else if s.dieState q = 0 then [since + 1000] else if s.dieState q = 1 then [since + p.kidle2] else if s.dieState q = 2 then [since + p.kidle3] else [])
    ++ p.triggers.map (fun t => t.time)
    ++ s.launches.flatMap (fun e =>
        let l := e.2
        (s.time / 2000 + 1) * 2000 :: if l.wd1 = 0 || l.wdHold.isSome then [] else [l.wdFrom + l.wd1 * 1000, l.wdFrom + l.wd2 * 1000, l.wdFrom + l.wd3 * 1000])
    ++ s.cmds.map (fun e => e.2.limit)
    ++ s.cores.flatMap (fun e => match e.2.switch with | some (t, _) => [t] | none => [])
    ++ (if s.power.clusters.any fun e => e.2.sampling || e.2.step != 0 || e.2.hot (sval 16 e.2.hi) then [(s.time / 100000 + 1) * 100000] else [])
  let cyc : List Nat := s.ctxs.flatMap fun e =>
    let c := e.1 / 16
    if (s.core c).period = 0 then []
    else
      let at_ (n : Nat) : Nat := s.timeOf c (max n (s.cycle c + 1))
      (match e.2.wait with
        | some r =>
          (match r.kind with
            | .waitd _ t since _ => [at_ (since + t)]
            | .wfm _ _ t since _ _ _ => if t = 0 then [] else [at_ (since + t)]
            | .compose _ t since _ => [at_ (since + t)]
            | .fence _ => [] | .bwait _ _ _ _ => [] | .rack _ => [] | .reply _ _ _ _ _ => [] | .line _ => [] | .pageIn _ => [] | .emulate _ => [])
        | none => [])
      ++ (match e.2.firing, e.2.start with | some f, some t => if f.ydl = 0 then [] else [at_ (t + f.ydl)] | _, _ => [])
  ns.map (fun t => t * 336) ++ cyc ++ (s.net.map fun m => m.after) ++ s.cores.flatMap (fun e => e.2.resend.map fun w => w.due) ++ s.cores.flatMap fun e => s.coreTimes e.1

/-- The idle times of the dies and the cellar, and the time at which a logical time was found high, kept up as time passes (R46, R49, R212). -/
def State.keepIdle (s : State) : State :=
  let s := if s.timesHigh && s.power.timesHighAt.isNone then s.modPower fun p => { p with timesHighAt := some s.time } else s
  let busy := [0, 1, 2, 3].filter fun q => s.dieState q == 0 && !s.dieIdle q
  let s := s.modPower fun p => { p with dieSince := busy.foldl (fun m q => SMap.put m q s.time) p.dieSince }
  if !s.power.cellarC1 && !s.power.cellarWaking && !s.cellarIdle then s.modPower fun p => { p with cellarSince := s.time } else s

/-- What an instant brings by the clock alone: thermal samples at the multiples of 100 µs, and barrier waits sent again (R68, R347). -/
def State.clockEvents (old s : State) : List Act :=
  (if old.time / 100000 < s.time / 100000 && s.time % 100000 == 0 then
    (s.power.clusters.filter fun e => e.2.sampling || e.2.step != 0 || e.2.hot (sval 16 e.2.hi)).map fun e => { instr := .thermalSample e.1 } else [])
  ++ (s.cores.filter fun e => e.2.resend.any fun w => decide (w.due ≤ s.now)).map fun e => { instr := .bwaitResend, focus := e.1 }

/-- The state of an idle package at the next time at which something can happen (log 5). -/
def State.idle (s : State) : State :=
  let t := (s.advanceTo ((s.soonest s.times).getD (s.now + 336))).stepsDue.keepIdle
  { t with agenda := t.agenda ++ s.clockEvents t }

end Sys2Proof.Machine
end

