-- ==== Sys2Proof/Machine/Step.lean ====
section
/-! DEFINITION. One step of the package, and the placing of an instruction where the next step fetches it (log 4, log 5). -/
namespace Sys2Proof.Machine

/-- The execution of a fetched instruction, and the opening of a pair after it (R237). -/
def stepRun (s : State) (c k : Nat) (i : Instr) (t : State) (line : Nat) : Host.Outcome State Fault Refusal :=
  match exec i t with
  | .next u => .next (s.openPair u c k line (slotIdx (s.ctx c k).pc.toNat))
  | .fault r => .fault r
  | .refused r => .refused r

/-- The issue of a context's next slot. -/
def stepIssue (s : State) (c k : Nat) : Host.Outcome State Fault Refusal :=
  match s.front c k with
  | .done t => .next t
  | .run i t line => stepRun s c k i t line

/-- A step where nothing was chosen beforehand: an event that comes before the issue at this time, else the issue of a slot, else another event that is
due, else the passing of time (log 5). -/
def stepOn (s : State) : Host.Outcome State Fault Refusal :=
  match s.earlyEvent with
  | some a => exec a.instr { s with focus := a.focus }
  | none =>
    match s.nextIssue with
    | some (c, k) => stepIssue s c k
    | none =>
      match s.lateEvent with
      | some a => exec a.instr { s with focus := a.focus }
      | none => .next s.idle

/-- One step: an operation chosen beforehand, else an input from outside, else what comes about by itself (log 5). -/
def step (s : State) : Host.Outcome State Fault Refusal :=
  match s.agenda with
  | a :: rest => exec a.instr { s with agenda := rest, focus := a.focus }
  | [] =>
    match s.inputs with
    | i :: rest => .next (({ s with inputs := rest }).takeInput i)
    | [] => stepOn s

/-- The handle of the firing that `withFetchWord` places. -/
def fetchHandle : Nat := mkHandle 0 0 1 1

/-- Physical address of the line that `withFetchWord` writes, in cellar SRAM. -/
def fetchPa : Nat := 0x10000250000

/-- Virtual address of that line. -/
def fetchVa : Nat := 0x1000000000

/-- The line with an instruction in slot 0, marked as a target, and its parity (R268, R269). -/
def fetchLineOf (w : Nat) : Nat :=
  let body := w % 2 ^ 96
  let par := [0, 1, 2, 3, 4, 5, 6, 7].foldl (fun p i => p + parity60 (bits body (60 * i + 59) (60 * i)) * 2 ^ i) 0
  body + (par + 256) * 2 ^ 480

/-- The state with an instruction where the next step fetches it: a supervisor firing runs in context 0 of kettle core (0, 0) of
die 0, with a translation in its TLB to a line in cellar SRAM that holds the instruction in slot 0 (log 4). -/
def State.withFetchWord (s : State) (nbits w : Nat) : State :=
  let ent : TlbEnt := { part := 0, va := fetchVa, size := 4096, pa := fetchPa, bits := 0x354, kind := 1, pkg := 0, leaf := 0 }
  let s := { s with agenda := [], inputs := [], net := [], fw := { s.fw with step := 7 }
                    power := { s.power with die := SMap.put s.power.die 0 0, dram := 0 } }
  let s := s.setCore 0 { period := 105, since := s.now, base := 0, tlb := [ent] }
  let s := s.setCtx 0 0 { firing := some { handle := fetchHandle, lid := 0, part := 0, handler := false, wsize := 74, ydl := 0 }
                          pc := BitVec.ofNat 56 fetchVa, wptr := 0xE0000 }
  let s := s.modDir fetchHandle fun _ => { home := 0, part := 0, gen := 1, loc := 2, record := 0xE2000, ws := 0xE0000 }
  let s := { s with mem := Memory.writeN s.mem fetchPa 64 (fetchLineOf (w % 2 ^ nbits)) }
  let s := { s with mem := Memory.writeN s.mem (spadKey 0 0 0xE2000) 8 3 }
  let s := s.spadWrite 0 (0xE0000 + 0x180) 8 ones64
  s.spadWrite 0 (0xE0000 + 0x200) 8 0x80

end Sys2Proof.Machine
end

