-- ==== Sys2Proof/Safety.lean ====
section
/-! DEFINITION. The terms in which claims are made: the form of memory that a run keeps, when a slot issues unhindered, and the state
that an issued slot leaves. -/
namespace Sys2Proof.Machine

/-- The form of memory that every step keeps (log 1). -/
def State.Inv (s : State) : Prop := Memory.wf s.mem = true

/-- Nothing holds the executing slot back: no result on its way to a register that it names is of variable latency (R280), the checking
scoreboard and a composition find no read too early (R245, R282), its predicate holds (R276), no register that it reads is uncorrectable (R155), and no
stream binding names its registers. -/
def State.clear (s : State) (p : Pred) (reads writes : List Dest) : Bool :=
  !s.varBusy s.ic s.ik (predReads p) && (s.stallInfo s.ic s.ik (predReads p)).isNone && !s.composedWait s.ic s.ik (predReads p)
    && s.executes s.ic s.ik p
    && !s.varBusy s.ic s.ik (reads ++ writes) && (s.stallInfo s.ic s.ik reads).isNone && !s.composedWait s.ic s.ik reads
    && (s.regBad s.ic s.ik (predReads p ++ reads)).isNone
    && (reads.all fun d => (s.boundSlot s.ic s.ik false d).isNone) && (writes.all fun d => (s.boundSlot s.ic s.ik true d).isNone)

/-- The state with the reads of TIME among an instruction's sources logged (R153). -/
def State.noted (s u : State) (reads : List Dest) : State := u.logReads s.ic s.ik reads

/-- The state after the slot executing in `s` issued with the effect `u`, and its context goes on at a PC after its STALL (R279). -/
def State.goesOn (s u : State) (stall : BitVec 4) (reads : List Dest) (pc : Nat) : State :=
  (s.noted u reads).finishIssue s.ic s.ik pc stall.toNat

/-- The state after the slot executing in `s` issued with the effect `u`, and its context goes on at the next slot (R308). -/
def State.completes (s u : State) (stall : BitVec 4) (reads : List Dest) : State :=
  s.goesOn u stall reads (s.afterPc s.ic s.ik)

/-- The state after the slot executing in `s` issued with the effect `u`, and its context waits; the next slot follows the wait. -/
def State.waits (s u : State) (stall : BitVec 4) (reads : List Dest) (w : Wait) : State :=
  (s.goesOn u stall reads s.ipc).modCtx s.ic s.ik fun x =>
    { x with wait := some { kind := w, pc := s.ipc, after := s.afterPc s.ic s.ik, stall := stall.toNat } }

/-- The state with a 64-bit result of a fixed latency on its way to a register of the executing context (R280). -/
def State.result (s : State) (d : SReg) (v lat : Nat) : State := s.putS s.ic s.ik d v lat

/-- The state with a 64-bit result of a variable latency on its way, by default after a bound (R280, R319). -/
def State.later (s : State) (d : SReg) (v lat : Nat) : State := s.putVar s.ic s.ik d v lat

/-- The trap that the executing slot takes, with the reads of TIME among its sources logged (R136, R306). -/
def State.traps (s : State) (reads : List Dest) (cause : Cause) (info : Nat) : State := (s.noted s reads).preciseTrap s.ic s.ik cause info

/-- `n` bytes at an address lie aligned in the executing core's own scratchpad from an offset, and nothing holds an access to them back:
no watermark (R205), no operand guard (R241), no spilled entry (R177) and no uncorrectable word (R155). -/
def State.ownBytes (s : State) (va n off : Nat) : Bool :=
  (va / 2 ^ 48 == 0xFD || va / 2 ^ 48 == 0xFE) && va % n == 0 && windowPlace s.ic va n == some (.own off) && !s.spillMeets s.ic off n
    && !s.marked s.ic off n && !s.guarded s.ic off n && !s.badSpad s.ic off n

end Sys2Proof.Machine
end

