-- ==== Sys2Proof/Certificates/Slice0/Obligations.lean ====
section
/-! DEFINITION. The statements for the provers: what the instructions and the events of the package do, by the numbered rules of the manual. -/
section
open Sys2Proof Sys2Proof.Machine

/-! ### Control (R307 to R310) -/

/-- NOP, LPAD, an untaken BRC or BRZ and a LOOP whose counter reaches zero go on at the next slot (R272, R307, R308).
MOD executes the next slot as one instruction with it, under its modifiers, where that slot's instruction accepts them; otherwise
it traps with RESERVED_CODE (R284, R285). -/
def Obligations.SequentialControlFallsThrough : Prop :=
  ((∀ (st : BitVec 4) (k : PadKind) (s : State), s.clear none [] [] = true →
    exec (.nop st) s = .next (s.completes s st []) ∧ exec (.lpad st k) s = .next (s.completes s st []))
  ∧ (∀ (c : Ctl) (ty : Ty) (cond : Cond) (a b : SReg) (imm : BitVec 48) (s : State),
    s.clear c.pred [.scal a, .scal b] [] = true → condI cond (decI ty (s.rs a)) (decI ty (s.rs b)) = false →
    exec (.brc c ty cond a b imm) s = .next (s.completes s c.stall [.scal a, .scal b]))
  ∧ (∀ (c : Ctl) (ne : Bool) (a : SReg) (imm : BitVec 48) (s : State),
    s.clear c.pred [.scal a] [] = true → (s.rs a = 0 ↔ ne = true) →
    exec (.brz c ne a imm) s = .next (s.completes s c.stall [.scal a]))
  ∧ (∀ (c : Ctl) (d : SReg) (imm : BitVec 48) (s : State),
    s.clear c.pred [.scal d] [.scal d] = true → s.rs d = 1 →
    exec (.loop c d imm) s = .next (s.completes (s.later d 0 1) c.stall [.scal d])))
  ∧ (∀ (m : ModWord) (b : BitVec 96) (i : Instr) (s : State), s.issue.nextSlot = some b → decode b = .ok i →
    (∀ a run, modTarget i = some (a, run) → modFits m a = true →
      ∃ t, exec (.mod m) s = .next t
        ∧ exec i { s with issue := { s.issue with len := 2, slot := bits b.toNat 47 0, mods := some m } } = .next t)
    ∧ (modTarget i = none → exec (.mod m) s = .next (s.traps [] .reservedCode s.issue.slot)))

/-- J, JAL and a taken BRC, BRZ or LOOP go on at the slot that their immediate names relative to their own line, when that slot is
marked as a target (R271, R278, R308).
A direct transfer to a slot field above 4, or to a slot that its line does not mark, traps with CF_TARGET and the target (R271, R278). -/
def Obligations.DirectTransfersNeedMarkedSlots : Prop :=
  ((∀ (st : BitVec 4) (d : SReg) (imm : Word) (s : State) (v : Nat),
    let line := wrap 56 (((s.ipc / 64 * 64 : Nat) : Int) + 64 * sval 61 (imm.toNat / 8))
    let slot := imm.toNat % 8
    slot < 5 → s.peekLine s.ic s.ik line = .line v → marked v slot = true →
    (s.clear none [] [] = true → exec (.j st imm) s = .next (s.goesOn s st [] ((line + 12 * slot) % 2 ^ 56)))
    ∧ (s.clear none [] [.scal d] = true →
      exec (.jal st d imm) s = .next (s.goesOn (s.result d (nextPc s.ipc) 1) st [] ((line + 12 * slot) % 2 ^ 56))))
  ∧ (∀ (c : Ctl) (ty : Ty) (cond : Cond) (ne : Bool) (a b d : SReg) (imm : BitVec 48) (s : State) (v : Nat),
    let line := wrap 56 (((s.ipc / 64 * 64 : Nat) : Int) + 64 * sval 45 (imm.toNat / 8))
    let slot := imm.toNat % 8
    let pc := (line + 12 * slot) % 2 ^ 56
    slot < 5 → s.peekLine s.ic s.ik line = .line v → marked v slot = true →
    (s.clear c.pred [.scal a, .scal b] [] = true → condI cond (decI ty (s.rs a)) (decI ty (s.rs b)) = true →
      exec (.brc c ty cond a b imm) s = .next (s.goesOn s c.stall [.scal a, .scal b] pc))
    ∧ (s.clear c.pred [.scal a] [] = true → (s.rs a = 0 ↔ ne = false) →
      exec (.brz c ne a imm) s = .next (s.goesOn s c.stall [.scal a] pc))
    ∧ (s.clear c.pred [.scal d] [.scal d] = true → (s.rs d + (2 ^ 64 - 1)) % 2 ^ 64 ≠ 0 →
      exec (.loop c d imm) s = .next (s.goesOn (s.later d ((s.rs d + (2 ^ 64 - 1)) % 2 ^ 64) 1) c.stall [.scal d] pc))))
  ∧ ((∀ (st : BitVec 4) (d : SReg) (imm : Word) (s : State),
    let line := wrap 56 (((s.ipc / 64 * 64 : Nat) : Int) + 64 * sval 61 (imm.toNat / 8))
    let slot := imm.toNat % 8
    (5 ≤ slot ∨ ∃ v, s.peekLine s.ic s.ik line = .line v ∧ marked v slot = false) →
    (s.clear none [] [] = true → exec (.j st imm) s = .next (s.traps [] .cfTarget ((line + 12 * slot) % 2 ^ 56)))
    ∧ (s.clear none [] [.scal d] = true → exec (.jal st d imm) s = .next (s.traps [] .cfTarget ((line + 12 * slot) % 2 ^ 56))))
  ∧ (∀ (c : Ctl) (ty : Ty) (cond : Cond) (ne : Bool) (a b d : SReg) (imm : BitVec 48) (s : State),
    let line := wrap 56 (((s.ipc / 64 * 64 : Nat) : Int) + 64 * sval 45 (imm.toNat / 8))
    let slot := imm.toNat % 8
    let pc := (line + 12 * slot) % 2 ^ 56
    (5 ≤ slot ∨ ∃ v, s.peekLine s.ic s.ik line = .line v ∧ marked v slot = false) →
    (s.clear c.pred [.scal a, .scal b] [] = true → condI cond (decI ty (s.rs a)) (decI ty (s.rs b)) = true →
      exec (.brc c ty cond a b imm) s = .next (s.traps [.scal a, .scal b] .cfTarget pc))
    ∧ (s.clear c.pred [.scal a] [] = true → (s.rs a = 0 ↔ ne = false) → exec (.brz c ne a imm) s = .next (s.traps [.scal a] .cfTarget pc))
    ∧ (s.clear c.pred [.scal d] [.scal d] = true → (s.rs d + (2 ^ 64 - 1)) % 2 ^ 64 ≠ 0 →
      exec (.loop c d imm) s = .next (s.traps [.scal d] .cfTarget pc))))

/-- JR, JALR and RET go on at their target when it names a marked slot that holds the landing pad of their kind; an unmarked slot or
a bad address traps with CF_TARGET, another pad with CF_LPAD (R271, R272, R308). -/
def Obligations.IndirectTransfersNeedTheirPad : Prop :=
  ∀ (c : Ctl) (d a : SReg) (imm : BitVec 48) (s : State),
    let t := (s.rs a + sext64 48 imm.toNat) % 2 ^ 64
    let lands (t : Nat) (k : PadKind) : Prop := t < 2 ^ 56 ∧ slotOk t = true ∧
      ∃ v, s.peekLine s.ic s.ik t = .line v ∧ marked v (slotIdx t) = true ∧ padOf v (slotIdx t) = some k
    let off (t : Nat) : Prop := 2 ^ 56 ≤ t ∨ slotOk t = false ∨ ∃ v, s.peekLine s.ic s.ik t = .line v ∧ marked v (slotIdx t) = false
    let other (t : Nat) (k : PadKind) : Prop := t < 2 ^ 56 ∧ slotOk t = true ∧
      ∃ v, s.peekLine s.ic s.ik t = .line v ∧ marked v (slotIdx t) = true ∧ padOf v (slotIdx t) ≠ some k
    (s.clear c.pred [.scal a] [] = true →
      (lands t .jump → exec (.jr c a imm) s = .next (s.goesOn s c.stall [.scal a] t))
      ∧ (off t → exec (.jr c a imm) s = .next (s.traps [.scal a] .cfTarget t))
      ∧ (other t .jump → exec (.jr c a imm) s = .next (s.traps [.scal a] .cfLpad t))
      ∧ (lands (s.rs a) .ret → exec (.ret c a) s = .next (s.goesOn s c.stall [.scal a] (s.rs a)))
      ∧ (off (s.rs a) → exec (.ret c a) s = .next (s.traps [.scal a] .cfTarget (s.rs a)))
      ∧ (other (s.rs a) .ret → exec (.ret c a) s = .next (s.traps [.scal a] .cfLpad (s.rs a))))
    ∧ (s.clear c.pred [.scal a] [.scal d] = true →
      (lands t .call → exec (.jalr c d a imm) s = .next (s.goesOn (s.result d (nextPc s.ipc) 1) c.stall [.scal a] t))
      ∧ (off t → exec (.jalr c d a imm) s = .next (s.traps [.scal a] .cfTarget t))
      ∧ (other t .call → exec (.jalr c d a imm) s = .next (s.traps [.scal a] .cfLpad t)))

/-- TRAP raises BREAK with its immediate; ERET goes on at TPC with bit 63 of TVEC set again and the trap record no longer live (R310).
A trap whose handler can be entered (TVEC valid, its slot marked and holding an LPAD for traps in a line that the instruction
cache holds) writes TCAUSE, TINFO, TPC and LASTCAUSE, clears bit 63 of TVEC, and goes on at the handler (R134, R136, R271). -/
def Obligations.TrapAndReturn : Prop :=
  (∀ (c : Ctl) (imm : BitVec 48) (s : State), s.clear c.pred [] [] = true →
    exec (.trap c imm) s = .next (s.traps [] .brk imm.toNat)
    ∧ (let u := (s.wsWrite s.ic s.ik 0x228 8 (setBits (s.wsRead s.ic s.ik 0x228 8) 63 63 1)).modCtx s.ic s.ik
        fun x => { x with live := false }
      exec (.eret c) s = .next (s.goesOn u c.stall [] (bits (s.wsRead s.ic s.ik 0x208 8) 55 0))))
  ∧ (∀ (cause : Cause) (info v : Nat) (e : TlbEnt) (s : State),
    let c := s.ic
    let k := s.ik
    let tvec := s.wsRead c k 0x228 8
    let h := bits tvec 55 0
    let pc := s.ipc
    s.Inv → (s.ctx c k).pend = [] → (s.ctx c k).wait = none → bit (s.csw c k) 3 = 0 → bit tvec 63 = 1 → slotOk h = true →
    lineAddr h < 0xFD000000000000 → tlbHit (s.core c).tlb (s.ctx c k).asid (lineAddr h) = some e →
    rightsOk e.bits .fetch (s.priv c k) = true → e.kind = 1 → bit e.bits 6 = 0 → isSram (e.pa + (lineAddr h - e.va)) = false →
    SMap.find? (s.core c).icache ((e.pa + (lineAddr h - e.va)) / 64) = some v →
    marked v (slotIdx h) = true → padOf v (slotIdx h) = some .trap →
    let u := s.traps [] cause info
    u.wsRead c k 0x210 8 = cause.code + bits (s.csw c k) 6 4 * 1024 ∧ u.wsRead c k 0x218 8 = info % 2 ^ 64
    ∧ u.wsRead c k 0x208 8 = (if cause = .brk then nextPc pc else pc) ∧ u.csw c k = setBits (s.csw c k) 23 16 cause.code
    ∧ u.wsRead c k 0x228 8 = setBits tvec 63 63 0 ∧ (u.ctx c k).pc.toNat = h ∧ (u.ctx c k).live = true
    ∧ u.net = s.net ∧ ∀ r : SReg, r.toNat < 56 → u.readS c k r = s.readS c k r)

/-- A slot whose predicate is false has no effect: its context goes on at the next slot. Stated of one instruction of each family
that a predicate guards (R276). -/
def Obligations.FalsePredicateSkips : Prop :=
  ∀ (c : Ctl) (ty : Ty) (cond : Cond) (d a b r : SReg) (sb : SrcB) (imm : BitVec 48) (sh : ShReg) (v : VReg) (x : Option SReg) (e : ECtl) (s : State),
    s.varBusy s.ic s.ik (predReads c.pred) = false → s.regBad s.ic s.ik (predReads c.pred) = none →
    s.composedWait s.ic s.ik (predReads c.pred) = false → s.executes s.ic s.ik c.pred = false →
    ∀ i ∈ [Instr.add c ty d a sb, .mul c ty d a sb, .div c ty d a sb, .fadd c ty d a b, .padd c d a sb, .ld c ty d a b imm, .st c ty a b r imm,
        .ldv c ty v a sh x imm, .stv c ty v a sh x imm, .brc c ty cond a b imm, .jr c a imm, .trap c imm, .eret c, .msgD c a b, .barr c d a sb,
        .retire c a, .park c a, .cpy c v e],
      exec i s = .next (s.finishIssue s.ic s.ik (s.afterPc s.ic s.ik) c.stall.toNat)

/-! ### Scalar integer, floating point and pointers (R311 to R324) -/

/-- ADD, SUB, MUL and MULH give the sum, difference, product and high half of the product of the low bits of their sources, finished
under the modifiers and extended by the type, in 1 or 3 cycles (R312, R313).
An integer result without modifiers wraps to the width of its type; under SAT it is clamped to the type's range (R253, R312). -/
def Obligations.IntegerArithmetic : Prop :=
  (∀ (c : Ctl) (ty : Ty) (d a : SReg) (b : SrcB) (s : State), ty.isInt = true →
    s.clear c.pred (.scal a :: SrcBReads b) [.scal d] = true →
    let x := decI ty (s.rs a)
    let y := decI ty (s.srcB b)
    let fin (v : Int) : Nat := ty.widen (finishI ty .rne s.mods (XR.ofInt v))
    let put (v lat : Nat) : State := s.completes (s.result d v lat) c.stall (.scal a :: SrcBReads b)
    exec (.add c ty d a b) s = .next (put (fin (x + y)) 1) ∧ exec (.sub c ty d a b) s = .next (put (fin (x - y)) 1)
    ∧ exec (.mul c ty d a b) s = .next (put (fin (x * y)) 3)
    ∧ exec (.mulh c ty d a b) s = .next (put (ty.widen (wrap ty.width (x * y / ((2 ^ ty.width : Nat) : Int)))) 3))
  ∧ (∀ (ty : Ty) (v : Int), ty.isInt = true →
    finishI ty .rne none (XR.ofInt v) = wrap ty.width v
    ∧ finishI ty .rne (some { sat := true, neg := false, abs := false, scl := false, clmp := false, e := 0, clo := 0, chi := 0 }) (XR.ofInt v)
      = wrap ty.width (max (min v ty.hi) ty.lo))

/-- DIV truncates toward zero and REM is the remainder of that quotient, within 8 + n cycles; a zero divisor traps with DIV_ZERO and the
dividend, when the instruction executes; the most negative dividend over −1 gives itself and the remainder 0 (R313, R314, R319). -/
def Obligations.DivisionCompletesOrTraps : Prop :=
  (∀ (c : Ctl) (ty : Ty) (d a : SReg) (b : SrcB) (s : State), ty.isInt = true →
    s.clear c.pred (.scal a :: SrcBReads b) [.scal d] = true →
    let x := decI ty (s.rs a)
    let y := decI ty (s.srcB b)
    let put (v : Int) : State := s.completes (s.later d (ty.widen (wrap ty.width v)) (8 + ty.width)) c.stall (.scal a :: SrcBReads b)
    (y ≠ 0 → exec (.div c ty d a b) s = .next (put (Int.tdiv x y)) ∧ exec (.rem c ty d a b) s = .next (put (x - y * Int.tdiv x y)))
    ∧ (ty.signed = true → x = -2 ^ (ty.width - 1) → y = -1 →
      exec (.div c ty d a b) s = .next (put (-2 ^ (ty.width - 1))) ∧ exec (.rem c ty d a b) s = .next (put 0))
    ∧ (y = 0 → exec (.div c ty d a b) s = .next (s.traps (.scal a :: SrcBReads b) .divZero (wrap 64 x)) ∧ exec (.rem c ty d a b) s = .next (s.traps (.scal a :: SrcBReads b) .divZero (wrap 64 x))))
  ∧ (∀ (c : Ctl) (ty : Ty) (d a : SReg) (b : SrcB) (s : State), s.varBusy s.ic s.ik (predReads c.pred) = false →
    s.stallInfo s.ic s.ik (predReads c.pred) = none →
    s.composedWait s.ic s.ik (predReads c.pred) = false → s.executes s.ic s.ik c.pred = false →
    exec (.div c ty d a b) s = .next (s.finishIssue s.ic s.ik (s.afterPc s.ic s.ik) c.stall.toNat)
    ∧ exec (.rem c ty d a b) s = .next (s.finishIssue s.ic s.ik (s.afterPc s.ic s.ik) c.stall.toNat))

/-- AND, OR, XOR, ANDN and the shifts and rotation act on the low n bits: a shift count is the low byte of the second source, a count
of n or more shifts everything out, and a rotation takes its count modulo n (R313).
CLZ, CTZ and POPC count the leading zeros, trailing zeros and ones of the low n bits, n where all are zero; EXT extends them by
their type (R313). -/
def Obligations.BitwiseAndShifts : Prop :=
  (∀ (c : Ctl) (ty : Ty) (d a : SReg) (b : SrcB) (s : State), ty.isInt = true →
    s.clear c.pred (.scal a :: SrcBReads b) [.scal d] = true →
    let n := ty.width
    let x := s.rs a % 2 ^ n
    let y := s.srcB b % 2 ^ n
    let k := s.srcB b % 256
    let put (v : Nat) : State := s.completes (s.result d (ty.widen v) 1) c.stall (.scal a :: SrcBReads b)
    exec (.and c ty d a b) s = .next (put (x &&& y)) ∧ exec (.or c ty d a b) s = .next (put (x ||| y))
    ∧ exec (.xor c ty d a b) s = .next (put (x ^^^ y)) ∧ exec (.andn c ty d a b) s = .next (put (x &&& (2 ^ n - 1 - y)))
    ∧ exec (.shl c ty d a b) s = .next (put (x * 2 ^ k % 2 ^ n)) ∧ exec (.shr c ty d a b) s = .next (put (x / 2 ^ k))
    ∧ exec (.sra c ty d a b) s = .next (put (wrap n (sval n x / ((2 ^ k : Nat) : Int))))
    ∧ exec (.rol c ty d a b) s = .next (put (x * 2 ^ (k % n) % 2 ^ n + x / 2 ^ (n - k % n))))
  ∧ (∀ (c : Ctl) (ty : Ty) (d a : SReg) (s : State), ty.isInt = true → s.clear c.pred [.scal a] [.scal d] = true →
    let n := ty.width
    let x := s.rs a % 2 ^ n
    let put (v : Nat) : State := s.completes (s.result d v 1) c.stall [.scal a]
    (∃ k, exec (.clz c ty d a) s = .next (put k) ∧ (x = 0 → k = n) ∧ (x ≠ 0 → k < n ∧ 2 ^ (n - 1 - k) ≤ x ∧ x < 2 ^ (n - k)))
    ∧ (∃ k, exec (.ctz c ty d a) s = .next (put k) ∧ (x = 0 → k = n) ∧ (x ≠ 0 → x % 2 ^ k = 0 ∧ x % 2 ^ (k + 1) ≠ 0))
    ∧ exec (.popc c ty d a) s = .next (put ((List.range n).filter fun i => x.testBit i).length)
    ∧ exec (.ext c ty d a) s = .next (put (if ty.signed then wrap 64 (sval n x) else x)))

/-- MIN and MAX of integers, SEL, CMP, MOVI, and the bit fields BFX and BFI (R313, R315). -/
def Obligations.SelectionAndFields : Prop :=
  (∀ (c : Ctl) (ty : Ty) (cond : Cond) (d a : SReg) (b : SrcB) (s : State), ty.isInt = true →
    s.clear c.pred (.scal a :: SrcBReads b) [.scal d] = true →
    let x := decI ty (s.rs a)
    let y := decI ty (s.srcB b)
    let put (v : Nat) : State := s.completes (s.result d v 1) c.stall (.scal a :: SrcBReads b)
    exec (.min c ty d a b) s = .next (put (ty.widen (finishI ty .rne s.mods (XR.ofInt (min x y)))))
    ∧ exec (.max c ty d a b) s = .next (put (ty.widen (finishI ty .rne s.mods (XR.ofInt (max x y)))))
    ∧ exec (.cmp c ty cond d a b) s = .next (put (if condI cond x y then 1 else 0)))
  ∧ (∀ (c : Ctl) (d a b r : SReg) (s : State), s.clear c.pred [.scal a, .scal b, .scal r] [.scal d] = true →
    exec (.sel c d a b r) s = .next (s.completes (s.result d (if s.rs r % 2 = 1 then s.rs a else s.rs b) 1) c.stall [.scal a, .scal b, .scal r]))
  ∧ (∀ (st : BitVec 4) (d : SReg) (imm : Word) (s : State), s.clear none [] [.scal d] = true →
    exec (.movi st d imm) s = .next (s.completes (s.result d imm.toNat 1) st []))
  ∧ (∀ (c : Ctl) (sx : Bool) (d a b : SReg) (pos : BitVec 6) (len : BitVec 7) (s : State), fieldOk pos len = true →
    let f := s.rs a / 2 ^ pos.toNat % 2 ^ len.toNat
    (s.clear c.pred [.scal a] [.scal d] = true →
      exec (.bfx c sx d a pos len) s = .next (s.completes (s.result d (if sx then wrap 64 (sval len.toNat f) else f) 1) c.stall [.scal a]))
    ∧ (s.clear c.pred [.scal a, .scal b] [.scal d] = true →
      exec (.bfi c d a b pos len) s = .next (s.completes (s.result d (s.rs b - s.rs b / 2 ^ pos.toNat % 2 ^ len.toNat * 2 ^ pos.toNat
        + s.rs a % 2 ^ len.toNat * 2 ^ pos.toNat) 1) c.stall [.scal a, .scal b])))

/-- FADD, FMUL, FFMA, FDIV and FSQRT round the exact result of the decoded sources once under the modifiers, MIN and MAX of a floating
type choose a source, FCMP writes its condition and FCVT converts in its rounding mode (R255, R256, R304, R316 to R319). -/
def Obligations.FloatingPointRoundsOnce : Prop :=
  (∀ (c : Ctl) (ty : Ty) (cond : Cond) (d a b r : SReg) (s : State), ty.isFloat = true →
    let x := decF ty (s.rs a)
    let y := decF ty (s.rs b)
    let z := decF ty (s.rs r)
    let fin (v : XR) : Nat := finishF ty .rne s.mods v
    let out (v lat : Nat) (fixed : Bool) (reads : List Dest) : State :=
      s.completes (s.addPend s.ic s.ik (.scal d) (2 ^ 64 - 1) v lat fixed) c.stall reads
    (s.clear c.pred [.scal a, .scal b] [.scal d] = true →
      exec (.fadd c ty d a b) s = .next (out (fin (x.add y)) 4 true [.scal a, .scal b])
      ∧ exec (.fmul c ty d a b) s = .next (out (fin (x.mul y)) 4 true [.scal a, .scal b])
      ∧ exec (.fdiv c ty d a b) s = .next (out (fin (x.div y)) 16 false [.scal a, .scal b])
      ∧ exec (.min c ty d a (.reg b)) s = .next (s.completes (s.result d (fin (x.min y)) 1) c.stall [.scal a, .scal b])
      ∧ exec (.max c ty d a (.reg b)) s = .next (s.completes (s.result d (fin (x.max y)) 1) c.stall [.scal a, .scal b])
      ∧ exec (.fcmp c ty cond d a b) s = .next (out (if condF cond x y then 1 else 0) 4 true [.scal a, .scal b]))
    ∧ (s.clear c.pred [.scal a, .scal b, .scal r] [.scal d] = true →
      exec (.ffma c ty d a b r) s = .next (out (fin ((x.mul y).add z)) 4 true [.scal a, .scal b, .scal r]))
    ∧ (s.clear c.pred [.scal a] [.scal d] = true → exec (.fsqrt c ty d a) s = .next (out (fin x.sqrt) 20 false [.scal a])))
  ∧ (∀ (c : Ctl) (ty src : Ty) (rm : Rm) (d a : SReg) (s : State), s.clear c.pred [.scal a] [.scal d] = true →
    let v := finishAny ty rm s.mods (!intSource src) (decElem src (s.rs a % 2 ^ src.width))
    exec (.fcvt c ty d a src rm) s =
      .next (s.completes (s.result d (if ty.integer then ty.widen v else v % 2 ^ ty.width) 4) c.stall [.scal a]))

/-- PADD walks a pointer or traps with PROT on a reserved ORDER, PSET and PGET write and read its parts, PWALK sets its walk control,
and LEA computes an address without an access (R320 to R324).
A pointer without a walk moves its 32-bit offset alone, which wraps, and the opposite increment gives it back (R321). -/
def Obligations.PointerInstructions : Prop :=
  (∀ (c : Ctl) (core : Bool) (field scale : BitVec 2) (d a b : SReg) (sb : SrcB) (disp : BitVec 48) (s : State),
    let p := s.rs a
    let v := s.rs b
    (s.clear c.pred (.scal a :: SrcBReads sb) [.scal d] = true →
      (∀ q, walkPtr p (sval 64 (s.srcB sb)) = some q →
        exec (.padd c d a sb) s = .next (s.completes (s.result d q 1) c.stall (.scal a :: SrcBReads sb)))
      ∧ (bit p 63 = 1 → 2 ≤ bits p 53 52 → exec (.padd c d a sb) s = .next (s.traps (.scal a :: SrcBReads sb) .prot p))
      ∧ (∀ r, sb = .reg r → exec (.pwalk c d a sb) s = .next (s.completes
          (s.result d (setBits p 63 48 (setBits (bits (s.rs r) 63 48) 13 12 0)) 1) c.stall [.scal a, .scal r]))
      ∧ (∀ i, sb = .imm i → exec (.pwalk c d a sb) s = .next (s.completes (s.result d (setBits p 63 48 (i.toNat % 2 ^ 16)) 1) c.stall [.scal a])))
    ∧ (s.clear c.pred [.scal a] [.scal d] = true →
      exec (.pget c field d a) s = .next (s.completes (s.result d
        (if field = 0 then p % 2 ^ 32 else if field = 1 then bits p 42 40 * 2 ^ 8 + bits p 39 36 * 2 ^ 4 + bits p 35 32
          else bits p 63 48 * 2 ^ 48) 1) c.stall [.scal a]))
    ∧ (s.clear c.pred [.scal a, .scal b] [.scal d] = true →
      exec (.pset c core d a b) s = .next (s.completes (s.result d
        (if core then setBits (setBits (setBits p 42 40 (bits v 10 8)) 39 36 (bits v 7 4)) 35 32 (bits v 3 0) else setBits p 31 0 v) 1)
        c.stall [.scal a, .scal b])
      ∧ exec (.lea c scale d a b disp) s = .next (s.completes (s.result d
        (if 32 ≤ a.toNat ∧ a.toNat ≤ 47 then 0xFE000000000000 + bits p 47 32 * 2 ^ 32 + (p + v * 2 ^ scale.toNat + sext64 48 disp.toNat) % 2 ^ 32
          else (p + v * 2 ^ scale.toNat + sext64 48 disp.toNat) % 2 ^ 64) 1) c.stall [.scal a, .scal b])))
  ∧ (∀ (p : Nat) (inc : Int), p < 2 ^ 64 → bit p 63 = 0 →
    walkPtr p inc = some (p / 2 ^ 32 * 2 ^ 32 + wrap 32 (((p % 2 ^ 32 : Nat) : Int) + inc))
    ∧ ∃ q, walkPtr p inc = some q ∧ walkPtr q (-inc) = some p)

/-! ### Memory (R325 to R337) -/

/-- LD, LDP, LDV and LDVG: when every byte of the load can be read at once, its value is on its way to the destination, extended by its
type or with the tail of its shape; bytes that others hold are asked for, and the context waits for them, LDP with its pointer as it was (R329 to R332). -/
def Obligations.LoadsCompleteOrWait : Prop :=
  (∀ (c : Ctl) (ty : Ty) (d a b : SReg) (disp : BitVec 48) (s : State) (r : LoadAcc),
    s.clear c.pred [.scal a, .scal b] [.scal d] = true → ctlCheck (fun t => t.ea a b disp) s = none →
    s.loadChunks s.ic s.ik (ty.width / 8) [{ va := eaVal (s.ea a b disp), len := ty.width / 8, off := 0, nib := 0 }]
      { s := s, acc := 0, pieces := [], remote := false } = .done r →
    (r.pieces = [] → exec (.ld c ty d a b disp) s
      = .next (s.completes (r.s.putVar r.s.ic r.s.ik d (ty.widen r.acc) 1) c.stall [.scal a, .scal b]))
    ∧ (r.pieces ≠ [] → exec (.ld c ty d a b disp) s
      = .next (s.waits r.s c.stall [.scal a, .scal b] (.reply r.pieces r.acc (.scal d ty) r.remote r.todo))))
  ∧ (∀ (c : Ctl) (ty : Ty) (d : SReg) (p : PReg) (inc : Inc) (q : Nat) (s : State) (r : LoadAcc),
    let a : SReg := ptrSpec p
    let n : Int := match inc with | .size => ((ty.width / 8 : Nat) : Int) | .imm v => sval 48 v.toNat | .reg x => sval 64 (s.rs x)
    s.clear c.pred (.scal a :: incReads inc) [.scal d, .scal a] = true → walkPtr (s.rs a) n = some q →
    s.loadChunks s.ic s.ik (ty.width / 8) [{ va := 0xFE000000000000 + s.rs a % 2 ^ 48, len := ty.width / 8, off := 0, nib := 0 }]
      { s := s, acc := 0, pieces := [], remote := false } = .done r →
    let walk (u : State) : State := if d = a then u else u.putS u.ic u.ik a q 1
    (r.pieces = [] → exec (.ldp c ty d p inc) s
      = .next (s.completes (walk (r.s.putVar r.s.ic r.s.ik d (ty.widen r.acc) 1)) c.stall (.scal a :: incReads inc)))
    ∧ (r.pieces ≠ [] → exec (.ldp c ty d p inc) s
      = .next (s.waits r.s c.stall (.scal a :: incReads inc)
        (.reply r.pieces r.acc (if d = a then .scal d ty else .ptr d ty a q) r.remote r.todo))))
  ∧ (∀ (c : Ctl) (ty : Ty) (d : VReg) (a : SReg) (sh : ShReg) (x : Option SReg) (disp : BitVec 48) (s : State) (r : LoadAcc) (va : Nat),
    let e := s.memExtent sh ty 2048 x
    let m := loadMask (s.grant sh % 2 ^ 16) ty.width e (s.tailTu sh)
    let reads := [.scal a, .shape sh] ++ optReads x
    s.clear c.pred reads [.vec d] = true → s.ea a 0 disp = .inl va →
    vecCheck sh (fun t => t.ea a 0 disp) (fun t => t.memExtent sh ty 2048 x) s = none →
    s.loadChunks s.ic s.ik (elemAlign ty) (runChunks ty va e) { s := s, acc := 0, pieces := [], remote := false } = .done r →
    (r.pieces = [] → exec (.ldv c ty d a sh x disp) s = .next (s.completes (r.s.putV r.s.ic r.s.ik d m r.acc 1 false) c.stall reads))
    ∧ (r.pieces ≠ [] → exec (.ldv c ty d a sh x disp) s = .next (s.waits r.s c.stall reads (.reply r.pieces r.acc (.vec d m) r.remote r.todo))))
  ∧ (∀ (c : Ctl) (ty : Ty) (d b : VReg) (a : SReg) (sh : ShReg) (disp : BitVec 48) (s : State) (r : LoadAcc) (va : Nat),
    let e := s.memExtent sh ty 64 none
    let m := loadMask (s.grant sh % 2 ^ 16) ty.width e (s.tailTu sh)
    let reads : List Dest := [.scal a, .shape sh, .vec b]
    s.clear c.pred reads [.vec d] = true → s.ea a 0 disp = .inl va →
    vecCheck sh (fun t => t.firstElem a b disp) (fun t => t.memExtent sh ty 64 none) s = none →
    s.loadChunks s.ic s.ik (elemAlign ty) (gatherChunks ty va (s.rv b) e) { s := s, acc := 0, pieces := [], remote := false } = .done r →
    (r.pieces = [] → exec (.ldvg c ty d a b sh disp) s = .next (s.completes (r.s.putV r.s.ic r.s.ik d m r.acc 1 false) c.stall reads))
    ∧ (r.pieces ≠ [] → exec (.ldvg c ty d a b sh disp) s = .next (s.waits r.s c.stall reads (.reply r.pieces r.acc (.vec d m) r.remote r.todo))))

/-- ST, STP, STV and STVS: when every part of the store passes its checks, all parts are performed or sent in order, and the context goes
on (R329, R330, R332, R333). -/
def Obligations.StoresComplete : Prop :=
  (∀ (c : Ctl) (ty : Ty) (a b r : SReg) (disp : BitVec 48) (s t : State) (l : List Write),
    s.clear c.pred [.scal a, .scal b, .scal r] [] = true → ctlCheck (fun t => t.ea a b disp) s = none →
    s.storeCheck s.ic s.ik (ty.width / 8) [({ va := eaVal (s.ea a b disp), len := ty.width / 8, off := 0, nib := 0 }, s.rs r % 2 ^ ty.width)] s []
      = .done t l →
    exec (.st c ty a b r disp) s
      = .next (s.completes (l.foldl (fun u w => u.storeWrite s.ic s.ik w) t) c.stall [.scal a, .scal b, .scal r]))
  ∧ (∀ (c : Ctl) (ty : Ty) (p : PReg) (inc : Inc) (r : SReg) (q : Nat) (s t : State) (l : List Write),
    let a : SReg := ptrSpec p
    let n : Int := match inc with | .size => ((ty.width / 8 : Nat) : Int) | .imm v => sval 48 v.toNat | .reg x => sval 64 (s.rs x)
    let u := l.foldl (fun u w => u.storeWrite s.ic s.ik w) t
    s.clear c.pred ([.scal a, .scal r] ++ incReads inc) [.scal a] = true → walkPtr (s.rs a) n = some q →
    s.storeCheck s.ic s.ik (ty.width / 8) [({ va := 0xFE000000000000 + s.rs a % 2 ^ 48, len := ty.width / 8, off := 0, nib := 0 }, s.rs r % 2 ^ ty.width)] s []
      = .done t l →
    exec (.stp c ty p inc r) s = .next (s.completes (u.putS u.ic u.ik a q 1) c.stall ([.scal a, .scal r] ++ incReads inc)))
  ∧ (∀ (c : Ctl) (ty : Ty) (d b : VReg) (a : SReg) (sh : ShReg) (x : Option SReg) (disp : BitVec 48) (s t : State) (l : List Write) (va : Nat),
    s.ea a 0 disp = .inl va →
    (s.clear c.pred ([.scal a, .shape sh, .vec d] ++ optReads x) [] = true →
      vecCheck sh (fun t => t.ea a 0 disp) (fun t => t.memExtent sh ty 2048 x) s = none →
      s.storeCheck s.ic s.ik (elemAlign ty) ((runChunks ty va (s.memExtent sh ty 2048 x)).map (chunkVal (s.rv d))) s [] = .done t l →
      exec (.stv c ty d a sh x disp) s
        = .next (s.completes (l.foldl (fun u w => u.storeWrite s.ic s.ik w) t) c.stall ([.scal a, .shape sh, .vec d] ++ optReads x)))
    ∧ (s.clear c.pred [.scal a, .shape sh, .vec b, .vec d] [] = true →
      vecCheck sh (fun t => t.firstElem a b disp) (fun t => t.memExtent sh ty 64 none) s = none →
      s.storeCheck s.ic s.ik (elemAlign ty) ((gatherChunks ty va (s.rv b) (s.memExtent sh ty 64 none)).map (chunkVal (s.rv d))) s [] = .done t l →
      exec (.stvs c ty d a b sh disp) s
        = .next (s.completes (l.foldl (fun u w => u.storeWrite s.ic s.ik w) t) c.stall [.scal a, .shape sh, .vec b, .vec d])))

/-- In the core's own scratchpad: LD reads the little-endian bytes at its address, ST writes them, and AMO and CAS exchange a word, with
the old value in the destination (R7, R173, R329, R335, R336).
What an atomic stores from the old value and its operand: the sum, AND, OR, XOR, exchange, lesser and greater (R336). -/
def Obligations.OwnScratchpadAccesses : Prop :=
  (∀ (c : Ctl) (ty : Ty) (op : BitVec 3) (far : Bool) (d a b r : SReg) (disp : BitVec 48) (s : State) (va off : Nat),
    let n := ty.width / 8
    ty.isScalar = true →
    (s.ea a b disp = .inl va → s.ownBytes va n off = true → s.clear c.pred [.scal a, .scal b] [.scal d] = true →
      exec (.ld c ty d a b disp) s = .next (s.completes (s.later d (ty.widen (s.spadRead s.ic off n)) 1) c.stall [.scal a, .scal b]))
    ∧ (s.ea a b disp = .inl va → s.ownBytes va n off = true → s.clear c.pred [.scal a, .scal b, .scal r] [] = true →
      exec (.st c ty a b r disp) s = .next (s.completes (s.spadStore s.ic off n (s.rs r % 2 ^ ty.width)) c.stall [.scal a, .scal b, .scal r]))
    ∧ (s.ea a 0 disp = .inl va → s.ownBytes va n off = true → s.clear c.pred [.scal a, .scal b] [.scal d] = true →
      exec (.amo c ty op far d a b disp) s = .next (s.completes
        ((match atomicNew op.toNat ty (s.spadRead s.ic off n) (s.rs b) 0 with | some v => s.spadStore s.ic off n v | none => s).putVar s.ic s.ik d
          (atomicOld ty (s.spadRead s.ic off n)) 1) c.stall [.scal a, .scal b]))
    ∧ (s.ea a 0 disp = .inl va → s.ownBytes va n off = true → s.clear c.pred [.scal a, .scal b, .scal r] [.scal d] = true →
      exec (.cas c ty far d a b r disp) s = .next (s.completes
        ((if s.spadRead s.ic off n = s.rs b % 2 ^ ty.width then s.spadStore s.ic off n (s.rs r % 2 ^ ty.width) else s).putVar s.ic s.ik d
          (atomicOld ty (s.spadRead s.ic off n)) 1) c.stall [.scal a, .scal b, .scal r])))
  ∧ (∀ (ty : Ty) (old b : Nat), ty = .i32 ∨ ty = .i64 ∨ ty = .u32 → old < 2 ^ ty.width → b < 2 ^ ty.width →
    atomicNew 0 ty old b 0 = some ((old + b) % 2 ^ ty.width) ∧ atomicNew 1 ty old b 0 = some (old &&& b)
    ∧ atomicNew 2 ty old b 0 = some (old ||| b) ∧ atomicNew 3 ty old b 0 = some (old ^^^ b) ∧ atomicNew 4 ty old b 0 = some b
    ∧ (∃ v, atomicNew 5 ty old b 0 = some v ∧ decI ty v = min (decI ty old) (decI ty b) ∧ (v = old ∨ v = b))
    ∧ (∃ v, atomicNew 6 ty old b 0 = some v ∧ decI ty v = max (decI ty old) (decI ty b) ∧ (v = old ∨ v = b)))

/-- PREF raises nothing but PRIV and drops every target but a coherent line; FENCE completes with an acquire once its conditions hold, and
waits otherwise (R217, R222, R334, R337). -/
def Obligations.PrefetchAndFence : Prop :=
  (∀ (c : Ctl) (die : Bool) (a b : SReg) (disp : BitVec 48) (s : State), s.clear c.pred [.scal a, .scal b] [] = true →
    (∀ v, s.ea a b disp = .inr v → exec (.pref c die a b disp) s = .next (s.completes s c.stall [.scal a, .scal b]))
    ∧ (∀ va, s.ea a b disp = .inl va → va / 2 ^ 48 = 0xFD ∨ va / 2 ^ 48 = 0xFE → exec (.pref c die a b disp) s = .next (s.completes s c.stall [.scal a, .scal b]))
    ∧ (∀ va, s.ea a b disp = .inl va → va / 2 ^ 48 = 0xFF → s.priv s.ic s.ik = false → exec (.pref c die a b disp) s = .next (s.traps [.scal a, .scal b] .priv va))
    ∧ (∀ va, s.ea a b disp = .inl va → va / 2 ^ 48 < 0xFD →
      exec (.pref c die a b disp) s = .next (s.completes (s.prefetch s.ic s.ik va die) c.stall [.scal a, .scal b])
      ∧ (s.prefetch s.ic s.ik va die).mem = s.mem ∧ (s.prefetch s.ic s.ik va die).ctxs = s.ctxs))
  ∧ (∀ (c : Ctl) (scope : Scope) (s : State), s.clear c.pred [] [] = true →
    let n := match scope with | .core => 0 | .die => 1 | .dev => 2 | .sys => 3
    (s.fenceDone s.ic s.ik n = true → scope ≠ .sys →
      exec (.fence c scope) s = .next (s.completes (s.modCore s.ic fun x => { x with acqTime := s.now }) c.stall []))
    ∧ (s.fenceDone s.ic s.ik n = true → scope = .sys →
      exec (.fence c scope) s = .next (s.completes (s.sysRelease.acquire s.ic) c.stall []))
    ∧ (s.fenceDone s.ic s.ik n = false → exec (.fence c scope) s = .next (s.waits (s.fenceAsk n) c.stall [] (.fence n))))

/-! ### Synchronisation and streams (R338 to R351) -/

/-- Nothing holds a signal of the executing context back: its coherent stores are ordered and the interface has room (R130, R217). With
that, MSG.H sends an active message with handler, argument and sender, MSG.D deposits into its own or another core's workspace, and MSGG.S
and MSGG.D send to every member of their group but the issuing core, unless SELF names it too (R339 to R341). -/
def Obligations.MessagesAreSent : Prop :=
  ∀ (c : Ctl) (self : Bool) (gid : BitVec 8) (a b r : SReg) (s : State), s.signalHeld = false →
    (s.clear c.pred [.scal a, .scal b, .scal r] [] = true →
      exec (.msgH c a b r) s = .next (s.completes (s.sendActor s.ic s.ik 0x26 (s.rs a) 0
        (toBytes 8 (s.rs b) ++ toBytes 8 (s.rs r) ++ toBytes 8 s.ic)) c.stall [.scal a, .scal b, .scal r]))
    ∧ (s.clear c.pred [.scal a, .scal b] [] = true →
      (∀ va d off, s.ea a 0 0 = .inl va → (va / 2 ^ 48 = 0xFD ∨ va / 2 ^ 48 = 0xFE) →
        windowPlace s.ic va 8 = some (if d = s.ic then .own off else .core d off) →
        exec (.msgD c a b) s = .next (s.completes (s.sendDeposit s.ic s.ik d off (s.rs b)) c.stall [.scal a, .scal b]))
      ∧ (s.rs a < 2 ^ 20 → s.groupValid (s.partOf s.ic s.ik) gid.toNat (s.lidOf s.ic s.ik) = true →
        let all := s.groupMembers (s.partOf s.ic s.ik) gid.toNat
        let members := if self then all else all.filter fun m => m ≠ s.ic
        let send (u : State) (m op : Nat) (data : List Byte) (arg : Nat) : State :=
          u.sendCounted u.ic { u.accMsg u.ic u.ik 2 op (epCore m) (0xFE000000000000 + meshPtr m (s.rs a)) with data := data, arg := arg }
            (Out.blank true (u.ctx u.ic u.ik).pc.toNat (0xFE000000000000 + meshPtr m (s.rs a)) 0)
        exec (.msggS c self gid a b) s
            = .next (s.completes (members.foldl (fun u m => send u m 0x23 (toBytes 8 (s.rs b)) (s.rs b)) s) c.stall [.scal a, .scal b])
          ∧ exec (.msggD c self gid a b) s
            = .next (s.completes (members.foldl (fun u m => send u m 0x25 [] (s.rs b)) s) c.stall [.scal a, .scal b])))

/-- WAITD takes the deposit flags under its mask with an acquire when one is set, gives 0 for an empty mask with an acquire, and waits otherwise; WAITW
gives the watermark, with bit 63 where it was released early (R217, R342, R343).
At a barrier in the own scratchpad, another core's or memory, BINIT, EXPECT and a BARR without D post their operation and go on, BARR with D and BWAIT wait
for its answer, and an arrival whose context's stores are not ordered is left to be sent once they are (R122, R344 to R347). The operation on a barrier of the
own scratchpad is a message to the core's own interface, where BINIT sets EXP and clears the rest, EXPECT adds to BEATS and BARR adds arrivals, each answered
with the generation before it, and a wait is registered.
A barrier completes when its arrivals reach its expectation and no beat is due: the generation advances and the expectation is taken off
the arrivals. Until then an arrival changes the count of arrivals alone (R122). -/
def Obligations.WaitingInstructions : Prop :=
  ((∀ (c : Ctl) (d r : SReg) (b : SrcB) (s : State), s.clear c.pred (.scal r :: SrcBReads b) [.scal d] = true →
    let m := s.srcU b
    let reads : List Dest := .scal r :: SrcBReads b
    (m = 0 → exec (.waitd c d b r) s = .next (s.completes ((s.acquire s.ic).putVar s.ic s.ik d 0 1) c.stall reads))
    ∧ (m ≠ 0 → s.depmask s.ic s.ik &&& m ≠ 0 →
      exec (.waitd c d b r) s = .next (s.completes (((s.takeFlags s.ic s.ik m).2.acquire s.ic).putVar s.ic s.ik d (s.depmask s.ic s.ik &&& m) 1) c.stall reads))
    ∧ (m ≠ 0 → s.depmask s.ic s.ik &&& m = 0 → exec (.waitd c d b r) s = .next (s.waits s c.stall reads (.waitd m (s.rs r) (s.cycle s.ic) d))))
  ∧ (∀ (c : Ctl) (d b : SReg) (ch : BitVec 4) (s : State), s.clear c.pred [.scal b] [.scal d] = true →
    let m := s.markOf s.ic ch.toNat
    m.act = false ∨ s.rs b % 2 ^ 20 < m.wm →
    exec (.waitw c d b ch) s = .next (s.completes
      (s.later d (m.wm % 2 ^ 20 + if m.act = false ∧ m.wm < m.hi then 2 ^ 63 else 0) 1) c.stall [.scal b])))
  ∧ ((∀ (c : Ctl) (chk : Bool) (d a b : SReg) (sb : SrcB) (cnt : BinitArg) (s : State) (p : BarPlace) (n : Nat),
    s.barLocate s.ic s.ik (s.ea a 0 0) = .at_ p s → s.barHeld p = false →
    let cntReads : List Dest := match cnt with | .reg r => [.scal r] | .imm _ => [] | .group _ => []
    let reads : List Dest := .scal a :: SrcBReads sb
    let k := s.srcU sb % 2 ^ 32
    let post (op n : Nat) : State := s.barPost s.ic s.ik p op n
    (s.binitCount cnt = some n → s.clear c.pred (.scal a :: cntReads) [] = true →
      exec (.binit c a cnt) s = .next (s.completes (post 3 n) c.stall (.scal a :: cntReads)))
    ∧ (s.clear c.pred reads [] = true → exec (.expect c a sb) s = .next (s.completes (post 2 k) c.stall reads))
    ∧ (s.released s.ic s.ik = true → s.clear c.pred reads [.scal d] = true →
      exec (.barr c d a sb) s = .next (if d = 0 then s.completes (post 1 k) c.stall reads
        else s.waits (post 1 k) c.stall reads (.reply [{ id := s.nextMsg, off := 0, len := 4, nib := 0 }] 0 (.scal d .u32) false [])))
    ∧ (s.released s.ic s.ik = false → s.clear c.pred reads [.scal 0] = true →
      exec (.barr c 0 a sb) s = .next (s.completes (s.arriveLater s.ic s.ik p k) c.stall reads))
    ∧ (s.clear c.pred [.scal a, .scal b] [.scal d] = true →
      exec (.bwait c chk d a b) s = .next (s.waits (post 4 (s.rs b % 2 ^ 32)) c.stall [.scal a, .scal b] (.bwait s.nextMsg chk (s.rs b % 2 ^ 32) d))))
  ∧ (∀ (c k off op n : Nat) (s u : State), c ∈ allCores → k < 16 → off < 2 ^ 20 → op < 16 → n < 2 ^ 32 →
    let m : Msg := { (s.barOut c k (.own off) (barArg op k n)).1 with ack := true, id := s.nextMsg }
    let home : BarLoc := .spad c (s.core c).active off
    let bw := u.barRead home
    let after (o : BarOp) : State := ((u.barWrite home (barApply bw o) m.pts).releaseWaiters home).answerMsg m 0x24 (bits bw 31 0) [] 0 0
    m.dst = epCore c ∧ m.op = 0x33
    ∧ (u.wordsBad (spadKey c (s.core c).active off) 32 = false →
      (op = 1 → u.barMsg m = after (.arrive n)) ∧ (op = 2 → u.barMsg m = after (.expect n))
      ∧ (op = 3 → u.barMsg m = after (.init n) ∧ barApply bw (.init n) = n * 2 ^ 32)
      ∧ (op = 4 → u.barMsg m = u.barWait home
        { addr := off, gen := n, id := s.nextMsg, src := epCore c, ctx := k, part := (s.core c).active, lid := m.lid })))
  ∧ (∀ (gen exp arr beats rest n : Nat), gen < 2 ^ 32 - 1 → exp < 2 ^ 32 → arr + n < 2 ^ 32 → beats < 2 ^ 32 →
    let word (g a : Nat) : Nat := g + exp * 2 ^ 32 + a * 2 ^ 64 + beats * 2 ^ 96 + rest * 2 ^ 128
    (exp ≠ 0 → beats = 0 → exp ≤ arr + n → barApply (word gen arr) (.arrive n) = word (gen + 1) (arr + n - exp))
    ∧ (exp = 0 ∨ beats ≠ 0 ∨ arr + n < exp → barApply (word gen arr) (.arrive n) = word gen (arr + n))
    ∧ (∀ m, beats + m < 2 ^ 32 → barApply (word gen arr) (.expect m) = word gen arr + m * 2 ^ 96)))

/-- SFREE of a free slot gives 0; of a slot whose output ring has drained it stops the channel, clears the slot's word and gives the final
position; SBIND binds a register to a pattern from the 64 bytes of its descriptor (R348, R349, R351). -/
def Obligations.StreamBindings : Prop :=
  (∀ (c : Ctl) (d : SReg) (slot : BitVec 2) (s : State), s.clear c.pred [] [.scal d] = true →
    (bit (s.sb s.ic s.ik slot.toNat) 63 = 0 → exec (.sfree c d slot) s = .next (s.completes (s.later d 0 1) c.stall []))
    ∧ (bit (s.sb s.ic s.ik slot.toNat) 63 = 1 → s.slotDrained s.ic s.ik slot.toNat = true →
      exec (.sfree c d slot) s = .next (s.completes ((((s.dropChan s.ic (s.sbChan s.ic s.ik slot.toNat)).wsWrite s.ic s.ik (0x248 + 8 * slot.toNat) 8 0)).putVar
        s.ic s.ik d (bits (s.sb s.ic s.ik slot.toNat) 31 0) 1) c.stall [])))
  ∧ (∀ (c : Ctl) (out vreg portb : Bool) (d a : SReg) (sh : ShReg) (ch : BitVec 4) (slot : BitVec 2) (s u : State) (r : LoadAcc),
    let reads : List Dest := .scal a :: (if vreg then [.shape sh] else [])
    s.clear c.pred reads [] = true → eaVal (s.ea a 0 0) % 64 = 0 → (s.ctx s.ic s.ik).got = none →
    s.loadChunks s.ic s.ik 64 [{ va := eaVal (s.ea a 0 0), len := 64, off := 0, nib := 0 }] { s := s, acc := 0, pieces := [], remote := false } = .done r →
    r.s.Inv → r.pieces = [] → r.s.bindRes (eaVal (s.ea a 0 0)) r.acc out vreg portb d sh ch.toNat slot.toNat = .ok u →
    exec (.sbind c out vreg portb d a sh ch slot) s = .next (s.completes u c.stall reads)
    ∧ bit (u.sb r.s.ic r.s.ik slot.toNat) 63 = 1 ∧ bits (u.sb r.s.ic r.s.ik slot.toNat) 51 48 = ch.toNat
    ∧ (bit (u.sb r.s.ic r.s.ik slot.toNat) 62 = 1 ↔ out = true) ∧ bits (u.sb r.s.ic r.s.ik slot.toNat) 57 52 = d.toNat
    ∧ ∃ m, SMap.find? (u.apart r.s.ic).chans ch.toNat = some m ∧ m.kind = 2 ∧ m.out = out ∧ m.tailc = 0)

/-! ### Shapes, vectors and masks (R352 to R369) -/

/-- SHAPE grants each extent its granule-rounded maximum and writes grant and request; a zero or oversized extent traps with SHAPE; SHGET
reads the fields (R352, R354, R355, R357, R358).
A grant never exceeds its request's maximum, is at least 1, is a whole number of granules or the whole maximum, and asking for what was
granted is granted again unchanged (R354, R355). -/
def Obligations.ShapeRequestsAreGranted : Prop :=
  ((∀ (c : Ctl) (tu : Bool) (kind : BitVec 2) (ty : Ty) (d : ShReg) (req : ShapeArg) (s : State),
    s.clear c.pred (reqReads req) [.shape d] = true →
    let q := s.request req
    (1 ≤ q.1 → q.1 ≤ 65535 → 1 ≤ q.2.1 → q.2.1 ≤ 65535 → 1 ≤ q.2.2 → q.2.2 ≤ 65535 →
      exec (.shape c tu kind ty d req) s = .next (s.completes
        (s.addPend s.ic s.ik (.shape d) (2 ^ 128 - 1) (shapeWords s.ic tu kind.toNat ty q) 1 false) c.stall (reqReads req)))
    ∧ (q.1 = 0 ∨ 65535 < q.1 → exec (.shape c tu kind ty d req) s = .next (s.traps (reqReads req) .shape (min q.1 0xFFFF))))
  ∧ (∀ (c : Ctl) (field : BitVec 4) (d : SReg) (a : ShReg) (s : State), s.clear c.pred [.shape a] [.scal d] = true → field.toNat < 5 →
    let w := s.readShape s.ic s.ik a
    let v := if field = 0 then bits w 15 0 else if field = 1 then bits w 31 16 else if field = 2 then bits w 47 32
      else if field = 3 then w % 2 ^ 64 else w / 2 ^ 64
    exec (.shget c field d a) s = .next (s.completes (s.result d v 1) c.stall [.shape a]))
  ∧ (∀ (c : Ctl) (d : SReg) (a : ShReg) (s : State), s.clear c.pred [.shape a] [.scal d] = true →
    exec (.shget c 5 d a) s = .next (s.completes (s.result d (shapeField 5 (s.readShape s.ic s.ik a)) 1) c.stall [.shape a])))
  ∧ (∀ (req mx gran : Nat), 1 ≤ req → 1 ≤ mx → 1 ≤ gran → (gran ≤ mx → mx % gran = 0) →
    let g := grantDim req mx gran
    1 ≤ g ∧ g ≤ mx ∧ (min gran mx ∣ g) ∧ (min gran mx ≤ req → g ≤ req) ∧ grantDim g mx gran = g)

/-- An element-wise vector instruction with a valid shape gives each active element below the extent its result, keeps the inactive ones,
and treats the tail by the shape's policy; here the arithmetic of two operands (R359, R360, R363).
The bits that a vector result writes are those of its active elements and, without TU, the tail up to the granted extent; its value has
each active element in its place and zeros in the tail (R359, R360). -/
def Obligations.VectorArithmetic : Prop :=
  (∀ (c : Ctl) (ty : Ty) (d a : VReg) (b : VB) (sh : ShReg) (x : SReg) (s : State),
    shapeUse s.ic (s.grant sh) [0] = true →
    let e := s.extent sh ty.width x
    let reads (more : List Dest) : List Dest := predReads c.pred ++ (.vec a :: vbReads b ++ more) ++ [.shape sh] ++ extReads x
    let p (i : Nat) : Nat := rawAt ty (s.rv a) i
    let q (i : Nat) : Nat := s.vbRaw ty b i
    let out (more : List Dest) (f : Nat → Nat) : State := s.completes
      (s.putElems sh d ty.width e 4 ((List.range e).filterMap fun i => if activeAt (s.maskOf c) ty.width i then some (i, f i) else none)) c.stall (reads more)
    let real (v : XR) : Nat := elemResult ty s.mods v
    (s.clear none (reads []) [.vec d] = true →
      exec (.vadd c ty d a b sh x) s = .next (out [] fun i => real ((decElem ty (p i)).add (decElem ty (q i))))
      ∧ exec (.vsub c ty d a b sh x) s = .next (out [] fun i => real ((decElem ty (p i)).add (decElem ty (q i)).negate))
      ∧ exec (.vmul c ty d a b sh x) s = .next (out [] fun i => real ((decElem ty (p i)).mul (decElem ty (q i))))
      ∧ exec (.vmin c ty d a b sh x) s = .next (out [] fun i => real ((decElem ty (p i)).min (decElem ty (q i))))
      ∧ exec (.vmax c ty d a b sh x) s = .next (out [] fun i => real ((decElem ty (p i)).max (decElem ty (q i))))
      ∧ exec (.vand c ty d a b sh x) s = .next (out [] fun i => p i &&& q i)
      ∧ exec (.vor c ty d a b sh x) s = .next (out [] fun i => p i ||| q i)
      ∧ exec (.vxor c ty d a b sh x) s = .next (out [] fun i => p i ^^^ q i)
      ∧ exec (.vshl c ty d a b sh x) s = .next (out [] fun i => opShl ty.width (p i) (q i))
      ∧ exec (.vshr c ty d a b sh x) s = .next (out [] fun i => opShr ty.width (p i) (q i))
      ∧ exec (.vsra c ty d a b sh x) s = .next (out [] fun i => opSra ty.width (p i) (q i)))
    ∧ (s.clear none (reads [.vec d]) [.vec d] = true →
      exec (.vfma c ty d a b sh x) s
        = .next (out [.vec d] fun i => real (((decElem ty (p i)).mul (decElem ty (q i))).add (elemAt ty (s.rv d) i)))))
  ∧ (∀ (gm wd e : Nat) (tu : Bool) (mask : Nat) (f : Nat → Nat), 1 ≤ wd → e ≤ gm → e * wd ≤ 2048 → wd ∣ 8 ∨ 8 ∣ wd →
    let r := vecResult gm wd e tu ((List.range e).filterMap fun i => if activeAt mask wd i then some (i, f i) else none)
    (∀ i < e, activeAt mask wd i = true → r.1 >>> (i * wd) % 2 ^ wd = 2 ^ wd - 1 ∧ r.2 >>> (i * wd) % 2 ^ wd = f i % 2 ^ wd)
    ∧ (∀ i < e, activeAt mask wd i = false → r.1 >>> (i * wd) % 2 ^ wd = 0)
    ∧ (∀ j, e * wd ≤ j → (r.1.testBit j = true ↔ tu = false ∧ j < min (gm * wd / 8) 256 * 8) ∧ r.2.testBit j = false))

/-- VCMP writes the mask of the groups whose active elements meet the condition, VSEL chooses by the mask, and VCVT, VQNT and VDQ convert,
quantise and dequantise the active elements; 4-bit destinations are written a pair at a time (R364, R365). -/
def Obligations.VectorComparisonAndConversion : Prop :=
  ∀ (c : Ctl) (ty src : Ty) (cond : Cond) (rm : Rm) (dk bs x : SReg) (d a b : VReg) (vb : VB) (sh : ShReg) (s : State),
    shapeUse s.ic (s.grant sh) [0] = true →
    let e := s.extent sh ty.width x
    let e2 := s.extent sh (max ty.width src.width) x
    let reads (l : List Dest) : List Dest := predReads c.pred ++ l ++ [.shape sh] ++ extReads x
    let conv (real : Bool) (f : XR → Option XR) : State :=
      let y (i : Nat) : Option XR := f (elemAt src (s.rv a) i)
      if ty.isPacked then
        let pairs := (List.range (ceilDiv e2 2)).filterMap fun j => if activeAt (s.maskOf c) 4 (2 * j) then
          some (j, match y (2 * j) with | none => 0 | some z => pairByte ty rm s.mods real z (if 2 * j + 1 < e2 then y (2 * j + 1) else none)) else none
        let r := vecResult 0 8 0 true pairs
        s.putV s.ic s.ik d (r.1 ||| (if s.tailTu sh then 0 else tailMask (s.grant sh % 2 ^ 16) 4 (ceilDiv e2 2 * 8))) r.2 4 true
      else s.putElems sh d ty.width e2 4 ((List.range e2).filterMap fun i => if activeAt (s.maskOf c) ty.width i then
        some (i, match y i with | none => 0 | some z => finishAny ty rm s.mods real z) else none)
    (s.clear none (reads (.vec a :: vbReads vb ++ [.scal dk])) [.scal dk] = true →
      exec (.vcmp c ty cond dk a vb sh x) s = .next (s.completes (s.result dk (cmpMask (s.rs dk) (s.maskOf c) (maskGroup ty.width) e
        fun i => condElem ty cond (rawAt ty (s.rv a) i) (s.vbRaw ty vb i)) 4) c.stall (reads (.vec a :: vbReads vb ++ [.scal dk]))))
    ∧ (s.clear none (reads [.vec a, .vec b]) [.vec d] = true →
      exec (.vsel c ty d a b sh x) s = .next (s.completes (s.putElems sh d ty.width e 4 ((List.range e).map fun i =>
        (i, if activeAt (s.maskOf c) ty.width i then rawAt ty (s.rv a) i else rawAt ty (s.rv b) i))) c.stall (reads [.vec a, .vec b])))
    ∧ (s.clear none (reads [.vec a]) [.vec d] = true →
      exec (.vcvt c ty d a sh src rm x) s = .next (s.completes (conv (!intSource src) some) c.stall (reads [.vec a])))
    ∧ (s.clear none (reads [.vec a, .scal bs]) [.vec d] = true →
      (∀ g r n k, decF .f32 (s.rs bs) = .fin g r n k → n ≠ 0 →
        exec (.vqnt c ty d a bs sh src rm x) s = .next (s.completes (conv true fun y => some (y.div (.fin g r n k))) c.stall (reads [.vec a, .scal bs])))
      ∧ ((decF .f32 (s.rs bs)).isZero = true ∨ (decF .f32 (s.rs bs)).isNan = true ∨ (∃ g, decF .f32 (s.rs bs) = .inf g) →
        exec (.vqnt c ty d a bs sh src rm x) s = .next (s.completes (conv true fun _ => none) c.stall (reads [.vec a, .scal bs])))
      ∧ (rm = .rne → exec (.vdq c ty d a bs sh src x) s
        = .next (s.completes (conv true fun y => some (y.mul (decF .f32 (s.rs bs)))) c.stall (reads [.vec a, .scal bs]))))

/-- VREDS sums exactly and rounds once, VREDM gives the least or greatest active element or its index, VSCAN gives running sums, VPERM,
VSLIDE, VBCAST, VIOTA and VMOVS move elements, and the four transcendentals follow their tables (R366 to R368).
VMOVS takes one element to a scalar register or puts one there, under its predicate group; an index beyond the register gives 0, or
writes nothing (R367). -/
def Obligations.VectorReductionAndMovement : Prop :=
  (∀ (c : Ctl) (ty : Ty) (index mx dn : Bool) (ds as bs x : SReg) (d a b : VReg) (src : BcastSrc) (sh : ShReg) (s : State),
    shapeUse s.ic (s.grant sh) [0] = true →
    let e := s.extent sh ty.width x
    let reads (l : List Dest) : List Dest := predReads c.pred ++ l ++ [.shape sh] ++ extReads x
    let vals := s.activeVals c ty a e
    let out (l : List Dest) (lat : Nat) (f : Nat → Nat) : State := s.completes
      (s.putElems sh d ty.width e lat ((List.range e).filterMap fun i => if activeAt (s.maskOf c) ty.width i then some (i, f i) else none)) c.stall (reads l)
    (s.clear none (reads [.vec a, .scal bs]) [.scal ds] = true →
      exec (.vreds c ty ds a bs sh x) s = .next (s.completes (s.result ds (widenElem ty (elemResult ty s.mods
        (vals.foldl (fun r y => r.add y.2) (decElem ty (s.rs bs % 2 ^ ty.width))))) 4) c.stall (reads [.vec a, .scal bs])))
    ∧ (s.clear none (reads [.vec a]) [.scal ds] = true → ∀ i v, bestOf mx vals = some (i, v) →
      exec (.vredm c ty index mx ds a sh x) s = .next (s.completes
        (s.result ds (if index then i else widenElem ty (elemResult ty none v)) 4) c.stall (reads [.vec a])))
    ∧ (s.clear none (reads [.vec a]) [.vec d] = true →
      exec (.vscan c ty d a sh x) s = .next (s.completes (s.putElems sh d ty.width e 4
        ((scanSums vals).map fun y => (y.1, elemResult ty s.mods y.2))) c.stall (reads [.vec a]))
      ∧ exec (.vexp2 c ty d a sh x) s = .next (out [.vec a] 8 fun i => finishF ty .rne s.mods (exp2X (elemAt ty (s.rv a) i)))
      ∧ exec (.vlog2 c ty d a sh x) s = .next (out [.vec a] 8 fun i => finishF ty .rne s.mods (log2X (elemAt ty (s.rv a) i)))
      ∧ exec (.vrcp c ty d a sh x) s = .next (out [.vec a] 8 fun i => finishF ty .rne s.mods (rcpX (elemAt ty (s.rv a) i)))
      ∧ exec (.vrsq c ty d a sh x) s = .next (out [.vec a] 8 fun i => finishF ty .rne s.mods (rsqX (elemAt ty (s.rv a) i))))
    ∧ (s.clear none (reads [.vec a, .vec b]) [.vec d] = true →
      exec (.vperm c ty d a b sh x) s = .next (out [.vec a, .vec b] 4 fun i =>
        if rawAt ty (s.rv b) i < e then rawAt ty (s.rv a) (rawAt ty (s.rv b) i) else 0))
    ∧ (s.clear none (reads [.vec a, .scal bs]) [.vec d] = true →
      exec (.vslide c ty dn d a bs sh x) s = .next (out [.vec a, .scal bs] 4 fun i =>
        if dn then (if i + s.rs bs < e then rawAt ty (s.rv a) (i + s.rs bs) else 0)
        else if s.rs bs ≤ i then rawAt ty (s.rv a) (i - s.rs bs) else 0))
    ∧ (s.clear none (reads (bcastReads src)) [.vec d] = true →
      exec (.vbcast c ty d src sh x) s = .next (out (bcastReads src) 4 fun _ => match src with
        | .scal r => s.rs r % 2 ^ ty.width
        | .elem v i => if 2048 / ty.width ≤ i.toNat then 0 else rawAt ty (s.rv v) i.toNat))
    ∧ (s.clear none (reads [.scal as, .scal bs]) [.vec d] = true →
      exec (.viota c ty d as bs sh x) s = .next (out [.scal as, .scal bs] 4 fun i => (s.rs as + i * s.rs bs) % 2 ^ ty.width)))
  ∧ (∀ (c : Ctl) (ty : Ty) (d : SReg) (a : VReg) (b : SReg) (s : State),
    let i := s.rs b
    let w := ty.width
    (s.clear none (predReads c.pred ++ [.vec a, .scal b]) [.scal d] = true →
      (i < 2048 / w → activeAt (s.maskOf c) w i = true → exec (.vmovs c ty (.extract d a) b) s = .next (s.completes
        (s.result d (widenElem ty (rawAt ty (s.rv a) i)) 4) c.stall (predReads c.pred ++ [.vec a, .scal b])))
      ∧ (2048 / w ≤ i → exec (.vmovs c ty (.extract d a) b) s = .next (s.completes (s.result d 0 4) c.stall (predReads c.pred ++ [.vec a, .scal b]))))
    ∧ (s.clear none (predReads c.pred ++ [.scal d, .scal b]) [.vec a] = true →
      (i < 2048 / w → activeAt (s.maskOf c) w i = true → exec (.vmovs c ty (.insert a d) b) s = .next (s.completes
        (s.putV s.ic s.ik a ((2 ^ w - 1) * 2 ^ (i * w)) (s.rs d % 2 ^ w * 2 ^ (i * w)) 4 true) c.stall (predReads c.pred ++ [.scal d, .scal b])))
      ∧ (2048 / w ≤ i → exec (.vmovs c ty (.insert a d) b) s = .next (s.completes s c.stall (predReads c.pred ++ [.scal d, .scal b])))))

/-- A mask instruction writes its result in the bits that its predicate mask selects and keeps the others of its destination; KPOPC and
KFIRST count among the selected bits and write a whole register (R369). -/
def Obligations.MaskInstructions : Prop :=
  ∀ (c : Ctl) (d a b x : SReg) (ty : Ty) (sh : ShReg) (imm : BitVec 48) (s : State),
    let sel := s.maskOf c
    let reads (l : List Dest) : List Dest := predReads c.pred ++ l ++ [.scal d]
    let out (l : List Dest) (v : Nat) : State := s.completes (s.result d ((v &&& sel) ||| (s.rs d &&& (2 ^ 64 - 1 - sel))) 1) c.stall (reads l)
    (s.clear none (reads [.scal a, .scal b]) [.scal d] = true →
      exec (.kand c d a b) s = .next (out [.scal a, .scal b] (s.rs a &&& s.rs b))
      ∧ exec (.kor c d a b) s = .next (out [.scal a, .scal b] (s.rs a ||| s.rs b))
      ∧ exec (.kxor c d a b) s = .next (out [.scal a, .scal b] (s.rs a ^^^ s.rs b)))
    ∧ (s.clear none (reads [.scal a]) [.scal d] = true →
      exec (.knot c d a) s = .next (out [.scal a] (2 ^ 64 - 1 - s.rs a)) ∧ exec (.kmov c d a) s = .next (out [.scal a] (s.rs a)))
    ∧ (s.clear none (predReads c.pred ++ [.scal a]) [.scal d] = true →
      exec (.kpopc c d a) s = .next (s.completes
        (s.result d ((List.range 64).filter fun i => (s.rs a &&& sel).testBit i).length 1) c.stall (predReads c.pred ++ [.scal a]))
      ∧ ∃ n, exec (.kfirst c d a) s = .next (s.completes (s.result d n 1) c.stall (predReads c.pred ++ [.scal a]))
        ∧ ((s.rs a &&& sel) % 2 ^ 64 = 0 → n = 64) ∧ ((s.rs a &&& sel) % 2 ^ 64 ≠ 0 → n < 64 ∧ (s.rs a &&& sel).testBit n = true ∧ ∀ j < n, (s.rs a &&& sel).testBit j = false))
    ∧ (s.clear none (reads []) [.scal d] = true → exec (.kset c d (.imm imm)) s = .next (out [] (sext64 48 imm.toNat)))
    ∧ (shapeUse s.ic (s.grant sh) [0] = true → s.clear none (reads ([.scal a, .shape sh] ++ extReads x)) [.scal d] = true →
      exec (.kset c d (.extent ty a sh x)) s = .next (out ([.scal a, .shape sh] ++ extReads x)
        (groupsBelow (max 1 (32 / ty.width)) (min (s.rs a) (s.extent sh ty.width x)))))

/-! ### Matrix and factorisation (R370 to R404) -/

/-- A matrix instruction whose checks pass and whose staging succeeds puts its command, with its operands, extent and modifiers, in a free slot
of the matrix inbox, and the context goes on, or waits where the policy core emulates the command. Without a barrier, with aligned operands,
free guards and a free slot, the staging succeeds on a kettle core (R142, R240, R241, R371 to R388).
A factorisation with a shape of its kind, within its limits on M and N, puts its command with the extent and the pivot threshold in a free
slot of the matrix inbox, and the context goes on (R240, R392 to R395, R398 to R403). -/
def Obligations.MatrixCommandsAreQueued : Prop :=
  ((∀ (i : Instr) (p : MatSpec) (s u : State), matSpec i = some p → p.resv s = false →
    (∀ sh ks, p.sh = some (sh, ks) → shapeUse s.ic (s.grant sh) ks = true) → p.tooWide s = false →
    let reads := mReads p.x (p.sh.map Prod.fst) p.more
    s.clear p.ctl.pred reads [] = true →
    (p.body s = .ok u → exec i s = .next (s.completes u p.ctl.stall reads))
    ∧ (∀ w, p.body s = .hold u w → exec i s = .next (s.waits u p.ctl.stall reads w))
    ∧ (p.body s = .ok u ∨ (∃ w, p.body s = .hold u w) → ∃ slot m, slot < 8 ∧ SMap.find? (s.apart s.ic).inbox slot = none
      ∧ SMap.find? (u.apart s.ic).inbox slot = some m ∧ m.instr = i ∧ m.mods = s.mods ∧ m.ctl.ctx = s.ik ∧ m.st = 0 ∧ m.rows = 0 ∧ m.follow = none))
  ∧ (∀ (c : Ctl) (ty : Ty) (n iacc : Bool) (d e : TReg) (f g : CReg) (dt st : TileReg) (a b r : SReg) (x y : MatOp) (sh : ShReg) (m : MCtl) (s : State),
    let ext := s.mExtent sh m.x
    m.bar = 0 → (∃ slot < 8, SMap.find? (s.apart s.ic).inbox slot = none) → s.guardCount s.ic ≤ 6 → isCellar s.ic = false →
    ∀ q ∈ [(Instr.tld c ty n d a sh m, [moveOp s ty n a sh m true]), (.tst c ty n a d sh m, [moveOp s ty n a sh m false]), (.tzero c d m, []),
        (.tmov c dt st m, []), (.ttr c ty d e sh m, []), (.cld c ty f a sh m, [accOp s a sh m true]), (.cst c ty a f sh m, [accOp s a sh m false]),
        (.czero c f m, []), (.ccvt c ty iacc d g sh m, []),
        (.mpbl c d a m, [{ isB := false, base := a, str := 0, rows := 1, bytes := 576, es := 1, src := true, algn := 64 }]),
        (.mma c (.ty ty) iacc f x y sh m, prodMem false x m.sa ext.1 (packedBytes ty ext.2.2.1) (elemSize ty)
          ++ prodMem true y m.sb ext.2.1 (packedBytes ty ext.2.2.1) (elemSize ty)),
        (.mmam c (.ty ty) iacc f x y sh m, prodMem false x m.sa ext.1 (packedBytes ty ext.2.2.1) (elemSize ty)
          ++ prodMem true y m.sb ext.2.1 (packedBytes ty ext.2.2.1) (elemSize ty)),
        (.mmas c ty iacc f x y sh m, prodMem false x m.sa ext.1 (packedBytes ty ext.2.2.1) 1
          ++ prodMem true y m.sb ext.2.1 (rowBytes ty m.sp.toNat ext.2.2.1) 1)],
      s.memMisaligned q.2 = none → s.memBeyond q.2 = none → ∃ p u, matSpec q.1 = some p ∧ p.body s = .ok u)
  ∧ (∀ (c : Ctl) (a b r : SReg) (m : MCtl) (s : State) (ty : Ty), m.bar = 0 → (∃ slot < 8, SMap.find? (s.apart s.ic).inbox slot = none) →
    s.guardCount s.ic ≤ 6 → isCellar s.ic = false → s.rs r % 2 ^ 32 ≠ 0 → s.rs b + packedBytes ty (s.rs r % 2 ^ 32) ≤ 2 ^ 20 →
    s.rs a + packedBytes ty (s.rs r % 2 ^ 32) ≤ 2 ^ 20 → (∀ bank < nbanks s.ic, bfrTy (s.bfrOf s.ic (s.core s.ic).active bank) = some ty) →
    (∀ bank < nbanks s.ic, s.bfrOf s.ic (s.core s.ic).active bank = s.bfrOf s.ic (s.core s.ic).active 0) →
    ∃ p u, matSpec (.bcpy c a b r m) = some p ∧ p.body s = .ok u))
  ∧ (∀ (c : Ctl) (d a b : CReg) (qt right up unit tr inv : Bool) (sh : ShReg) (m : MCtl) (s : State),
    let e := s.mExtent sh m.x
    let reads := mReads m (some sh) []
    s.clear c.pred reads [] = true → shapeUse s.ic (s.grant sh) [3] = true → bits (s.grant sh) 51 48 = 11 → m.bar = 0 →
    (∃ slot < 8, SMap.find? (s.apart s.ic).inbox slot = none) → s.guardCount s.ic ≤ 8 →
    (∀ i ∈ [Instr.mlu c d sh m, .mqapp c qt right d a b sh m, .mtrs c right up unit tr d a sh m, .mperm c inv d a sh m, .mchol c d sh m, .mqr c d a sh m],
      (i = .mchol c d sh m → e.1 = e.2.1) → (i = .mqr c d a sh m → e.2.1 ≤ e.1) →
      ∃ u slot x, exec i s = .next (s.completes u c.stall reads) ∧ slot < 8 ∧ SMap.find? (s.apart s.ic).inbox slot = none
        ∧ SMap.find? (u.apart s.ic).inbox slot = some x ∧ x.instr = i ∧ x.m = e.1 ∧ x.n = e.2.1 ∧ x.k = e.2.2.1 ∧ x.rk = e.2.2.2
        ∧ x.arg = s.wsRead s.ic s.ik 0x278 4 ∧ x.st = 0 ∧ x.ctl.ctx = s.ik)
    ∧ (e.1 ≠ e.2.1 → exec (.mchol c d sh m) s = .next (s.traps reads .shape (shapeInfo sh)))
    ∧ (e.1 < e.2.1 → exec (.mqr c d a sh m) s = .next (s.traps reads .shape (shapeInfo sh))))

/-- BFMT writes the format of a bank that the core has, BFMT.RD reads it, and MFST reads the permutation, the growth and the status at once where the
array has no command, and otherwise is queued behind its commands while its context goes on and its result is on its way; a bank that the core has not traps with RESERVED_CODE (R180, R387, R404). -/
def Obligations.BankFormatsAndFactorResults : Prop :=
  (∀ (c : Ctl) (a d : SReg) (bank : BitVec 4) (s : State),
    let v := s.rs a % 2 ^ 24
    let per := bankSize s.ic * 8 / (tyOfNat (v % 16)).width
    (s.clear c.pred [.scal a] [] = true → bank.toNat < nbanks s.ic → v % 16 ≠ 14 → bits v 7 4 < 3 →
      (bfrGroup v = 0 ∨ bits v 23 8 * 64 + 2 * ((per + bfrGroup v - 1) / bfrGroup v) ≤ spadSize s.ic) →
      exec (.bfmt c a bank) s = .next (s.completes (s.modApart s.ic fun p => { p with bfr := SMap.put p.bfr bank.toNat v }) c.stall [.scal a]))
    ∧ (s.clear c.pred [] [.scal d] = true → bank.toNat < nbanks s.ic →
      exec (.bfmtRd c d bank) s = .next (s.completes (s.later d (s.bfrOf s.ic (s.core s.ic).active bank.toNat) 1) c.stall []))
    ∧ (s.clear c.pred [.scal a] [] = true → nbanks s.ic ≤ bank.toNat → exec (.bfmt c a bank) s = .next (s.traps [.scal a] .reservedCode s.issue.slot))
    ∧ (s.clear c.pred [] [.scal d] = true → nbanks s.ic ≤ bank.toNat → exec (.bfmtRd c d bank) s = .next (s.traps [] .reservedCode s.issue.slot)))
  ∧ (∀ (c : Ctl) (d : SReg) (v : VReg) (s : State), (s.apart s.ic).inbox = [] →
    (s.clear c.pred [] [.vec v] = true → exec (.mfstPerm c v) s = .next (s.completes
      (s.putV s.ic s.ik v (2 ^ 512 - 1) ((List.range 64).foldl (fun n i => n + SMap.get 0 (s.apart s.ic).perm i * 2 ^ (8 * i)) 0) 1 false) c.stall []))
    ∧ (s.clear c.pred [] [.scal d] = true → exec (.mfstGrow c d) s = .next (s.completes (s.later d (s.apart s.ic).grow 1) c.stall [])
      ∧ exec (.mfstStat c d) s = .next (s.completes (s.later d (s.apart s.ic).fstat 1) c.stall [])))
  ∧ (∀ (c : Ctl) (d : SReg) (v : VReg) (s : State), (s.apart s.ic).inbox ≠ [] → (∃ slot < 8, SMap.find? (s.apart s.ic).inbox slot = none) →
    s.guardCount s.ic ≤ 8 → s.firingOf s.ic s.ik ≠ 0 → ∀ x ∈ [(Instr.mfstPerm c v, Dest.vec v), (.mfstGrow c d, .scal d), (.mfstStat c d, .scal d)], s.clear c.pred [] [x.2] = true →
      ∃ u slot m, exec x.1 s = .next (s.completes u c.stall []) ∧ slot < 8 ∧ SMap.find? (s.apart s.ic).inbox slot = none
        ∧ SMap.find? (u.apart s.ic).inbox slot = some m ∧ m.instr = x.1 ∧ x.2 ∈ u.lateDests s.ic s.ik)

/-- The head command of a core's array, once its ACQ and power conditions hold and its barrier can be reached: each step leaves its progress with ST 1, as
its first wait for an answer does, its end takes it off the
inbox with its status and arrival, and a page in flash leaves it waiting with ST 3; a command that the policy core emulates runs there
(R142, R240, R376, R389, R390, R396). A row that it reads and that is uncorrectable ends it with that status (R155). TZERO, CZERO and TMOV end in one step (R381).
One block of a product: every element of the band that the mask does not skip gets the exact sum of its products added with one rounding,
and every other element of the accumulator keeps its bits (R261, R262, R382). -/
def Obligations.ArrayRunsItsHeadCommand : Prop :=
  ((∀ (core slot : Nat) (m : MCmd) (s : State), s.matHead core = some (slot, m) → m.follow = none →
    s.acqReady core m.ctl = true → s.engineOn core = true → s.barNeeds core (matWho slot) m.ctl false = none →
    let next (t : State) (n : MCmd) : State := ((t.engClear core (matWho slot)).mendRows core m false).setMat core slot { n with st := 1 }
    ((∀ e ∈ s.matReads core m, (s.apart core).badRows.contains e = false) → m.failed = none →
      (∀ t n, (m.emul = false → s.matStep core slot m = some (.more t n) → exec (.matrixCommandRun core) s = .next (next t n))
        ∧ (m.emul = true → s.matStep core slot m = some (.more t n) → exec (.cellarEmulation core) s = .next (next t n))
        ∧ (m.emul = false → s.facStep core slot m = some (.more t n) → exec (.factorisationRun core) s = .next (next t n)))
      ∧ (∀ t n st, let u := t.mendRows core m st.isNone
        u.relShut n.ctl = false →
        (m.emul = false → s.matStep core slot m = some (.fin t n st) → exec (.matrixCommandRun core) s = .next (u.endMat core slot n st))
        ∧ (m.emul = true → s.matStep core slot m = some (.fin t n st) → exec (.cellarEmulation core) s = .next (u.endMat core slot n st))
        ∧ (m.emul = false → s.facStep core slot m = some (.fin t n st) → exec (.factorisationRun core) s = .next (u.endMat core slot n st)))
      ∧ (m.emul = false → s.matStep core slot m = some (.wait none) → m.st ≠ 1 → s.pagePending core (matWho slot) = false →
        exec (.matrixCommandRun core) s = .next (s.setMat core slot { m with st := 1 }))
      ∧ (∀ t, s.matStep core slot m = some (.wait (some t)) → t.pageAsked (matWho slot) s.nextMsg = true →
        exec (.matrixPageInWait core) s = .next (s.pageMat core t)))
    ∧ (∀ r step, m.failed = none → (s.matReads core m).find? (fun e => (s.apart core).badRows.contains e) = some r → s.matStep core slot m = some step →
      m.emul = false → (s.mendRows core m false).relShut m.ctl = false →
      exec (.matrixCommandRun core) s = .next ((s.mendRows core m false).endMat core slot m (some (0x0F, 1, r.2)))))
  ∧ (∀ (c : Ctl) (d a : TReg) (f g : CReg) (x : MCtl) (core slot : Nat) (m : MCmd) (s : State),
    (m.instr = .tzero c d x → s.matStep core slot m = some (.fin (s.setTile core d.toNat 0) m none))
    ∧ (m.instr = .czero c f x → s.matStep core slot m = some (.fin (s.setAcc core f.toNat 0) m none))
    ∧ (m.instr = .tmov c (.t d) (.t a) x → s.matStep core slot m = some (.fin (s.setTile core d.toNat (s.tile core a.toNat)) m none))
    ∧ (m.instr = .tmov c (.c f) (.c g) x → s.matStep core slot m = some (.fin (s.setAcc core f.toNat (s.acc core g.toNat)) m none))))
  ∧ (∀ (core : Nat) (iacc sat : Bool) (skip : Nat → Nat → Bool) (i0 k0 v : Nat) (as bs : List (List XR)),
    i0 + as.length ≤ frameRows core → 4 * bs.length ≤ accBytes core →
    let w := bandBlock core iacc sat skip (fun _ _ => true) i0 k0 (as.map fun r => r.map some) (bs.map fun r => r.map some) v
    (∀ i j a b, as[i]? = some a → bs[j]? = some b → a ≠ [] → a.length = b.length → skip (i0 + i) j = false →
      accElem core w (i0 + i) j = accAdd iacc sat (accElem core v (i0 + i) j) ((List.zipWith XR.mul a b).tail.foldl XR.add ((List.zipWith XR.mul a b).headD XR.zero)))
    ∧ (∀ i j, i < frameRows core → 4 * j < accBytes core → i < i0 ∨ i0 + as.length ≤ i ∨ bs.length ≤ j ∨ skip i j = true →
      accElem core w i j = accElem core v i j))/-! ### Copy and grammar engines (R199, R204 to R207, R405 to R420) -/

/-- CPY, CPYF and CSRG put their command in their channel where the descriptor, the addresses, the channel and the guards allow it; a reserved
descriptor traps with RESERVED_CODE. A copy without a barrier from aligned memory to aligned memory is always staged in a free channel, and so is a CSRG
with aligned addresses whose destinations lie in untyped banks of the scratchpad. CPYF without a matrix command behind it traps whatever its predicate. CPYF takes the next slot's matrix command
with it as one instruction, which starts when the copy has landed (R240, R409 to R413).
WMARK.ARM arms a range of the scratchpad on a free channel, or traps with PROT beyond it; WMARK.ADV moves an armed watermark up, never beyond
its end, where it is cleared; WMARK.CLR clears it, and WMARK.RD gives it with its armed bit (R204, R414).
LAUT sends its function, operands and result request to its engine as an active message; without a result register the context goes on,
otherwise it waits for the result word (R407, R415). -/
def Obligations.CopiesAreQueued : Prop :=
  (((∀ (c : Ctl) (a : VReg) (e : ECtl) (s : State), s.clear c.pred (copyReads a e) [] = true →
    let v := s.rv a
    (s.copyResv v = true → exec (.cpy c a e) s = .next (s.traps (copyReads a e) .reservedCode s.issue.slot))
    ∧ (∀ u, s.copyResv v = false → s.copyStage v e = .inl u → exec (.cpy c a e) s = .next (s.completes u c.stall (copyReads a e))
      ∧ (e.bar = 0 → ∃ m, SMap.find? (u.apart s.ic).chans e.ch.toNat = some m ∧ m.kind = 0 ∧ m.src = bits (vWord v 0) 55 0 ∧ m.dst = bits (vWord v 1) 55 0
        ∧ m.total = bits (vWord v 2) 15 0 * bits (vWord v 2) 31 16 * bits (vWord v 2) 47 32 ∧ m.done = 0 ∧ m.ended = false ∧ m.ctl.ctx = s.ik)))
  ∧ (∀ (v : Nat) (e : ECtl) (s : State), e.bar = 0 → s.chanFree s.ic e.ch.toNat = true → s.guardCount s.ic ≤ 8 → bits (vWord v 2) 51 48 < 14 →
    bits (vWord v 0) 55 0 % 8 = 0 → bits (vWord v 1) 55 0 % 8 = 0 → bits (vWord v 1) 55 0 < 0xFD000000000000 →
    (∀ r ∈ copyDims v, 0 ≤ r.2 ∧ r.2 < 2 ^ 16) → bits (vWord v 0) 55 0 < 0xFC000000000000 → ∃ u, s.copyStage v e = .inl u)
  ∧ (∀ (c : Ctl) (a : VReg) (e : ECtl) (p : MatSpec) (s u w : State),
    let t : State := { s with issue := { s.issue with len := 2 } }
    let reads := copyReads a e ++ mReads p.x (p.sh.map Prod.fst) p.more
    s.followOn = some p → t.clear c.pred reads [] = true → t.copyResv (t.rv a) = false → p.resv t = false →
    (∀ sh ks, p.sh = some (sh, ks) → shapeUse t.ic (t.grant sh) ks = true) → p.tooWide t = false → t.copyStage (t.rv a) e = .inl u →
    p.body u = .ok w → exec (.cpyf c a e) s = .next (t.completes (w.linkFollow w.ic e.ch.toNat (u.apart u.ic).seq) c.stall reads))
  ∧ (∀ (c : Ctl) (a : VReg) (e : ECtl) (s : State), s.followOn = none → s.clear none [] [] = true →
    exec (.cpyf c a e) s = .next (s.traps [] .reservedCode s.issue.slot))
  ∧ (∀ (c : Ctl) (d : SReg) (a : VReg) (e : ECtl) (s : State), s.clear c.pred (copyReads a e) [.scal d] = true →
    (csrDescBad (s.rv a) = true → exec (.csrg c d a e) s = .next (s.traps (copyReads a e) .reservedCode s.issue.slot))
    ∧ (∀ u, csrDescBad (s.rv a) = false → s.csrStage (s.rv a) d e = .ok u → exec (.csrg c d a e) s = .next (s.completes u c.stall (copyReads a e))
      ∧ (e.bar = 0 → ∃ m, SMap.find? (u.apart s.ic).chans e.ch.toNat = some m ∧ m.kind = 1 ∧ m.src = bits (vWord (s.rv a) 0) 55 0
        ∧ m.cap = bits (vWord (s.rv a) 5) 31 0 ∧ m.first = 0)))
  ∧ (∀ (v : Nat) (d : SReg) (e : ECtl) (s : State),
    let lo (i : Nat) : Nat := bits (vWord v 4) (20 * i + 19) (20 * i)
    let cap := bits (vWord v 5) 31 0
    e.bar = 0 → s.chanFree s.ic e.ch.toNat = true → s.chanFree s.ic e.ch2.toNat = true → s.guardCount s.ic ≤ 5 →
    (∀ bank, bfrTy (s.bfrOf s.ic (s.core s.ic).active bank) = none) → (∀ i < 3, bits (vWord v i) 55 0 % 8 = 0) → lo 0 % 4 = 0 → lo 1 % 8 = 0 →
    lo 0 + 4 * cap ≤ spadSize s.ic → lo 1 + packedBytes (tyOfNat (bits (vWord v 4) 43 40)) cap ≤ spadSize s.ic → ∃ u, s.csrStage v d e = .ok u))
  ∧ (∀ (c : Ctl) (d a b : SReg) (ch : BitVec 4) (s : State),
    let lo := s.rs a % 2 ^ 20
    let hi := s.rs b % 2 ^ 20
    let set (m : Mark) : State := s.modApart s.ic fun p => { p with marks := SMap.put p.marks ch.toNat m }
    (s.clear c.pred [.scal a, .scal b] [] = true →
      (lo < spadSize s.ic → hi ≤ spadSize s.ic → s.chanBusy s.ic ch.toNat = false →
        exec (.wmarkArm c a b ch) s = .next (s.completes (set { act := decide (lo < hi), lo := lo, hi := hi, wm := lo }) c.stall [.scal a, .scal b]))
      ∧ (spadSize s.ic ≤ lo ∨ spadSize s.ic < hi → exec (.wmarkArm c a b ch) s = .next (s.traps [.scal a, .scal b] .prot (s.rs a))))
    ∧ (s.clear c.pred [.scal a] [] = true → s.chanBusy s.ic ch.toNat = false →
      ∀ k, SMap.find? (s.apart s.ic).marks ch.toNat = some k → k.act = true →
        let wm := min k.hi (max k.wm lo)
        exec (.wmarkAdv c a ch) s = .next (s.completes (set { k with wm := wm, act := decide (wm < k.hi) }) c.stall [.scal a]))
    ∧ (s.clear c.pred [] [] = true → s.chanBusy s.ic ch.toNat = false → ∀ k, SMap.find? (s.apart s.ic).marks ch.toNat = some k →
      exec (.wmarkClr c ch) s = .next (s.completes (set { k with act := false }) c.stall []))
    ∧ (s.clear c.pred [] [.scal d] = true → ∀ k, SMap.find? (s.apart s.ic).marks ch.toNat = some k →
      exec (.wmarkRd c d ch) s = .next (s.completes (s.later d (k.wm % 2 ^ 20 + if k.act then 2 ^ 63 else 0) 1) c.stall []))))
  ∧ (∀ (c : Ctl) (ty : Ty) (d a b : SReg) (e : ECtl) (s : State), e.bar = 0 → s.signalHeld = false → s.countFull s.ic (s.partOf s.ic s.ik) = false →
    (s.ctx s.ic s.ik).asid < 16 → s.replaying (coreOfEp (epCore s.ic)) = false → s.clear c.pred (lautReads a b e) [.scal d] = true →
    ∀ x ∈ [(Instr.lautLoad c d a b e, 0, s.rs a), (.lautReset c d a b e, 1, s.rs a), (.lautMask c ty d a b e, 2, toMesh s.ic (s.rs a)),
      (.lautAdv c d a b e, 3, s.rs a)],
      ∃ u m, exec x.1 s = .next (if d = 0 then s.completes u c.stall (lautReads a b e)
          else s.waits u c.stall (lautReads a b e) (.reply [{ id := s.nextMsg, off := 0, len := 8, nib := 0 }] 0 (.scal d .i64) false []))
        ∧ m ∈ u.net ∧ m.op = 0x26 ∧ m.arg = 3 ∧ m.src = epCore s.ic ∧ m.dst = epLauter e.eng.toNat ∧ m.ctx = s.ik
        ∧ m.data.take 16 = toBytes 8 x.2.2 ++ toBytes 8 (s.rs b) ∧ ofBytes (m.data.drop 16 |>.take 8) / 2 ^ 16 % 16 = x.2.1)

/-- A copy channel lands its next granule and moves its watermark, and ends with its status, arrival and release; a stream channel moves one
element; an access held by a watermark is performed once it passes; a grammar engine runs its oldest command and answers (R204 to R206, R240,
R408, R410, R412, R415, R418, R419). -/
def Obligations.CopyAndGrammarEnginesRun : Prop :=
  (∀ (core ch n : Nat) (m : CCmd) (s t : State) (rep : List (Nat × Nat)), s.chan core ch = some m → m.kind = 0 → m.ended = false → m.failed = none →
    s.acqReady core m.ctl = true → s.engineOn core = true → s.barNeeds core (chanWho ch) m.ctl false = none → spadOf core m.dst 1 = none →
    s.granule core (chanWho ch) m.ctl (patternView m) m.dst m.dbfr m.rm m.done = .ok t n rep →
    exec (.copyBeat core ch) s = .next ((t.landBeat core ch m n rep (decide (m.total ≤ n))).modApart core fun p => { p with turn := (ch + 1) % 16 }))
  ∧ (∀ (core ch : Nat) (m : CCmd) (s : State), s.chan core ch = some m → m.kind = 0 → m.ended = true → m.failed = none →
    s.relShut m.ctl = false → s.engineOn core = true → s.barNeeds core (chanWho ch) m.ctl false = none → exec (.copyComplete core ch) s = .next ((((((s.engRelease m.ctl).engineLanded core m.ctl m.beats).engineArrive core m.ctl).clearMark
      core ch true).releaseFollow core ch none).dropChan core ch))
  ∧ (∀ (core ch raw : Nat) (m : CCmd) (s t : State), s.chan core ch = some m → m.kind = 2 → m.portb = false → m.ended = false →
    s.engineOn core = true →
    let w := (copyTy m).width
    (m.out = false → m.head < m.total → m.head - m.tailc < ringCap m → s.rawElem core (chanWho ch) m.ctl (patternView m) m.head = .ok t raw →
      exec (.streamChannelBeat core ch) s
        = .next (((t.engClear core (chanWho ch)).setSpadBits core (m.ring * 8 + m.head % ringCap m * w) w raw).setChan core ch { m with head := m.head + 1 }))
    ∧ (m.out = true → m.tailc < m.head → w ≠ 4 →
      s.engWrite core (chanWho ch) m.ctl (affineAddr m m.tailc) (w / 8) (s.spadBits core (m.ring * 8 + m.tailc % ringCap m * w) w) = .ok t raw →
      exec (.streamChannelBeat core ch) s = .next ((t.engClear core (chanWho ch)).setChan core ch { m with tailc := m.tailc + 1 })))
  ∧ (∀ (core ch : Nat) (m : Msg) (s t : State), s.heldAccess core ch = some m → s.deliver m = some t →
    exec (.watermarkRelease core ch) s = .next t)
  ∧ (∀ (die word : Nat) (l : LCmd) (rest : List LCmd) (e : Lauter) (bad : Option (Nat × Nat)) (s t : State),
    let e0 := SMap.get {} s.lauters die
    let c := coreOfEp l.src
    s.lautOn die = true → e0.inbox = l :: rest → s.acqReady c l.ctl = true → l.failed = none →
    s.barNeeds c (300 + die) l.ctl false = none →
    (l.fn = 0 ∧ s.lautLoad e0 die c l = .done t e word bad) ∨ (l.fn = 1 ∧ lautReset s e0 l = .done t e word bad)
      ∨ (l.fn = 2 ∧ s.lautMask e0 die c l = .done t e word bad) ∨ (l.fn = 3 ∧ s.lautAdv e0 die c l = .done t e word bad) →
    t.relShut l.ctl = false → exec (.lauterCommandRun die) s = .next (t.lautEnd die e l rest word bad))
  ∧ (∀ (l : LCmd) (e : Lauter) (g : Grammar) (s : State), SMap.find? e.slots l.b = some g → l.b < 8 → g.part = l.ctl.part → l.a < 256 →
    (∀ a, SMap.find? e.insts l.a = some a → a.part = l.ctl.part) →
    lautReset s e l = .done s { e with insts := SMap.put e.insts l.a { slot := l.b, part := l.ctl.part, state := g.start, stack := [] } }
      (g.start * 2 ^ 37) none)

/-! ### Actors (R96 to R117, R421 to R429) -/

/-- SPAWN of a misaligned descriptor, or of one that fails a check, adds an error and gives 0; of a descriptor that passes its checks it creates the actor in the spawner's
partition and launch, with its counter and argument, places it and gives its handle (R100, R103, R105, R111, R422). -/
def Obligations.SpawnCreatesAnActor : Prop :=
  (∀ (c : Ctl) (d a b r : SReg) (s : State), s.clear c.pred [.scal a, .scal b, .scal r] [.scal d] = true → s.signalHeld = false →
    let reads : List Dest := [.scal a, .scal b, .scal r]
    let da := s.rs a
    let p := s.partOf s.ic s.ik
    let lid := s.lidOf s.ic s.ik
    (da % 64 ≠ 0 ∨ 2 ^ 56 ≤ da → exec (.spawn c d a b r) s = .next (s.completes ((s.addError lid).putVar s.ic s.ik d 0 1) c.stall reads))
    ∧ (∀ desc h u, da % 64 = 0 → da < 2 ^ 56 → s.flashPage p [da] = none → s.anyShut p [da] = false → s.partRead p da 64 = some desc →
      s.flashPage p ([dEntry desc, dPorts desc, dShapes desc, dPitch desc].filter fun x => x != 0) = none →
      s.anyShut p [dEntry desc, dPorts desc, dShapes desc, dPitch desc] = false →
      let target := if dStream desc && dNin desc != 0 then s.childCore s.ic p desc else none
      let cellar := match target with | some x => isCellar x | none => if dClass desc = 2 then isCellar s.ic else dClass desc == 1
      (s.descBad p desc = true ∨ descFits desc cellar = false ∨ (dStream desc = true ∧ s.rs b % 2 ^ 32 ≠ 0) →
        exec (.spawn c d a b r) s = .next (s.completes ((s.addError lid).putVar s.ic s.ik d 0 1) c.stall reads))
      ∧ (s.descBad p desc = false → descFits desc cellar = true → (dStream desc = true → s.rs b % 2 ^ 32 = 0) →
        (s.readsMarked p (descReads da desc)).createActor p lid da desc (coreDie s.ic) (s.rs b % 2 ^ 32) (s.rs r) = some (h, u) →
        exec (.spawn c d a b r) s
          = .next (s.completes ((u.placeChild s.ic h desc (s.rs b % 2 ^ 32) target).putVar s.ic s.ik d h 1) c.stall reads))))
  ∧ (∀ (p lid da desc die counter arg h : Nat) (s u : State), die ≤ 4 → p < 16 → (∀ e ∈ s.dirs, e.2.gen < 2 ^ 24) → dStream desc = false →
    counter < 2 ^ 32 → SMap.find? s.launches lid = none →
    s.createActor p lid da desc die counter arg = some (h, u) →
    (u.keep h).arg = arg ∧ (u.keep h).lid = lid ∧ (u.keep h).desc = desc ∧ (u.keep h).word0 = counter * 2 ^ 32 + dPrio desc * 16
    ∧ bits h 59 57 = die ∧ bits h 63 60 = p ∧ ∃ e, SMap.find? u.dirs (handleKey h) = some e ∧ e.loc = 1 ∧ e.part = p ∧ e.lid = lid)

/-- DECR by 0 does nothing, DECR sends a dependence decrement and DECR.W waits for its acknowledgement; RETIRE ends the firing once its
streams have drained, and YIELD puts it back at the tail of its level (R98, R108, R117, R423 to R425).
PITCH raises a trigger of its level for a die with a target in a window, traps with PROT on a target elsewhere and with RESERVED_CODE on a
level or die that it cannot name; PORT commits tokens on an output port, takes their space, tells the consumer and moves the pointer to the next
slot of the consumer's FIFO (R57, R101, R107, R427, R429). -/
def Obligations.FiringsEndOrGoOn : Prop :=
  (∀ (c : Ctl) (wait : Bool) (a : SReg) (b : SrcB) (s : State),
    (s.clear c.pred (.scal a :: SrcBReads b) [] = true →
      let n := s.srcU b % 2 ^ 32
      let reads : List Dest := .scal a :: SrcBReads b
      let u := s.sendActor s.ic s.ik 0x28 (s.rs a) n
      (n = 0 → exec (.decr c wait a b) s = .next (s.completes s c.stall reads))
      ∧ (n ≠ 0 → s.signalHeld = false → wait = false → exec (.decr c wait a b) s = .next (s.completes u c.stall reads))
      ∧ (n ≠ 0 → s.signalHeld = false → wait = true → exec (.decr c wait a b) s = .next (s.waits u c.stall reads
        (.reply [{ id := s.nextMsg, off := 0, len := 0, nib := 0 }] 0 .none false []))))
    ∧ (s.clear c.pred [.scal a] [] = true → ([0, 1, 2, 3].all fun i => s.slotDrained s.ic s.ik i) = true →
      let u := s.leaving c.stall.toNat
      let exit := s.rs a != 0 || s.periodEnd (s.handleOf s.ic s.ik)
      s.creditsHeld exit = false → (exit = false → s.tableShut = false) →
      exec (.retire c a) s = .next (s.noted (([0, 1, 2, 3].foldl (fun t i => t.freeSlot s.ic s.ik i) (u.drain s.ic s.ik)).retireCtx s.ic s.ik
        exit) [.scal a]))
    ∧ (s.clear c.pred [] [] = true → exec (.yield c) s = .next ((s.leaving c.stall.toNat).preemptCtx s.ic s.ik)))
  ∧ ((∀ (c : Ctl) (level : BitVec 2) (die : BitVec 3) (a : SReg) (s : State), s.clear c.pred [.scal a] [] = true →
    let bad := level = 0 ∨ (level = 2 ∧ 3 < die.toNat) ∨ (level ≠ 2 ∧ die ≠ 0)
    let v := s.rs a
    (bad → exec (.pitch c level die a) s = .next (s.traps [.scal a] .reservedCode s.issue.slot))
    ∧ (¬bad → v / 2 ^ 48 ≠ 0xFD → v / 2 ^ 48 ≠ 0xFE → exec (.pitch c level die a) s = .next (s.traps [.scal a] .prot v))
    ∧ (¬bad → v / 2 ^ 48 = 0xFD ∨ v / 2 ^ 48 = 0xFE → exec (.pitch c level die a) s = .next (s.completes { s with power := { s.power with
        triggers := s.power.triggers ++ [{ level := level.toNat, die := die.toNat, rtgt := toMesh s.ic v, part := s.partOf s.ic s.ik, time := s.time
                                           already := false }] } } c.stall [.scal a])))
  ∧ (∀ (c : Ctl) (d : PReg) (port : BitVec 3) (cnt : PortArg) (s : State),
    let reg : SReg := ptrSpec d
    let reads : List Dest := .scal reg :: portReads cnt
    let h := s.handleOf s.ic s.ik
    let desc := (s.keep h).desc
    let j := port.toNat
    let e := s.portEntry (handlePart h) desc (dNin desc + j)
    let full := match cnt with | .reg r => s.rs r | .imm v => v.toNat
    let w := s.recWord h 1
    let space := bits w (14 + 7 * j) (8 + 7 * j)
    let pos := SMap.get 0 (s.keep h).pos (8 + j)
    let next := (pos + full) % max (peCap e) 1
    let v := s.rs reg
    s.clear c.pred reads [.scal reg] = true →
    (dNout desc ≤ j → exec (.port c d port cnt) s = .next (s.traps reads .prot j))
    ∧ (j < dNout desc → s.tableShut = false → full % 2 ^ 7 = 0 → exec (.port c d port cnt) s = .next (s.completes s c.stall reads))
    ∧ (j < dNout desc → s.tableShut = false → full % 2 ^ 7 ≠ 0 → peCap e < full % 2 ^ 7 ∨ 2 ^ 7 ≤ full → exec (.port c d port cnt) s = .next (s.traps reads .prot (full % 2 ^ 7)))
    ∧ (j < dNout desc → s.tableShut = false → full ≠ 0 → full < 2 ^ 7 → full ≤ peCap e → full ≤ space → s.signalHeld = false →
      s.countFull s.ic (s.partOf s.ic s.ik) = false → s.replaying (coreOfEp (epCore s.ic)) = false →
      ∃ t : State, exec (.port c d port cnt) s = .next (s.completes (t.putVar s.ic s.ik reg (v / 2 ^ 32 * 2 ^ 32 + (peFifo e + next * peTsz e) % 2 ^ 32) 1)
          c.stall reads)
        ∧ SMap.get 0 (t.keep h).pos (8 + j) = next
        ∧ ∃ m : Msg, m ∈ t.net ∧ m.op = 0x27 ∧ m.taddr = pePeer e ∧ m.arg = pePort e * 2 ^ 56 + full ∧ m.src = epCore s.ic)))

/-- COMPOSE ends with the status of the first rule it breaks, with 0 once the members are free, or waits for them within its timeout; DECOMP
gives the members back; a RACK, once what its checks read is no page in flash, that a rule refuses gives NOT_MOVED with its reason and stays, with its yield deadline counting afresh, another joins the racking engine's queue and
waits (R157, R158, R171, R243, R247, R426, R428). -/
def Obligations.CompositionAndRacking : Prop :=
  (∀ (c : Ctl) (d b : SReg) (code : BitVec 3) (s : State), s.clear c.pred [.scal b] [.scal d] = true →
    let n := code.toNat
    let u := s.freeze s.ic s.ik n
    (∀ st, s.composeStatus s.ic s.ik n = some st → exec (.compose c d code b) s = .next (s.completes (s.later d st 1) c.stall [.scal b]))
    ∧ (s.composeStatus s.ic s.ik n = none → u.composeReady s.ic s.ik n = true →
      exec (.compose c d code b) s = .next (s.completes ((u.composed s.ic s.ik n).putVar s.ic s.ik d 0 1) c.stall [.scal b]))
    ∧ (s.composeStatus s.ic s.ik n = none → u.composeReady s.ic s.ik n = false → s.rs b = 0 →
      exec (.compose c d code b) s = .next (s.completes ((u.unfreeze s.ic s.ik).putVar s.ic s.ik d 1 1) c.stall [.scal b]))
    ∧ (s.composeStatus s.ic s.ik n = none → u.composeReady s.ic s.ik n = false → s.rs b ≠ 0 →
      exec (.compose c d code b) s = .next (s.waits u c.stall [.scal b] (.compose n (s.rs b) (s.cycle s.ic) d))))
  ∧ (∀ (c : Ctl) (s : State), s.clear c.pred [] [] = true →
    (bit (s.csw s.ic s.ik) 3 = 0 → exec (.decomp c) s = .next (s.completes s c.stall []))
    ∧ (bit (s.csw s.ic s.ik) 3 ≠ 0 → let u := s.decompose s.ic s.ik
      exec (.decomp c) s = .next (s.completes (u.forceCsw s.ic s.ik (setBits (u.csw s.ic s.ik) 6 4 0)) c.stall [])))
  ∧ (∀ (c : Ctl) (d a b : SReg) (t : RackArg) (s : State), (s.keep (s.handleOf s.ic s.ik)).target = none →
    s.clear c.pred ([.scal a, .scal b] ++ rackReads t) [.scal d] = true →
    let tgt := match t with | .imm v => v.toNat | .reg r => s.rs r % 8
    let live := s.rs b % 2 ^ 12
    let reads := [.scal a, .scal b] ++ rackReads t
    s.power.dram = 0 ∨ (s.rs a = 0 ∧ dNin (s.keep (s.handleOf s.ic s.ik)).desc = 0) →
    let r := s.rackReason s.ic s.ik tgt (s.rs a) live
    let lines := s.rackLines s.ic s.ik (s.rs a) r
    let u := s.readsMarked (s.partOf s.ic s.ik) lines
    (∀ va ∈ lines, ∀ leaf blk size base, s.leafFor (s.partOf s.ic s.ik) va .read true ≠ .flash leaf blk size base) →
    (∀ reason, r = some reason → exec (.rack c d t a b) s = .next (s.completes
      ((u.putVar u.ic u.ik d (rackWord u.ic reason 7 false) 1).modCtx u.ic u.ik fun x => { x with start := none }) c.stall reads))
    ∧ (r = none → exec (.rack c d t a b) s = .next (s.waits
      { u with rackQueue := u.rackQueue ++ [{ handle := s.handleOf s.ic s.ik, part := u.partOf u.ic u.ik, core := u.ic, ctx := u.ik, target := tgt,
                                              cask := s.rs a, live := live, d := d, cmd := none }] } c.stall reads (.rack d))))

/-! ### System (R289 to R291, R430 to R435) -/

/-- MFS gives the value of a system register; MTS writes the bits of a register that are not reserved, a word of the workspace as a store to it does, where
no watermark or operand guard holds that back, the workspace pointer with every result written first and the marks of the new area in order, and ignores a
read-only register (R205, R233, R234, R241, R289, R291, R431). -/
def Obligations.SystemRegistersReadAndWrite : Prop :=
  (∀ (c : Ctl) (d : SReg) (num : BitVec 12) (s : State) (r : SysReg), sysReg num.toNat = some r → (r.super = true → s.priv s.ic s.ik = true) →
    s.clear c.pred [] [.scal d] = true → r ≠ .time →
    exec (.mfs c d num) s = .next (s.completes (s.result d (s.sysValue s.ic s.ik r) 1) c.stall []))
  ∧ (∀ (c : Ctl) (d : SReg) (s : State), s.clear c.pred [] [.scal d] = true →
    exec (.mfs c d 9) s = .next (s.completes ((s.logTime s.ic s.ik).putS s.ic s.ik d (s.timeAt s.ic % 2 ^ 64) 1) c.stall []))
  ∧ (∀ (c : Ctl) (num : BitVec 12) (a : SReg) (s : State) (r : SysReg), sysReg num.toNat = some r → (r.super = true → s.priv s.ic s.ik = true) →
    s.clear c.pred [.scal a] [] = true →
    let v := s.rs a
    let done (u : State) : Prop := exec (.mts c num a) s = .next (s.completes u c.stall [.scal a])
    let at_ (off : Nat) : Nat := (s.ctx s.ic s.ik).wptr + off
    let free (off : Nat) : Prop := s.marked s.ic (at_ off) 8 = false ∧ s.guarded s.ic (at_ off) 8 = false
    (∀ off mask, r = .word off mask → free off → done (s.spadStore s.ic (at_ off) 8 (v &&& mask)))
    ∧ (r = .csw → free 0x200 → done (s.spadStore s.ic (at_ 0x200) 8 (cswMerge (s.csw s.ic s.ik) v)))
    ∧ (∀ i, r = .rwin i → done (s.modApart s.ic fun p => { p with rwin := SMap.put p.rwin i (v &&& rwinMask) }))
    ∧ (r = .wptr → v % 64 = 0 → v + 4736 ≤ spadSize s.ic → done (((s.drain s.ic s.ik).modCtx s.ic s.ik fun x => { x with wptr := v }).openArea s.ic s.ik))
    ∧ (r = .wptr → v % 64 ≠ 0 ∨ spadSize s.ic < v + 4736 → exec (.mts c num a) s = .next (s.traps [.scal a] .prot v))
    ∧ (r = .asid → done (s.modCtx s.ic s.ik fun x => { x with asid := v % 16 }))
    ∧ (r = .island ∨ r = .time ∨ (∃ i, r = .mpr i) ∨ r = .groups → done s))

/-- MFS or MTS with a number that names no system register traps with RESERVED_CODE; to a supervisor register without CSW.PRIV it traps with
PRIV and the number, and so does TLBI with its operand (R291, R433). -/
def Obligations.PrivilegedRegistersTrap : Prop :=
  ∀ (c : Ctl) (d a : SReg) (num : BitVec 12) (s : State),
    (sysReg num.toNat = none →
      (s.clear c.pred [] [.scal d] = true → exec (.mfs c d num) s = .next (s.traps [] .reservedCode s.issue.slot))
      ∧ (s.clear c.pred [.scal a] [] = true → exec (.mts c num a) s = .next (s.traps [.scal a] .reservedCode s.issue.slot)))
    ∧ (num.toNat ∈ [0x010, 0x011, 0x012, 0x013, 0x014, 0x015, 0x016, 0x017, 0x020, 0x021] → s.priv s.ic s.ik = false →
      (s.clear c.pred [] [.scal d] = true → exec (.mfs c d num) s = .next (s.traps [] .priv num.toNat))
      ∧ (s.clear c.pred [.scal a] [] = true → exec (.mts c num a) s = .next (s.traps [.scal a] .priv num.toNat)))
    ∧ (s.priv s.ic s.ik = false →
      (s.clear c.pred [.scal a] [] = true → exec (.tlbiPage c a) s = .next (s.traps [.scal a] .priv (s.rs a)))
      ∧ (s.clear c.pred [] [] = true → exec (.tlbiAll c) s = .next (s.traps [] .priv 0)))

/-- CACHE acts on the cached line of its address in every core of the composition and on nothing where there is none, TLBI drops translations of
its partition in every core, PARK parks the context behind itself, and WFM ends at once where its word in
the own scratchpad differs, waits otherwise, and reads a word of cellar SRAM by a message; in the control window CACHE and WFM trap without
CSW.PRIV (R197, R217, R325, R432 to R435). -/
def Obligations.SystemInstructions : Prop :=
  (∀ (c : Ctl) (a : SReg) (disp : BitVec 48) (s : State), s.clear c.pred [.scal a] [] = true → ctlCheck (fun t => t.ea a 0 disp) s = none →
    let line := s.cachedLine s.ic s.ik (s.ea a 0 disp)
    let each (f : State → Nat → State) : State := s.completes ((s.cacheCores s.ic s.ik).foldl f s) c.stall [.scal a]
    let drop (l : Nat) (u : State) (m : Nat) : State := u.modCore m fun n => { n with l1 := SMap.del n.l1 l }
    (∀ l, line = some l →
      exec (.cacheIinv c a disp) s = .next (each fun u m => u.modCore m fun n => { n with icache := SMap.del n.icache l })
      ∧ exec (.cacheDwb c a disp) s = .next (each fun u m => u.writeOut m l)
      ∧ exec (.cacheDinv c a disp) s = .next (each fun u m => drop l (u.writeOut m l) m)
      ∧ exec (.cacheDwbinv c a disp) s = .next (each fun u m => drop l (u.writeOut m l) m))
    ∧ (line = none → ∀ i ∈ [Instr.cacheIinv c a disp, .cacheDwb c a disp, .cacheDinv c a disp, .cacheDwbinv c a disp],
      exec i s = .next (s.completes s c.stall [.scal a])))
  ∧ (∀ (c : Ctl) (a : SReg) (s : State),
    (s.clear c.pred [] [] = true → exec (.cacheIall c) s
      = .next (s.completes ((s.cacheCores s.ic s.ik).foldl (fun u m => u.modCore m fun n => { n with icache := [] }) s) c.stall []))
    ∧ (s.clear c.pred [] [] = true → s.priv s.ic s.ik = true → ∃ t, exec (.tlbiAll c) s = .next (s.completes t c.stall [])
      ∧ t.mem = s.mem ∧ t.ctxs = s.ctxs ∧ (∀ e ∈ t.cores, ∀ x ∈ e.2.tlb ++ e.2.utlb, x.part ≠ (s.ctx s.ic s.ik).asid)
      ∧ ∀ e ∈ t.stlb, ∀ x ∈ e.2, x.part ≠ (s.ctx s.ic s.ik).asid)
    ∧ (s.clear c.pred [.scal a] [] = true → s.priv s.ic s.ik = true → ∃ t, exec (.tlbiPage c a) s = .next (s.completes t c.stall [.scal a])
      ∧ t.mem = s.mem ∧ t.ctxs = s.ctxs
      ∧ (∀ e ∈ t.cores, ∀ x ∈ e.2.tlb ++ e.2.utlb, x.part = (s.ctx s.ic s.ik).asid → s.rs a < x.va ∨ x.va + x.size ≤ s.rs a)
      ∧ ∀ e ∈ t.stlb, ∀ x ∈ e.2, x.part = (s.ctx s.ic s.ik).asid → s.rs a < x.va ∨ x.va + x.size ≤ s.rs a)
    ∧ (s.clear c.pred [.scal a] [] = true → let u := s.leaving c.stall.toNat
      exec (.park c a) s = .next (s.noted (((u.drain s.ic s.ik).wsWrite s.ic s.ik 0x208 8 (s.afterPc s.ic s.ik)).parkCtx s.ic s.ik (s.rs a) 0) [.scal a])))
  ∧ (∀ (c : Ctl) (d a b r : SReg) (s u : State), let reads : List Dest := [.scal a, .scal b, .scal r]
    s.clear c.pred reads [.scal d] = true → ctlCheck (fun t => t.ea a 0 0) s = none → u.issue = s.issue →
    let ea := s.ea a 0 0
    let wait (key ask : Nat) : Wait := .wfm key (s.rs b) (s.rs r) (s.cycle s.ic) (s.cycle s.ic) d ask
    (∀ key, s.wfmPlace s.ic s.ik ea = .own key u →
      let v := Memory.readN u.mem key 8
      (v ≠ s.rs b → exec (.wfm c d a b r) s = .next (s.completes ((u.acquire s.ic).putVar s.ic s.ik d v 1) c.stall reads))
      ∧ (v = s.rs b → exec (.wfm c d a b r) s = .next (s.waits u c.stall reads (wait key 0))))
    ∧ (∀ pa, s.wfmPlace s.ic s.ik ea = .sram pa u →
      exec (.wfm c d a b r) s = .next (s.waits (u.wfmAsk s.ic s.ik pa (eaVal ea)) c.stall reads (wait pa u.nextMsg)))
    ∧ (∀ cause info, s.wfmPlace s.ic s.ik ea = .trap cause info → exec (.wfm c d a b r) s = .next (s.traps reads cause info)))
  ∧ (∀ (c : Ctl) (d a b r : SReg) (disp : BitVec 48) (cause : Cause) (info : Nat) (s : State), s.clear c.pred [.scal a] [] = true →
    ctlCheck (fun t => t.ea a 0 disp) s = some (cause, info) →
    (∀ i ∈ [Instr.cacheIinv c a disp, .cacheDwb c a disp, .cacheDinv c a disp, .cacheDwbinv c a disp], exec i s = .next (s.traps [.scal a] cause info))
    ∧ (s.clear c.pred [.scal a, .scal b, .scal r] [.scal d] = true → disp = 0 → exec (.wfm c d a b r) s = .next (s.traps [.scal a, .scal b, .scal r] cause info)))

/-! ### Messages (R20 to R28, R88, R107, R108, R122 to R130, R184, R185, R210) -/

/-- The oldest message of its triple, in focus, that reaches a line's home for a line of that home while the DRAM accepts accesses: a read gives
a lease, a write and an atomic are performed, a dirty line is written back, a barrier operation acts; at the wrong home it is refused for the
sender to resend (R22, R33, R187, R188, R210, R213).
A request that reaches an awake core for its active partition and passes its gate: a load answers the bytes, a store writes them and
is acknowledged where a window grants it and is refused otherwise, and bytes known to be bad answer with POISON; a deposit, an active message and a count act on their actor, and are refused
with EXITED where it has exited; a request that its gate parks or refuses is parked or refused (R28, R58, R104, R107, R108, R128 to R130, R147,
R183 to R185, R340). -/
def Obligations.HomesServeCoherentRequests : Prop :=
  (∀ (m : Msg) (s : State), s.focusMsg = some m → epOk m.dst = true → epIsCore m.dst = false → m.dpkg = s.fw.package → m.dst % 8 ≠ 6 →
    m.poison = false → m.ch = 0 → s.dramShut m.taddr = false →
    (s.wrongHome m = false →
      (m.op = 1 → exec .readWithLease s = .next ((s.take m).homeReadMsg m))
      ∧ (m.op = 2 → exec .writeThroughToHome s = .next ((s.take m).homeWriteMsg m))
      ∧ (m.op = 3 → m.size ≠ 0x1000 → exec .farAtomic s = .next ((s.take m).homeAtomicMsg m))
      ∧ (m.op = 4 → exec (.writeBack (m.taddr / 64)) s = .next ((s.take m).writeBackLine (m.taddr / 64)))
      ∧ (m.op = 3 → m.size = 0x1000 → exec (barEvent m) s = .next ((s.take m).barMsg m)))
    ∧ (s.wrongHome m = true → m.op = 1 → exec .readWithLease s
      = .next ((s.take m).send { m with src := m.dst, dst := m.src, ch := 1, op := 0x14, re := m.id })))
  ∧ (∀ (m : Msg) (s : State), s.focusMsg = some m → epOk m.dst = true → epIsCore m.dst = true → m.dpkg = s.fw.package →
    opOnChannel m.ch m.op = true → m.poison = false →
    let c := coreOfEp m.dst
    let off := m.taddr % 2 ^ 32
    let n := m.data.length
    let t := s.received c m
    s.forwardOf c m = none → s.dieAwake (coreDie c) = true →
    (∀ e ∈ [(0x21, Instr.remoteScratchpadLoad), (0x23, .remoteScratchpadStore), (0x25, .registerDeposit), (0x26, .activeMessage),
        (0x27, .portCountAdvance), (0x28, .dependenceDecrement)], m.op = e.1 →
      (s.gate c m = .park → exec e.2 s = .next ((s.take m).park m)) ∧ (∀ r, s.gate c m = .refuse r → exec e.2 s = .next (t.refuse m r)))
    ∧ (s.gate c m = .pass →
    (m.op = 0x21 → m.after ≤ s.now → s.marked c off m.size = false →
      (s.granted c off m.size false m = true → s.badSpad c off m.size = false →
        exec .remoteScratchpadLoad s = .next (t.answerMsg m 0x22 0 (toBytes m.size (s.spadRead c off m.size))))
      ∧ (s.granted c off m.size false m = true → s.badSpad c off m.size = true → exec .remoteScratchpadLoad s = .next (t.send
        { id := 0, src := m.dst, dst := m.src, part := m.part, ch := 2, op := 0x22, re := m.id, taddr := m.taddr, ctx := m.ctx, lid := m.lid, poison := true }))
      ∧ (s.granted c off m.size false m = false → exec .remoteScratchpadLoad s = .next (t.refuse m 0)))
    ∧ (m.op = 0x23 → m.after ≤ s.now → s.marked c off n = false →
      (s.granted c off n true m = true → exec .remoteScratchpadStore s
        = .next ((t.spadStore c off n (keepNib n (s.spadRead c off n) (ofBytes m.data) m.keepLo m.keepHi)).answerMsg m 0x24 0))
      ∧ (s.granted c off n true m = false → exec .remoteScratchpadStore s = .next (t.refuse m 0)))
    ∧ (m.op = 0x25 → (∀ u, t.deposit c off m.arg = .inr u → exec .registerDeposit s = .next (u.answerMsg m 0x24 0))
      ∧ (∀ r, t.deposit c off m.arg = .inl r → exec .registerDeposit s = .next (t.refuse m r)))
    ∧ (m.op = 0x34 → (∀ u, t.deposit c off m.arg = .inr u → exec .kettleReadyMessage s = .next u)
      ∧ (∀ r, t.deposit c off m.arg = .inl r → exec .kettleReadyMessage s = .next (t.readyUndelivered m)))
    ∧ (m.op = 0x33 → bits m.arg 63 60 = 0 → exec .engineReply s = .next (t.fill c none m.re m.arg false))
    ∧ (m.op = 0x26 → bits m.arg 7 0 = 0 →
      (s.dirOf m.taddr = none → exec .activeMessage s = .next (t.refuse m 1))
      ∧ (∀ e, s.dirOf m.taddr = some e → e.loc = 3 → exec .activeMessage s = .next (t.refuse m 1))
      ∧ (∀ e u, s.dirOf m.taddr = some e → e.loc = 2 → e.home = c → t.createHandler m.taddr (ofBytes (m.data.take 8))
          (ofBytes ((m.data.drop 8).take 8)) (ofBytes ((m.data.drop 16).take 8)) = some u → exec .activeMessage s = .next (u.answerMsg m 0x24 0)))
    ∧ (m.op = 0x28 → (∀ e, s.dirOf m.taddr = some e → e.loc = 2 → e.home = c) →
      (∀ u, t.applyDecr m.taddr (bits m.arg 31 0) m.lid = some u → exec .dependenceDecrement s = .next (u.answerMsg m 0x24 0))
      ∧ (t.applyDecr m.taddr (bits m.arg 31 0) m.lid = none → exec .dependenceDecrement s = .next (t.refuse m 1)))
    ∧ (m.op = 0x27 → (∀ e, s.dirOf m.taddr = some e → e.loc = 2 → e.home = c) → s.anyShut m.part [dPorts (s.keep m.taddr).desc] = false →
      (∀ u, t.applyAdvance m.taddr m.arg m.lid = some u → exec .portCountAdvance s = .next (u.answerMsg m 0x24 0))
      ∧ (t.applyAdvance m.taddr m.arg m.lid = none → exec .portCountAdvance s = .next (t.refuse m 1)))))

/-- An answer that reaches an awake core for its active partition is logged and taken: data, acknowledgements and results fill what waits for
them, a refusal becomes a trap or a deferred refusal, and a refused coherent request is sent again to the present home; an answer for another
partition of the core's share is parked (R125, R129, R137, R143, R147, R153, R188, R210, R329).
A poisoned answer to a BWAIT is reported and its context traps (R28). A barrier message that reaches its home performs its operation, on a granted range of another core's scratchpad, on its own, or in memory; the answer to a BWAIT
gives the generation with an acquire, or traps on the status, and an unregistered wait is sent again; a message that no rule forms is discarded
and reported; a message for a racked actor goes to the new home (R25, R27, R122 to R124, R167, R347). -/
def Obligations.CoresTakeAnswers : Prop :=
  (∀ (m : Msg) (s : State), s.focusMsg = some m → epOk m.dst = true → epIsCore m.dst = true → m.dpkg = s.fw.package →
    opOnChannel m.ch m.op = true →
    let c := coreOfEp m.dst
    let kept : Bool := s.partOfMsg c m != (s.core c).active && s.inShare (s.partOfMsg c m) c
    s.dieAwake (coreDie c) = true →
    (s.isBwaitReply m = false →
      (∀ e ∈ [(0x11, Instr.dataWithWriteTime), (0x12, .writeAcknowledgement), (0x13, .farAtomicResult), (0x22, .remoteLoadData),
          (0x24, .remoteStoreAcknowledgement), (0x29, .windowNack)], m.op = e.1 →
        (kept = false → exec e.2 s = .next ((s.received c m).answerAt c m)) ∧ (kept = true → exec e.2 s = .next ((s.take m).park m)))
      ∧ (m.op = 0x14 → m.poison = false → kept = false → exec .coherentNack s = .next ((s.received c m).resendCoherent c m)))
    ∧ (m.poison = false →
      (m.op = 0x37 → exec .pageInDone s = .next ((s.received c m).pageDone c m))
      ∧ (m.op = 0x31 → exec .placement s = .next ((s.received c m).placeNow m.taddr c))
      ∧ (m.op = 0x32 → exec .trapOrFaultMessage s = .next ((s.received c m).mailEntry m))))
  ∧ (∀ (m : Msg) (s : State), s.focusMsg = some m →
    (∀ i ∈ [Instr.barrierInitialise, .barrierArrive, .barrierExpect, .barrierWaitRegister, .barrierLanded, .barrierStatusWrite],
      s.msgEvent m = i → m.op = 0x33 → m.dpkg = s.fw.package → m.poison = false →
      (epIsCore m.dst = true → s.dieAwake (coreDie (coreOfEp m.dst)) = true → s.gate (coreOfEp m.dst) m = .pass →
        m.after ≤ s.now → s.marked (coreOfEp m.dst) (m.taddr % 2 ^ 32) 32 = false →
        let t := s.received (coreOfEp m.dst) m
        exec i s = .next (if m.src = epCore (coreOfEp m.dst) ∨ s.granted (coreOfEp m.dst) (m.taddr % 2 ^ 32) 32 true m = true then t.barMsg m
          else t.refuse m 0))
      ∧ (epIsCore m.dst = false → m.dst % 8 ≠ 6 → s.dramShut m.taddr = false → exec i s = .next ((s.take m).barMsg m)))
    ∧ (s.msgEvent m = .bwaitReply → s.dieAwake (coreDie (coreOfEp m.dst)) = true →
      let c := coreOfEp m.dst
      let t := s.received c m
      (m.poison = true → exec .bwaitReply s = .next ((t.takeOut c m.re).2.poisoned m (t.takeOut c m.re).1))
      ∧ (m.poison = false → m.keepLo = false → exec .bwaitReply s = .next ((t.takeOut c m.re).2.bwaitAnswer m))
      ∧ (m.poison = false → m.keepLo = true → exec .bwaitReply s = .next (t.modCore c fun k => { k with resend := k.resend ++ [{ addr := m.taddr, gen := m.arg, id := m.re, src := m.src, ctx := m.ctx, part := m.part, lid := m.lid, due := t.now + t.resendAfter m.src }] })))
    ∧ (s.msgEvent m = .badFlitDiscard → exec .badFlitDiscard s = .next ((s.took m).report m.dst 1 m.taddr 0))
    ∧ (∀ f, s.msgEvent m = .messageForward → s.forwardOf (coreOfEp m.dst) m = some f →
      (f.until_ = 0 → s.parkFull m.part = false →
        exec .messageForward s = .next { s.took m with parked := s.parked ++ [{ m with held := 3, forH := f.handle }] })
      ∧ (f.until_ = 0 → s.parkFull m.part = true → exec .messageForward s = .next ((s.took m).refuse m 3))
      ∧ (f.until_ ≠ 0 → let n := m.onTo (coreOfEp m.dst) f
        exec .messageForward s = .next { s.took m with net := (s.took m).net ++ [n] }
        ∧ n.dst = epCore f.dst ∧ n.op = m.op ∧ n.arg = m.arg ∧ n.data = m.data ∧ n.id = m.id)))
/-! ### Waits, firings and partitions (R98, R112 to R118, R128, R137 to R154, R210, R217, R222, R342, R347, R435) -/

/-- A waiting FENCE, WAITD, COMPOSE or WFM ends when its condition holds, with its acquire, its result and the next slot; WFM on a word of cellar
SRAM asks its home for it again; a variable-latency
result reaches its register behind the older ones on it; barrier waits without an entry are sent again (R217, R222, R243, R280, R281, R342,
R347, R435). -/
def Obligations.WaitsEnd : Prop :=
  ∀ (core ctx : Nat) (r : WaitRec) (s : State),
    let put (u : State) (d : SReg) (v : Nat) : State := (u.writeNow core ctx { dst := .scal d, mask := 2 ^ 64 - 1, val := v, due := 0, fixed := false }).endWait core ctx r
    ((s.ctx core ctx).wait = some r →
      (∀ n, r.kind = .fence n → s.fenceDone core ctx n = true → exec (.fenceComplete core ctx) s = .next ((s.fenceEnd core n).endWait core ctx r))
      ∧ (∀ m t since d, r.kind = .waitd m t since d → s.depmask core ctx &&& m ≠ 0 ∨ (t ≠ 0 ∧ since + t ≤ s.cycle core) →
        exec (.waitdComplete core ctx) s = .next (put ((s.takeFlags core ctx m).2.acquire core) d (s.depmask core ctx &&& m)))
      ∧ (∀ n t since d, r.kind = .compose n t since d →
        let u := s.freeze core ctx n
        (u.composeReady core ctx n = true → exec (.composeComplete core ctx) s = .next (put (u.composed core ctx n) d 0))
        ∧ (u.composeReady core ctx n = false → since + t ≤ s.cycle core → exec (.composeComplete core ctx) s = .next (put (u.unfreeze core ctx) d 1)))
      ∧ (∀ key cmp t since last d ask, r.kind = .wfm key cmp t since last d ask → (s.core core).period ≠ 0 →
        let v := Memory.readN s.mem key 8
        (isSram key = false → v ≠ cmp ∨ (t ≠ 0 ∧ since + t ≤ s.cycle core) → exec (.wfmReread core ctx) s = .next (put (s.acquire core) d v))
        ∧ (isSram key = true → ask = 0 → exec (.wfmReread core ctx) s = .next ((s.wfmAsk core ctx key 0).modCtx core ctx fun x =>
          { x with wait := some { r with kind := .wfm key cmp t since last d s.nextMsg } }))))
    ∧ (∀ n p, (s.ctx core ctx).pend[n]? = some p → p.fixed = false → exec (.variableLatencyResult core ctx n) s = .next (s.landSel core ctx fun q => q == p))
    ∧ ((∀ w ∈ (s.core s.focus).resend, s.now < w.due) → exec .bwaitResend s = .next (s.modCore s.focus fun k => k))
    ∧ (∀ w o d k g, (s.core s.focus).resend = [w] → w.due ≤ s.now → (s.core s.focus).out.find? (fun x => x.id == w.id) = some o → s.waiterOf w.id = some (.ctx d k) →
      (s.ctx d k).wait = some r → (∃ i chk dst, r.kind = .bwait i chk g dst) →
      s.replaying (coreOfEp (epCore s.focus)) = false →
      ∃ t, exec .bwaitResend s = .next t ∧ t.mem = s.mem ∧ (t.core s.focus).resend = [] ∧ ∃ m : Msg, m ∈ t.net ∧ m.id = w.id ∧ m.dst = o.dst)

/-- A deferred refusal traps its context at a boundary; a deadline pre-empts a firing and counts a miss; a free context takes the first firing
that a source offers; an overfull run list spills to the pool, which gives homed records back, and entries that waited 65,536 cycles move up a
level; a fenced core returns reset, but not one that no spare was left for, and the park block resumes or ends a parked actor (R94, R112 to R118, R128, R137, R140). -/
def Obligations.FiringsComeAndGo : Prop :=
  (∀ (core ctx : Nat) (s : State),
    (s.nackDue core ctx = true → exec (.deferredTrapDelivery core ctx) s = .next (s.deliverNack core ctx 9))
    ∧ (∀ l, s.deadlineDue core ctx = true →
      let t := (s.preemptCtx core ctx).modCore core fun k => { k with dlmiss := min (k.dlmiss + 1) 0xFFFFFFFF }
      SMap.find? t.launches (s.lidOf core ctx) = some l → exec (.yieldDeadline core ctx) s
        = .next { t with launches := SMap.put t.launches (s.lidOf core ctx) { l with misses := l.misses + 1 } })
    ∧ (∀ x t u, s.takes core = true → (s.ctx core ctx).firing = none → ctx < nctx core → s.source core = some x →
      s.hasCounters core (s.keep x.handle).lid = true → x ≠ .early x.handle → s.handlerFirst x.handle = false → s.entryShut x.handle = false →
      s.fetchFiring core x = some t → (t.keep x.handle).handlerOf = 0 →
      t.giveWorkspace x.handle = some u → (u.ctx core ctx).firing = none →
      exec (.firingDispatch core ctx) s = .next (u.startFiring core ctx x.handle)))
  ∧ (∀ (core : Nat) (s : State),
    ((s.core core).fenced = true → exec (.runListSpill core) s = .next (s.poolAll core))
    ∧ (∀ e, (s.core core).fenced = false → 256 < (s.core core).runList.length → spillEntry ((s.core core).runList.take 256) = some e →
      exec (.runListSpill core) s
      = .next ((s.modCore core fun k => { k with runList := k.runList.filter fun x => x.handle != e.handle }).poolActor e.handle (coreDie core) core
        (dClass (s.keep e.handle).desc) true))
    ∧ (∀ r, (s.core core).runList.length < 192 → (s.core core).fenced = false → (s.pool.filter fun x => x.homed && x.home == core) = [r] →
      exec (.homedRecall core) s = .next (({ s with pool := s.pool.filter fun x => x.handle != r.handle } : State).enqueue core r.handle (s.actorLevel r.handle)))
    ∧ (∀ e, (s.core core).runList.filter (fun x => decide (x.level < 6) && decide (x.since + 65536 ≤ s.cycle core)) = [e] → exec (.runListAging core) s
      = .next (let moved (l : List RunEnt) : List RunEnt := l.filter (fun x => x.handle != e.handle) ++ [{ e with level := e.level + 1, since := e.since + 65536 }]
        (s.setActorLevel e.handle (e.level + 1)).modCore core fun k => { k with runList := moved k.runList }))
    ∧ (∀ v, (s.core core).fenced = true → s.fw.coresOut.contains core = true → exec (.fenced core v) s = .next s)
    ∧ (∀ v, v % 2 = 1 → (s.core core).fenced = true → s.fw.coresOut.contains core = false → ∃ t, exec (.fenced core v) s = .next t ∧ (t.core core).fenced = false
      ∧ (∀ e ∈ t.ctxs, e.1 / 16 ≠ core) ∧ (∀ e ∈ t.ctxs, e ∈ s.ctxs)))
  ∧ (∀ (die : Nat) (e : DirEnt) (s : State),
    let h := SMap.get 0 s.fw.phandle die
    let cmd := SMap.get 0 s.fw.pcmd die
    (cmd ≠ 1 → exec (.pcmdResume die) s = .next s) ∧ (cmd ≠ 2 → exec (.pcmdEnd die) s = .next s)
    ∧ (s.dirOf h = none → (cmd = 1 → exec (.pcmdResume die) s = .next (s.pstat die 2)) ∧ (cmd = 2 → exec (.pcmdEnd die) s = .next (s.pstat die 2)))
    ∧ (s.dirOf h = some e → s.actorState h ≠ 4 →
      (cmd = 1 → exec (.pcmdResume die) s = .next (s.pstat die 1)) ∧ (cmd = 2 → exec (.pcmdEnd die) s = .next (s.pstat die 1)))
    ∧ (s.dirOf h = some e → s.actorState h = 4 →
      let pc := Memory.readN s.mem (spadKey e.home e.part (e.ws + 0x208)) 8 % 2 ^ 56
      let t := s.modKept h fun k => { k with saved := some (pc, (k.saved.getD (0, e.part)).2), live := false, entry := none }
      (cmd = 1 → exec (.pcmdResume die) s = .next ((t.enqueue e.home h (t.actorLevel h)).pstat die 0))
      ∧ (cmd = 2 → exec (.pcmdEnd die) s = .next (((s.dropStreams e.home e.part h).exitActor h).pstat die 0))))

/-- The cores of a gang get one switch time, at least 10 µs ahead and after the slice, once the next partitions are resident, and exchange their
partitions then; a partition of the share becomes the shadow; logical time advances by the windows of 64 cycles, and a renumbering that is due waits for the stores on their way and
leaves no cache, no line and no message with a logical time but 0; a fenced core in replay takes
its next logged input at its cycle (R146, R147, R149, R154, R210, R212). -/
def Obligations.PartitionsTakeTurns : Prop :=
  (∀ (core p time : Nat) (s : State),
    let q := (s.core core).active
    ((s.nextPart core).isSome → s.sliceOf q ≠ 0 → s.time + 10000 ≤ time → s.gangFrom q ≤ time → s.gangReady q = true →
      exec (.switchTimeNotice core time) s = .next ((s.gangOf q).foldl
        (fun t c => t.modCore c fun k => { k with switch := (s.nextPart c).map fun x => (time, x) }) s))
    ∧ ((s.core core).switch = some (time, p) → time ≤ s.time → s.resident core p = true → exec (.gangSwitch core) s = .next (s.switchTo core p))
    ∧ (isCellar core = false → s.inShare p core = true → (s.core core).active ≠ p → (s.core core).switch = none →
      exec (.partitionPaging core p) s = .next (s.modCore core fun k => { k with shadow := some p }))
    ∧ (exec (.logicalTimeTick core) s = .next (s.modCore core fun k =>
      { k with pts := k.pts + (s.cycle core / 64 - k.windows), windows := max (s.cycle core / 64) k.windows })))
  ∧ (∀ (s : State), s.renumberDue = true → s.renumberWaits = true → exec .timeRenumbering s = .next { s with
      power := { s.power with renum := true, dramWant := s.power.dramWant || (!s.dirty.isEmpty && s.power.dram != 0) } })
  ∧ (∀ (s : State), s.renumberDue = true → s.renumberWaits = false → ∃ t, exec .timeRenumbering s = .next t ∧ t.homes = [] ∧ t.rdc = []
    ∧ t.held = [] ∧ t.fw.pts = 0 ∧ (∀ e ∈ t.links, e.2.pts = 0) ∧ (∀ m ∈ t.net ++ t.parked, m.pts = 0) ∧ (∀ e ∈ t.cores, e.2.pts = 0 ∧ e.2.l1 = [] ∧ e.2.icache = [])
    ∧ (s.dirty = [] → (∀ e ∈ s.ctxs, e.2.firing = none) → t.dirty = [] ∧ t.ctxs = s.ctxs ∧ ∀ e ∈ t.cores, e.2.acqTime = s.now))
  ∧ (∀ (core : Nat) (s : State), s.replaying core = true →
    let l := (s.core core).log
    let w := s.logWord core l.next 1
    let more := if bits w 7 0 = 1 then (bits w 53 45 - 32 + 63) / 64 else 0
    let t := s.modCore core fun n => { n with log := { n.log with next := n.log.next + 1 + more } }
    l.next < l.head → l.head ≤ l.markHead + l.size → s.logWord core l.next 0 = s.logCyc core →
    (bits w 7 0 = 2 → exec (.loggedInputReplay core) s
      = .next (t.modCore core fun n => { n with log := { n.log with clock := some (s.logWord core l.next 2) } }))
    ∧ (bits w 7 0 = 4 → (t.ctx core (bits w 44 41)).firing ≠ none → exec (.loggedInputReplay core) s = .next (t.preemptCtx core (bits w 44 41)))
    ∧ (bits w 7 0 = 1 → exec (.loggedInputReplay core) s = .next (t.replayMsg core (s.logged core l.next))))

/-! ### Power (R40 to R68) -/

/-- An idle die stops its clocks in K1 and, after its times, goes on to K2 and K3 as its floor allows; work returns it to K0 from K1, and a wake
through K2 and K3 reaches K0 once the DRAM accepts accesses (R46 to R48, R53).
The cellar dozes after 10 µs and wakes, the DRAM rests and returns, the application cores sleep, their caches written back, unless a contract holds them and wake behind
the DRAM, a trigger wakes what it names, and a contract wakes every component below its floor (R49 to R51, R55, R57, R59). -/
def Obligations.DiesSleepAndWake : Prop :=
  (∀ (die : Nat) (s : State), die < 4 →
    let tr := SMap.get 0 s.power.trans die
    let since := SMap.get 0 s.power.dieSince die
    let enter (k : Nat) : State := s.modPower fun p => { p with die := SMap.put p.die die k, dieSince := SMap.put p.dieSince die s.time }
    (s.dieState die = 0 → tr = 0 → s.dieIdle die = true → 1 ≤ s.dieFloor die → since + 1000 ≤ s.time →
      exec (.k1Entry die) s = .next ((enter 1).islandClocks die false))
    ∧ (s.dieState die = 0 → s.dieIdle die = false ∨ s.dieFloor die = 0 → exec (.k1Entry die) s = .next s)
    ∧ (s.dieState die = 1 → s.dieTripped die = false → exec (.k1Exit die) s = .next ((enter 0).islandClocks die true))
    ∧ (s.dieState die = 1 → since + s.power.kidle2 ≤ s.time → 2 ≤ s.dieFloor die → s.dieTripped die = false → s.dieIdle die = true →
      (∀ c ∈ dieCores die, (s.core c).deque = [] ∧ (s.core c).spill = []) → (∀ r ∈ s.pool, r.die ≠ die) → s.power.dram = 0 →
      exec (.k2IdleEntry die) s = .next (s.enterK2 die))
    ∧ (s.dieState die = 2 → tr = 0 → s.dieFloor die = 3 → s.dieResident die = false → since + s.power.kidle3 ≤ s.time →
      exec (.k3Entry die) s = .next (s.enterK3 die))
    ∧ (2 ≤ s.dieState die → tr = 0 → 6 ≤ s.fw.step → exec (.dieWake die) s = .next
      (s.modPower fun p => { p with trans := SMap.put p.trans die 3, dieSince := SMap.put p.dieSince die s.time }).dramExit)
    ∧ (tr = 3 → s.power.dram = 0 → s.dieTripped die = false → exec (.dieReady die) s = .next (s.reachK0 die)))
  ∧ (∀ (s : State),
    (s.power.cellarC1 = false → s.power.cellarWaking = false → s.cellarIdle = true → s.cellarHeld = false → s.power.cellarSince + 10000 ≤ s.time →
      exec .cellarC1Entry s = .next ((s.modPower fun p => { p with cellarC1 := true, cellarSince := s.time }).islandClocks 4 false))
    ∧ (s.power.cellarC1 = true → exec .cellarWake s = .next (s.modPower fun p => { p with cellarC1 := false, cellarWaking := true, cellarSince := s.time }))
    ∧ (s.power.cellarWaking = true → exec .cellarC0Reached s
      = .next ((s.modPower fun p => { p with cellarWaking := false, cellarSince := s.time }).islandClocks 4 true))
    ∧ (s.dramRestful = true → s.power.dramSince + s.power.didle ≤ s.time →
      exec .selfRefreshEntry s = .next (s.modPower fun p => { p with dram := 1, dramSince := s.time }))
    ∧ (s.power.dram = 1 → 5 ≤ s.fw.step → exec .selfRefreshExit s = .next ((s.modPower fun p => { p with dram := 2, dramSince := s.time }).noteS1 s.systemState))
    ∧ (s.power.dram = 2 →
      let t := s.fw.hostWait.foldl (fun (u : State) x => u.hostAccess x) s
      let u : State := { t with fw := { t.fw with hostWait := [] } }
      exec .dramAcceptsAccesses s
      = .next ((u.repairDram.modPower fun p => { p with dram := 0, dramWant := false, dramSince := s.time }).answerTriggers.noteS1 s.systemState))
    ∧ (s.power.dram ≠ 1 → s.appHeld = none →
      let t : State := { s.hostLines.foldl (fun (u : State) e => u.snoop e.1) s with hostLines := [] }
      exec .appCoreSleepRequest s = .next (t.modPower fun p => { p with appAsleep := true, appWaking := false, appBusy := false }))
    ∧ (∀ p v, s.power.dram ≠ 1 → s.appHeld = some (p, v) → exec .appCoreSleepRequest s
      = .next ((s.modPower fun p => { p with appBusy := true }).report (epAgent 9) 5 (2 ^ 56 + p % 16 * 2 ^ 16 + v % 2 ^ 16) 0))
    ∧ (s.power.appAsleep = true → s.power.dram = 0 → exec .appCoreWake s = .next (s.modPower fun p => { p with appAsleep := false, appWaking := false }))
    ∧ (s.power.appAsleep = true → s.power.dram ≠ 0 → exec .appCoreWake s = .next (s.modPower fun p => { p with appWaking := true }).dramExit)
    ∧ (∀ t, s.power.triggers = [t] → t.arrived = false → t.time ≤ s.time → s.voids t = false →
      let u := { t with arrived := true, time := s.time, already := s.triggerReady { t with arrived := true, time := s.time }, voided := false }
      exec .pitchTrigger s = .next (((s.modPower fun p => { p with triggers := [u] }).wakeForTrigger u).answerTriggers))
    ∧ (s.power.contracts = [] → (∀ q < 4, s.dieState q ≤ 3) → (∀ q < 4, SMap.get 0 s.power.trans q ≠ 1) → exec .contractInForce s = .next s)
    ∧ (∀ q v, s.power.contracts = [(0, 0, 0, v)] → bits v 9 8 ≠ 0 → bit v 10 = 1 → bit v 11 = 0 → q < 4 → (∀ r < 4, bit v (4 + r) = 1 ↔ r = q) →
      bits v 3 0 = 0 → s.dieState q = 1 → s.dieTripped q = false → (∀ r < 4, r ≠ q → s.dieState r ≤ 3 ∧ SMap.get 0 s.power.trans r ≠ 1) →
      exec .contractInForce s = .next ((s.modPower fun p => { p with die := SMap.put p.die q 0, dieSince := SMap.put p.dieSince q s.time }).islandClocks q true)))

/-- A cluster at 105 degrees trips critically and stops its die, and releases below 100; a current limit, a temperature and a written step settle
the cluster's rail and step; samples are sent while hot; the market grants by weight within the supply every 10 µs, and
keeps every grant where its clearing is not complete (R62 to R68). -/
def Obligations.ThrottlesAndMarket : Prop :=
  (∀ (cl v : Nat) (s : State),
    let k := s.cluster cl
    (cl < 64 → k.hot 1680 = true → k.trip = false → ∃ t, exec (.criticalTrip cl) s = .next t ∧ (t.cluster cl).trip = true
      ∧ (t.cluster cl).evCrit = true ∧ t.dieState (cl / 16) = 1)
    ∧ (k.hot 1680 = false ∨ k.trip = true ∨ 64 ≤ cl → exec (.criticalTrip cl) s = .next s)
    ∧ (k.trip = true → k.hot 1600 = false → ∃ t, exec (.criticalTripEnd cl) s = .next t ∧ (t.cluster cl).trip = false)
    ∧ (cl ≤ 65 → s.time % 1000 = 0 → ∃ t, exec (.thermalWatch cl v) s = .next t ∧ (t.cluster cl).temp = v % 2 ^ 16
      ∧ ((t.cluster cl).therm = true ↔ (1600 : Int) ≤ sval 16 v))
    ∧ (cl ≤ 65 → s.time % 100000 = 0 → k.sampling = true → k.step ≠ 0 →
      exec (.thermalSample cl) s = .next ((s.putCluster cl { k with sampling := true }).report (epAgent 9) 2 (s.sampleArg cl) 0))
    ∧ (cl ≤ 65 → exec (.thrtStep cl v) s
      = .next (s.putCluster cl { k with step := v % 16, pendingSteps := k.pendingSteps ++ [((s.cycle (firstCore cl) / 16 + 2) * 16, v % 16)] })))
  ∧ (∀ (die : Nat) (s : State), die < 4 → ∃ t, exec (.currentLimit die) s = .next t ∧ ∀ i < 16, (t.cluster (16 * die + i)).clim = true
    ∧ 4 ≤ (t.cluster (16 * die + i)).eff)
  ∧ (∀ (s : State), s.power.marketAt + 10000 ≤ s.time →
    (s.power.marketLate = false → ∃ t, exec .marketClear s = .next t ∧ t.power.marketAt = s.time ∧ t.ctxs = s.ctxs)
    ∧ (s.power.marketLate = true → ∃ t, exec .marketClear s = .next t ∧ t.power.marketLate = false ∧ t.power.marketAt = s.time ∧ ∀ c, (t.cluster c).cap = (s.cluster c).cap ∧ (t.cluster c).grant = (s.cluster c).grant))
  ∧ (∀ (l : List (Nat × Nat × Nat × Nat)) (rem : Nat), let r := lowGrants l rem
    (r.1.map fun x => x.2.1).sum + r.2 = rem ∧ ∀ x ∈ r.1, x.2.1 ≤ x.1.2.2.1 ∧ (x.2.1 = x.1.2.2.1 → x.2.2 = 0))

/-! ### Queues and commands (R70 to R86, R93, R95, R203, R443) -/

/-- A queue's registers act as written: packets up to WTAIL are available and a tail that would overflow the ring is ignored with OVR; ENABLE puts
a valid configuration into service and refuses another with BADCFG; CHEAD frees records; a configuration register of an enabled queue ignores a
store; in endpoint mode BAR0 names the same registers (R35); a packet that is read becomes a command of its code, and one with a reserved code or a foreign PART ends with BAD_PACKET (R70 to R75, R81). -/
def Obligations.QueueRegistersAndPackets : Prop :=
  (∀ (q v : Nat) (s : State), q < 64 →
    let x := s.queue q
    ((v % 2 ^ 32 + 2 ^ 32 - x.head) % 2 ^ 32 ≤ x.entries → exec (.wakeTail q v) s
      = .next (let t := (s.modQueue q fun x => { x with tail := v % 2 ^ 32 }).trimWakes q (v % 2 ^ 32)
               if x.enable && v % 2 ^ 32 != x.head then t.rouse q (v % 2 ^ 32) else t))
    ∧ (x.entries < (v % 2 ^ 32 + 2 ^ 32 - x.head) % 2 ^ 32 → exec (.wakeTail q v) s = .next (s.modQueue q fun x => { x with ovr := true }))
    ∧ (v % 2 = 1 → x.enable = false → (SMap.find? s.partitions x.part).isSome = true → x.svc ≤ 4 → x.log2n ≤ 10 → exec (.enable q v) s
      = .next (if x.tail = x.head then s.modQueue q fun x => { x with enable := true } else (s.modQueue q fun x => { x with enable := true }).rouse q x.tail))
    ∧ (v % 2 = 1 → x.enable = false → SMap.find? s.partitions x.part = none ∨ 4 < x.svc ∨ 10 < x.log2n →
      exec (.enable q v) s = .next (s.modQueue q fun x => { x with badcfg := true }))
    ∧ (v % 2 = 0 → ∃ t, exec (.enable q v) s = .next t ∧ (t.queue q).enable = false ∧ t.mem = s.mem ∧ t.cmds = s.cmds)
    ∧ exec (.chead q v) s = .next (s.modQueue q fun x => { x with chead := v % 2 ^ 32 })
    ∧ exec (.registerWrite (0x20000000000 + q * 0x400 + 0x20) 8 v) s = .next (if x.enable then s else s.modQueue q fun x => { x with cbase := v % 2 ^ 56 })
    ∧ exec (.registerWrite (0x20000000000 + q * 0x400) 8 v) s = .next (s.nextAct (.wakeTail q (v % 2 ^ 32)))
    ∧ (s.endpoint = true → exec (.registerWrite (q * 0x400) 8 v) s = .next (s.nextAct (.wakeTail q (v % 2 ^ 32)))))
  ∧ (∀ (q pk : Nat) (s : State),
    let x := s.queue q
    let va := x.rbase + 16 * (x.head % x.entries)
    let took (c : Cmd) : State :=
      let t := ((s.readsMarked x.part [va]).modQueue q fun x => { x with head := (x.head + 1) % 2 ^ 32 }).dropWakes x.svc
      { t with cmds := SMap.put t.cmds s.fw.nextCmd c, fw := { t.fw with nextCmd := s.fw.nextCmd + 1 } }
    let c : Cmd := { q := q, svc := x.svc, part := x.part, seq := bits pk 63 32, code := bits pk 7 0, irq := bit pk 9 == 1, ser := bit pk 8 == 1, block := [] }
    4 ≤ s.fw.step → x.enable = true → (s.wakeHead x.svc).map Prod.fst = some q → s.cmds = [] → x.full = false → s.svcWait x.svc x.part [va] = none →
    s.partRead x.part va 16 = some pk →
    ((bits pk 15 10 ≠ 0 ∨ bits pk 127 124 ≠ 0 ∨ bits pk 7 0 = 0 ∨ 13 < bits pk 7 0 ∨ bits pk 123 120 ≠ x.part ∨ bits pk 31 18 = 0) →
      exec (.packetRead q) s = .next ((took c).finishCmd s.fw.nextCmd 1 0))
    ∧ (bits pk 15 10 = 0 → bits pk 127 124 = 0 → 1 ≤ bits pk 7 0 → bits pk 7 0 ≤ 13 → bits pk 31 18 ≠ 0 → bits pk 123 120 = x.part → bits pk 17 16 = 0 →
      bits pk 119 64 % 64 ≠ 0 → exec (.packetRead q) s = .next ((took c).finishCmd s.fw.nextCmd 2 0))
    ∧ (∀ b, bits pk 15 10 = 0 → bits pk 127 124 = 0 → bits pk 7 0 = 2 → bits pk 31 18 = 1 → bits pk 123 120 = x.part → bits pk 17 16 = 0 →
      bits pk 119 64 % 64 = 0 → s.svcWait x.svc x.part (pagesOf (bits pk 119 64) 64) = none → s.badAddr x.part (bits pk 119 64) 64 = none →
      s.virtBytes x.part (bits pk 119 64) 64 = some b → reservedZero (blockFields 2) b = true → s.fw.lifecycle = 2 →
      exec (.packetRead q) s = .next (((took { c with block := b.take 128 }).readsMarked x.part (linesOf (bits pk 119 64) 64)).nextAct .signal s.fw.nextCmd)))

/-- SIGNAL arrives at a barrier and returns its generation, WAIT completes at its generation, waits for it, or times out, CONTRACT replaces the
queue's contract, RACK records an actor's pending target, and a service core takes over a command and writes a record that had to wait (R55, R73, R77, R84, R86, R158). -/
def Obligations.BarrierContractAndRackCommands : Prop :=
  (∀ (n : Nat) (x : Cmd) (s : State),
    (s.focusCmd 2 = some (n, x) → x.fld 8 31 0 = 0 → exec .signal s = .next (s.finishCmd n 2 0))
    ∧ (∀ b t g, s.focusCmd 2 = some (n, x) → x.fld 8 31 0 ≠ 0 → s.svcBar x.svc x.part (x.fld 0 55 0) = .at_ b →
      (s.barMark x.part (x.fld 0 55 0) b).svcBarDo x.svc x.part b (.arrive (x.fld 8 31 0)) = .ok t g → exec .signal s = .next (t.finishCmd n 0 (bGen (t.barRead b))))
    ∧ (s.focusCmd 2 = some (n, x) → x.fld 8 31 0 ≠ 0 → s.svcBar x.svc x.part (x.fld 0 55 0) = .fault →
      exec .signal s = .next (s.finishCmd n 3 (x.fld 0 55 0)))
    ∧ (∀ t p off, s.focusCmd 3 = some (n, x) → s.svcBar x.svc x.part (x.fld 0 55 0) = .at_ (.spad t p off) →
      let b : BarLoc := .spad t p off
      (genReached (bGen (s.barRead b)) (x.fld 8 31 0) = true →
        exec .wait s = .next (s.finishCmd n 0 (bGen (s.barRead b) + bStatus (s.barRead b) % 2 ^ 32 * 2 ^ 32)))
      ∧ (genReached (bGen (s.barRead b)) (x.fld 8 31 0) = false → x.st < 2 → exec .wait s
        = .next (s.setCmd n { x with st := 2, limit := if x.fld 8 63 32 = 0 then 0 else s.time + x.fld 8 63 32 * 1000 }))
      ∧ (x.st = 2 → x.limit ≠ 0 → x.limit ≤ s.time →
        exec .waitTimeout s = .next (s.finishCmd n 0x0C (bGen (s.barRead b) + bStatus (s.barRead b) % 2 ^ 32 * 2 ^ 32))))
    ∧ (s.focusCmd 9 = some (n, x) → contractBad (x.fld 0 15 0) = true → exec .contract s = .next (s.finishCmd n 2 0))
    ∧ (s.focusCmd 9 = some (n, x) → contractBad (x.fld 0 15 0) = false →
      let t := (s.modQueue x.q fun q => { q with contract := x.fld 0 15 0 }).modPower fun p =>
        { p with contracts := p.contracts.filter (fun y => y.1 != 1 || y.2.1 != x.q) ++ [(1, x.q, x.part, x.fld 0 15 0)] }
      exec .contract s = .next ((t.nextAct .contractInForce).finishCmd n 0 (s.queue x.q).contract))
    ∧ (s.focusCmd 8 = some (n, x) → x.st < 2 → handlePart (x.fld 0 63 0) ≠ x.part → exec .rackCommand s = .next (s.finishCmd n 4 0))
    ∧ (∀ e, s.focusCmd 8 = some (n, x) → x.st < 2 → handlePart (x.fld 0 63 0) = x.part → s.dirOf (x.fld 0 63 0) = some e → e.loc ≠ 3 →
      (s.keep (x.fld 0 63 0)).target = none → exec .rackCommand s
        = .next ((s.modKept (x.fld 0 63 0) fun k => { k with target := some (x.fld 8 2 0, n) }).setCmd n { x with st := 2 })))
  ∧ (∀ (m : Msg) (x : Cmd) (s : State), s.focusMsg = some m → m.op = 0x35 → m.poison = false → SMap.find? (s.take m).cmds m.taddr = some x → x.st = 3 →
    exec .serviceCoreCommandStep s = .next (((s.take m).setCmd m.taddr { x with st := 1 }).nextAct (cmdEvent x) m.taddr))
  ∧ (∀ (x : Cmd) (s : State), s.focusMsg = none → SMap.find? s.cmds s.focus = some x → x.st = 4 → (s.queue x.q).full = false → s.power.dram = 0 →
    s.svcWait x.svc x.part [(s.queue x.q).cbase + 16 * ((s.queue x.q).ctail % (s.queue x.q).entries)] = none →
    exec .serviceCoreCommandStep s = .next (s.putRecord s.focus x ((s.queue x.q).cbase + 16 * ((s.queue x.q).ctail % (s.queue x.q).entries))))

/-- MAP writes its leaves and returns the count of pages, and UNMAP removes them and returns theirs; PARTITION creates with its share, windows
and grant-maxima pages, changes a share, and destroys one: its queues close, its
launches are killed, its waiting commands end with a record each, then it is gone; each refuses what its block may not ask (R72, R80, R83, R84, R472). -/
def Obligations.MapAndPartitionCommands : Prop :=
  ∀ (n : Nat) (x : Cmd) (s : State),
    (s.focusCmd 4 = some (n, x) → 5 < x.fld 0x18 11 0 % 8 → exec .map s = .next (s.finishCmd n 2 0))
    ∧ (∀ t, s.focusCmd 4 = some (n, x) → 5 ≤ s.fw.step → s.power.dram = 0 → x.part ≠ 0 → (s.partition x.part).isSome = true → x.fld 0x18 11 0 % 8 = 0 →
      bit (x.fld 0x18 11 0) 7 = 0 → x.fld 0 55 0 % 4096 = 0 → x.fld 8 51 0 % 4096 = 0 → x.fld 0x10 47 0 % 4096 = 0 → x.fld 0 55 0 + x.fld 0x10 47 0 ≤ spaceEnd →
      meetsMaxima (x.fld 0 55 0) (x.fld 0x10 47 0) = false → isDram (x.fld 8 51 0) = true → isDram (x.fld 8 51 0 + x.fld 0x10 47 0 - 1) = true →
      s.mapLeaves x.part 4 (mapBits (x.fld 0x18 11 0) + x.fld 8 51 0) 4096 (x.fld 0x10 47 0 / 4096) (x.fld 0 55 0) = .ok t →
      exec .map s = .next (t.finishCmd n 0 (x.fld 0x10 47 0 / 4096)))
    ∧ (s.focusCmd 5 = some (n, x) → x.fld 0 55 0 % 4096 ≠ 0 → exec .unmap s = .next (s.finishCmd n 2 0))
    ∧ (s.focusCmd 5 = some (n, x) → 5 ≤ s.fw.step → s.power.dram = 0 → x.fld 0 55 0 % 4096 = 0 → x.fld 8 47 0 % 4096 = 0 →
      x.fld 0 55 0 + x.fld 8 47 0 ≤ spaceEnd → meetsMaxima (x.fld 0 55 0) (x.fld 8 47 0) = false →
      s.splitsLeaf x.part (x.fld 0 55 0) (x.fld 0 55 0 + x.fld 8 47 0) 5 0 (s.rootOf x.part) 0 = false →
      let r := s.unmapIn x.part (x.fld 0 55 0) (x.fld 0 55 0 + x.fld 8 47 0) 5 0 (s.rootOf x.part) 0
      exec .unmap s = .next ((r.1.dropRange x.part (x.fld 0 55 0) (x.fld 8 47 0)).finishCmd n 0 r.2))
    ∧ (s.focusCmd 6 = some (n, x) →
      let p := x.fld 0 11 8
      let ready := x.st ≠ 0 ∧ 6 ≤ s.fw.step ∧ s.power.dram = 0
      (x.fld 0 1 0 = 0 → x.st = 0 → exec .partitionCreate s = .next (s.handOff n x 6))
      ∧ (x.fld 0 1 0 = 0 → ready → p = 0 → exec .partitionCreate s = .next (s.finishCmd n 2 0))
      ∧ (x.fld 0 1 0 = 0 → ready → p ≠ 0 → x.share.2.1 % 2 = 0 → x.fld 8 51 0 % 4096 = 0 → frameOk (x.fld 8 51 0) = true → s.partition p = none →
        let y : Partition := Partition.reserve
          { root := x.fld 8 51 0, kettle := x.share.1, cellar := x.share.2.1, slice := x.share.2.2, inlineKey := s.takeWord.1.toNat } p
        let t : State := { s.takeWord.2 with partitions := SMap.put s.takeWord.2.partitions p y }
        exec .partitionCreate s = .next ((((((t.fillPool p).fixShares.fixCores).openWindows p).mapMaxima p).newOverlaps s).finishCmd n 0 p))
      ∧ (x.fld 0 1 0 = 1 → ready → p ≠ 0 → x.share.2.1 % 2 = 0 → (s.partition p).isSome = true → exec .partitionChange s
        = .next (((((s.modPartition p fun y => { y with kettle := x.share.1, cellar := x.share.2.1, slice := x.share.2.2 }).fixShares).fixCores).newOverlaps s).finishCmd n 0 p))
      ∧ (x.fld 0 1 0 = 2 → x.st = 1 → p ≠ 0 → (s.partition p).isSome = true → exec .partitionDestroy s = .next ((s.closeQueues p).setCmd n { x with st := 2 }))
      ∧ (∀ e : Nat × Launch, x.fld 0 1 0 = 2 → x.st = 2 → p ≠ 0 → (s.partition p).isSome = true →
        List.find? (fun (e : Nat × Launch) => e.2.part == p && !e.2.killed) s.launches = some e →
        exec .partitionDestroy s = .next ((s.beginKill e.1 e.2).getD s))
      ∧ (∀ e : Nat × Cmd, x.fld 0 1 0 = 2 → x.st = 2 → p ≠ 0 → (s.partition p).isSome = true → s.launches = [] →
        (∀ y ∈ s.cmds, y.2.part = p → y.2.st = 4 ∨ y.2.idles = true) → List.find? (fun (y : Nat × Cmd) => y.2.part == p && y.2.idles) s.cmds = some e →
        exec .partitionDestroy s = .next (s.finishCmd e.1 3 (e.2.fld 0 55 0)))
      ∧ (x.fld 0 1 0 = 2 → x.st = 2 → s.power.dram = 0 → p ≠ 0 → (s.partition p).isSome = true → s.launches = [] → (∀ y ∈ s.cmds, y.2.part ≠ p) →
        exec .partitionDestroy s = .next ((s.dropPartition p).finishCmd n 0 p)))

/-- POWER and ATTEST run at the policy core, CASK at the dispatch core, LOAD's signature check at the dispatch core and the rest of it at the policy core; POWER wakes
the application cores and ends with the system's state, ATTEST and QUERY fill a
buffer that holds their answer, LOAD refuses a bundle whose signature does not verify and installs another whole, with what its modules emit, and CASK pins, writes out or reads in its pages (R56, R85, R86, R93, R203, R442, R443). -/
def Obligations.PowerAttestQueryLoadAndCask : Prop :=
  ∀ (n : Nat) (x : Cmd) (s : State),
    (s.focusCmd 10 = some (n, x) → powerBad x = true → exec .power s = .next (s.finishCmd n 2 0))
    ∧ (s.focusCmd 10 = some (n, x) → powerBad x = false → 6 ≤ s.fw.step → x.st = 0 → exec .power s = .next (s.handOff n x 6))
    ∧ (s.focusCmd 10 = some (n, x) → (∀ i < 6, x.comp i = 15) → x.st = 1 → exec .power s = .next (s.beginAppWake.setCmd n { x with st := 2 }))
    ∧ (s.focusCmd 10 = some (n, x) → (∀ i < 6, x.comp i = 15) → x.st = 2 → exec .power s
      = .next (s.finishCmd n (if bit x.step 6 = 1 then 6 else 0) s.systemState))
    ∧ (s.focusCmd 12 = some (n, x) → x.st = 0 → exec .attest s = .next (s.handOff n x 6))
    ∧ (s.focusCmd 12 = some (n, x) → x.st = 1 → x.fld 0x28 63 0 < 386 → exec .attest s = .next (s.finishCmd n 2 0))
    ∧ (s.focusCmd 12 = some (n, x) → x.st = 1 → 386 ≤ x.fld 0x28 63 0 → 32 ≤ x.block.length → s.svcWait x.svc x.part (pagesOf (x.fld 0x20 55 0) 386) = none →
      let l := s.reportBody x ++ padTo 114 (ed448Sign (Config.aliasSecret s.fw.package s.identity) (s.reportBody x))
      s.badWrite x.part (x.fld 0x20 55 0) 386 = none →
      exec .attest s = .next (match s.svcWrite x.part (x.fld 0x20 55 0) l with | some t => t.finishCmd n 0 386 | none => s.finishCmd n 3 (x.fld 0x20 55 0)))
    ∧ (s.focusCmd 13 = some (n, x) → 5 ≤ x.fld 0 7 0 → exec .query s = .next (s.finishCmd n 2 0))
    ∧ (s.focusCmd 13 = some (n, x) → x.fld 0 7 0 = 1 → 64 ≤ x.fld 0x10 63 0 → x.fld 0x10 63 0 < 128 →
      s.svcWait x.svc x.part (pagesOf (x.fld 8 55 0) 64) = none → s.badWrite x.part (x.fld 8 55 0) 64 = none →
      exec .query s = .next (match s.svcWrite x.part (x.fld 8 55 0) (toBytes 64 (maximaTable false)) with
        | some t => t.finishCmd n 0 64 | none => s.finishCmd n 3 (x.fld 8 55 0)))
    ∧ (s.focusCmd 11 = some (n, x) → x.st = 0 → exec .load s = .next (s.handOff n x 5))
    ∧ (∀ v, s.focusCmd 11 = some (n, x) → x.st = 1 → 178 ≤ x.fld 8 63 0 → s.svcWait x.svc x.part (pagesOf (x.fld 0 55 0) (x.fld 8 63 0)) = none →
      s.badAddr x.part (x.fld 0 55 0) (x.fld 8 63 0) = none → s.partRead x.part (x.fld 0 55 0) (x.fld 8 63 0) = some v →
      let len := x.fld 8 63 0
      let key := blobN v 16 8 % 16
      let good := (s.bundleKeys x.part key).any fun k => ed448Verify k (toBytes (len - 114) v) (toBytes 114 (v >>> (8 * (len - 114))))
      let objs := (List.range (blobN v 6 2)).map fun i => (blobN v (blobN v (64 + 16 * i) 8) (blobN v (72 + 16 * i) 8), blobN v (72 + 16 * i) 8)
      (x.step = 0 → bundleBad v len = true → exec .load s = .next (s.finishCmd n 2 0))
      ∧ (x.step = 0 → bundleBad v len = false → key = 2 → x.part ≠ 0 → exec .load s = .next (s.finishCmd n 4 0))
      ∧ (x.step = 0 → bundleBad v len = false → (key = 2 → x.part = 0) → good = false → exec .load s = .next (s.finishCmd n 9 0))
      ∧ (x.step = 0 → bundleBad v len = false → (key = 2 → x.part = 0) → good = true →
        exec .load s = .next ((s.readsMarked x.part (pagesOf (x.fld 0 55 0) len)).handOff n { x with step := 1 } 6))
      ∧ (∀ y r, x.step = 1 → key ≠ 2 → (objs.findSome? fun o => s.segFlash x.part o.1) = none →
        s.svcWait x.svc x.part (objs.flatMap fun o => (segs o.1).flatMap fun g => pagesOf g.addr g.msize) = none → s.partition x.part = some y →
        s.loadObjects x.part objs { ranges := y.ranges, names := y.names, links := [], modules := [] } = .inr r → (r.modules ≠ [] → s.tablesWait true = none) →
        exec .load s = .next (match (s.installBundle x.part v len objs r).emitAll x.part r.modules with
          | .inr t => t.finishCmd n 0 ((y.loads + 1) % 2 ^ 32)
          | .inl k => s.finishCmd n 2 (loadAt k 0)))
      ∧ (∀ y i, x.step = 1 → key ≠ 2 → (objs.findSome? fun o => s.segFlash x.part o.1) = none →
        s.svcWait x.svc x.part (objs.flatMap fun o => (segs o.1).flatMap fun g => pagesOf g.addr g.msize) = none → s.partition x.part = some y →
        s.loadObjects x.part objs { ranges := y.ranges, names := y.names, links := [], modules := [] } = .inl i →
        exec .load s = .next (s.finishCmd n i.1 i.2)))
    ∧ (∀ d leaf e, s.focusCmd 7 = some (n, x) → 5 ≤ s.fw.step → s.power.dram = 0 →
      let da := x.fld 8 55 0
      let va := bits (kWord d 0) 55 0 + x.step * 4096
      let u := s.walkReads none x.part va
      (x.fld 0 1 0 = 0 → x.st = 0 → exec .caskRetain s = .next (s.handOff n x 5))
      ∧ (x.st = 2 → (∀ y ∈ s.pageIns, y.cmd ≠ some n) → da % 64 = 0 → s.svcWait x.svc x.part [da] = none → s.partRead x.part da 64 = some d → caskBad d = false →
        bits (kWord d 4) 3 0 = x.part → bits (kWord d 1) 31 0 = x.step + 1 → u.walkFrom x.part va 5 0 (u.rootOf x.part) = some (leaf, e, 4) →
        (x.fld 0 1 0 = 0 → bits e 1 0 = 1 → exec .caskRetain s = .next ((u.pin x.part leaf).finishCmd n 0 0))
        ∧ (x.fld 0 1 0 = 1 → bits e 1 0 = 1 → u.writingPage leaf = false →
          s.svcWait x.svc x.part (if bits (kWord d 2) 55 0 = 0 then [] else pagesOf (bits (kWord d 2) 55 0) (16 * (x.step + 1))) = none →
          let home := bits (kWord d 2) 55 0 + 8 * (x.step + 1 + x.step)
          let blk := ofBytes ((u.virtBytes x.part home 8).getD [])
          let t := ((u.readsMarked x.part [home]).physWrite x.part leaf 8 (flashEntry e blk) true).dropRange x.part va 4096
          exec .caskPageOut s = .next (({ t with pageOuts := t.pageOuts ++ [(leaf, n, bits e 51 12 * 4096)] } : State).caskAt n x x.step))
        ∧ (x.fld 0 1 0 = 2 → bits e 1 0 = 1 → s.svcWait x.svc x.part (if bits (kWord d 2) 55 0 = 0 then [] else pagesOf (bits (kWord d 2) 55 0) (16 * (x.step + 1))) = none →
          exec .caskPageIn s = .next ((u.pin x.part leaf).finishCmd n 0 x.bytes))
        ∧ (∀ f, x.fld 0 1 0 = 2 → bits e 1 0 = 2 → s.svcWait x.svc x.part (if bits (kWord d 2) 55 0 = 0 then [] else pagesOf (bits (kWord d 2) 55 0) (16 * (x.step + 1))) = none →
          u.writingPage leaf = false → (∀ y ∈ u.pageIns, y.covers leaf = false) → u.partRead x.part (bits (kWord d 2) 55 0 + 8 * x.step) 8 = some f → f % 4096 = 0 →
          isDram f = true →
          let y : PageIn := { leaf := leaf, va := va, part := x.part, size := 4096, write := false, askers := [], st := 1, frame := f, cmd := some n }
          exec .caskPageIn s = .next (({ u.readsMarked x.part [bits (kWord d 2) 55 0 + 8 * x.step] with pageIns := u.pageIns ++ [y] } : State).caskAt n { x with bytes := x.bytes + 4096 } (x.step + 1)))))
/-! ### The flash pager, launches and watchdogs (R79, R82, R110, R119, R125 to R127, R200 to R203) -/

/-- The pager takes a request for a page in flash and merges requests of one page; a read that ends installs the page (of a CONT leaf,
every sixteenth that is still in flash) and answers every held access, or leaves the entry as it was and reports the failure; a write that ends leaves a zero-filled free frame (R200 to R203). -/
def Obligations.FlashPagesComeAndGo : Prop :=
  (∀ (m : Msg) (s : State), s.focusMsg = some m → s.msgEvent m = .pageInRequest → (s.pagerBase m.part).isSome = true → s.dramShut (bits m.arg 51 0) = false →
    let ea := bits m.arg 51 0
    let t := (s.take m).homeLook none m.part (ea / 64)
    let size := codeSize (bits m.arg 54 52)
    let leaf := leafHead ea size
    let e := t.physRead m.part ea 8
    let ask := (m.raddr, m.ctx, m.taddr % 2 ^ 63 + bit m.arg 55 * 2 ^ 63)
    let x : PageIn := { leaf := leaf, va := m.taddr, part := m.part, size := size, write := bit m.arg 55 == 1, askers := [ask]
                        st := if (leafGroup leaf size).any t.writingPage then 0 else 1 }
    (bits e 1 0 ≠ 2 → exec .pageInRequest s = .next (t.pageReplies x 0))
    ∧ (bits e 1 0 = 2 → (∀ y ∈ t.pageIns, y.leaf ≠ leaf) → exec .pageInRequest s = .next { t with pageIns := t.pageIns ++ [x] })
    ∧ (bits e 1 0 = 2 → (∃ y ∈ t.pageIns, y.leaf = leaf) → exec .pageInRequest s
      = .next { t with pageIns := t.pageIns.map fun y => if y.leaf == leaf then { y with askers := y.askers ++ [ask] } else y }))
  ∧ (∀ (x : PageIn) (s : State), s.pageIns.find? (fun y => y.leaf == s.focus && y.st == 1) = some x → s.power.dram = 0 → x.cmd = none →
    let t : State := { s with pageIns := s.pageIns.filter fun y => y.leaf != x.leaf }
    exec (.flashReadDone false) s = .next ((t.pageReplies x 1).report (epAgent 8) 1 x.va 0)
    ∧ (s.flashLeaves x = [] → exec (.flashReadDone true) s = .next (t.pageReplies x 0))
    ∧ (∀ f, s.flashLeaves x ≠ [] → s.pagerFrame x.part x.size = some f →
      let n := x.size / (leafGroup x.leaf x.size).length
      let u := (s.flashLeaves x).foldl (fun t b =>
        (t.flashToFrame x.part b.2.1 (f + b.2.2) n).physWrite x.part b.1 8 (installEntry (t.physRead x.part b.1 8) (f + b.2.2)) true) s
      let pg : Paged := { leaf := x.leaf, part := x.part, va := x.va / x.size * x.size, size := x.size, frame := f, blks := s.flashLeaves x }
      exec (.flashReadDone true) s
        = .next (({ u with paged := u.paged ++ [pg], pageIns := u.pageIns.filter fun y => y.leaf != x.leaf } : State).pageReplies x 0)))
  ∧ (∀ (x : Paged) (s : State), s.paged.find? (fun y => y.leaf == s.focus && y.out) = some x → s.power.dram = 0 →
    let n := x.size / (leafGroup x.leaf x.size).length
    let t := (x.blks.foldl (fun t b => t.frameToFlash x.part (x.frame + b.2.2) b.2.1 n) s).zeroFrame x.part x.frame x.size
    (s.fw.flashFails = false → exec .flashWriteDone s = .next (State.afterWrite { t with paged := t.paged.filter fun y => y.leaf != x.leaf } x.leaf x.part))
    ∧ (s.fw.flashFails = true → exec .flashWriteDone s = .next { s with fw := { s.fw with flashFails := false } }))

/-- LAUNCH refuses a block against its rules and otherwise creates its root, places it or leaves it UNPLACED in a pool, and is accepted, once its partition's stores are
ordered and DRAM is awake for its release; two waves that find a launch idle with equal sums complete it; the watchdog pre-empts its firings, then kills the launch, then fences the cores that still hold it, and a finished kill completes it with KILLED (R82, R90, R110, R125 to R127). -/
def Obligations.LaunchesStartAndEnd : Prop :=
  (∀ (n : Nat) (x : Cmd) (s : State), s.focusCmd 1 = some (n, x) → x.st = 1 →
    (launchBad x = true → exec .launch s = .next (s.finishCmd n 2 0))
    ∧ (launchBad x = false → x.fld 0x30 55 0 = 0 → x.fld 0x48 55 0 = 0 → s.storesOpen x.part = true → exec .launch s = .next s)
    ∧ (launchBad x = false → x.fld 0x30 55 0 = 0 → x.fld 0x48 55 0 = 0 → s.storesOpen x.part = false → s.fenceShut = true →
      exec .launch s = .next (s.wantDram.getD s))
    ∧ (∀ d h t, launchBad x = false → x.fld 0x30 55 0 = 0 → x.fld 0x48 55 0 = 0 → x.fld 0x10 55 0 = 0 → 6 ≤ s.fw.step → s.storesOpen x.part = false →
      s.fenceShut = false →
      let p := x.part
      let da := x.fld 0 55 0
      let lid := s.newLid
      let l : Launch := { root := 0, part := p, svc := x.svc, cmd := n, prio := x.fld 8 8 6, tbar := 0, wd1 := x.fld 0x38 31 0
                          wd2 := x.fld 0x38 63 32, wd3 := x.fld 0x40 31 0, ydl := x.fld 0x40 63 32, wdFrom := s.time, waveAt := s.time
                          wdHold := if s.activeSomewhere p then none else some s.time }
      let u : State := { s with launches := SMap.put s.launches lid l }
      da % 64 = 0 → s.svcWait x.svc p (pagesOf da 64 ++ []) = none → s.partRead p da 64 = some d →
      s.svcWait x.svc p ([dEntry d] ++ pagesOf (dPorts d) (16 * (dNin d + dNout d)) ++ [dShapes d, dPitch d].filter fun a => a != 0) = none →
      (∀ die, s.rootDie p x.svc (x.fld 8 5 4) = some die → u.descBad p d = false → descFits d (die == 4) = true →
        (u.readsMarked p (descReads da d)).createActor p lid da d die 0 (x.fld 0x20 55 0) = some (h, t) → SMap.find? t.launches lid = some l →
        let t : State := { t with launches := SMap.put t.launches lid { l with root := h } }
        let v : State := match t.rootCore p die (x.fld 8 5 4) d with
          | some c => t.sendPlacement (epAgent x.svc) h c
          | none => t.poolActor h die 0 (x.fld 8 5 4) false
        exec .launch s = .next ((({ v with fw := { v.fw with nextLid := (lid + 1) % 65536 } } : State).launchFence p).setCmd n { x with st := 2 }))
      ∧ (s.rootDie p x.svc (x.fld 8 5 4) = none → exec .launch s = .next (s.finishCmd n 0x0A 0))))
  ∧ (∀ (l : Launch) (s : State), SMap.find? s.launches s.focus = some l →
    let lid := s.focus
    let put (l : Launch) : State := { s with launches := SMap.put s.launches lid l }
    (l.wd = 0 → s.wdReached l l.wd1 = true → exec .watchdogStep1 s = .next (((put { l with wd := 1 }).wdPreempt lid).wdReport l lid 1 0))
    ∧ (l.wd = 1 → l.tbar = 0 → s.wdReached l l.wd2 = true → ∀ k, SMap.find? (s.killLaunch lid).launches lid = some k →
      let u := s.killLaunch lid
      let t : State := { u with launches := SMap.put u.launches lid { k with wd := 2, killed := true } }
      (SMap.find? t.launches lid).any (fun x => x.killed) = true → exec .watchdogKill s = .next (t.wdReport l lid 2 0))
    ∧ (∀ c, l.wd = 2 → s.wdReached l l.wd3 = true → s.coresWith lid = [c] →
      exec .watchdogFence s = .next (((put { l with wd := 3 }).fence c).wdReport l lid 3 c))
    ∧ (l.killed = true → s.killDone lid = true → ∀ t, s.completeLaunch lid 0x0B = some t → exec .killFinished s = .next t)
    ∧ (l.killed = true → s.killDone lid = false → exec .killFinished s = .next s)
    ∧ (l.tbar = 0 → s.storesOpen l.part = false → s.fenceShut = false → ∃ t, s.completeLaunch lid 0x0B = some t)
    ∧ (s.storesOpen l.part = false → s.fenceShut = true → s.completeLaunch lid 0x0B = s.wantDram)
    ∧ (s.storesOpen l.part = true → s.completeLaunch lid 0x0B = none)
    ∧ (l.wd ≠ 4 → s.waveDue l = true → s.launchIdle lid = true → (s.launchSums lid).1 = (s.launchSums lid).2 → l.wave ≠ some (s.launchSums lid).1 →
      exec .terminationWave s = .next (put { l with waveAt := s.time, wave := some (s.launchSums lid).1 }))
    ∧ (l.wd ≠ 4 → s.waveDue l = true → s.launchIdle lid = false → exec .terminationWave s = .next (put { l with waveAt := s.time, wave := none }))
    ∧ (∀ t, l.wd ≠ 4 → s.waveDue l = true → s.launchIdle lid = true → (s.launchSums lid).1 = (s.launchSums lid).2 → l.wave = some (s.launchSums lid).1 →
      ((put { l with waveAt := s.time, wave := some (s.launchSums lid).1 }).quiesce lid).completeLaunch lid 0 = some t → exec .terminationWave s = .next t))
/-! ### Bring-up, the life cycle, the host, and links (R16, R18, R32, R36 to R42, R87 to R90, R95) -/

/-- Bring-up passes its steps in order, each with what it makes ready; a life-cycle transition goes one state forward or to SCRAPPED and leaves
nothing of the machine but what is fused; an application core reads and writes DRAM through the
shared cache and an endpoint's host straight, and an access that must wait for the DRAM is kept (R32, R35, R50, R89, R90, R95, R226).
A link that fails its replay eight times in a row in one direction takes a spare lane of that direction, or runs at half width and is reported; the mesh clocks go up a step above
half occupancy and down a step below an eighth, within 800 to 2,400 MHz; a peer link goes down or sheds lanes, and a message for a link that is down returns as a refusal (R16, R18, R36 to R39, R42). -/
def Obligations.BringUpAndLifeCycle : Prop :=
  (∀ (s : State),
    (exec .coldReset s = .next s.coldReset)
    ∧ (s.fw.superImage = [] → s.coldReset.fw.step = 3 ∧ s.coldReset.fw.lifecycle = s.fw.lifecycle ∧ s.coldReset.cmds = [] ∧ s.coldReset.launches = []
      ∧ (s.fw.repairMap = [] → s.fw.rowMarks = [] → s.coldReset.net = []))
    ∧ (s.fw.step = 3 → exec .reducedService s = .next { s with fw := { s.fw with step := 4 } })
    ∧ (s.fw.step ≠ 3 → exec .reducedService s = .next s)
    ∧ (s.fw.step = 4 → ∃ t, exec .lpddr6Trained s = .next t ∧ t.fw.step = 5 ∧ t.power.dram = 0 ∧ ∀ e ∈ t.mem, e ∈ s.mem)
    ∧ (s.fw.step = 5 → ∃ t, exec .computeDiesTrained s = .next t ∧ t.fw.step = 6 ∧ (∀ q < 4, t.dieState q = 0)
      ∧ ∀ e ∈ t.mem, e ∈ s.mem ∧ ¬(2 ^ 60 ≤ e.1 ∧ e.1 < spadKey 0x400 0 0))
    ∧ (s.fw.step = 6 → exec .fullService s = .next { s with fw := { s.fw with step := 7 } })
    ∧ (∀ target, s.fw.lifecycle < target → target = s.fw.lifecycle + 1 ∨ target = 4 → target ≤ 4 → ∃ t, exec (.lifeCycleTransition target) s = .next t
      ∧ t.fw.lifecycle = target ∧ t.fw.step = 0 ∧ t.ctxs = [] ∧ t.tags = [] ∧ ∀ e ∈ t.mem, e ∈ s.mem ∧ 2 ^ 62 ≤ e.1)
    ∧ (∀ target, target ≤ s.fw.lifecycle → exec (.lifeCycleTransition target) s = .next s)
    ∧ (∀ agent pa len v w, s.hostPlace agent pa = none → exec (.hostDramAccess ⟨agent, w⟩ pa len v) s = .next s)
    ∧ (∀ agent pa a len v, s.hostPlace agent pa = some a →
      let n := min len (64 - a % 64)
      let x := v % 2 ^ (8 * n)
      let t := s.readDram (a / 64)
      (∀ w, isDram a = false → isSram a = false → exec (.hostDramAccess ⟨agent, w⟩ pa len v) s = .next s)
      ∧ (∀ w, isDram a = true → s.dramShut a = true → (agent = 0 → SMap.find? s.hostLines (a / 64) = none) →
        let u := s.wantDram.getD s
        exec (.hostDramAccess ⟨agent, w⟩ pa len v) s
          = .next { u with fw := { u.fw with hostWait := u.fw.hostWait ++ [{ agent := agent, write := w, pa := a, len := n, val := x }] } })
      ∧ (isDram a = true → s.dramShut a = false → agent ≠ 0 →
        exec (.hostDramAccess ⟨agent, true⟩ pa len v) s = .next (t.hostWrite a n x)
        ∧ exec (.hostDramAccess ⟨agent, false⟩ pa len v) s = .next { t with fw := { t.fw with hostRead := t.hostValue a n } })
      ∧ (isSram a = true → exec (.hostDramAccess ⟨agent, true⟩ pa len v) s = .next (s.hostWrite a n x)
        ∧ exec (.hostDramAccess ⟨agent, false⟩ pa len v) s = .next { s with fw := { s.fw with hostRead := Memory.readN s.mem a n } })
      ∧ (isDram a = true → s.dramShut a = false → agent = 0 → SMap.find? s.hostLines (a / 64) = none →
        exec (.hostDramAccess ⟨agent, true⟩ pa len v) s = .next (t.appWrite a n x)
        ∧ exec (.hostDramAccess ⟨agent, false⟩ pa len v) s = .next { (t.appRead a n).2 with fw := { (t.appRead a n).2.fw with hostRead := (t.appRead a n).1 } })
      ∧ (∀ h, isDram a = true → agent = 0 → SMap.find? s.hostLines (a / 64) = some h →
        exec (.hostDramAccess ⟨agent, true⟩ pa len v) s
          = .next { s with hostLines := SMap.put s.hostLines (a / 64) { data := patch h.data (a % 64) n x, dirty := true, poison := h.poison && decide (n < 64) } }
        ∧ exec (.hostDramAccess ⟨agent, false⟩ pa len v) s = .next { s with fw := { s.fw with hostRead := lineBytes h.data a n } })))
  ∧ ((∀ (link : Nat) (tx : Bool) (s : State), link ≤ 13 →
    let x := s.link link
    let d := if tx then x.tx else x.rx
    let put (y : Lanes) : Link := if tx then { x with tx := y } else { x with rx := y }
    exec (.flitReplay ⟨link, tx⟩ false) s = .next (s.setLink link (put { d with fails := 0 }))
    ∧ (d.fails < 7 ∨ 8 ≤ link → exec (.flitReplay ⟨link, tx⟩ true) s = .next (s.setLink link (put { d with fails := d.fails + 1 })))
    ∧ (7 ≤ d.fails → link < 8 → 0 < d.spares → exec (.flitReplay ⟨link, tx⟩ true) s = .next (s.setLink link (put { fails := 0, spares := d.spares - 1 })))
    ∧ (7 ≤ d.fails → link < 8 → d.spares = 0 → x.half = false → exec (.flitReplay ⟨link, tx⟩ true) s
      = .next ((s.setLink link { put { d with fails := 0 } with half := true }).report (epAgent 9) 6 link 0)))
  ∧ (∀ (domain occ : Nat) (s : State), domain ≤ 4 → s.time % 1000 = 0 → s.allGated = false →
    let f := s.meshClock domain
    let at_ (g : Nat) : State := s.modPower fun p => { p with mesh := SMap.put p.mesh domain g }
    (512 < occ → f < 2400 → exec (.meshClockSample domain occ) s = .next (at_ (f + 200)))
    ∧ (occ < 128 → 800 < f → exec (.meshClockSample domain occ) s = .next (at_ (f - 200)))
    ∧ (128 ≤ occ → occ ≤ 512 → exec (.meshClockSample domain occ) s = .next (at_ f)))
  ∧ (∀ (domain occ : Nat) (s : State), 4 < domain ∨ s.time % 1000 ≠ 0 ∨ s.allGated = true → exec (.meshClockSample domain occ) s = .next s)
  ∧ (∀ (link : Nat) (s : State), link ≤ 1 →
    let x := s.link (8 + link)
    let put (x : Link) : State := { s with links := SMap.put s.links (8 + link) x }
    (s.focusMsg = none → exec (.peerLinkDown link) s = .next ((put { x with down := true }).report (epAgent 9) 6 (8 + link) 0))
    ∧ (∀ m, s.focusMsg = some m → s.msgEvent m = .peerLinkDown link → exec (.peerLinkDown link) s = .next ((s.take m).refuse { m with ack := true } 4))
    ∧ (x.lanes = 16 → exec (.peerLaneShed link true) s = .next (put { x with lanes := 8 }))
    ∧ (x.lanes = 8 → exec (.peerLaneShed link true) s = .next (put { x with lanes := 4 }))
    ∧ (x.lanes = 8 → exec (.peerLaneShed link false) s = .next (put { x with lanes := 16 }))
    ∧ (x.lanes = 4 → exec (.peerLaneShed link false) s = .next (put { x with lanes := 8 }))))

/-! ### The racking engine (R157 to R172) -/

/-- The racking engine waits until the firing's work is done and captures its image, moves the pages of its cask, wakes the target die, installs the
image on a core that qualifies, or writes the result of an abandoned move at the old home; a deferred trap that is due abandons the move, and an image
that cannot be read sends the firing back (R166 to R170). -/
def Obligations.RackingMovesAFiring : Prop :=
  ∀ (m : Move) (rest : List Move) (s : State), s.rackQueue = m :: rest →
    let put (m : Move) : State := { s with rackQueue := m :: rest }
    (∀ h, m.st = 1 → s.rackParty m.handle = some (.saved h) → exec .rackDrain s = .next s)
    ∧ (∀ c k, m.st = 1 → s.rackParty m.handle = some (.ctx c k) →
      let x : Move := { m with core := c, ctx := k }
      ((s.ctx c k).nacks ≠ [] → exec .rackDrain s = .next (put { x with st := 6, reason := 14 }))
      ∧ ((s.ctx c k).nacks = [] → s.rackDrained x = false → exec .rackDrain s = .next s)
      ∧ (∀ line, (s.ctx c k).nacks = [] → s.rackDrained x = true → s.rackArea m.part = some line →
        exec .rackDrain s = .next (if s.dramShut (line * 64) then s.askDram else s.capture x line)))
    ∧ (m.st = 2 → m.cask = 0 → exec .rackCask s = .next (put { m with st := 3 }))
    ∧ (∀ d t l, m.st = 2 → m.cask ≠ 0 → s.partRead m.part m.cask 64 = some d → s.power.dram = 0 →
      s.svcWait 7 m.part (s.caskLines m) = none → (s.readsMarked m.part [m.cask]).caskPages m.part d m.target (bits (kWord d 1) 31 0) 0 [] = (t, l, false) →
      let base := bits (kWord d 0) 55 0
      exec .rackCask s
        = .next ((t.tlbDrop m.part fun e => decide (e.va < base + bits (kWord d 1) 31 0 * 4096) && decide (base < e.va + e.size)).setMove { m with st := 3, rewrites := l }))
    ∧ (m.st = 3 → s.dieAwake m.target = true → exec .rackWake s = .next (put { m with st := 4 }))
    ∧ (m.st = 3 → s.dieAwake m.target = false → exec .rackWake s = .next ((s.wakeFor m.target).getD s))
    ∧ (m.st = 4 → s.rackChoice m = [] → exec .rackInstall s = .next s)
    ∧ (∀ line c t, m.st = 4 → s.rackArea m.part = some line → (s.rackChoice m).findSome? (fun c => (s.rehome m.handle c).map fun t => (c, t)) = some (c, t) →
      s.dramShut (line * 64) = false →
      let img := s.linesBad line (imageOffs (dWsize (s.keep m.handle).desc) (dSpan (s.keep m.handle).desc)).2.2
      (m.reason = 0 → img = true → exec .rackInstall s = .next (s.rackFault m)) ∧ ((m.reason = 0 → img = false) →
      let e := (t.dirOf m.handle).getD {}
      let d := (t.keep m.handle).desc
      let bytes (off n : Nat) : Nat := s.linesRead m.part (line + off) n
      let t := t.linesLook m.part line ((imageOffs (dWsize d) (dSpan d)).2.2 + 1)
      let t : State := { t with mem := Memory.writeN t.mem (spadKey c m.part e.ws) (dWsize d * 64) (bytes 4 (dWsize d)) }
      let t : State := { t with mem := Memory.writeN t.mem (spadKey c m.part (dSpbase d * 4096)) (dSpan d * 4096) (bytes (imageOffs (dWsize d) (dSpan d)).2.1 (64 * dSpan d)) }
      let t := (t.mend (spadKey c m.part e.ws) (dWsize d * 64)).mend (spadKey c m.part (dSpbase d * 4096)) (dSpan d * 4096)
      let r := (t.movePtrs e.ws m.core c m.part).regrant e.ws c m.part
      let t := (r.2.installTiles c m.part m.live (bytes (imageOffs (dWsize d) (dSpan d)).1 2052)).installStreams m c e.ws
        (dSpbase d * 4096) ((dSpbase d + dSpan d) * 4096)
      let f : Fwd := { handle := m.handle, dst := c, newWs := e.ws, until_ := 1, wlen := dWsize d * 64
                       ws := match (s.core m.core).fwds.find? fun f => f.handle == m.handle with | some f => f.ws | none => 0 }
      let t := (t.modCore m.core fun n => { n with fwds := n.fwds.map fun g => if g.handle == m.handle then f else g }).replayForward m.core f
      let status := if m.reason = 0 then 0 else 7
      let t := (t.rackResult m status (rackWord c m.reason status r.1)).endMove
      exec .rackInstall s = .next (match (if m.preempt || t.headDue c || (t.core c).frozen.isSome then none else (t.freeCtxs c).head?) with
        | some k => t.startFiring c k m.handle
        | none => t.enqueue c m.handle (t.actorLevel m.handle))))
    ∧ (∀ c k w, m.st = 6 → s.rackParty m.handle = some (.ctx c k) → s.waitOf (.ctx c k) = some w → m.cmd = none →
      let v : Pend := { dst := .scal m.d, mask := ones64, val := rackWord m.core m.reason 7 false, due := 0, fixed := false }
      exec .rackDone s = .next (((s.finishParty (.ctx c k) w (some v)).endMove).modCtx c k fun x =>
        { x with preempt := if m.preempt then 2 else x.preempt, start := none }))
/-! ### Decoding, stepping, reset, memory and frames -/

/-- A word written out from the encoding tables decodes to its instruction; growth majors decode to FUTURE_OPCODE, and unassigned codes
and nonzero unused fields to RESERVED_CODE (R273, R274, R286, R287). -/
def Obligations.DecodedWords : Prop :=
  decode (BitVec.ofNat 96 (0x10 + 5 * 2 ^ 8 + 3 * 2 ^ 16 + 1 * 2 ^ 22 + 2 * 2 ^ 28 + 4 * 2 ^ 44)) = .ok (.add ⟨5, 0, false⟩ .i64 3 1 (.reg 2))
  ∧ decode (BitVec.ofNat 96 (0x10 + 1 * 2 ^ 12 + 3 * 2 ^ 16 + 1 * 2 ^ 22 + 2 * 2 ^ 40 + 1 * 2 ^ 43 + 3 * 2 ^ 44 + 7 * 2 ^ 48))
      = .ok (.add ⟨0, 2, true⟩ .i32 3 1 (.imm 7))
  ∧ (∀ m : BitVec 88, ∀ k : BitVec 8, 0xC0 ≤ k.toNat → k.toNat ≤ 0xEF → decode (m ++ k) = .error .futureOpcode)
  ∧ (∀ m : BitVec 88, ∀ k ∈ [(0x0D : BitVec 8), 0x0F, 0x35, 0x44, 0x52, 0x77, 0x8F, 0xB6, 0xF0, 0xFF], decode (m ++ k) = .error .reservedCode)
  ∧ (∀ m : BitVec 84, m ≠ 0 → decode (m ++ (0 : BitVec 4) ++ (0 : BitVec 8)) = .error .reservedCode)

/-- The decoder gives back every well-formed instruction that the encoder writes, and the encoder gives back every word that the decoder
accepts, so no two words decode to one instruction (R273, R274). -/
def Obligations.DecodeEncodeRoundTrip : Prop :=
  (∀ (i : Instr) (w : BitVec 96), i.wf = true → encode i = some w → decode w = .ok i)
  ∧ (∀ (i : Instr) (w : BitVec 96), decode w = .ok i → i.wf = true ∧ encode i = some w)
  ∧ ∀ (i : Instr) (v w : BitVec 96), decode v = .ok i → decode w = .ok i → v = w

/-- A step takes an operation chosen beforehand; else an input from outside; else an event that comes before issue; else the slot at the PC of the
context that issues; else an event that comes after it; else time passes. When the slot's line passes the checks and its bits decode to an instruction, the step is that instruction executed in the state that names the slot,
with the second slot of a pair opened after it (log 5, R266 to R274, R237). -/
def Obligations.StepRunsTheDecodedInstruction : Prop :=
  (∀ (s : State) (a : Act) (l : List Act), s.agenda = a :: l → step s = exec a.instr { s with agenda := l, focus := a.focus })
  ∧ (∀ (s : State) (i : Input) (l : List Input), s.agenda = [] → s.inputs = i :: l → step s = .next (({ s with inputs := l } : State).takeInput i))
  ∧ (∀ (s : State) (a : Act), s.agenda = [] → s.inputs = [] → s.earlyEvent = some a → step s = exec a.instr { s with focus := a.focus })
  ∧ (∀ (s : State) (a : Act), s.agenda = [] → s.inputs = [] → s.earlyEvent = none → s.nextIssue = none → s.lateEvent = some a →
    step s = exec a.instr { s with focus := a.focus })
  ∧ (∀ (s : State), s.agenda = [] → s.inputs = [] → s.earlyEvent = none → s.nextIssue = none → s.lateEvent = none → step s = .next s.idle)
  ∧ (∀ (s t : State) (c k line : Nat) (i : Instr), s.agenda = [] → s.inputs = [] → s.earlyEvent = none → s.nextIssue = some (c, k) →
    let pc := (s.ctx c k).pc.toNat
    let n := slotIdx pc
    slotOk pc = true → s.fetchLine c k = .line t line →
    (s.ctx c k).line = some (lineAddr pc) ∨ lineCheck line n = none →
    (∀ e, (s.ctx c k).entry = some e → marked line n = true ∧ padOf line n = some e) →
    decode (slotBits line n) = .ok i →
    let u := t.modCtx c k fun x => { x with line := some (lineAddr pc), entry := none }
    let u : State := { u with issue := { core := c, ctx := k, len := 1, slot := bits (slotBits line n).toNat 47 0, mods := none, nextSlot := if n < 4 then some (slotBits line (n + 1)) else none } }
    ∀ w, exec i u = .next w → step s = .next (s.openPair w c k line n))
  ∧ (∀ (s t : State) (c k line : Nat), s.agenda = [] → s.inputs = [] → s.earlyEvent = none → s.nextIssue = some (c, k) →
    let pc := (s.ctx c k).pc.toNat
    let n := slotIdx pc
    slotOk pc = true → s.fetchLine c k = .line t line → (s.ctx c k).line = some (lineAddr pc) → (s.ctx c k).entry = none →
    let u := t.modCtx c k fun x => { x with line := some (lineAddr pc), entry := none }
    let u : State := { u with issue := { core := c, ctx := k, len := 1, slot := bits (slotBits line n).toNat 47 0, mods := none, nextSlot := if n < 4 then some (slotBits line (n + 1)) else none } }
    (decode (slotBits line n) = .error .reservedCode → step s = .next (u.preciseTrap c k .reservedCode (bits (slotBits line n).toNat 47 0)))
    ∧ (decode (slotBits line n) = .error .futureOpcode → step s = .next (u.preciseTrap c k .futureOpcode (bits (slotBits line n).toNat 47 0))))

/-- No step stops: every instruction and every event ends in a next state, with a value, a trap or a status (R9). -/
def Obligations.EveryStepGoesOn : Prop :=
  ∀ s : State, ∃ t : State, step s = .next t

/-- Right after a cold reset time is zero, no context holds a firing, no message is under way, no actor is placed, every logical time is
zero, the compute dies are off, and the DRAM does not accept accesses (R9, R71, R89, R212). -/
def Obligations.ResetState : Prop :=
  State.reset.now = 0 ∧ (∀ c k, (State.reset.ctx c k).firing = none) ∧ State.reset.net = [] ∧ (∀ h, State.reset.dirOf h = none)
  ∧ (∀ c, (State.reset.core c).pts = 0 ∧ (State.reset.core c).period = 0 ∧ (State.reset.core c).runList = [])
  ∧ (∀ q < 4, SMap.get 0 State.reset.power.die q = 3) ∧ State.reset.power.dram = 1 ∧ State.reset.fw.step = 0
  ∧ (∀ c p b, SMap.find? (State.reset.cpart c p).bfr b = none)

/-- Memory has its canonical form after reset: here every byte reads as zero, which is the model's choice (log 1). -/
def Obligations.ResetKeepsTheForm : Prop :=
  State.reset.Inv ∧ ∀ a, Memory.get State.reset.mem a = 0

/-- Every step keeps memory in its canonical form, from every state that has it, with any instruction, event or passing of time. -/
def Obligations.StepKeepsMemoryForm : Prop :=
  ∀ s t : State, s.Inv → step s = .next t → t.Inv

/-- Bytes written to memory read back, least significant first, and every other byte reads as before; the bytes of two scratchpads, of
physical memory and of flash are apart (R7, R173). -/
def Obligations.MemoryReadsBackWhatIsWritten : Prop :=
  (∀ (m : Memory) (a n v : Nat), m.wf = true →
    Memory.readN (Memory.writeN m a n v) a n = v % 2 ^ (8 * n)
    ∧ (Memory.writeN m a n v).wf = true
    ∧ (∀ b, b < a ∨ a + n ≤ b → Memory.get (Memory.writeN m a n v) b = Memory.get m b)
    ∧ (∀ b j, b + j ≤ a ∨ a + n ≤ b → Memory.readN (Memory.writeN m a n v) b j = Memory.readN m b j))
  ∧ (∀ c p off c' p' off' pa blk x : Nat, off < 2 ^ 20 → off' < 2 ^ 20 → p < 16 → p' < 16 → c < 2 ^ 11 → pa < 2 ^ 56 →
    (spadKey c p off = spadKey c' p' off' → c = c' ∧ p = p' ∧ off = off') ∧ spadKey c p off ≠ pa ∧ spadKey c p off ≠ flashKey blk x ∧ pa ≠ flashKey blk x)

/-- The scalar, vector and mask instructions that touch only registers leave everything but their destination, the PC and the issue times
as it was: every byte of memory and so every register until the result lands, the network, every other context and core, and what belongs
to partitions; what is on its way afterwards is what was, and results for the destination alone. A result in CSW changes the bytes of that word at once, and
of them only the fields that software may write (R233, R306, R311 to R324, R359 to R369). -/
def Obligations.RegisterInstructionsLeaveTheRest : Prop :=
  ∀ (s t : State) (i : Instr) (reads : List Dest) (dst : Dest) (p : Pred), s.Inv → exec i s = .next t →
    let csw := spadKey s.ic (s.core s.ic).active ((s.ctx s.ic s.ik).wptr + 0x200)
    s.clear p reads [dst] = true → Dest.scal 62 ∉ reads →
    ((∃ (c : Ctl) (ty : Ty) (cond : Cond) (d a : SReg) (b : SrcB), p = c.pred ∧ reads = .scal a :: SrcBReads b ∧ dst = .scal d ∧
        (i ∈ [.add c ty d a b, .sub c ty d a b, .mul c ty d a b, .mulh c ty d a b, .and c ty d a b, .or c ty d a b, .xor c ty d a b,
          .andn c ty d a b, .shl c ty d a b, .shr c ty d a b, .sra c ty d a b, .rol c ty d a b, .cmp c ty cond d a b] ∧ ty.isInt = true
        ∨ i ∈ [.div c ty d a b, .rem c ty d a b] ∧ ty.isInt = true ∧ decI ty (s.srcB b) ≠ 0
        ∨ i = .padd c d a b ∧ bit (s.rs a) 63 = 0))
      ∨ (∃ (c : Ctl) (ty src : Ty) (rm : Rm) (field : BitVec 2) (sx : Bool) (pos : BitVec 6) (len : BitVec 7) (d a : SReg),
        p = c.pred ∧ reads = [.scal a] ∧ dst = .scal d ∧
        (i ∈ [.clz c ty d a, .ctz c ty d a, .popc c ty d a, .ext c ty d a, .bfx c sx d a pos len, .fcvt c ty d a src rm, .pget c field d a]
        ∨ i = .fsqrt c ty d a ∧ ty.isFloat = true))
      ∨ (∃ (c : Ctl) (ty : Ty) (cond : Cond) (core : Bool) (scale : BitVec 2) (disp : BitVec 48) (pos : BitVec 6) (len : BitVec 7) (d a b : SReg),
        p = c.pred ∧ reads = [.scal a, .scal b] ∧ dst = .scal d ∧
        (i ∈ [.bfi c d a b pos len, .pset c core d a b, .lea c scale d a b disp]
        ∨ i ∈ [.fadd c ty d a b, .fmul c ty d a b, .fdiv c ty d a b, .fcmp c ty cond d a b] ∧ ty.isFloat = true))
      ∨ (∃ (c : Ctl) (ty : Ty) (d a b r : SReg), p = c.pred ∧ reads = [.scal a, .scal b, .scal r] ∧ dst = .scal d ∧
        (i = .sel c d a b r ∨ i = .ffma c ty d a b r ∧ ty.isFloat = true))
      ∨ (∃ (c : Ctl) (ty : Ty) (d a : VReg) (b : VB) (sh : ShReg) (x : SReg), p = none ∧
        reads = predReads c.pred ++ (.vec a :: vbReads b ++ []) ++ [.shape sh] ++ extReads x ∧ dst = .vec d ∧ shapeUse s.ic (s.grant sh) [0] = true ∧
        i ∈ [.vadd c ty d a b sh x, .vsub c ty d a b sh x, .vmul c ty d a b sh x, .vmin c ty d a b sh x, .vmax c ty d a b sh x,
          .vand c ty d a b sh x, .vor c ty d a b sh x, .vxor c ty d a b sh x, .vshl c ty d a b sh x, .vshr c ty d a b sh x, .vsra c ty d a b sh x])
      ∨ (∃ (c : Ctl) (ty src : Ty) (rm : Rm) (d a : VReg) (sh : ShReg) (x : SReg), p = none ∧
        reads = predReads c.pred ++ [.vec a] ++ [.shape sh] ++ extReads x ∧ dst = .vec d ∧ shapeUse s.ic (s.grant sh) [0] = true ∧
        i ∈ [.vscan c ty d a sh x, .vexp2 c ty d a sh x, .vlog2 c ty d a sh x, .vrcp c ty d a sh x, .vrsq c ty d a sh x, .vcvt c ty d a sh src rm x])
      ∨ (∃ (c : Ctl) (d a b : SReg), p = none ∧ reads = predReads c.pred ++ [.scal a, .scal b] ++ [.scal d] ∧ dst = .scal d ∧
        i ∈ [.kand c d a b, .kor c d a b, .kxor c d a b])
      ∨ (∃ (c : Ctl) (d a : SReg), p = none ∧ reads = predReads c.pred ++ [.scal a] ++ [.scal d] ∧ dst = .scal d ∧ i ∈ [.knot c d a, .kmov c d a])
      ∨ (∃ (c : Ctl) (d a : SReg), p = none ∧ reads = predReads c.pred ++ [.scal a] ∧ dst = .scal d ∧ i ∈ [.kpopc c d a, .kfirst c d a])) →
    (∀ a, (dst = .scal 61 → a < csw ∨ csw + 8 ≤ a) → Memory.get t.mem a = Memory.get s.mem a)
    ∧ (∀ r : SReg, r ≠ 60 → (dst = .scal 61 → r ≠ 61) → t.readS s.ic s.ik r = s.readS s.ic s.ik r)
    ∧ (dst = .scal 61 → t.csw s.ic s.ik = cswMerge (s.csw s.ic s.ik) (t.csw s.ic s.ik))
    ∧ (∀ v : VReg, t.readV s.ic s.ik v = s.readV s.ic s.ik v) ∧ (∀ h : ShReg, t.readShape s.ic s.ik h = s.readShape s.ic s.ik h)
    ∧ t.net = s.net ∧ t.parts = s.parts ∧ t.tags = s.tags ∧ t.dirs = s.dirs ∧ t.kept = s.kept ∧ t.power = s.power ∧ t.queues = s.queues
    ∧ (dst ≠ .scal 61 → t.fw = s.fw) ∧ { t.fw with badWords := s.fw.badWords } = s.fw ∧ (∀ w ∈ t.fw.badWords, w ∈ s.fw.badWords)
    ∧ (∀ x, x ≠ s.ic → t.core x = s.core x) ∧ (∀ x j, x * 16 + j ≠ s.ic * 16 + s.ik → t.ctx x j = s.ctx x j)
    ∧ (let x := s.ctx s.ic s.ik
       let y := t.ctx s.ic s.ik
       y.firing = x.firing ∧ y.wptr = x.wptr ∧ y.asid = x.asid ∧ y.wait = x.wait ∧ y.nacks = x.nacks ∧ y.live = x.live ∧ y.entry = x.entry
        ∧ y.preempt = x.preempt ∧ y.pitch0 = x.pitch0 ∧ y.pitch1 = x.pitch1
        ∧ ∃ l, y.pend = x.pend ++ l ∧ ∀ q ∈ l, q.dst = dst ∧ dst.ignored = false)

/-- A store, an atomic or a compare and swap in the core's own scratchpad changes no byte but those of its operand, which read back as
what it stored, when none of them is a word with hard-wired or reserved bits of a register area on the core; a store of such a word drops its reserved
bits (R7, R8, R233, R329, R335, R336). -/
def Obligations.StoresLeaveTheRest : Prop :=
  ∀ (c : Ctl) (ty : Ty) (op : BitVec 3) (far : Bool) (d a b r : SReg) (disp : BitVec 48) (s t : State) (va off : Nat),
    let n := ty.width / 8
    let key := spadKey s.ic (s.core s.ic).active off
    let old := s.spadRead s.ic off n
    let rest (v : Nat) : Prop := (∀ x, x < key ∨ key + n ≤ x → Memory.get t.mem x = Memory.get s.mem x) ∧ t.spadRead s.ic off n = v % 2 ^ ty.width
      ∧ t.net = s.net ∧ t.parts = s.parts ∧ t.tags = s.tags ∧ t.dirs = s.dirs ∧ (∀ x, x ≠ s.ic → t.core x = s.core x)
      ∧ (∀ x j, x * 16 + j ≠ s.ic * 16 + s.ik → t.ctx x j = s.ctx x j)
    s.Inv → ty.isScalar = true → a ≠ 62 → b ≠ 62 → r ≠ 62 → s.ownBytes va n off = true →
    let fixed : List Nat := [0, 0x180, 0x200]
    let masks (w : Nat) : List (Nat × Nat) := fieldMasks.filter fun e => rangesMeet (w + e.1) 8 off n
    (∀ w x m, w ∈ s.areasOf s.ic → (∀ u ∈ s.areasOf s.ic, u = w) → (x, m) ∈ fieldMasks → off = w + x → n = 8 → s.ea a b disp = .inl va → s.clear c.pred [.scal a, .scal b, .scal r] [] = true →
      exec (.st c ty a b r disp) s = .next t → t.spadRead s.ic off 8 = s.rs r % 2 ^ 64 &&& m) ∧
    ((∀ w ∈ s.areasOf s.ic, (∀ x ∈ fixed, rangesMeet (w + x) 8 off n = false) ∧ masks w = []) →
    (s.ea a b disp = .inl va → s.clear c.pred [.scal a, .scal b, .scal r] [] = true →
      exec (.st c ty a b r disp) s = .next t → rest (s.rs r) ∧ (t.ctx s.ic s.ik).pend = (s.ctx s.ic s.ik).pend)
    ∧ (s.ea a 0 disp = .inl va → s.clear c.pred [.scal a, .scal b] [.scal d] = true →
      exec (.amo c ty op far d a b disp) s = .next t → rest ((atomicNew op.toNat ty old (s.rs b) 0).getD old)
        ∧ ∃ l, (t.ctx s.ic s.ik).pend = (s.ctx s.ic s.ik).pend ++ l ∧ ∀ q ∈ l, q.dst = .scal d)
    ∧ (s.ea a 0 disp = .inl va → s.clear c.pred [.scal a, .scal b, .scal r] [.scal d] = true →
      exec (.cas c ty far d a b r disp) s = .next t → rest (if old = s.rs b % 2 ^ ty.width then s.rs r else old)
        ∧ ∃ l, (t.ctx s.ic s.ik).pend = (s.ctx s.ic s.ik).pend ++ l ∧ ∀ q ∈ l, q.dst = .scal d))

/-- A result reaches its register when it lands, and no other register changes; one that has not come due changes nothing; CSW takes it
at once under its marks, and specifiers 0, 48, 60, 62 and 63 discard it (R233, R235, R279, R306). -/
def Obligations.ResultsReachTheirRegisters : Prop :=
  ∀ (s : State) (c k v lat : Nat) (d : SReg) (sel : Pend → Bool), s.Inv → (s.ctx c k).pend = [] → s.boundSlot c k true (.scal d) = none →
    let t := s.putS c k d v lat
    let p : Pend := { dst := .scal d, mask := 2 ^ 64 - 1, val := v % 2 ^ 64, due := s.cycle c + lat, fixed := true }
    let u := t.landSel c k sel
    (d ∈ [(0 : SReg), 48, 60, 62, 63] → t = s)
    ∧ (d = 61 → (t.ctx c k).pend = [] ∧ t.csw c k = cswMerge (s.csw c k) (v % 2 ^ 64)
      ∧ (∀ r : SReg, r ≠ 61 → t.readS c k r = s.readS c k r) ∧ ∀ w : VReg, t.readV c k w = s.readV c k w)
    ∧ (d ∉ [(0 : SReg), 48, 60, 61, 62, 63] → (t.ctx c k).pend = [p] ∧ t.mem = s.mem
      ∧ (sel p = false → u.mem = s.mem ∧ (u.ctx c k).pend = [p])
      ∧ (sel p = true → (u.ctx c k).pend = [] ∧ (∀ r : SReg, r ≠ d → u.readS c k r = s.readS c k r) ∧ (∀ w : VReg, u.readV c k w = s.readV c k w)
        ∧ u.readS c k d = v % 2 ^ 64))

end
end

