-- ==== Sys2Proof/Laws/Decode.lean ====
section
/-! SUPPORT. What each field of an encoding reads back as. -/
namespace Sys2Proof

/-- Bits below a seam come from the low part. -/
theorem extract_low {m n : Nat} (a : BitVec m) (b : BitVec n) (i l : Nat) (h : i + l ≤ n) :
    (a ++ b).extractLsb' i l = b.extractLsb' i l := by
  apply BitVec.eq_of_getLsbD_eq; intro j hj
  simp only [BitVec.getLsbD_extractLsb', BitVec.getLsbD_append, hj]
  rw [if_pos (by omega)]

/-- Bits above a seam come from the high part. -/
theorem extract_high {m n : Nat} (a : BitVec m) (b : BitVec n) (i l : Nat) (h : n ≤ i) :
    (a ++ b).extractLsb' i l = a.extractLsb' (i - n) l := by
  apply BitVec.eq_of_getLsbD_eq; intro j hj
  simp only [BitVec.getLsbD_extractLsb', BitVec.getLsbD_append, hj]
  rw [if_neg (by omega), show i + j - n = i - n + j by omega]

/-- All bits of a value are the value. -/
theorem extract_all {n : Nat} (a : BitVec n) : a.extractLsb' 0 n = a := by
  apply BitVec.eq_of_getLsbD_eq; intro j hj
  simp [hj]

theorem b1_bit (b : Bool) : (b1 b).getLsbD 0 = b := by cases b <;> rfl
theorem b1_beq (b : Bool) : (b1 b == 1) = b := by cases b <;> rfl
theorem ctl_eta (c : Ctl) : ({ stall := c.stall, pk := c.pk, pn := b1 c.pn == 1 } : Ctl) = c := by
  rw [b1_beq]

theorem Ty.ofCode_code (t : Ty) : Ty.ofCode t.code = some t := by cases t <;> rfl
theorem TyB.ofCode_code (t : TyB) : TyB.ofCode t.code = some t := by
  cases t with
  | ty t => cases t <;> rfl
  | bank => rfl
theorem PadKind.ofCode_code (k : PadKind) : PadKind.ofCode k.code = some k := by cases k <;> rfl
theorem Rm.ofCode_code (r : Rm) : Rm.ofCode r.code = r := by cases r <;> rfl
theorem Scope.ofCode_code (r : Scope) : Scope.ofCode r.code = r := by cases r <;> rfl
theorem Cond.ofCode_code (c : Cond) : Cond.ofCode c.code = some c := by cases c <;> rfl

theorem pOf_spec (p : PReg) : pOf (PReg.spec p) = p := by revert p; decide
theorem shOf_spec (s : ShReg) : shOf (ShReg.spec s) = s := by revert s; decide
theorem vOf_spec (v : VReg) : vOf (VReg.spec v) = v := by revert v; decide
theorem tOf_spec (t : TReg) : tOf (TReg.spec t) = t := by revert t; decide
theorem cOf_spec (c : CReg) : cOf (CReg.spec c) = c := by revert c; decide
theorem tileOf_spec (t : TileReg) : tileOf t.spec = t := by
  cases t with
  | t r => revert r; decide
  | c r => revert r; decide
theorem opOf_spec (m : MatOp) : opOf m.isMem m.spec = m := by
  cases m with
  | tile t => simp [opOf, MatOp.isMem, MatOp.spec, tOf_spec]
  | mem s => rfl

/-- A slot's 96 bits give back its fields. -/
theorem Slot.ofBits_toBits (s : Slot) : Slot.ofBits s.toBits = s := by
  cases s
  simp (disch := decide) only [Slot.ofBits, Slot.toBits, extract_high, extract_low, extract_all, Nat.reduceSub]

/-- A matrix control word gives back its fields. -/
theorem MCtl.ofBits_bits (m : MCtl) : MCtl.ofBits m.bits = m := by
  cases m
  simp (disch := decide) only [MCtl.ofBits, MCtl.bits, extract_high, extract_low, extract_all, BitVec.getLsbD_append, b1_bit,
    Nat.reduceLT, Nat.reduceSub, if_true, if_false, Rm.ofCode_code, Scope.ofCode_code]

/-- An engine control word gives back its fields. -/
theorem ECtl.ofBits_bits (e : ECtl) : ECtl.ofBits e.bits = e := by
  cases e
  simp (disch := decide) only [ECtl.ofBits, ECtl.bits, extract_high, extract_low, extract_all, BitVec.getLsbD_append, b1_bit,
    Nat.reduceLT, Nat.reduceSub, if_true, if_false, Rm.ofCode_code, Scope.ofCode_code]

/-- Two neighbouring pieces of a value join. -/
theorem extract_join {w : Nat} (x : BitVec w) (i l m k : Nat) (h : k = i + l) :
    x.extractLsb' k m ++ x.extractLsb' i l = x.extractLsb' i (m + l) := by
  subst h
  apply BitVec.eq_of_getLsbD_eq; intro j hj
  simp only [BitVec.getLsbD_extractLsb', BitVec.getLsbD_append]
  split_ifs with h1
  · rw [decide_eq_true h1, decide_eq_true (by omega)]
  · rw [decide_eq_true (show j - l < m by omega), decide_eq_true (by omega), Bool.true_and, Bool.true_and]; congr 1; omega

/-- A piece over a seam. -/
theorem extract_seam {m n : Nat} (a : BitVec m) (b : BitVec n) (i l k : Nat) (h : i + l = n) :
    (a ++ b).extractLsb' i (k + l) = a.extractLsb' 0 k ++ b.extractLsb' i l := by
  apply BitVec.eq_of_getLsbD_eq; intro j hj
  simp only [BitVec.getLsbD_extractLsb', BitVec.getLsbD_append]
  split_ifs with h1 h2 h3
  · rw [decide_eq_true h2, decide_eq_true (by omega)]
  · omega
  · omega
  · rw [decide_eq_true hj, decide_eq_true (show j - l < k by omega), Bool.true_and, Bool.true_and]; congr 1; omega

/-- The 64-bit immediate of the long form (R277). -/
theorem Slot.imm64_long (maj : BitVec 8) (st : BitVec 4) (d : SReg) (i : Word) : (Slot.long maj st d i).imm64 = i := by
  have h1 := extract_join i 12 4 48 16 rfl
  have h2 := extract_join i 11 1 52 12 rfl
  have h3 := extract_join i 8 3 53 11 rfl
  have h4 := extract_join i 2 6 56 8 rfl
  have h5 := extract_join i 0 2 62 2 rfl
  have h6 := extract_seam (i.extractLsb' 2 62) (i.extractLsb' 0 2 ++ (0 : BitVec 4)) 4 2 62 rfl
  have h7 := extract_high (i.extractLsb' 0 2) (0 : BitVec 4) 4 2 (by decide)
  have h8 := extract_all (i.extractLsb' 0 2)
  have h9 := extract_all (i.extractLsb' 2 62)
  have h10 := extract_all i
  simp only [Slot.imm64, Slot.long]
  rw [h1, h2, h3, h4]
  exact h6.trans (by rw [h7, h9]; exact (congrArg _ h8).trans (h5.trans h10))

/-- The fields of 96 bits give the bits back. -/
theorem Slot.toBits_ofBits (w : BitVec 96) : (Slot.ofBits w).toBits = w := by
  have h1 := extract_join w 44 4 48 48 rfl
  have h2 := extract_join w 43 1 52 44 rfl
  have h3 := extract_join w 40 3 53 43 rfl
  have h4 := extract_join w 34 6 56 40 rfl
  have h5 := extract_join w 28 6 62 34 rfl
  have h6 := extract_join w 22 6 68 28 rfl
  have h7 := extract_join w 16 6 74 22 rfl
  have h8 := extract_join w 12 4 80 16 rfl
  have h9 := extract_join w 8 4 84 12 rfl
  have h10 := extract_join w 0 8 88 8 rfl
  simp only [Slot.toBits, Slot.ofBits]
  rw [h1, h2, h3, h4, h5, h6, h7, h8, h9, h10]
  exact extract_all w

/-- A modifier word gives back its fields (R283). -/
theorem ModWord.ofSlot_slot (m : ModWord) : ModWord.ofSlot m.slot = m := by
  have h : m.slot.toBits = m.chi ++ m.clo ++ m.flags ++ (1 : BitVec 8) := Slot.toBits_ofBits _
  cases m
  simp (disch := decide) only [ModWord.ofSlot, h, ModWord.flags, extract_high, extract_low, extract_all, BitVec.getLsbD_append, b1_bit,
    Nat.reduceLT, Nat.reduceSub, reduceIte]
  simp only [Nat.reduceAdd, Nat.reduceLT, Nat.reduceSub, reduceIte, extract_all]
theorem ModWord.slot_maj (m : ModWord) : m.slot.maj = 1 := by
  simp (disch := decide) only [ModWord.slot, Slot.ofBits, extract_high, extract_low, extract_all]

theorem bit_zero (w i : Nat) : (0 : BitVec w).getLsbD i = false := BitVec.getLsbD_zero
theorem bit_one : (1 : BitVec 4).getLsbD 0 = true := rfl
theorem bit_one1 : (1 : BitVec 1).getLsbD 0 = true := rfl
theorem fn1_0 : ((1 : BitVec 4) = 0) = False := by simp
theorem fn2_0 : ((2 : BitVec 4) = 0) = False := by simp
theorem fn2_1 : ((2 : BitVec 4) = 1) = False := by simp
theorem fn3_0 : ((3 : BitVec 4) = 0) = False := by simp
theorem fn3_1 : ((3 : BitVec 4) = 1) = False := by simp
theorem fn3_2 : ((3 : BitVec 4) = 2) = False := by simp
theorem fn4_0 : ((4 : BitVec 4) = 0) = False := by simp
theorem fn4_1 : ((4 : BitVec 4) = 1) = False := by simp
theorem fn4_2 : ((4 : BitVec 4) = 2) = False := by simp
theorem fn4_3 : ((4 : BitVec 4) = 3) = False := by simp

/-- FN of a matrix product gives back its three bits (R378). -/
theorem mmaFn_bits (i : Bool) (a b : MatOp) :
    (mmaFn i a b).getLsbD 0 = a.isMem ∧ (mmaFn i a b).getLsbD 1 = b.isMem ∧ (mmaFn i a b).getLsbD 2 = i := by
  have h : ∀ x y z : Bool, ((0 : BitVec 1) ++ b1 x ++ b1 y ++ b1 z).getLsbD 0 = z ∧ ((0 : BitVec 1) ++ b1 x ++ b1 y ++ b1 z).getLsbD 1 = y
      ∧ ((0 : BitVec 1) ++ b1 x ++ b1 y ++ b1 z).getLsbD 2 = x := by decide
  exact h i b.isMem a.isMem

end Sys2Proof
end

