-- ==== Sys2Proof/Laws/Issue.lean ====
section
/-! SUPPORT. What the issue of a slot does when nothing holds it back, and when its predicate is false. -/
namespace Sys2Proof.Machine

/-- Registers that no input binding names take nothing from a stream. -/
theorem popAll_unbound (s : State) (c k : Nat) (l : List Dest) (seen : List Nat)
    (h : ∀ d ∈ l, s.boundSlot c k false d = none) : s.popAll c k l seen = some s := by
  induction l with
  | nil => rfl
  | cons d l ih =>
    have hd : s.boundSlot c k false d = none := h d (by simp)
    simp only [State.popAll, hd]
    exact ih fun e he => h e (by simp [he])

/-- A register that no output binding names always has room. -/
theorem outRoom_unbound (s : State) (c k : Nat) (d : Dest) (n : Nat) (h : s.boundSlot c k true d = none) :
    s.outRoom c k d n = true := by
  simp [State.outRoom, h]

/-- A predicate register that a composition does not hold back makes no slot wait. -/
theorem predWait_false {s : State} {c k : Nat} {p : Pred} (h : s.composedWait c k (predReads p) = false) : s.predWait c k p = false := by
  simp [State.predWait, h]

/-- Registers that no input binding names leave nothing to take back. -/
theorem popsOf_unbound (s : State) (c k : Nat) (l : List Dest) (h : ∀ d ∈ l, s.boundSlot c k false d = none) : s.popsOf c k l = [] := by
  unfold State.popsOf
  suffices ∀ acc : List Popped, l.foldl (fun l d =>
      match s.boundSlot c k false d with
      | none => l
      | some i =>
        if l.any fun p => p.slot == i then l
        else l ++ [{ slot := i, dst := d, reg := s.wsRead c k d.loc.1 d.loc.2, word := s.sb c k i
                     pos := match s.streamOf c k i with | some m => m.tailc | none => 0 }]) acc = acc from this []
  induction l with
  | nil => exact fun _ => rfl
  | cons d l ih =>
    intro acc
    have hd : s.boundSlot c k false d = none := h d (by simp)
    simp only [List.foldl_cons, hd]
    exact ih (fun e he => h e (by simp [he])) acc

/-- No register of a list is uncorrectable where none of a longer list is. -/
theorem regBad_append {s : State} {c k : Nat} {a b : List Dest} (h : s.regBad c k (a ++ b) = none) :
    s.regBad c k a = none ∧ s.regBad c k b = none := by
  unfold State.regBad at *
  split at h
  all_goals simp_all

/-- The parts of an unhindered issue. -/
theorem clear_parts {s : State} {p : Pred} {reads writes : List Dest} (h : s.clear p reads writes = true) :
    s.varBusy s.ic s.ik (predReads p) = false ∧ s.stallInfo s.ic s.ik (predReads p) = none
      ∧ s.composedWait s.ic s.ik (predReads p) = false ∧ s.executes s.ic s.ik p = true
      ∧ s.varBusy s.ic s.ik (reads ++ writes) = false ∧ s.stallInfo s.ic s.ik reads = none ∧ s.composedWait s.ic s.ik reads = false
      ∧ s.regBad s.ic s.ik (predReads p) = none ∧ s.regBad s.ic s.ik reads = none
      ∧ (∀ d ∈ reads, s.boundSlot s.ic s.ik false d = none) ∧ (∀ d ∈ writes, s.boundSlot s.ic s.ik true d = none) := by
  simp only [State.clear, Bool.and_eq_true, Bool.not_eq_true', Option.isNone_iff_eq_none, List.all_eq_true, and_assoc] at h
  obtain ⟨a, b, c, d, e, f, g, hr, i, j⟩ := h
  obtain ⟨r1, r2⟩ := regBad_append hr
  exact ⟨a, b, c, d, e, f, g, r1, r2, i, j⟩

/-- No register of two lists is read too early where none of either is. -/
theorem stallInfo_append {s : State} {c k : Nat} {a b : List Dest} (ha : s.stallInfo c k a = none) (hb : s.stallInfo c k b = none) :
    s.stallInfo c k (a ++ b) = none := by
  unfold State.stallInfo at *
  split
  · rfl
  · rename_i h
    rw [if_neg h] at ha hb
    rw [List.find?_append]
    cases h1 : a.find? fun d => d.checked && decide (0 < s.shortfall c k d) with
    | some d => rw [h1] at ha; cases ha
    | none => simpa using hb

/-- An unhindered slot whose own checks pass runs its body on the state as it stands. -/
theorem issueSlot_clear {s : State} {p : Pred} {reads writes : List Dest} (stall : Nat) (pre : State → Option (Cause × Nat))
    (body : State → Res) (h : s.clear p reads writes = true) (hp : pre s = none) :
    s.issueSlot stall p reads writes pre body = s.settle s.ic s.ik stall reads (body s) := by
  obtain ⟨h1, h2, h0, h3, h4, h5, h6, r1, r2, h7, h8⟩ := clear_parts h
  have hq := predWait_false h0
  have hw : (writes.all fun d =>
      s.outRoom s.ic s.ik d ((s.ctx s.ic s.ik).pend.filter fun p => p.dst = d).length) = true := by
    simp only [List.all_eq_true]
    exact fun d hd => outRoom_unbound s _ _ d _ (h8 d hd)
  have hpop := popAll_unbound s s.ic s.ik reads [] h7
  have h9 := stallInfo_append h2 h5
  simp only [State.ic, State.ik] at *
  simp [State.issueSlot, h1, hq, r1, r2, h3, h4, hp, h9, h6, hpop, hw]

/-- An unhindered slot that completes. -/
theorem issueSlot_ok {s : State} {p : Pred} {reads writes : List Dest} (stall : BitVec 4) (pre : State → Option (Cause × Nat))
    (body : State → Res) (u : State) (h : s.clear p reads writes = true) (hp : pre s = none) (hb : body s = .ok u) :
    s.issueSlot stall.toNat p reads writes pre body = s.completes u stall reads := by
  rw [issueSlot_clear _ pre body h hp, hb]; rfl

/-- An unhindered slot that transfers control. -/
theorem issueSlot_jump {s : State} {p : Pred} {reads writes : List Dest} (stall : BitVec 4) (pre : State → Option (Cause × Nat))
    (body : State → Res) (u : State) (pc : Nat) (h : s.clear p reads writes = true) (hp : pre s = none) (hb : body s = .jump u pc) :
    s.issueSlot stall.toNat p reads writes pre body = s.goesOn u stall reads pc := by
  rw [issueSlot_clear _ pre body h hp, hb]; rfl

/-- An unhindered slot that waits. -/
theorem issueSlot_hold {s : State} {p : Pred} {reads writes : List Dest} (stall : BitVec 4) (pre : State → Option (Cause × Nat))
    (body : State → Res) (u : State) (w : Wait) (h : s.clear p reads writes = true) (hp : pre s = none) (hb : body s = .hold u w) :
    s.issueSlot stall.toNat p reads writes pre body = s.waits u stall reads w := by
  obtain ⟨-, -, -, -, -, -, -, -, -, h7, -⟩ := clear_parts h
  rw [issueSlot_clear _ pre body h hp, hb]
  simp only [State.settle, popsOf_unbound s _ _ reads h7]
  rfl

/-- An unhindered slot that traps. -/
theorem issueSlot_trap {s : State} {p : Pred} {reads writes : List Dest} (stall : Nat) (pre : State → Option (Cause × Nat))
    (body : State → Res) (cause : Cause) (info : Nat) (h : s.clear p reads writes = true) (hp : pre s = none)
    (hb : body s = .trap cause info) : s.issueSlot stall p reads writes pre body = s.traps reads cause info := by
  rw [issueSlot_clear _ pre body h hp, hb]; rfl

/-- An unhindered slot that is left or redirected by its own effect. -/
theorem issueSlot_gone {s : State} {p : Pred} {reads writes : List Dest} (stall : Nat) (pre : State → Option (Cause × Nat))
    (body : State → Res) (u : State) (h : s.clear p reads writes = true) (hp : pre s = none) (hb : body s = .gone u) :
    s.issueSlot stall p reads writes pre body = s.noted u reads := by
  rw [issueSlot_clear _ pre body h hp, hb]; rfl

/-- An unhindered slot whose own check fails traps before it reads its operands. -/
theorem issueSlot_check {s : State} {p : Pred} {reads writes : List Dest} (stall : Nat) (pre : State → Option (Cause × Nat))
    (body : State → Res) (cause : Cause) (info : Nat) (h : s.clear p reads writes = true) (hp : pre s = some (cause, info)) :
    s.issueSlot stall p reads writes pre body = s.traps reads cause info := by
  obtain ⟨h1, -, h0, h3, h4, -, h6, r1, -, h7, -⟩ := clear_parts h
  have hq := predWait_false h0
  have hpop := popAll_unbound s s.ic s.ik reads [] h7
  simp only [State.ic, State.ik] at *
  simp [State.issueSlot, h1, hq, h3, h4, h6, r1, hpop, hp, State.traps, State.noted, State.ic, State.ik]

/-- A slot whose predicate is false takes no effect: only its context goes on (R276). -/
theorem issueSlot_false {s : State} {p : Pred} {reads writes : List Dest} (stall : Nat) (pre : State → Option (Cause × Nat))
    (body : State → Res) (h1 : s.varBusy s.ic s.ik (predReads p) = false) (h2 : s.regBad s.ic s.ik (predReads p) = none)
    (h0 : s.composedWait s.ic s.ik (predReads p) = false) (h3 : s.executes s.ic s.ik p = false) :
    s.issueSlot stall p reads writes pre body = s.finishIssue s.ic s.ik (s.afterPc s.ic s.ik) stall := by
  have hq := predWait_false h0
  simp only [State.ic, State.ik] at *
  simp [State.issueSlot, h1, hq, h2, h3]

/-! ### The same as the answer of a meaning -/

/-- The answer of an unhindered slot that completes. -/
theorem next_ok {s : State} {p : Pred} {reads writes : List Dest} (stall : BitVec 4) (pre : State → Option (Cause × Nat))
    (body : State → Res) (u : State) (h : s.clear p reads writes = true) (hp : pre s = none) (hb : body s = .ok u) :
    nextState (s.issueSlot stall.toNat p reads writes pre body) = .next (s.completes u stall reads) := by
  rw [issueSlot_ok stall pre body u h hp hb]; rfl

/-- The answer of an unhindered slot that transfers control. -/
theorem next_jump {s : State} {p : Pred} {reads writes : List Dest} (stall : BitVec 4) (pre : State → Option (Cause × Nat))
    (body : State → Res) (u : State) (pc : Nat) (h : s.clear p reads writes = true) (hp : pre s = none) (hb : body s = .jump u pc) :
    nextState (s.issueSlot stall.toNat p reads writes pre body) = .next (s.goesOn u stall reads pc) := by
  rw [issueSlot_jump stall pre body u pc h hp hb]; rfl

/-- The answer of an unhindered slot that waits. -/
theorem next_hold {s : State} {p : Pred} {reads writes : List Dest} (stall : BitVec 4) (pre : State → Option (Cause × Nat))
    (body : State → Res) (u : State) (w : Wait) (h : s.clear p reads writes = true) (hp : pre s = none) (hb : body s = .hold u w) :
    nextState (s.issueSlot stall.toNat p reads writes pre body) = .next (s.waits u stall reads w) := by
  rw [issueSlot_hold stall pre body u w h hp hb]; rfl

/-- The answer of an unhindered slot that traps. -/
theorem next_trap {s : State} {p : Pred} {reads writes : List Dest} (stall : Nat) (pre : State → Option (Cause × Nat))
    (body : State → Res) (cause : Cause) (info : Nat) (h : s.clear p reads writes = true) (hp : pre s = none)
    (hb : body s = .trap cause info) : nextState (s.issueSlot stall p reads writes pre body) = .next (s.traps reads cause info) := by
  rw [issueSlot_trap stall pre body cause info h hp hb]; rfl

/-- The answer of an unhindered slot that is left or redirected by its own effect. -/
theorem next_gone {s : State} {p : Pred} {reads writes : List Dest} (stall : Nat) (pre : State → Option (Cause × Nat))
    (body : State → Res) (u : State) (h : s.clear p reads writes = true) (hp : pre s = none) (hb : body s = .gone u) :
    nextState (s.issueSlot stall p reads writes pre body) = .next (s.noted u reads) := by
  rw [issueSlot_gone stall pre body u h hp hb]; rfl

/-- The answer of an unhindered slot whose own check fails. -/
theorem next_check {s : State} {p : Pred} {reads writes : List Dest} (stall : Nat) (pre : State → Option (Cause × Nat))
    (body : State → Res) (cause : Cause) (info : Nat) (h : s.clear p reads writes = true) (hp : pre s = some (cause, info)) :
    nextState (s.issueSlot stall p reads writes pre body) = .next (s.traps reads cause info) := by
  rw [issueSlot_check stall pre body cause info h hp]; rfl

end Sys2Proof.Machine
end

