-- ==== Sys2Proof/Laws/Operations.lean ====
section
/-! SUPPORT. What the shared operations of the meanings answer: branch targets, transfers of control, loads, stores and shape checks. -/
namespace Sys2Proof.Machine

/-- A branch target in the manual's words: the line that the upper bits name relative to the PC's line, and the slot field (R278). -/
theorem branchTarget_eq (pc imm w : Nat) :
    branchTarget pc imm w = (wrap 56 (((pc / 64 * 64 : Nat) : Int) + 64 * sval w (imm / 8)), imm % 8) := by
  unfold branchTarget lineAddr
  rw [Nat.shiftRight_eq_div_pow, show (2 : Nat) ^ 3 = 8 from rfl]; rfl

/-- A direct transfer to a marked slot jumps (R271, R308). -/
theorem goDirect_jump {s : State} {c k l t v : Nat} (ht : t < 5) (hp : s.peekLine c k l = .line v) (hm : marked v t = true) :
    s.goDirect c k (l, t) = .jump s ((l + 12 * t) % 2 ^ 56) := by
  simp only [State.goDirect, if_neg (Nat.not_le.mpr ht), hp, hm, if_true]

/-- A direct transfer to a slot field above 4, or to a slot without its mark, traps (R271, R278). -/
theorem goDirect_trap {s : State} {c k l t : Nat} (h : 5 ≤ t ∨ ∃ v, s.peekLine c k l = .line v ∧ marked v t = false) :
    s.goDirect c k (l, t) = .trap .cfTarget ((l + 12 * t) % 2 ^ 56) := by
  by_cases h5 : 5 ≤ t
  · simp only [State.goDirect, if_pos h5]
  · obtain h | ⟨v, hp, hm⟩ := h
    · exact absurd h h5
    · simp only [State.goDirect, if_neg h5, hp, hm]; rfl

/-- An indirect transfer to a marked slot with the required landing pad jumps (R271, R272). -/
theorem goIndirect_jump {s : State} {c k t v : Nat} {kind : PadKind} (h1 : t < 2 ^ 56) (h2 : slotOk t = true) (h3 : s.peekLine c k t = .line v)
    (h4 : marked v (slotIdx t) = true) (h5 : padOf v (slotIdx t) = some kind) : s.goIndirect c k t kind = .jump s t := by
  have h : t / 2 ^ 56 = 0 := by omega
  simp only [State.goIndirect, if_neg (not_not.mpr h), h2, h3, h4, h5]; rfl

/-- A load whose bytes can all be read at once completes with its value (R329). -/
theorem loadRes_done {s : State} {c k n : Nat} {l : List Chunk} {r : LoadAcc} (fin : Finish) (f : State → Nat → State)
    (h : s.loadChunks c k n l { s := s, acc := 0, pieces := [], remote := false } = .done r) (hp : r.pieces = []) :
    s.loadRes c k n l fin f = .ok (f r.s r.acc) := by
  simp only [State.loadRes, h, hp]; rfl

/-- A load of bytes that others hold waits for the answers (R329). -/
theorem loadRes_wait {s : State} {c k n : Nat} {l : List Chunk} {r : LoadAcc} (fin : Finish) (f : State → Nat → State)
    (h : s.loadChunks c k n l { s := s, acc := 0, pieces := [], remote := false } = .done r) (hp : r.pieces ≠ []) :
    s.loadRes c k n l fin f = .hold r.s (.reply r.pieces r.acc fin r.remote r.todo) := by
  have he : r.pieces.isEmpty = false := by cases hh : r.pieces <;> simp_all
  simp only [State.loadRes, h, he]; rfl

/-- A store whose parts all pass their checks performs or sends them in order (R329). -/
theorem storeRes_done {s t : State} {c k n : Nat} {l : List (Chunk × Nat)} {ws : List Write} (f : State → State)
    (h : s.storeCheck c k n l s [] = .done t ws) :
    s.storeRes c k n l f = .ok (f (ws.foldl (fun u w => u.storeWrite c k w) t)) := by
  simp only [State.storeRes, h]

/-- A shape whose use is accepted passes the check made before the operands are read (R356). -/
theorem shapeCheck_ok {s : State} {sh : ShReg} {k : List Nat} (h : shapeUse s.ic (s.grant sh) k = true) : shapeCheck sh k s = none := by
  unfold shapeCheck; simp [h]

/-- The address of an effective address that exists (R325). -/
theorem eaVal_inl {s : State} {a b : SReg} {disp : BitVec 48} {va : Nat} (h : s.ea a b disp = .inl va) : eaVal (s.ea a b disp) = va := by
  rw [h]; rfl

end Sys2Proof.Machine
end

