-- ==== Sys2Proof/Laws/PerInstr.lean ====
section
/-! SUPPORT. Reading the slot of a well-formed instruction gives the instruction back, one lemma for each constructor; an operation of
the package has no slot. -/
namespace Sys2Proof.Laws.RoundTrip

/-- The slot of a well-formed instruction reads back as the instruction. -/
def Statement (i : Instr) : Prop := ∀ e, encodeSlot i = some e → i.wf = true → readSlot e = some i

theorem lifeCycleTransition (target : Nat) : Statement (.lifeCycleTransition target) := by intro e he; cases he
theorem wakeTail (q v : Nat) : Statement (.wakeTail q v) := by intro e he; cases he
theorem enable (q v : Nat) : Statement (.enable q v) := by intro e he; cases he
theorem chead (q v : Nat) : Statement (.chead q v) := by intro e he; cases he
theorem registerWrite (addr size v : Nat) : Statement (.registerWrite addr size v) := by intro e he; cases he
theorem packetRead (q : Nat) : Statement (.packetRead q) := by intro e he; cases he
theorem hostDramAccess (op : HostOp) (pa len v : Nat) : Statement (.hostDramAccess op pa len v) := by intro e he; cases he
theorem writeBack (line : Nat) : Statement (.writeBack line) := by intro e he; cases he
theorem deferredTrapDelivery (core ctx : Nat) : Statement (.deferredTrapDelivery core ctx) := by intro e he; cases he
theorem flashReadDone (ok : Bool) : Statement (.flashReadDone ok) := by intro e he; cases he
theorem flitReplay (link : LinkDir) (failed : Bool) : Statement (.flitReplay link failed) := by intro e he; cases he
theorem meshClockSample (domain occ : Nat) : Statement (.meshClockSample domain occ) := by intro e he; cases he
theorem peerLinkDown (link : Nat) : Statement (.peerLinkDown link) := by intro e he; cases he
theorem peerLaneShed (link : Nat) (shed : Bool) : Statement (.peerLaneShed link shed) := by intro e he; cases he
theorem k1Entry (die : Nat) : Statement (.k1Entry die) := by intro e he; cases he
theorem k1Exit (die : Nat) : Statement (.k1Exit die) := by intro e he; cases he
theorem k2IdleEntry (die : Nat) : Statement (.k2IdleEntry die) := by intro e he; cases he
theorem k3Entry (die : Nat) : Statement (.k3Entry die) := by intro e he; cases he
theorem dieWake (die : Nat) : Statement (.dieWake die) := by intro e he; cases he
theorem dieReady (die : Nat) : Statement (.dieReady die) := by intro e he; cases he
theorem criticalTrip (cluster : Nat) : Statement (.criticalTrip cluster) := by intro e he; cases he
theorem criticalTripEnd (cluster : Nat) : Statement (.criticalTripEnd cluster) := by intro e he; cases he
theorem currentLimit (die : Nat) : Statement (.currentLimit die) := by intro e he; cases he
theorem thermalWatch (cluster temp : Nat) : Statement (.thermalWatch cluster temp) := by intro e he; cases he
theorem thermalSample (cluster : Nat) : Statement (.thermalSample cluster) := by intro e he; cases he
theorem thrtStep (cluster v : Nat) : Statement (.thrtStep cluster v) := by intro e he; cases he
theorem firingDispatch (core ctx : Nat) : Statement (.firingDispatch core ctx) := by intro e he; cases he
theorem runListSpill (core : Nat) : Statement (.runListSpill core) := by intro e he; cases he
theorem homedRecall (core : Nat) : Statement (.homedRecall core) := by intro e he; cases he
theorem runListAging (core : Nat) : Statement (.runListAging core) := by intro e he; cases he
theorem yieldDeadline (core ctx : Nat) : Statement (.yieldDeadline core ctx) := by intro e he; cases he
theorem fenced (core v : Nat) : Statement (.fenced core v) := by intro e he; cases he
theorem pcmdResume (die : Nat) : Statement (.pcmdResume die) := by intro e he; cases he
theorem pcmdEnd (die : Nat) : Statement (.pcmdEnd die) := by intro e he; cases he
theorem switchTimeNotice (core time : Nat) : Statement (.switchTimeNotice core time) := by intro e he; cases he
theorem gangSwitch (core : Nat) : Statement (.gangSwitch core) := by intro e he; cases he
theorem partitionPaging (core part : Nat) : Statement (.partitionPaging core part) := by intro e he; cases he
theorem cellarEmulation (core : Nat) : Statement (.cellarEmulation core) := by intro e he; cases he
theorem logicalTimeTick (core : Nat) : Statement (.logicalTimeTick core) := by intro e he; cases he
theorem matrixCommandRun (core : Nat) : Statement (.matrixCommandRun core) := by intro e he; cases he
theorem factorisationRun (core : Nat) : Statement (.factorisationRun core) := by intro e he; cases he
theorem matrixPageInWait (core : Nat) : Statement (.matrixPageInWait core) := by intro e he; cases he
theorem copyBeat (core ch : Nat) : Statement (.copyBeat core ch) := by intro e he; cases he
theorem copyComplete (core ch : Nat) : Statement (.copyComplete core ch) := by intro e he; cases he
theorem streamChannelBeat (core ch : Nat) : Statement (.streamChannelBeat core ch) := by intro e he; cases he
theorem lauterCommandRun (die : Nat) : Statement (.lauterCommandRun die) := by intro e he; cases he
theorem watermarkRelease (core ch : Nat) : Statement (.watermarkRelease core ch) := by intro e he; cases he
theorem fenceComplete (core ctx : Nat) : Statement (.fenceComplete core ctx) := by intro e he; cases he
theorem waitdComplete (core ctx : Nat) : Statement (.waitdComplete core ctx) := by intro e he; cases he
theorem composeComplete (core ctx : Nat) : Statement (.composeComplete core ctx) := by intro e he; cases he
theorem wfmReread (core ctx : Nat) : Statement (.wfmReread core ctx) := by intro e he; cases he
theorem variableLatencyResult (core ctx n : Nat) : Statement (.variableLatencyResult core ctx n) := by intro e he; cases he
theorem loggedInputReplay (core : Nat) : Statement (.loggedInputReplay core) := by intro e he; cases he
theorem nop (stall : BitVec 4) : Statement (.nop stall) := by
  intro e he hw
  obtain rfl := Option.some.inj he
  simp (disch := decide) only [readSlot, readControl, Slot.mk0, BitVec.reduceToNat, Nat.reduceLT, reduceIte, Ctl.plain]
theorem mod (m : ModWord) : Statement (.mod m) := by
  intro e he hw
  obtain rfl := Option.some.inj he
  simp only [readSlot, readControl, ModWord.slot_maj, ModWord.ofSlot_slot, BitVec.reduceToNat, Nat.reduceLT, reduceIte]
theorem lpad (stall : BitVec 4) (k : PadKind) : Statement (.lpad stall k) := by
  intro e he hw
  obtain rfl := Option.some.inj he
  simp (disch := decide) only [readSlot, readControl, Slot.mk0, Option.map_some, BitVec.reduceToNat, Nat.reduceLT, reduceIte, PadKind.ofCode_code, Ctl.plain]
theorem j (stall : BitVec 4) (imm : Word) : Statement (.j stall imm) := by
  intro e he hw
  obtain rfl := Option.some.inj he
  exact congrArg some (by rw [Slot.imm64_long]; rfl)
theorem jal (stall : BitVec 4) (d : SReg) (imm : Word) : Statement (.jal stall d imm) := by
  intro e he hw
  obtain rfl := Option.some.inj he
  exact congrArg some (by rw [Slot.imm64_long]; rfl)
theorem jr (c : Ctl) (a : SReg) (imm : BitVec 48) : Statement (.jr c a imm) := by
  intro e he hw
  obtain rfl := Option.some.inj he
  simp (disch := decide) only [readSlot, readControl, Slot.mk0, Slot.ctl, ctl_eta, BitVec.reduceToNat, Nat.reduceLT, reduceIte]
theorem jalr (c : Ctl) (d a : SReg) (imm : BitVec 48) : Statement (.jalr c d a imm) := by
  intro e he hw
  obtain rfl := Option.some.inj he
  simp (disch := decide) only [readSlot, readControl, Slot.mk0, Slot.ctl, ctl_eta, BitVec.reduceToNat, Nat.reduceLT, reduceIte]
theorem ret (c : Ctl) (a : SReg) : Statement (.ret c a) := by
  intro e he hw
  obtain rfl := Option.some.inj he
  simp (disch := decide) only [readSlot, readControl, Slot.mk0, Slot.ctl, ctl_eta, BitVec.reduceToNat, Nat.reduceLT, reduceIte]
theorem brc (c : Ctl) (ty : Ty) (cond : Cond) (a b : SReg) (imm : BitVec 48) : Statement (.brc c ty cond a b imm) := by
  intro e he hw
  obtain rfl := Option.some.inj he
  simp (disch := decide) only [readSlot, readControl, Slot.mk0, Slot.tyOf, Slot.ctl, Slot.cond, Ty.ofCode_code, ctl_eta, Option.map_some, BitVec.reduceToNat, Nat.reduceLT, reduceIte, extract_low, extract_all, Cond.ofCode_code, Option.bind_some]
theorem brz (c : Ctl) (ne : Bool) (a : SReg) (imm : BitVec 48) : Statement (.brz c ne a imm) := by
  intro e he hw
  obtain rfl := Option.some.inj he
  simp (disch := decide) only [readSlot, readControl, Slot.mk0, Slot.ctl, ctl_eta, BitVec.reduceToNat, Nat.reduceLT, reduceIte, BitVec.getLsbD_append, b1_bit, Nat.reduceSub, bit_zero]
theorem loop (c : Ctl) (d : SReg) (imm : BitVec 48) : Statement (.loop c d imm) := by
  intro e he hw
  obtain rfl := Option.some.inj he
  simp (disch := decide) only [readSlot, readControl, Slot.mk0, Slot.ctl, ctl_eta, BitVec.reduceToNat, Nat.reduceLT, reduceIte]
theorem trap (c : Ctl) (imm : BitVec 48) : Statement (.trap c imm) := by
  intro e he hw
  obtain rfl := Option.some.inj he
  simp (disch := decide) only [readSlot, readControl, Slot.mk0, Slot.ctl, ctl_eta, BitVec.reduceToNat, Nat.reduceLT, reduceIte]
theorem eret (c : Ctl) : Statement (.eret c) := by
  intro e he hw
  obtain rfl := Option.some.inj he
  simp (disch := decide) only [readSlot, readControl, Slot.mk0, Slot.ctl, ctl_eta, BitVec.reduceToNat, Nat.reduceLT, reduceIte]
theorem add (c : Ctl) (ty : Ty) (d a : SReg) (b : SrcB) : Statement (.add c ty d a b) := by
  intro e he hw
  obtain rfl := Option.some.inj he
  cases b <;> simp (disch := decide) only [readSlot, readScalar, Slot.mk0, Slot.tyOf, Slot.ctl, Ty.ofCode_code, ctl_eta, Option.map_some, BitVec.reduceToNat, Nat.reduceLT, reduceIte, Slot.binary, Slot.srcB, bit_zero, bit_one, Bool.false_eq_true]
theorem sub (c : Ctl) (ty : Ty) (d a : SReg) (b : SrcB) : Statement (.sub c ty d a b) := by
  intro e he hw
  obtain rfl := Option.some.inj he
  cases b <;> simp (disch := decide) only [readSlot, readScalar, Slot.mk0, Slot.tyOf, Slot.ctl, Ty.ofCode_code, ctl_eta, Option.map_some, BitVec.reduceToNat, Nat.reduceLT, reduceIte, Slot.binary, Slot.srcB, bit_zero, bit_one, Bool.false_eq_true]
theorem mul (c : Ctl) (ty : Ty) (d a : SReg) (b : SrcB) : Statement (.mul c ty d a b) := by
  intro e he hw
  obtain rfl := Option.some.inj he
  cases b <;> simp (disch := decide) only [readSlot, readScalar, Slot.mk0, Slot.tyOf, Slot.ctl, Ty.ofCode_code, ctl_eta, Option.map_some, BitVec.reduceToNat, Nat.reduceLT, reduceIte, Slot.binary, Slot.srcB, bit_zero, bit_one, Bool.false_eq_true]
theorem mulh (c : Ctl) (ty : Ty) (d a : SReg) (b : SrcB) : Statement (.mulh c ty d a b) := by
  intro e he hw
  obtain rfl := Option.some.inj he
  cases b <;> simp (disch := decide) only [readSlot, readScalar, Slot.mk0, Slot.tyOf, Slot.ctl, Ty.ofCode_code, ctl_eta, Option.map_some, BitVec.reduceToNat, Nat.reduceLT, reduceIte, Slot.binary, Slot.srcB, bit_zero, bit_one, Bool.false_eq_true]
theorem div (c : Ctl) (ty : Ty) (d a : SReg) (b : SrcB) : Statement (.div c ty d a b) := by
  intro e he hw
  obtain rfl := Option.some.inj he
  cases b <;> simp (disch := decide) only [readSlot, readScalar, Slot.mk0, Slot.tyOf, Slot.ctl, Ty.ofCode_code, ctl_eta, Option.map_some, BitVec.reduceToNat, Nat.reduceLT, reduceIte, Slot.binary, Slot.srcB, bit_zero, bit_one, Bool.false_eq_true]
theorem rem (c : Ctl) (ty : Ty) (d a : SReg) (b : SrcB) : Statement (.rem c ty d a b) := by
  intro e he hw
  obtain rfl := Option.some.inj he
  cases b <;> simp (disch := decide) only [readSlot, readScalar, Slot.mk0, Slot.tyOf, Slot.ctl, Ty.ofCode_code, ctl_eta, Option.map_some, BitVec.reduceToNat, Nat.reduceLT, reduceIte, Slot.binary, Slot.srcB, bit_zero, bit_one, Bool.false_eq_true]
theorem and (c : Ctl) (ty : Ty) (d a : SReg) (b : SrcB) : Statement (.and c ty d a b) := by
  intro e he hw
  obtain rfl := Option.some.inj he
  cases b <;> simp (disch := decide) only [readSlot, readScalar, Slot.mk0, Slot.tyOf, Slot.ctl, Ty.ofCode_code, ctl_eta, Option.map_some, BitVec.reduceToNat, Nat.reduceLT, reduceIte, Slot.binary, Slot.srcB, bit_zero, bit_one, Bool.false_eq_true]
theorem or (c : Ctl) (ty : Ty) (d a : SReg) (b : SrcB) : Statement (.or c ty d a b) := by
  intro e he hw
  obtain rfl := Option.some.inj he
  cases b <;> simp (disch := decide) only [readSlot, readScalar, Slot.mk0, Slot.tyOf, Slot.ctl, Ty.ofCode_code, ctl_eta, Option.map_some, BitVec.reduceToNat, Nat.reduceLT, reduceIte, Slot.binary, Slot.srcB, bit_zero, bit_one, Bool.false_eq_true]
theorem xor (c : Ctl) (ty : Ty) (d a : SReg) (b : SrcB) : Statement (.xor c ty d a b) := by
  intro e he hw
  obtain rfl := Option.some.inj he
  cases b <;> simp (disch := decide) only [readSlot, readScalar, Slot.mk0, Slot.tyOf, Slot.ctl, Ty.ofCode_code, ctl_eta, Option.map_some, BitVec.reduceToNat, Nat.reduceLT, reduceIte, Slot.binary, Slot.srcB, bit_zero, bit_one, Bool.false_eq_true]
theorem andn (c : Ctl) (ty : Ty) (d a : SReg) (b : SrcB) : Statement (.andn c ty d a b) := by
  intro e he hw
  obtain rfl := Option.some.inj he
  cases b <;> simp (disch := decide) only [readSlot, readScalar, Slot.mk0, Slot.tyOf, Slot.ctl, Ty.ofCode_code, ctl_eta, Option.map_some, BitVec.reduceToNat, Nat.reduceLT, reduceIte, Slot.binary, Slot.srcB, bit_zero, bit_one, Bool.false_eq_true]
theorem shl (c : Ctl) (ty : Ty) (d a : SReg) (b : SrcB) : Statement (.shl c ty d a b) := by
  intro e he hw
  obtain rfl := Option.some.inj he
  cases b <;> simp (disch := decide) only [readSlot, readScalar, Slot.mk0, Slot.tyOf, Slot.ctl, Ty.ofCode_code, ctl_eta, Option.map_some, BitVec.reduceToNat, Nat.reduceLT, reduceIte, Slot.binary, Slot.srcB, bit_zero, bit_one, Bool.false_eq_true]
theorem shr (c : Ctl) (ty : Ty) (d a : SReg) (b : SrcB) : Statement (.shr c ty d a b) := by
  intro e he hw
  obtain rfl := Option.some.inj he
  cases b <;> simp (disch := decide) only [readSlot, readScalar, Slot.mk0, Slot.tyOf, Slot.ctl, Ty.ofCode_code, ctl_eta, Option.map_some, BitVec.reduceToNat, Nat.reduceLT, reduceIte, Slot.binary, Slot.srcB, bit_zero, bit_one, Bool.false_eq_true]
theorem sra (c : Ctl) (ty : Ty) (d a : SReg) (b : SrcB) : Statement (.sra c ty d a b) := by
  intro e he hw
  obtain rfl := Option.some.inj he
  cases b <;> simp (disch := decide) only [readSlot, readScalar, Slot.mk0, Slot.tyOf, Slot.ctl, Ty.ofCode_code, ctl_eta, Option.map_some, BitVec.reduceToNat, Nat.reduceLT, reduceIte, Slot.binary, Slot.srcB, bit_zero, bit_one, Bool.false_eq_true]
theorem rol (c : Ctl) (ty : Ty) (d a : SReg) (b : SrcB) : Statement (.rol c ty d a b) := by
  intro e he hw
  obtain rfl := Option.some.inj he
  cases b <;> simp (disch := decide) only [readSlot, readScalar, Slot.mk0, Slot.tyOf, Slot.ctl, Ty.ofCode_code, ctl_eta, Option.map_some, BitVec.reduceToNat, Nat.reduceLT, reduceIte, Slot.binary, Slot.srcB, bit_zero, bit_one, Bool.false_eq_true]
theorem clz (c : Ctl) (ty : Ty) (d a : SReg) : Statement (.clz c ty d a) := by
  intro e he hw
  obtain rfl := Option.some.inj he
  simp (disch := decide) only [readSlot, readScalar, Slot.mk0, Slot.tyOf, Slot.ctl, Ty.ofCode_code, ctl_eta, Option.map_some, BitVec.reduceToNat, Nat.reduceLT, reduceIte]
theorem ctz (c : Ctl) (ty : Ty) (d a : SReg) : Statement (.ctz c ty d a) := by
  intro e he hw
  obtain rfl := Option.some.inj he
  simp (disch := decide) only [readSlot, readScalar, Slot.mk0, Slot.tyOf, Slot.ctl, Ty.ofCode_code, ctl_eta, Option.map_some, BitVec.reduceToNat, Nat.reduceLT, reduceIte]
theorem popc (c : Ctl) (ty : Ty) (d a : SReg) : Statement (.popc c ty d a) := by
  intro e he hw
  obtain rfl := Option.some.inj he
  simp (disch := decide) only [readSlot, readScalar, Slot.mk0, Slot.tyOf, Slot.ctl, Ty.ofCode_code, ctl_eta, Option.map_some, BitVec.reduceToNat, Nat.reduceLT, reduceIte]
theorem min (c : Ctl) (ty : Ty) (d a : SReg) (b : SrcB) : Statement (.min c ty d a b) := by
  intro e he hw
  obtain rfl := Option.some.inj he
  cases b <;> simp (disch := decide) only [readSlot, readScalar, Slot.mk0, Slot.tyOf, Slot.ctl, Ty.ofCode_code, ctl_eta, Option.map_some, BitVec.reduceToNat, Nat.reduceLT, reduceIte, Slot.binary, Slot.srcB, bit_zero, bit_one, Bool.false_eq_true]
theorem max (c : Ctl) (ty : Ty) (d a : SReg) (b : SrcB) : Statement (.max c ty d a b) := by
  intro e he hw
  obtain rfl := Option.some.inj he
  cases b <;> simp (disch := decide) only [readSlot, readScalar, Slot.mk0, Slot.tyOf, Slot.ctl, Ty.ofCode_code, ctl_eta, Option.map_some, BitVec.reduceToNat, Nat.reduceLT, reduceIte, Slot.binary, Slot.srcB, bit_zero, bit_one, Bool.false_eq_true]
theorem sel (c : Ctl) (d a b r : SReg) : Statement (.sel c d a b r) := by
  intro e he hw
  obtain rfl := Option.some.inj he
  simp (disch := decide) only [readSlot, readScalar, Slot.mk0, Slot.ctl, ctl_eta, BitVec.reduceToNat, Nat.reduceLT, reduceIte]
theorem cmp (c : Ctl) (ty : Ty) (cond : Cond) (d a : SReg) (b : SrcB) : Statement (.cmp c ty cond d a b) := by
  intro e he hw
  obtain rfl := Option.some.inj he
  cases b <;> simp (disch := decide) only [readSlot, readScalar, Slot.mk0, Slot.tyOf, Slot.ctl, Slot.cond, Ty.ofCode_code, ctl_eta, Option.map_some, BitVec.reduceToNat, Nat.reduceLT, reduceIte, Slot.srcB, extract_low, extract_all, BitVec.getLsbD_append, Nat.reduceSub, Cond.ofCode_code, Option.bind_some, bit_zero, bit_one1, Bool.false_eq_true]
theorem movi (stall : BitVec 4) (d : SReg) (imm : Word) : Statement (.movi stall d imm) := by
  intro e he hw
  obtain rfl := Option.some.inj he
  exact congrArg some (by rw [Slot.imm64_long]; rfl)
theorem ext (c : Ctl) (ty : Ty) (d a : SReg) : Statement (.ext c ty d a) := by
  intro e he hw
  obtain rfl := Option.some.inj he
  simp (disch := decide) only [readSlot, readScalar, Slot.mk0, Slot.tyOf, Slot.ctl, Ty.ofCode_code, ctl_eta, Option.map_some, BitVec.reduceToNat, Nat.reduceLT, reduceIte]
theorem bfx (c : Ctl) (sx : Bool) (d a : SReg) (pos : BitVec 6) (len : BitVec 7) : Statement (.bfx c sx d a pos len) := by
  intro e he hw
  obtain rfl := Option.some.inj he
  simp (disch := decide) only [readSlot, readScalar, Slot.mk0, Slot.ctl, ctl_eta, BitVec.reduceToNat, Nat.reduceLT, reduceIte, extract_high, extract_low, extract_all, BitVec.getLsbD_append, b1_bit, Nat.reduceSub, bit_zero]
theorem bfi (c : Ctl) (d a b : SReg) (pos : BitVec 6) (len : BitVec 7) : Statement (.bfi c d a b pos len) := by
  intro e he hw
  obtain rfl := Option.some.inj he
  simp (disch := decide) only [readSlot, readScalar, Slot.mk0, Slot.ctl, ctl_eta, BitVec.reduceToNat, Nat.reduceLT, reduceIte, extract_high, extract_low, extract_all, Nat.reduceSub]
theorem fadd (c : Ctl) (ty : Ty) (d a b : SReg) : Statement (.fadd c ty d a b) := by
  intro e he hw
  obtain rfl := Option.some.inj he
  simp (disch := decide) only [readSlot, readScalar, Slot.mk0, Slot.tyOf, Slot.ctl, Ty.ofCode_code, ctl_eta, Option.map_some, BitVec.reduceToNat, Nat.reduceLT, reduceIte]
theorem fmul (c : Ctl) (ty : Ty) (d a b : SReg) : Statement (.fmul c ty d a b) := by
  intro e he hw
  obtain rfl := Option.some.inj he
  simp (disch := decide) only [readSlot, readScalar, Slot.mk0, Slot.tyOf, Slot.ctl, Ty.ofCode_code, ctl_eta, Option.map_some, BitVec.reduceToNat, Nat.reduceLT, reduceIte]
theorem ffma (c : Ctl) (ty : Ty) (d a b r : SReg) : Statement (.ffma c ty d a b r) := by
  intro e he hw
  obtain rfl := Option.some.inj he
  simp (disch := decide) only [readSlot, readScalar, Slot.mk0, Slot.tyOf, Slot.ctl, Ty.ofCode_code, ctl_eta, Option.map_some, BitVec.reduceToNat, Nat.reduceLT, reduceIte]
theorem fdiv (c : Ctl) (ty : Ty) (d a b : SReg) : Statement (.fdiv c ty d a b) := by
  intro e he hw
  obtain rfl := Option.some.inj he
  simp (disch := decide) only [readSlot, readScalar, Slot.mk0, Slot.tyOf, Slot.ctl, Ty.ofCode_code, ctl_eta, Option.map_some, BitVec.reduceToNat, Nat.reduceLT, reduceIte]
theorem fsqrt (c : Ctl) (ty : Ty) (d a : SReg) : Statement (.fsqrt c ty d a) := by
  intro e he hw
  obtain rfl := Option.some.inj he
  simp (disch := decide) only [readSlot, readScalar, Slot.mk0, Slot.tyOf, Slot.ctl, Ty.ofCode_code, ctl_eta, Option.map_some, BitVec.reduceToNat, Nat.reduceLT, reduceIte]
theorem fcmp (c : Ctl) (ty : Ty) (cond : Cond) (d a b : SReg) : Statement (.fcmp c ty cond d a b) := by
  intro e he hw
  obtain rfl := Option.some.inj he
  simp (disch := decide) only [readSlot, readScalar, Slot.mk0, Slot.tyOf, Slot.ctl, Slot.cond, Ty.ofCode_code, ctl_eta, Option.map_some, BitVec.reduceToNat, Nat.reduceLT, reduceIte, extract_low, extract_all, Cond.ofCode_code, Option.bind_some]
theorem fcvt (c : Ctl) (ty : Ty) (d a : SReg) (src : Ty) (rm : Rm) : Statement (.fcvt c ty d a src rm) := by
  intro e he hw
  obtain rfl := Option.some.inj he
  simp (disch := decide) only [readSlot, readScalar, Slot.mk0, Slot.tyOf, Slot.ctl, Ty.ofCode_code, ctl_eta, Option.map_some, BitVec.reduceToNat, Nat.reduceLT, reduceIte, Slot.srcTy, Slot.rmOf, extract_high, extract_low, extract_all, Nat.reduceSub, Option.bind_some, Rm.ofCode_code]
theorem padd (c : Ctl) (d a : SReg) (b : SrcB) : Statement (.padd c d a b) := by
  intro e he hw
  obtain rfl := Option.some.inj he
  cases b <;> simp (disch := decide) only [readSlot, readScalar, Slot.mk0, Slot.ctl, ctl_eta, BitVec.reduceToNat, Nat.reduceLT, reduceIte, Slot.binary, Slot.srcB, bit_zero, bit_one, Bool.false_eq_true]
theorem pset (c : Ctl) (core : Bool) (d a b : SReg) : Statement (.pset c core d a b) := by
  intro e he hw
  obtain rfl := Option.some.inj he
  simp (disch := decide) only [readSlot, readScalar, Slot.mk0, Slot.ctl, ctl_eta, BitVec.reduceToNat, Nat.reduceLT, reduceIte, BitVec.getLsbD_append, b1_bit, Nat.reduceSub, bit_zero]
theorem pget (c : Ctl) (field : BitVec 2) (d a : SReg) : Statement (.pget c field d a) := by
  intro e he hw
  obtain rfl := Option.some.inj he
  simp (disch := decide) only [readSlot, readScalar, Slot.mk0, Slot.ctl, ctl_eta, BitVec.reduceToNat, Nat.reduceLT, reduceIte, extract_low, extract_all]
theorem pwalk (c : Ctl) (d a : SReg) (b : SrcB) : Statement (.pwalk c d a b) := by
  intro e he hw
  obtain rfl := Option.some.inj he
  cases b <;> simp (disch := decide) only [readSlot, readScalar, Slot.mk0, Slot.ctl, ctl_eta, BitVec.reduceToNat, Nat.reduceLT, reduceIte, Slot.binary, Slot.srcB, bit_zero, bit_one, Bool.false_eq_true]
theorem lea (c : Ctl) (scale : BitVec 2) (d a b : SReg) (disp : BitVec 48) : Statement (.lea c scale d a b disp) := by
  intro e he hw
  obtain rfl := Option.some.inj he
  simp (disch := decide) only [readSlot, readScalar, Slot.mk0, Slot.ctl, ctl_eta, BitVec.reduceToNat, Nat.reduceLT, reduceIte, extract_low, extract_all]
theorem ld (c : Ctl) (ty : Ty) (d a b : SReg) (disp : BitVec 48) : Statement (.ld c ty d a b disp) := by
  intro e he hw
  obtain rfl := Option.some.inj he
  simp (disch := decide) only [readSlot, readMemory, Slot.mk0, Slot.tyOf, Slot.ctl, Ty.ofCode_code, ctl_eta, Option.map_some, BitVec.reduceToNat, Nat.reduceLT, reduceIte]
theorem st (c : Ctl) (ty : Ty) (a b r : SReg) (disp : BitVec 48) : Statement (.st c ty a b r disp) := by
  intro e he hw
  obtain rfl := Option.some.inj he
  simp (disch := decide) only [readSlot, readMemory, Slot.mk0, Slot.tyOf, Slot.ctl, Ty.ofCode_code, ctl_eta, Option.map_some, BitVec.reduceToNat, Nat.reduceLT, reduceIte]
theorem ldp (c : Ctl) (ty : Ty) (d : SReg) (p : PReg) (inc : Inc) : Statement (.ldp c ty d p inc) := by
  intro e he hw
  obtain rfl := Option.some.inj he
  cases inc <;> simp (disch := decide) only [readSlot, readMemory, Slot.mk0, Slot.tyOf, Slot.ctl, Ty.ofCode_code, ctl_eta, Option.map_some, BitVec.reduceToNat, Nat.reduceLT, reduceIte, pOf_spec, Slot.inc, Inc.fn, Inc.b, Inc.immOf, fn1_0, fn2_0, fn2_1]
theorem stp (c : Ctl) (ty : Ty) (p : PReg) (inc : Inc) (r : SReg) : Statement (.stp c ty p inc r) := by
  intro e he hw
  obtain rfl := Option.some.inj he
  cases inc <;> simp (disch := decide) only [readSlot, readMemory, Slot.mk0, Slot.tyOf, Slot.ctl, Ty.ofCode_code, ctl_eta, Option.map_some, BitVec.reduceToNat, Nat.reduceLT, reduceIte, pOf_spec, Slot.inc, Inc.fn, Inc.b, Inc.immOf, fn1_0, fn2_0, fn2_1]
theorem ldv (c : Ctl) (ty : Ty) (d : VReg) (a : SReg) (sh : ShReg) (x : Option SReg) (disp : BitVec 48) : Statement (.ldv c ty d a sh x disp) := by
  intro e he hw
  obtain rfl := Option.some.inj he
  cases x <;> simp (disch := decide) only [readSlot, readMemory, Slot.mk0, Slot.tyOf, Slot.ctl, Ty.ofCode_code, ctl_eta, Option.map_some, BitVec.reduceToNat, Nat.reduceLT, reduceIte, vOf_spec, shOf_spec, Slot.ext, extFn, extB, bit_zero, bit_one, Bool.false_eq_true]
theorem stv (c : Ctl) (ty : Ty) (d : VReg) (a : SReg) (sh : ShReg) (x : Option SReg) (disp : BitVec 48) : Statement (.stv c ty d a sh x disp) := by
  intro e he hw
  obtain rfl := Option.some.inj he
  cases x <;> simp (disch := decide) only [readSlot, readMemory, Slot.mk0, Slot.tyOf, Slot.ctl, Ty.ofCode_code, ctl_eta, Option.map_some, BitVec.reduceToNat, Nat.reduceLT, reduceIte, vOf_spec, shOf_spec, Slot.ext, extFn, extB, bit_zero, bit_one, Bool.false_eq_true]
theorem ldvg (c : Ctl) (ty : Ty) (d : VReg) (a : SReg) (b : VReg) (sh : ShReg) (disp : BitVec 48) : Statement (.ldvg c ty d a b sh disp) := by
  intro e he hw
  obtain rfl := Option.some.inj he
  simp (disch := decide) only [readSlot, readMemory, Slot.mk0, Slot.tyOf, Slot.ctl, Ty.ofCode_code, ctl_eta, Option.map_some, BitVec.reduceToNat, Nat.reduceLT, reduceIte, vOf_spec, shOf_spec]
theorem stvs (c : Ctl) (ty : Ty) (d : VReg) (a : SReg) (b : VReg) (sh : ShReg) (disp : BitVec 48) : Statement (.stvs c ty d a b sh disp) := by
  intro e he hw
  obtain rfl := Option.some.inj he
  simp (disch := decide) only [readSlot, readMemory, Slot.mk0, Slot.tyOf, Slot.ctl, Ty.ofCode_code, ctl_eta, Option.map_some, BitVec.reduceToNat, Nat.reduceLT, reduceIte, vOf_spec, shOf_spec]
theorem pref (c : Ctl) (die : Bool) (a b : SReg) (disp : BitVec 48) : Statement (.pref c die a b disp) := by
  intro e he hw
  obtain rfl := Option.some.inj he
  simp (disch := decide) only [readSlot, readMemory, Slot.mk0, Slot.ctl, ctl_eta, BitVec.reduceToNat, Nat.reduceLT, reduceIte, BitVec.getLsbD_append, b1_bit, Nat.reduceSub, bit_zero]
theorem amo (c : Ctl) (ty : Ty) (op : BitVec 3) (far : Bool) (d a b : SReg) (disp : BitVec 48) : Statement (.amo c ty op far d a b disp) := by
  intro e he hw
  obtain rfl := Option.some.inj he
  simp (disch := decide) only [readSlot, readMemory, Slot.mk0, Slot.tyOf, Slot.ctl, Ty.ofCode_code, ctl_eta, Option.map_some, BitVec.reduceToNat, Nat.reduceLT, reduceIte, extract_low, extract_all, BitVec.getLsbD_append, b1_bit, Nat.reduceSub]
theorem cas (c : Ctl) (ty : Ty) (far : Bool) (d a b r : SReg) (disp : BitVec 48) : Statement (.cas c ty far d a b r disp) := by
  intro e he hw
  obtain rfl := Option.some.inj he
  simp (disch := decide) only [readSlot, readMemory, Slot.mk0, Slot.tyOf, Slot.ctl, Ty.ofCode_code, ctl_eta, Option.map_some, BitVec.reduceToNat, Nat.reduceLT, reduceIte, BitVec.getLsbD_append, b1_bit, Nat.reduceSub, bit_zero]
theorem fence (c : Ctl) (scope : Scope) : Statement (.fence c scope) := by
  intro e he hw
  obtain rfl := Option.some.inj he
  simp (disch := decide) only [readSlot, readMemory, Slot.mk0, Slot.ctl, ctl_eta, BitVec.reduceToNat, Nat.reduceLT, reduceIte, extract_low, extract_all, Scope.ofCode_code]
theorem msgH (c : Ctl) (a b r : SReg) : Statement (.msgH c a b r) := by
  intro e he hw
  obtain rfl := Option.some.inj he
  simp (disch := decide) only [readSlot, readMemory, Slot.mk0, Slot.ctl, ctl_eta, BitVec.reduceToNat, Nat.reduceLT, reduceIte, bit_zero, Bool.false_eq_true]
theorem msgD (c : Ctl) (a b : SReg) : Statement (.msgD c a b) := by
  intro e he hw
  obtain rfl := Option.some.inj he
  simp (disch := decide) only [readSlot, readMemory, Slot.mk0, Slot.ctl, ctl_eta, BitVec.reduceToNat, Nat.reduceLT, reduceIte, bit_one]
theorem msggS (c : Ctl) (self : Bool) (gid : BitVec 8) (a b : SReg) : Statement (.msggS c self gid a b) := by
  intro e he hw
  obtain rfl := Option.some.inj he
  simp (disch := decide) only [readSlot, readMemory, Slot.mk0, Slot.ctl, ctl_eta, BitVec.reduceToNat, Nat.reduceLT, reduceIte, extract_low, extract_all, BitVec.getLsbD_append, b1_bit, Nat.reduceSub, bit_zero, Bool.false_eq_true]
theorem msggD (c : Ctl) (self : Bool) (gid : BitVec 8) (a b : SReg) : Statement (.msggD c self gid a b) := by
  intro e he hw
  obtain rfl := Option.some.inj he
  simp (disch := decide) only [readSlot, readMemory, Slot.mk0, Slot.ctl, ctl_eta, BitVec.reduceToNat, Nat.reduceLT, reduceIte, extract_low, extract_all, BitVec.getLsbD_append, b1_bit, Nat.reduceSub, bit_zero, bit_one]
theorem waitd (c : Ctl) (d : SReg) (b : SrcB) (r : SReg) : Statement (.waitd c d b r) := by
  intro e he hw
  obtain rfl := Option.some.inj he
  cases b <;> simp (disch := decide) only [readSlot, readMemory, Slot.mk0, Slot.ctl, ctl_eta, BitVec.reduceToNat, Nat.reduceLT, reduceIte, Slot.srcB, bit_zero, bit_one, Bool.false_eq_true]
theorem binit (c : Ctl) (a : SReg) (cnt : BinitArg) : Statement (.binit c a cnt) := by
  intro e he hw
  obtain rfl := Option.some.inj he
  cases cnt <;> simp (disch := decide) only [readSlot, readMemory, Slot.mk0, Slot.ctl, ctl_eta, BitVec.reduceToNat, Nat.reduceLT, reduceIte, fn1_0, fn2_0, fn2_1, extract_low, extract_all]
theorem barr (c : Ctl) (d a : SReg) (b : SrcB) : Statement (.barr c d a b) := by
  intro e he hw
  obtain rfl := Option.some.inj he
  cases b <;> simp (disch := decide) only [readSlot, readMemory, Slot.mk0, Slot.ctl, ctl_eta, BitVec.reduceToNat, Nat.reduceLT, reduceIte, Slot.srcB, Slot.binary, bit_zero, bit_one, Bool.false_eq_true]
theorem expect (c : Ctl) (a : SReg) (b : SrcB) : Statement (.expect c a b) := by
  intro e he hw
  obtain rfl := Option.some.inj he
  cases b <;> simp (disch := decide) only [readSlot, readMemory, Slot.mk0, Slot.ctl, ctl_eta, BitVec.reduceToNat, Nat.reduceLT, reduceIte, Slot.srcB, Slot.binary, bit_zero, bit_one, Bool.false_eq_true]
theorem bwait (c : Ctl) (chk : Bool) (d a b : SReg) : Statement (.bwait c chk d a b) := by
  intro e he hw
  obtain rfl := Option.some.inj he
  simp (disch := decide) only [readSlot, readMemory, Slot.mk0, Slot.ctl, ctl_eta, BitVec.reduceToNat, Nat.reduceLT, reduceIte, BitVec.getLsbD_append, b1_bit, Nat.reduceSub, bit_zero]
theorem waitw (c : Ctl) (d b : SReg) (ch : BitVec 4) : Statement (.waitw c d b ch) := by
  intro e he hw
  obtain rfl := Option.some.inj he
  simp (disch := decide) only [readSlot, readMemory, Slot.mk0, Slot.ctl, ctl_eta, BitVec.reduceToNat, Nat.reduceLT, reduceIte, extract_low, extract_all]
theorem sbind (c : Ctl) (out vreg portb : Bool) (d a : SReg) (sh : ShReg) (ch : BitVec 4) (slot : BitVec 2) : Statement (.sbind c out vreg portb d a sh ch slot) := by
  intro e he hw
  obtain rfl := Option.some.inj he
  have h : vreg = false → sh = 0 := by rintro rfl; simp [Instr.wf] at hw; exact hw.2.2
  cases vreg
  case false => rw [h rfl]; simp (disch := decide) only [readSlot, readMemory, Slot.mk0, Slot.ctl, ctl_eta, BitVec.reduceToNat, Nat.reduceLT, reduceIte, extract_high, extract_low, extract_all, BitVec.getLsbD_append, b1_bit, Nat.reduceSub, bit_zero, Bool.false_eq_true]; rfl
  case true => simp (disch := decide) only [readSlot, readMemory, Slot.mk0, Slot.ctl, ctl_eta, BitVec.reduceToNat, Nat.reduceLT, reduceIte, shOf_spec, extract_high, extract_low, extract_all, BitVec.getLsbD_append, b1_bit, Nat.reduceSub, bit_zero]
theorem sfree (c : Ctl) (d : SReg) (slot : BitVec 2) : Statement (.sfree c d slot) := by
  intro e he hw
  obtain rfl := Option.some.inj he
  simp (disch := decide) only [readSlot, readMemory, Slot.mk0, Slot.ctl, ctl_eta, BitVec.reduceToNat, Nat.reduceLT, reduceIte, extract_low, extract_all]
theorem shape (c : Ctl) (tu : Bool) (kind : BitVec 2) (ty : Ty) (d : ShReg) (req : ShapeArg) : Statement (.shape c tu kind ty d req) := by
  intro e he hw
  obtain rfl := Option.some.inj he
  cases req <;> simp (disch := decide) only [readSlot, readVector, Slot.mk0, Slot.tyOf, Slot.ctl, Ty.ofCode_code, ctl_eta, Option.map_some, BitVec.reduceToNat, Nat.reduceLT, reduceIte, shOf_spec, extract_high, extract_low, extract_all, BitVec.getLsbD_append, b1_bit, Nat.reduceSub, bit_zero, bit_one1, Bool.false_eq_true]
theorem shget (c : Ctl) (field : BitVec 4) (d : SReg) (a : ShReg) : Statement (.shget c field d a) := by
  intro e he hw
  obtain rfl := Option.some.inj he
  simp (disch := decide) only [readSlot, readVector, Slot.mk0, Slot.ctl, ctl_eta, BitVec.reduceToNat, Nat.reduceLT, reduceIte, shOf_spec]
theorem vadd (c : Ctl) (ty : Ty) (d a : VReg) (b : VB) (sh : ShReg) (x : SReg) : Statement (.vadd c ty d a b sh x) := by
  intro e he hw
  obtain rfl := Option.some.inj he
  cases b <;> simp (disch := decide) only [readSlot, readVector, Slot.mk0, Slot.tyOf, Slot.ctl, Ty.ofCode_code, ctl_eta, Option.map_some, BitVec.reduceToNat, Nat.reduceLT, reduceIte, Slot.vbin, Slot.vb, xImm, Slot.x, vOf_spec, shOf_spec, extract_high, extract_all, Nat.reduceSub, bit_zero, bit_one, Bool.false_eq_true]
theorem vsub (c : Ctl) (ty : Ty) (d a : VReg) (b : VB) (sh : ShReg) (x : SReg) : Statement (.vsub c ty d a b sh x) := by
  intro e he hw
  obtain rfl := Option.some.inj he
  cases b <;> simp (disch := decide) only [readSlot, readVector, Slot.mk0, Slot.tyOf, Slot.ctl, Ty.ofCode_code, ctl_eta, Option.map_some, BitVec.reduceToNat, Nat.reduceLT, reduceIte, Slot.vbin, Slot.vb, xImm, Slot.x, vOf_spec, shOf_spec, extract_high, extract_all, Nat.reduceSub, bit_zero, bit_one, Bool.false_eq_true]
theorem vmul (c : Ctl) (ty : Ty) (d a : VReg) (b : VB) (sh : ShReg) (x : SReg) : Statement (.vmul c ty d a b sh x) := by
  intro e he hw
  obtain rfl := Option.some.inj he
  cases b <;> simp (disch := decide) only [readSlot, readVector, Slot.mk0, Slot.tyOf, Slot.ctl, Ty.ofCode_code, ctl_eta, Option.map_some, BitVec.reduceToNat, Nat.reduceLT, reduceIte, Slot.vbin, Slot.vb, xImm, Slot.x, vOf_spec, shOf_spec, extract_high, extract_all, Nat.reduceSub, bit_zero, bit_one, Bool.false_eq_true]
theorem vfma (c : Ctl) (ty : Ty) (d a : VReg) (b : VB) (sh : ShReg) (x : SReg) : Statement (.vfma c ty d a b sh x) := by
  intro e he hw
  obtain rfl := Option.some.inj he
  cases b <;> simp (disch := decide) only [readSlot, readVector, Slot.mk0, Slot.tyOf, Slot.ctl, Ty.ofCode_code, ctl_eta, Option.map_some, BitVec.reduceToNat, Nat.reduceLT, reduceIte, Slot.vbin, Slot.vb, xImm, Slot.x, vOf_spec, shOf_spec, extract_high, extract_all, Nat.reduceSub, bit_zero, bit_one, Bool.false_eq_true]
theorem vmin (c : Ctl) (ty : Ty) (d a : VReg) (b : VB) (sh : ShReg) (x : SReg) : Statement (.vmin c ty d a b sh x) := by
  intro e he hw
  obtain rfl := Option.some.inj he
  cases b <;> simp (disch := decide) only [readSlot, readVector, Slot.mk0, Slot.tyOf, Slot.ctl, Ty.ofCode_code, ctl_eta, Option.map_some, BitVec.reduceToNat, Nat.reduceLT, reduceIte, Slot.vbin, Slot.vb, xImm, Slot.x, vOf_spec, shOf_spec, extract_high, extract_all, Nat.reduceSub, bit_zero, bit_one, Bool.false_eq_true]
theorem vmax (c : Ctl) (ty : Ty) (d a : VReg) (b : VB) (sh : ShReg) (x : SReg) : Statement (.vmax c ty d a b sh x) := by
  intro e he hw
  obtain rfl := Option.some.inj he
  cases b <;> simp (disch := decide) only [readSlot, readVector, Slot.mk0, Slot.tyOf, Slot.ctl, Ty.ofCode_code, ctl_eta, Option.map_some, BitVec.reduceToNat, Nat.reduceLT, reduceIte, Slot.vbin, Slot.vb, xImm, Slot.x, vOf_spec, shOf_spec, extract_high, extract_all, Nat.reduceSub, bit_zero, bit_one, Bool.false_eq_true]
theorem vand (c : Ctl) (ty : Ty) (d a : VReg) (b : VB) (sh : ShReg) (x : SReg) : Statement (.vand c ty d a b sh x) := by
  intro e he hw
  obtain rfl := Option.some.inj he
  cases b <;> simp (disch := decide) only [readSlot, readVector, Slot.mk0, Slot.tyOf, Slot.ctl, Ty.ofCode_code, ctl_eta, Option.map_some, BitVec.reduceToNat, Nat.reduceLT, reduceIte, Slot.vbin, Slot.vb, xImm, Slot.x, vOf_spec, shOf_spec, extract_high, extract_all, Nat.reduceSub, bit_zero, bit_one, Bool.false_eq_true]
theorem vor (c : Ctl) (ty : Ty) (d a : VReg) (b : VB) (sh : ShReg) (x : SReg) : Statement (.vor c ty d a b sh x) := by
  intro e he hw
  obtain rfl := Option.some.inj he
  cases b <;> simp (disch := decide) only [readSlot, readVector, Slot.mk0, Slot.tyOf, Slot.ctl, Ty.ofCode_code, ctl_eta, Option.map_some, BitVec.reduceToNat, Nat.reduceLT, reduceIte, Slot.vbin, Slot.vb, xImm, Slot.x, vOf_spec, shOf_spec, extract_high, extract_all, Nat.reduceSub, bit_zero, bit_one, Bool.false_eq_true]
theorem vxor (c : Ctl) (ty : Ty) (d a : VReg) (b : VB) (sh : ShReg) (x : SReg) : Statement (.vxor c ty d a b sh x) := by
  intro e he hw
  obtain rfl := Option.some.inj he
  cases b <;> simp (disch := decide) only [readSlot, readVector, Slot.mk0, Slot.tyOf, Slot.ctl, Ty.ofCode_code, ctl_eta, Option.map_some, BitVec.reduceToNat, Nat.reduceLT, reduceIte, Slot.vbin, Slot.vb, xImm, Slot.x, vOf_spec, shOf_spec, extract_high, extract_all, Nat.reduceSub, bit_zero, bit_one, Bool.false_eq_true]
theorem vshl (c : Ctl) (ty : Ty) (d a : VReg) (b : VB) (sh : ShReg) (x : SReg) : Statement (.vshl c ty d a b sh x) := by
  intro e he hw
  obtain rfl := Option.some.inj he
  cases b <;> simp (disch := decide) only [readSlot, readVector, Slot.mk0, Slot.tyOf, Slot.ctl, Ty.ofCode_code, ctl_eta, Option.map_some, BitVec.reduceToNat, Nat.reduceLT, reduceIte, Slot.vbin, Slot.vb, xImm, Slot.x, vOf_spec, shOf_spec, extract_high, extract_all, Nat.reduceSub, bit_zero, bit_one, Bool.false_eq_true]
theorem vshr (c : Ctl) (ty : Ty) (d a : VReg) (b : VB) (sh : ShReg) (x : SReg) : Statement (.vshr c ty d a b sh x) := by
  intro e he hw
  obtain rfl := Option.some.inj he
  cases b <;> simp (disch := decide) only [readSlot, readVector, Slot.mk0, Slot.tyOf, Slot.ctl, Ty.ofCode_code, ctl_eta, Option.map_some, BitVec.reduceToNat, Nat.reduceLT, reduceIte, Slot.vbin, Slot.vb, xImm, Slot.x, vOf_spec, shOf_spec, extract_high, extract_all, Nat.reduceSub, bit_zero, bit_one, Bool.false_eq_true]
theorem vsra (c : Ctl) (ty : Ty) (d a : VReg) (b : VB) (sh : ShReg) (x : SReg) : Statement (.vsra c ty d a b sh x) := by
  intro e he hw
  obtain rfl := Option.some.inj he
  cases b <;> simp (disch := decide) only [readSlot, readVector, Slot.mk0, Slot.tyOf, Slot.ctl, Ty.ofCode_code, ctl_eta, Option.map_some, BitVec.reduceToNat, Nat.reduceLT, reduceIte, Slot.vbin, Slot.vb, xImm, Slot.x, vOf_spec, shOf_spec, extract_high, extract_all, Nat.reduceSub, bit_zero, bit_one, Bool.false_eq_true]
theorem vcmp (c : Ctl) (ty : Ty) (cond : Cond) (d : SReg) (a : VReg) (b : VB) (sh : ShReg) (x : SReg) : Statement (.vcmp c ty cond d a b sh x) := by
  intro e he hw
  obtain rfl := Option.some.inj he
  cases b <;> simp (disch := decide) only [readSlot, readVector, Slot.mk0, Slot.tyOf, Slot.ctl, Slot.cond, Ty.ofCode_code, ctl_eta, Option.map_some, BitVec.reduceToNat, Nat.reduceLT, reduceIte, Slot.vb, xImm, Slot.x, vOf_spec, shOf_spec, extract_high, extract_low, extract_all, BitVec.getLsbD_append, Nat.reduceSub, Cond.ofCode_code, Option.bind_some, bit_zero, bit_one1, Bool.false_eq_true]
theorem vsel (c : Ctl) (ty : Ty) (d a b : VReg) (sh : ShReg) (x : SReg) : Statement (.vsel c ty d a b sh x) := by
  intro e he hw
  obtain rfl := Option.some.inj he
  simp (disch := decide) only [readSlot, readVector, Slot.mk0, Slot.tyOf, Slot.ctl, Ty.ofCode_code, ctl_eta, Option.map_some, BitVec.reduceToNat, Nat.reduceLT, reduceIte, Slot.vbin, xImm, Slot.x, vOf_spec, shOf_spec, extract_high, extract_all, Nat.reduceSub]
theorem vcvt (c : Ctl) (ty : Ty) (d a : VReg) (sh : ShReg) (src : Ty) (rm : Rm) (x : SReg) : Statement (.vcvt c ty d a sh src rm x) := by
  intro e he hw
  obtain rfl := Option.some.inj he
  simp (disch := decide) only [readSlot, readVector, Slot.mk0, Slot.tyOf, Slot.ctl, Ty.ofCode_code, ctl_eta, Option.map_some, BitVec.reduceToNat, Nat.reduceLT, reduceIte, Slot.vun, xImm, Slot.x, Slot.srcTy, Slot.rmOf, vOf_spec, shOf_spec, extract_high, extract_low, extract_all, Nat.reduceSub, Option.bind_some, Rm.ofCode_code]
theorem vqnt (c : Ctl) (ty : Ty) (d a : VReg) (b : SReg) (sh : ShReg) (src : Ty) (rm : Rm) (x : SReg) : Statement (.vqnt c ty d a b sh src rm x) := by
  intro e he hw
  obtain rfl := Option.some.inj he
  simp (disch := decide) only [readSlot, readVector, Slot.mk0, Slot.tyOf, Slot.ctl, Ty.ofCode_code, ctl_eta, Option.map_some, BitVec.reduceToNat, Nat.reduceLT, reduceIte, Slot.vun, xImm, Slot.x, Slot.srcTy, Slot.rmOf, vOf_spec, shOf_spec, extract_high, extract_low, extract_all, Nat.reduceSub, Option.bind_some, Rm.ofCode_code]
theorem vdq (c : Ctl) (ty : Ty) (d a : VReg) (b : SReg) (sh : ShReg) (src : Ty) (x : SReg) : Statement (.vdq c ty d a b sh src x) := by
  intro e he hw
  obtain rfl := Option.some.inj he
  simp (disch := decide) only [readSlot, readVector, Slot.mk0, Slot.tyOf, Slot.ctl, Ty.ofCode_code, ctl_eta, Option.map_some, BitVec.reduceToNat, Nat.reduceLT, reduceIte, Slot.vun, xImm, Slot.x, Slot.srcTy, vOf_spec, shOf_spec, extract_high, extract_low, extract_all, Nat.reduceSub, Option.bind_some]
theorem vreds (c : Ctl) (ty : Ty) (d : SReg) (a : VReg) (b : SReg) (sh : ShReg) (x : SReg) : Statement (.vreds c ty d a b sh x) := by
  intro e he hw
  obtain rfl := Option.some.inj he
  simp (disch := decide) only [readSlot, readVector, Slot.mk0, Slot.tyOf, Slot.ctl, Ty.ofCode_code, ctl_eta, Option.map_some, BitVec.reduceToNat, Nat.reduceLT, reduceIte, xImm, Slot.x, vOf_spec, shOf_spec, extract_high, extract_all, Nat.reduceSub]
theorem vredm (c : Ctl) (ty : Ty) (index max : Bool) (d : SReg) (a : VReg) (sh : ShReg) (x : SReg) : Statement (.vredm c ty index max d a sh x) := by
  intro e he hw
  obtain rfl := Option.some.inj he
  simp (disch := decide) only [readSlot, readVector, Slot.mk0, Slot.tyOf, Slot.ctl, Ty.ofCode_code, ctl_eta, Option.map_some, BitVec.reduceToNat, Nat.reduceLT, reduceIte, xImm, Slot.x, vOf_spec, shOf_spec, extract_high, extract_all, BitVec.getLsbD_append, b1_bit, Nat.reduceSub, bit_zero]
theorem vscan (c : Ctl) (ty : Ty) (d a : VReg) (sh : ShReg) (x : SReg) : Statement (.vscan c ty d a sh x) := by
  intro e he hw
  obtain rfl := Option.some.inj he
  simp (disch := decide) only [readSlot, readVector, Slot.mk0, Slot.tyOf, Slot.ctl, Ty.ofCode_code, ctl_eta, Option.map_some, BitVec.reduceToNat, Nat.reduceLT, reduceIte, Slot.vun, xImm, Slot.x, vOf_spec, shOf_spec, extract_high, extract_all, Nat.reduceSub]
theorem vperm (c : Ctl) (ty : Ty) (d a b : VReg) (sh : ShReg) (x : SReg) : Statement (.vperm c ty d a b sh x) := by
  intro e he hw
  obtain rfl := Option.some.inj he
  simp (disch := decide) only [readSlot, readVector, Slot.mk0, Slot.tyOf, Slot.ctl, Ty.ofCode_code, ctl_eta, Option.map_some, BitVec.reduceToNat, Nat.reduceLT, reduceIte, Slot.vbin, xImm, Slot.x, vOf_spec, shOf_spec, extract_high, extract_all, Nat.reduceSub]
theorem vslide (c : Ctl) (ty : Ty) (dn : Bool) (d a : VReg) (b : SReg) (sh : ShReg) (x : SReg) : Statement (.vslide c ty dn d a b sh x) := by
  intro e he hw
  obtain rfl := Option.some.inj he
  simp (disch := decide) only [readSlot, readVector, Slot.mk0, Slot.tyOf, Slot.ctl, Ty.ofCode_code, ctl_eta, Option.map_some, BitVec.reduceToNat, Nat.reduceLT, reduceIte, Slot.vun, xImm, Slot.x, vOf_spec, shOf_spec, extract_high, extract_all, BitVec.getLsbD_append, b1_bit, Nat.reduceSub, bit_zero]
theorem vbcast (c : Ctl) (ty : Ty) (d : VReg) (src : BcastSrc) (sh : ShReg) (x : SReg) : Statement (.vbcast c ty d src sh x) := by
  intro e he hw
  obtain rfl := Option.some.inj he
  cases src <;> simp (disch := decide) only [readSlot, readVector, Slot.mk0, Slot.tyOf, Slot.ctl, Ty.ofCode_code, ctl_eta, Option.map_some, BitVec.reduceToNat, Nat.reduceLT, reduceIte, xImm, Slot.x, vOf_spec, shOf_spec, extract_high, extract_low, extract_all, Nat.reduceSub, bit_zero, bit_one, Bool.false_eq_true]
theorem viota (c : Ctl) (ty : Ty) (d : VReg) (a b : SReg) (sh : ShReg) (x : SReg) : Statement (.viota c ty d a b sh x) := by
  intro e he hw
  obtain rfl := Option.some.inj he
  simp (disch := decide) only [readSlot, readVector, Slot.mk0, Slot.tyOf, Slot.ctl, Ty.ofCode_code, ctl_eta, Option.map_some, BitVec.reduceToNat, Nat.reduceLT, reduceIte, xImm, Slot.x, vOf_spec, shOf_spec, extract_high, extract_all, Nat.reduceSub]
theorem vexp2 (c : Ctl) (ty : Ty) (d a : VReg) (sh : ShReg) (x : SReg) : Statement (.vexp2 c ty d a sh x) := by
  intro e he hw
  obtain rfl := Option.some.inj he
  simp (disch := decide) only [readSlot, readVector, Slot.mk0, Slot.tyOf, Slot.ctl, Ty.ofCode_code, ctl_eta, Option.map_some, BitVec.reduceToNat, Nat.reduceLT, reduceIte, Slot.vun, xImm, Slot.x, vOf_spec, shOf_spec, extract_high, extract_all, Nat.reduceSub]
theorem vlog2 (c : Ctl) (ty : Ty) (d a : VReg) (sh : ShReg) (x : SReg) : Statement (.vlog2 c ty d a sh x) := by
  intro e he hw
  obtain rfl := Option.some.inj he
  simp (disch := decide) only [readSlot, readVector, Slot.mk0, Slot.tyOf, Slot.ctl, Ty.ofCode_code, ctl_eta, Option.map_some, BitVec.reduceToNat, Nat.reduceLT, reduceIte, Slot.vun, xImm, Slot.x, vOf_spec, shOf_spec, extract_high, extract_all, Nat.reduceSub]
theorem vrcp (c : Ctl) (ty : Ty) (d a : VReg) (sh : ShReg) (x : SReg) : Statement (.vrcp c ty d a sh x) := by
  intro e he hw
  obtain rfl := Option.some.inj he
  simp (disch := decide) only [readSlot, readVector, Slot.mk0, Slot.tyOf, Slot.ctl, Ty.ofCode_code, ctl_eta, Option.map_some, BitVec.reduceToNat, Nat.reduceLT, reduceIte, Slot.vun, xImm, Slot.x, vOf_spec, shOf_spec, extract_high, extract_all, Nat.reduceSub]
theorem vrsq (c : Ctl) (ty : Ty) (d a : VReg) (sh : ShReg) (x : SReg) : Statement (.vrsq c ty d a sh x) := by
  intro e he hw
  obtain rfl := Option.some.inj he
  simp (disch := decide) only [readSlot, readVector, Slot.mk0, Slot.tyOf, Slot.ctl, Ty.ofCode_code, ctl_eta, Option.map_some, BitVec.reduceToNat, Nat.reduceLT, reduceIte, Slot.vun, xImm, Slot.x, vOf_spec, shOf_spec, extract_high, extract_all, Nat.reduceSub]
theorem vmovs (c : Ctl) (ty : Ty) (dir : MovsDir) (b : SReg) : Statement (.vmovs c ty dir b) := by
  intro e he hw
  obtain rfl := Option.some.inj he
  cases dir <;> simp (disch := decide) only [readSlot, readVector, Slot.mk0, Slot.tyOf, Slot.ctl, Ty.ofCode_code, ctl_eta, Option.map_some, BitVec.reduceToNat, Nat.reduceLT, reduceIte, vOf_spec, bit_zero, bit_one, Bool.false_eq_true]
theorem kand (c : Ctl) (d a b : SReg) : Statement (.kand c d a b) := by
  intro e he hw
  obtain rfl := Option.some.inj he
  simp (disch := decide) only [readSlot, readVector, Slot.mk0, Slot.ctl, ctl_eta, BitVec.reduceToNat, Nat.reduceLT, reduceIte]
theorem kor (c : Ctl) (d a b : SReg) : Statement (.kor c d a b) := by
  intro e he hw
  obtain rfl := Option.some.inj he
  simp (disch := decide) only [readSlot, readVector, Slot.mk0, Slot.ctl, ctl_eta, BitVec.reduceToNat, Nat.reduceLT, reduceIte]
theorem kxor (c : Ctl) (d a b : SReg) : Statement (.kxor c d a b) := by
  intro e he hw
  obtain rfl := Option.some.inj he
  simp (disch := decide) only [readSlot, readVector, Slot.mk0, Slot.ctl, ctl_eta, BitVec.reduceToNat, Nat.reduceLT, reduceIte]
theorem knot (c : Ctl) (d a : SReg) : Statement (.knot c d a) := by
  intro e he hw
  obtain rfl := Option.some.inj he
  simp (disch := decide) only [readSlot, readVector, Slot.mk0, Slot.ctl, ctl_eta, BitVec.reduceToNat, Nat.reduceLT, reduceIte]
theorem kpopc (c : Ctl) (d a : SReg) : Statement (.kpopc c d a) := by
  intro e he hw
  obtain rfl := Option.some.inj he
  simp (disch := decide) only [readSlot, readVector, Slot.mk0, Slot.ctl, ctl_eta, BitVec.reduceToNat, Nat.reduceLT, reduceIte]
theorem kfirst (c : Ctl) (d a : SReg) : Statement (.kfirst c d a) := by
  intro e he hw
  obtain rfl := Option.some.inj he
  simp (disch := decide) only [readSlot, readVector, Slot.mk0, Slot.ctl, ctl_eta, BitVec.reduceToNat, Nat.reduceLT, reduceIte]
theorem kset (c : Ctl) (d : SReg) (src : KsetArg) : Statement (.kset c d src) := by
  intro e he hw
  obtain rfl := Option.some.inj he
  cases src <;> simp (disch := decide) only [readSlot, readVector, Slot.mk0, Slot.tyOf, Slot.ctl, Ty.ofCode_code, ctl_eta, Option.map_some, BitVec.reduceToNat, Nat.reduceLT, reduceIte, xImm, Slot.x, shOf_spec, extract_high, extract_all, Nat.reduceSub, bit_zero, bit_one, Bool.false_eq_true]
theorem kmov (c : Ctl) (d a : SReg) : Statement (.kmov c d a) := by
  intro e he hw
  obtain rfl := Option.some.inj he
  simp (disch := decide) only [readSlot, readVector, Slot.mk0, Slot.ctl, ctl_eta, BitVec.reduceToNat, Nat.reduceLT, reduceIte]
theorem tld (c : Ctl) (ty : Ty) (rowsN : Bool) (d : TReg) (a : SReg) (sh : ShReg) (m : MCtl) : Statement (.tld c ty rowsN d a sh m) := by
  intro e he hw
  obtain rfl := Option.some.inj he
  simp (disch := decide) only [readSlot, readMatrix, Slot.mk0, Slot.tyOf, Slot.ctl, Ty.ofCode_code, ctl_eta, Option.map_some, BitVec.reduceToNat, Nat.reduceLT, reduceIte, tOf_spec, MCtl.ofBits_bits, shOf_spec, BitVec.getLsbD_append, b1_bit, Nat.reduceSub, bit_zero]
theorem tst (c : Ctl) (ty : Ty) (rowsN : Bool) (a : SReg) (b : TReg) (sh : ShReg) (m : MCtl) : Statement (.tst c ty rowsN a b sh m) := by
  intro e he hw
  obtain rfl := Option.some.inj he
  simp (disch := decide) only [readSlot, readMatrix, Slot.mk0, Slot.tyOf, Slot.ctl, Ty.ofCode_code, ctl_eta, Option.map_some, BitVec.reduceToNat, Nat.reduceLT, reduceIte, tOf_spec, MCtl.ofBits_bits, shOf_spec, BitVec.getLsbD_append, b1_bit, Nat.reduceSub, bit_zero]
theorem tzero (c : Ctl) (d : TReg) (m : MCtl) : Statement (.tzero c d m) := by
  intro e he hw
  obtain rfl := Option.some.inj he
  simp (disch := decide) only [readSlot, readMatrix, Slot.mk0, Slot.ctl, ctl_eta, BitVec.reduceToNat, Nat.reduceLT, reduceIte, tOf_spec, MCtl.ofBits_bits]
theorem tmov (c : Ctl) (d a : TileReg) (m : MCtl) : Statement (.tmov c d a m) := by
  intro e he hw
  obtain rfl := Option.some.inj he
  simp (disch := decide) only [readSlot, readMatrix, Slot.mk0, Slot.ctl, ctl_eta, BitVec.reduceToNat, Nat.reduceLT, reduceIte, MCtl.ofBits_bits, tileOf_spec]
theorem ttr (c : Ctl) (ty : Ty) (d a : TReg) (sh : ShReg) (m : MCtl) : Statement (.ttr c ty d a sh m) := by
  intro e he hw
  obtain rfl := Option.some.inj he
  simp (disch := decide) only [readSlot, readMatrix, Slot.mk0, Slot.tyOf, Slot.ctl, Ty.ofCode_code, ctl_eta, Option.map_some, BitVec.reduceToNat, Nat.reduceLT, reduceIte, tOf_spec, MCtl.ofBits_bits, shOf_spec]
theorem cld (c : Ctl) (ty : Ty) (d : CReg) (a : SReg) (sh : ShReg) (m : MCtl) : Statement (.cld c ty d a sh m) := by
  intro e he hw
  obtain rfl := Option.some.inj he
  simp (disch := decide) only [readSlot, readMatrix, Slot.mk0, Slot.tyOf, Slot.ctl, Ty.ofCode_code, ctl_eta, Option.map_some, BitVec.reduceToNat, Nat.reduceLT, reduceIte, cOf_spec, MCtl.ofBits_bits, shOf_spec]
theorem cst (c : Ctl) (ty : Ty) (a : SReg) (b : CReg) (sh : ShReg) (m : MCtl) : Statement (.cst c ty a b sh m) := by
  intro e he hw
  obtain rfl := Option.some.inj he
  simp (disch := decide) only [readSlot, readMatrix, Slot.mk0, Slot.tyOf, Slot.ctl, Ty.ofCode_code, ctl_eta, Option.map_some, BitVec.reduceToNat, Nat.reduceLT, reduceIte, cOf_spec, MCtl.ofBits_bits, shOf_spec]
theorem czero (c : Ctl) (d : CReg) (m : MCtl) : Statement (.czero c d m) := by
  intro e he hw
  obtain rfl := Option.some.inj he
  simp (disch := decide) only [readSlot, readMatrix, Slot.mk0, Slot.ctl, ctl_eta, BitVec.reduceToNat, Nat.reduceLT, reduceIte, cOf_spec, MCtl.ofBits_bits]
theorem mma (c : Ctl) (ty : TyB) (iacc : Bool) (d : CReg) (a b : MatOp) (sh : ShReg) (m : MCtl) : Statement (.mma c ty iacc d a b sh m) := by
  intro e he hw
  obtain rfl := Option.some.inj he
  have h := mmaFn_bits iacc a b
  simp only [readSlot, readMatrix, Slot.prod, Slot.mk0, Slot.ctl, TyB.ofCode_code, ctl_eta, Option.map_some, BitVec.reduceToNat, Nat.reduceLT, reduceIte, h.1, h.2.1, h.2.2, opOf_spec, cOf_spec, shOf_spec, MCtl.ofBits_bits]
theorem mmas (c : Ctl) (ty : Ty) (iacc : Bool) (d : CReg) (a b : MatOp) (sh : ShReg) (m : MCtl) : Statement (.mmas c ty iacc d a b sh m) := by
  intro e he hw
  obtain rfl := Option.some.inj he
  have h := mmaFn_bits iacc a b
  simp only [readSlot, readMatrix, Slot.prod, Slot.mk0, Slot.tyOf, Slot.ctl, Ty.ofCode_code, ctl_eta, Option.map_some, BitVec.reduceToNat, Nat.reduceLT, reduceIte, h.1, h.2.1, h.2.2, opOf_spec, cOf_spec, shOf_spec, MCtl.ofBits_bits]
theorem mmam (c : Ctl) (ty : TyB) (iacc : Bool) (d : CReg) (a b : MatOp) (sh : ShReg) (m : MCtl) : Statement (.mmam c ty iacc d a b sh m) := by
  intro e he hw
  obtain rfl := Option.some.inj he
  have h := mmaFn_bits iacc a b
  simp only [readSlot, readMatrix, Slot.prod, Slot.mk0, Slot.ctl, TyB.ofCode_code, ctl_eta, Option.map_some, BitVec.reduceToNat, Nat.reduceLT, reduceIte, h.1, h.2.1, h.2.2, opOf_spec, cOf_spec, shOf_spec, MCtl.ofBits_bits]
theorem mpbl (c : Ctl) (d : TReg) (a : SReg) (m : MCtl) : Statement (.mpbl c d a m) := by
  intro e he hw
  obtain rfl := Option.some.inj he
  simp (disch := decide) only [readSlot, readMatrix, Slot.mk0, Slot.ctl, ctl_eta, BitVec.reduceToNat, Nat.reduceLT, reduceIte, tOf_spec, MCtl.ofBits_bits]
theorem ccvt (c : Ctl) (ty : Ty) (isrc : Bool) (d : TReg) (a : CReg) (sh : ShReg) (m : MCtl) : Statement (.ccvt c ty isrc d a sh m) := by
  intro e he hw
  obtain rfl := Option.some.inj he
  simp (disch := decide) only [readSlot, readMatrix, Slot.mk0, Slot.tyOf, Slot.ctl, Ty.ofCode_code, ctl_eta, Option.map_some, BitVec.reduceToNat, Nat.reduceLT, reduceIte, tOf_spec, cOf_spec, MCtl.ofBits_bits, shOf_spec, BitVec.getLsbD_append, b1_bit, Nat.reduceSub, bit_zero]
theorem bfmt (c : Ctl) (a : SReg) (bank : BitVec 4) : Statement (.bfmt c a bank) := by
  intro e he hw
  obtain rfl := Option.some.inj he
  simp (disch := decide) only [readSlot, readMatrix, Slot.mk0, Slot.ctl, ctl_eta, BitVec.reduceToNat, Nat.reduceLT, reduceIte, extract_low, extract_all, bit_zero, Bool.false_eq_true]
theorem bfmtRd (c : Ctl) (d : SReg) (bank : BitVec 4) : Statement (.bfmtRd c d bank) := by
  intro e he hw
  obtain rfl := Option.some.inj he
  simp (disch := decide) only [readSlot, readMatrix, Slot.mk0, Slot.ctl, ctl_eta, BitVec.reduceToNat, Nat.reduceLT, reduceIte, extract_low, extract_all, bit_one]
theorem bcpy (c : Ctl) (a b r : SReg) (m : MCtl) : Statement (.bcpy c a b r m) := by
  intro e he hw
  obtain rfl := Option.some.inj he
  simp (disch := decide) only [readSlot, readMatrix, Slot.mk0, Slot.ctl, ctl_eta, BitVec.reduceToNat, Nat.reduceLT, reduceIte, MCtl.ofBits_bits]
theorem mlu (c : Ctl) (d : CReg) (sh : ShReg) (m : MCtl) : Statement (.mlu c d sh m) := by
  intro e he hw
  obtain rfl := Option.some.inj he
  simp (disch := decide) only [readSlot, readMatrix, Slot.mk0, Slot.ctl, ctl_eta, BitVec.reduceToNat, Nat.reduceLT, reduceIte, cOf_spec, MCtl.ofBits_bits, shOf_spec]
theorem mchol (c : Ctl) (d : CReg) (sh : ShReg) (m : MCtl) : Statement (.mchol c d sh m) := by
  intro e he hw
  obtain rfl := Option.some.inj he
  simp (disch := decide) only [readSlot, readMatrix, Slot.mk0, Slot.ctl, ctl_eta, BitVec.reduceToNat, Nat.reduceLT, reduceIte, cOf_spec, MCtl.ofBits_bits, shOf_spec]
theorem mqr (c : Ctl) (d a : CReg) (sh : ShReg) (m : MCtl) : Statement (.mqr c d a sh m) := by
  intro e he hw
  obtain rfl := Option.some.inj he
  simp (disch := decide) only [readSlot, readMatrix, Slot.mk0, Slot.ctl, ctl_eta, BitVec.reduceToNat, Nat.reduceLT, reduceIte, cOf_spec, MCtl.ofBits_bits, shOf_spec]
theorem mqapp (c : Ctl) (qt right : Bool) (d a b : CReg) (sh : ShReg) (m : MCtl) : Statement (.mqapp c qt right d a b sh m) := by
  intro e he hw
  obtain rfl := Option.some.inj he
  simp (disch := decide) only [readSlot, readMatrix, Slot.mk0, Slot.ctl, ctl_eta, BitVec.reduceToNat, Nat.reduceLT, reduceIte, cOf_spec, MCtl.ofBits_bits, shOf_spec, BitVec.getLsbD_append, b1_bit, Nat.reduceSub, bit_zero]
theorem mtrs (c : Ctl) (right up unit tr : Bool) (d a : CReg) (sh : ShReg) (m : MCtl) : Statement (.mtrs c right up unit tr d a sh m) := by
  intro e he hw
  obtain rfl := Option.some.inj he
  simp (disch := decide) only [readSlot, readMatrix, Slot.mk0, Slot.ctl, ctl_eta, BitVec.reduceToNat, Nat.reduceLT, reduceIte, cOf_spec, MCtl.ofBits_bits, shOf_spec, BitVec.getLsbD_append, b1_bit, Nat.reduceSub]
theorem mperm (c : Ctl) (inv : Bool) (d a : CReg) (sh : ShReg) (m : MCtl) : Statement (.mperm c inv d a sh m) := by
  intro e he hw
  obtain rfl := Option.some.inj he
  simp (disch := decide) only [readSlot, readMatrix, Slot.mk0, Slot.ctl, ctl_eta, BitVec.reduceToNat, Nat.reduceLT, reduceIte, cOf_spec, MCtl.ofBits_bits, shOf_spec, BitVec.getLsbD_append, b1_bit, Nat.reduceSub, bit_zero]
theorem mfstPerm (c : Ctl) (d : VReg) : Statement (.mfstPerm c d) := by
  intro e he hw
  obtain rfl := Option.some.inj he
  simp (disch := decide) only [readSlot, readMatrix, Slot.mk0, Slot.ctl, ctl_eta, BitVec.reduceToNat, Nat.reduceLT, reduceIte, vOf_spec]
theorem mfstGrow (c : Ctl) (d : SReg) : Statement (.mfstGrow c d) := by
  intro e he hw
  obtain rfl := Option.some.inj he
  simp (disch := decide) only [readSlot, readMatrix, Slot.mk0, Slot.ctl, ctl_eta, BitVec.reduceToNat, Nat.reduceLT, reduceIte, fn1_0]
theorem mfstStat (c : Ctl) (d : SReg) : Statement (.mfstStat c d) := by
  intro e he hw
  obtain rfl := Option.some.inj he
  simp (disch := decide) only [readSlot, readMatrix, Slot.mk0, Slot.ctl, ctl_eta, BitVec.reduceToNat, Nat.reduceLT, reduceIte, fn2_0, fn2_1]
theorem cpy (c : Ctl) (a : VReg) (e : ECtl) : Statement (.cpy c a e) := by
  intro e he hw
  obtain rfl := Option.some.inj he
  simp (disch := decide) only [readSlot, readSystem, Slot.mk0, Slot.ctl, ctl_eta, BitVec.reduceToNat, Nat.reduceLT, reduceIte, ECtl.ofBits_bits, vOf_spec]
theorem cpyf (c : Ctl) (a : VReg) (e : ECtl) : Statement (.cpyf c a e) := by
  intro e he hw
  obtain rfl := Option.some.inj he
  simp (disch := decide) only [readSlot, readSystem, Slot.mk0, Slot.ctl, ctl_eta, BitVec.reduceToNat, Nat.reduceLT, reduceIte, ECtl.ofBits_bits, vOf_spec]
theorem csrg (c : Ctl) (d : SReg) (a : VReg) (e : ECtl) : Statement (.csrg c d a e) := by
  intro e he hw
  obtain rfl := Option.some.inj he
  simp (disch := decide) only [readSlot, readSystem, Slot.mk0, Slot.ctl, ctl_eta, BitVec.reduceToNat, Nat.reduceLT, reduceIte, ECtl.ofBits_bits, vOf_spec]
theorem wmarkArm (c : Ctl) (a b : SReg) (ch : BitVec 4) : Statement (.wmarkArm c a b ch) := by
  intro e he hw
  obtain rfl := Option.some.inj he
  simp (disch := decide) only [readSlot, readSystem, Slot.mk0, Slot.ctl, ctl_eta, BitVec.reduceToNat, Nat.reduceLT, reduceIte, extract_low, extract_all]
theorem wmarkAdv (c : Ctl) (a : SReg) (ch : BitVec 4) : Statement (.wmarkAdv c a ch) := by
  intro e he hw
  obtain rfl := Option.some.inj he
  simp (disch := decide) only [readSlot, readSystem, Slot.mk0, Slot.ctl, ctl_eta, BitVec.reduceToNat, Nat.reduceLT, reduceIte, fn1_0, extract_low, extract_all]
theorem wmarkClr (c : Ctl) (ch : BitVec 4) : Statement (.wmarkClr c ch) := by
  intro e he hw
  obtain rfl := Option.some.inj he
  simp (disch := decide) only [readSlot, readSystem, Slot.mk0, Slot.ctl, ctl_eta, BitVec.reduceToNat, Nat.reduceLT, reduceIte, fn2_0, fn2_1, extract_low, extract_all]
theorem wmarkRd (c : Ctl) (d : SReg) (ch : BitVec 4) : Statement (.wmarkRd c d ch) := by
  intro e he hw
  obtain rfl := Option.some.inj he
  simp (disch := decide) only [readSlot, readSystem, Slot.mk0, Slot.ctl, ctl_eta, BitVec.reduceToNat, Nat.reduceLT, reduceIte, fn3_0, fn3_1, fn3_2, extract_low, extract_all]
theorem lautLoad (c : Ctl) (d a b : SReg) (e : ECtl) : Statement (.lautLoad c d a b e) := by
  intro e he hw
  obtain rfl := Option.some.inj he
  simp (disch := decide) only [readSlot, readSystem, Slot.mk0, Slot.tyOf, Slot.ctl, ctl_eta, BitVec.reduceToNat, Nat.reduceLT, reduceIte, ECtl.ofBits_bits, Slot.laut]
theorem lautReset (c : Ctl) (d a b : SReg) (e : ECtl) : Statement (.lautReset c d a b e) := by
  intro e he hw
  obtain rfl := Option.some.inj he
  simp (disch := decide) only [readSlot, readSystem, Slot.mk0, Slot.tyOf, Slot.ctl, ctl_eta, BitVec.reduceToNat, Nat.reduceLT, reduceIte, ECtl.ofBits_bits, Slot.laut, fn1_0]
theorem lautMask (c : Ctl) (ty : Ty) (d a b : SReg) (e : ECtl) : Statement (.lautMask c ty d a b e) := by
  intro e he hw
  obtain rfl := Option.some.inj he
  simp (disch := decide) only [readSlot, readSystem, Slot.mk0, Slot.tyOf, Slot.ctl, Ty.ofCode_code, ctl_eta, Option.map_some, BitVec.reduceToNat, Nat.reduceLT, reduceIte, ECtl.ofBits_bits, Slot.laut, fn2_0, fn2_1]
theorem lautAdv (c : Ctl) (d a b : SReg) (e : ECtl) : Statement (.lautAdv c d a b e) := by
  intro e he hw
  obtain rfl := Option.some.inj he
  simp (disch := decide) only [readSlot, readSystem, Slot.mk0, Slot.tyOf, Slot.ctl, ctl_eta, BitVec.reduceToNat, Nat.reduceLT, reduceIte, ECtl.ofBits_bits, Slot.laut, fn3_0, fn3_1, fn3_2]
theorem spawn (c : Ctl) (d a b r : SReg) : Statement (.spawn c d a b r) := by
  intro e he hw
  obtain rfl := Option.some.inj he
  simp (disch := decide) only [readSlot, readSystem, Slot.mk0, Slot.ctl, ctl_eta, BitVec.reduceToNat, Nat.reduceLT, reduceIte]
theorem decr (c : Ctl) (wait : Bool) (a : SReg) (b : SrcB) : Statement (.decr c wait a b) := by
  intro e he hw
  obtain rfl := Option.some.inj he
  cases b <;> simp (disch := decide) only [readSlot, readSystem, Slot.mk0, Slot.ctl, ctl_eta, BitVec.reduceToNat, Nat.reduceLT, reduceIte, Slot.srcB, BitVec.getLsbD_append, b1_bit, Nat.reduceSub, bit_zero, bit_one1, Bool.false_eq_true]
theorem retire (c : Ctl) (a : SReg) : Statement (.retire c a) := by
  intro e he hw
  obtain rfl := Option.some.inj he
  simp (disch := decide) only [readSlot, readSystem, Slot.mk0, Slot.ctl, ctl_eta, BitVec.reduceToNat, Nat.reduceLT, reduceIte]
theorem yield (c : Ctl) : Statement (.yield c) := by
  intro e he hw
  obtain rfl := Option.some.inj he
  simp (disch := decide) only [readSlot, readSystem, Slot.mk0, Slot.ctl, ctl_eta, BitVec.reduceToNat, Nat.reduceLT, reduceIte]
theorem compose (c : Ctl) (d : SReg) (code : BitVec 3) (b : SReg) : Statement (.compose c d code b) := by
  intro e he hw
  obtain rfl := Option.some.inj he
  simp (disch := decide) only [readSlot, readSystem, Slot.mk0, Slot.ctl, ctl_eta, BitVec.reduceToNat, Nat.reduceLT, reduceIte, extract_low, extract_all]
theorem decomp (c : Ctl) : Statement (.decomp c) := by
  intro e he hw
  obtain rfl := Option.some.inj he
  simp (disch := decide) only [readSlot, readSystem, Slot.mk0, Slot.ctl, ctl_eta, BitVec.reduceToNat, Nat.reduceLT, reduceIte]
theorem pitch (c : Ctl) (level : BitVec 2) (die : BitVec 3) (a : SReg) : Statement (.pitch c level die a) := by
  intro e he hw
  obtain rfl := Option.some.inj he
  simp (disch := decide) only [readSlot, readSystem, Slot.mk0, Slot.ctl, ctl_eta, BitVec.reduceToNat, Nat.reduceLT, reduceIte, extract_high, extract_low, extract_all, Nat.reduceSub]
theorem rack (c : Ctl) (d : SReg) (target : RackArg) (a b : SReg) : Statement (.rack c d target a b) := by
  intro e he hw
  obtain rfl := Option.some.inj he
  cases target <;> simp (disch := decide) only [readSlot, readSystem, Slot.mk0, Slot.ctl, ctl_eta, BitVec.reduceToNat, Nat.reduceLT, reduceIte, extract_low, extract_all, bit_zero, bit_one, Bool.false_eq_true]
theorem port (c : Ctl) (d : PReg) (port : BitVec 3) (cnt : PortArg) : Statement (.port c d port cnt) := by
  intro e he hw
  obtain rfl := Option.some.inj he
  cases cnt <;> simp (disch := decide) only [readSlot, readSystem, Slot.mk0, Slot.ctl, ctl_eta, BitVec.reduceToNat, Nat.reduceLT, reduceIte, pOf_spec, extract_high, extract_low, extract_all, Nat.reduceSub, bit_zero, bit_one, Bool.false_eq_true]
theorem mfs (c : Ctl) (d : SReg) (num : BitVec 12) : Statement (.mfs c d num) := by
  intro e he hw
  obtain rfl := Option.some.inj he
  simp (disch := decide) only [readSlot, readSystem, Slot.mk0, Slot.ctl, ctl_eta, BitVec.reduceToNat, Nat.reduceLT, reduceIte, extract_low, extract_all]
theorem mts (c : Ctl) (num : BitVec 12) (a : SReg) : Statement (.mts c num a) := by
  intro e he hw
  obtain rfl := Option.some.inj he
  simp (disch := decide) only [readSlot, readSystem, Slot.mk0, Slot.ctl, ctl_eta, BitVec.reduceToNat, Nat.reduceLT, reduceIte, extract_low, extract_all]
theorem cacheIinv (c : Ctl) (a : SReg) (disp : BitVec 48) : Statement (.cacheIinv c a disp) := by
  intro e he hw
  obtain rfl := Option.some.inj he
  simp (disch := decide) only [readSlot, readSystem, Slot.mk0, Slot.ctl, ctl_eta, BitVec.reduceToNat, Nat.reduceLT, reduceIte]
theorem cacheIall (c : Ctl) : Statement (.cacheIall c) := by
  intro e he hw
  obtain rfl := Option.some.inj he
  simp (disch := decide) only [readSlot, readSystem, Slot.mk0, Slot.ctl, ctl_eta, BitVec.reduceToNat, Nat.reduceLT, reduceIte, fn1_0]
theorem cacheDwb (c : Ctl) (a : SReg) (disp : BitVec 48) : Statement (.cacheDwb c a disp) := by
  intro e he hw
  obtain rfl := Option.some.inj he
  simp (disch := decide) only [readSlot, readSystem, Slot.mk0, Slot.ctl, ctl_eta, BitVec.reduceToNat, Nat.reduceLT, reduceIte, fn2_0, fn2_1]
theorem cacheDinv (c : Ctl) (a : SReg) (disp : BitVec 48) : Statement (.cacheDinv c a disp) := by
  intro e he hw
  obtain rfl := Option.some.inj he
  simp (disch := decide) only [readSlot, readSystem, Slot.mk0, Slot.ctl, ctl_eta, BitVec.reduceToNat, Nat.reduceLT, reduceIte, fn3_0, fn3_1, fn3_2]
theorem cacheDwbinv (c : Ctl) (a : SReg) (disp : BitVec 48) : Statement (.cacheDwbinv c a disp) := by
  intro e he hw
  obtain rfl := Option.some.inj he
  simp (disch := decide) only [readSlot, readSystem, Slot.mk0, Slot.ctl, ctl_eta, BitVec.reduceToNat, Nat.reduceLT, reduceIte, fn4_0, fn4_1, fn4_2, fn4_3]
theorem tlbiPage (c : Ctl) (a : SReg) : Statement (.tlbiPage c a) := by
  intro e he hw
  obtain rfl := Option.some.inj he
  simp (disch := decide) only [readSlot, readSystem, Slot.mk0, Slot.ctl, ctl_eta, BitVec.reduceToNat, Nat.reduceLT, reduceIte, bit_zero, Bool.false_eq_true]
theorem tlbiAll (c : Ctl) : Statement (.tlbiAll c) := by
  intro e he hw
  obtain rfl := Option.some.inj he
  simp (disch := decide) only [readSlot, readSystem, Slot.mk0, Slot.ctl, ctl_eta, BitVec.reduceToNat, Nat.reduceLT, reduceIte, bit_one]
theorem park (c : Ctl) (a : SReg) : Statement (.park c a) := by
  intro e he hw
  obtain rfl := Option.some.inj he
  simp (disch := decide) only [readSlot, readSystem, Slot.mk0, Slot.ctl, ctl_eta, BitVec.reduceToNat, Nat.reduceLT, reduceIte]
theorem wfm (c : Ctl) (d a b r : SReg) : Statement (.wfm c d a b r) := by
  intro e he hw
  obtain rfl := Option.some.inj he
  simp (disch := decide) only [readSlot, readSystem, Slot.mk0, Slot.ctl, ctl_eta, BitVec.reduceToNat, Nat.reduceLT, reduceIte]
theorem coldReset : Statement .coldReset := by intro e he; cases he
theorem reducedService : Statement .reducedService := by intro e he; cases he
theorem lpddr6Trained : Statement .lpddr6Trained := by intro e he; cases he
theorem computeDiesTrained : Statement .computeDiesTrained := by intro e he; cases he
theorem fullService : Statement .fullService := by intro e he; cases he
theorem launch : Statement .launch := by intro e he; cases he
theorem signal : Statement .signal := by intro e he; cases he
theorem wait : Statement .wait := by intro e he; cases he
theorem waitTimeout : Statement .waitTimeout := by intro e he; cases he
theorem map : Statement .map := by intro e he; cases he
theorem unmap : Statement .unmap := by intro e he; cases he
theorem partitionCreate : Statement .partitionCreate := by intro e he; cases he
theorem partitionChange : Statement .partitionChange := by intro e he; cases he
theorem partitionDestroy : Statement .partitionDestroy := by intro e he; cases he
theorem caskRetain : Statement .caskRetain := by intro e he; cases he
theorem caskPageOut : Statement .caskPageOut := by intro e he; cases he
theorem caskPageIn : Statement .caskPageIn := by intro e he; cases he
theorem rackCommand : Statement .rackCommand := by intro e he; cases he
theorem contract : Statement .contract := by intro e he; cases he
theorem power : Statement .power := by intro e he; cases he
theorem load : Statement .load := by intro e he; cases he
theorem attest : Statement .attest := by intro e he; cases he
theorem query : Statement .query := by intro e he; cases he
theorem readWithLease : Statement .readWithLease := by intro e he; cases he
theorem writeThroughToHome : Statement .writeThroughToHome := by intro e he; cases he
theorem farAtomic : Statement .farAtomic := by intro e he; cases he
theorem dataWithWriteTime : Statement .dataWithWriteTime := by intro e he; cases he
theorem writeAcknowledgement : Statement .writeAcknowledgement := by intro e he; cases he
theorem farAtomicResult : Statement .farAtomicResult := by intro e he; cases he
theorem coherentNack : Statement .coherentNack := by intro e he; cases he
theorem remoteScratchpadLoad : Statement .remoteScratchpadLoad := by intro e he; cases he
theorem remoteLoadData : Statement .remoteLoadData := by intro e he; cases he
theorem remoteScratchpadStore : Statement .remoteScratchpadStore := by intro e he; cases he
theorem remoteStoreAcknowledgement : Statement .remoteStoreAcknowledgement := by intro e he; cases he
theorem registerDeposit : Statement .registerDeposit := by intro e he; cases he
theorem activeMessage : Statement .activeMessage := by intro e he; cases he
theorem portCountAdvance : Statement .portCountAdvance := by intro e he; cases he
theorem dependenceDecrement : Statement .dependenceDecrement := by intro e he; cases he
theorem windowNack : Statement .windowNack := by intro e he; cases he
theorem placement : Statement .placement := by intro e he; cases he
theorem trapOrFaultMessage : Statement .trapOrFaultMessage := by intro e he; cases he
theorem engineReply : Statement .engineReply := by intro e he; cases he
theorem kettleReadyMessage : Statement .kettleReadyMessage := by intro e he; cases he
theorem serviceCoreCommandStep : Statement .serviceCoreCommandStep := by intro e he; cases he
theorem pageInRequest : Statement .pageInRequest := by intro e he; cases he
theorem pageInDone : Statement .pageInDone := by intro e he; cases he
theorem badFlitDiscard : Statement .badFlitDiscard := by intro e he; cases he
theorem marketClear : Statement .marketClear := by intro e he; cases he
theorem cellarC1Entry : Statement .cellarC1Entry := by intro e he; cases he
theorem cellarWake : Statement .cellarWake := by intro e he; cases he
theorem selfRefreshEntry : Statement .selfRefreshEntry := by intro e he; cases he
theorem selfRefreshExit : Statement .selfRefreshExit := by intro e he; cases he
theorem appCoreSleepRequest : Statement .appCoreSleepRequest := by intro e he; cases he
theorem appCoreWake : Statement .appCoreWake := by intro e he; cases he
theorem pitchTrigger : Statement .pitchTrigger := by intro e he; cases he
theorem contractInForce : Statement .contractInForce := by intro e he; cases he
theorem watchdogStep1 : Statement .watchdogStep1 := by intro e he; cases he
theorem watchdogKill : Statement .watchdogKill := by intro e he; cases he
theorem watchdogFence : Statement .watchdogFence := by intro e he; cases he
theorem killFinished : Statement .killFinished := by intro e he; cases he
theorem terminationWave : Statement .terminationWave := by intro e he; cases he
theorem timeRenumbering : Statement .timeRenumbering := by intro e he; cases he
theorem rackDrain : Statement .rackDrain := by intro e he; cases he
theorem rackCask : Statement .rackCask := by intro e he; cases he
theorem rackWake : Statement .rackWake := by intro e he; cases he
theorem rackInstall : Statement .rackInstall := by intro e he; cases he
theorem rackDone : Statement .rackDone := by intro e he; cases he
theorem messageForward : Statement .messageForward := by intro e he; cases he
theorem barrierInitialise : Statement .barrierInitialise := by intro e he; cases he
theorem barrierArrive : Statement .barrierArrive := by intro e he; cases he
theorem barrierLanded : Statement .barrierLanded := by intro e he; cases he
theorem barrierExpect : Statement .barrierExpect := by intro e he; cases he
theorem barrierStatusWrite : Statement .barrierStatusWrite := by intro e he; cases he
theorem barrierWaitRegister : Statement .barrierWaitRegister := by intro e he; cases he
theorem bwaitResend : Statement .bwaitResend := by intro e he; cases he
theorem bwaitReply : Statement .bwaitReply := by intro e he; cases he
theorem dramAcceptsAccesses : Statement .dramAcceptsAccesses := by intro e he; cases he
theorem cellarC0Reached : Statement .cellarC0Reached := by intro e he; cases he
theorem flashWriteDone : Statement .flashWriteDone := by intro e he; cases he

end Sys2Proof.Laws.RoundTrip
end

