-- ==== Sys2Proof/Laws/State.lean ====
section
/-! SUPPORT. Tables read back what is put into them, memory keeps its canonical form, and each update of the state leaves every other field. -/
namespace Sys2Proof.Machine

/-! ### Tables -/

@[simp] theorem SMap.find?_put_self {α : Type} (m : SMap α) (i : Nat) (v : α) : SMap.find? (SMap.put m i v) i = some v := by
  induction m with
  | nil => simp [SMap.put, SMap.find?]
  | cons e m ih =>
    obtain ⟨k, w⟩ := e
    simp only [SMap.put]
    split
    · simp [SMap.find?]
    · split
      · simp [SMap.find?]
      · simp [SMap.find?, *]

theorem SMap.find?_put_ne {α : Type} (m : SMap α) {i j : Nat} (v : α) (h : j ≠ i) : SMap.find? (SMap.put m i v) j = SMap.find? m j := by
  induction m with
  | nil => simp only [SMap.put, SMap.find?, if_neg h]; split <;> rfl
  | cons e m ih =>
    obtain ⟨k, w⟩ := e
    simp only [SMap.put]
    split
    · rename_i hk; subst hk
      simp [SMap.find?, h]
    · split
      · rename_i hk hl
        simp only [SMap.find?, if_neg h]
        split
        · rw [if_neg (by omega), if_pos (by omega)]
        · rfl
      · simp only [SMap.find?, ih]

@[simp] theorem SMap.get_put_self {α : Type} (d : α) (m : SMap α) (i : Nat) (v : α) : SMap.get d (SMap.put m i v) i = v := by
  simp [SMap.get]

theorem SMap.get_put_ne {α : Type} (d : α) (m : SMap α) {i j : Nat} (v : α) (h : j ≠ i) : SMap.get d (SMap.put m i v) j = SMap.get d m j := by
  simp [SMap.get, SMap.find?_put_ne m v h]

/-! ### Memory -/

theorem Memory.get_low {m : Memory} {lo i : Nat} (h : Memory.wfFrom lo m = true) (hi : i < lo) : Memory.get m i = 0 := by
  cases m with
  | nil => rfl
  | cons e m =>
    obtain ⟨k, v⟩ := e
    simp only [Memory.wfFrom, Bool.and_eq_true, decide_eq_true_eq] at h
    simp only [Memory.get]
    rw [if_neg (by omega), if_pos (by omega)]

theorem Memory.wfFrom_mono {m : Memory} {lo lo' : Nat} (h : Memory.wfFrom lo m = true) (hl : lo' ≤ lo) : Memory.wfFrom lo' m = true := by
  cases m with
  | nil => rfl
  | cons e m =>
    obtain ⟨k, v⟩ := e
    simp only [Memory.wfFrom, Bool.and_eq_true, decide_eq_true_eq] at h ⊢
    exact ⟨⟨by omega, h.1.2⟩, h.2⟩

/-- A written byte is read back. -/
theorem Memory.get_set_self {m : Memory} {lo : Nat} (h : Memory.wfFrom lo m = true) (i : Nat) (v : Byte) :
    Memory.get (Memory.set m i v) i = v := by
  induction m generalizing lo with
  | nil =>
    simp only [Memory.set]
    split
    · rename_i hv; simp [Memory.get, hv]
    · simp [Memory.get]
  | cons e m ih =>
    obtain ⟨k, w⟩ := e
    simp only [Memory.wfFrom, Bool.and_eq_true, decide_eq_true_eq] at h
    simp only [Memory.set]
    split
    · rename_i hk; subst hk
      split
      · rename_i hv; rw [hv]; exact Memory.get_low h.2 (by omega)
      · simp [Memory.get]
    · split
      · split
        · rename_i hv; simp only [Memory.get]; rw [if_neg (by assumption), if_pos (by assumption), hv]
        · simp [Memory.get]
      · simp only [Memory.get]; rw [if_neg (by assumption), if_neg (by assumption)]; exact ih h.2

/-- A write leaves every other byte. -/
theorem Memory.get_set_ne {m : Memory} {lo : Nat} (h : Memory.wfFrom lo m = true) {i j : Nat} (v : Byte) (hj : j ≠ i) :
    Memory.get (Memory.set m i v) j = Memory.get m j := by
  induction m generalizing lo with
  | nil =>
    simp only [Memory.set]
    split
    · rfl
    · simp only [Memory.get, if_neg hj]; split <;> rfl
  | cons e m ih =>
    obtain ⟨k, w⟩ := e
    simp only [Memory.wfFrom, Bool.and_eq_true, decide_eq_true_eq] at h
    simp only [Memory.set]
    split
    · rename_i hk; subst hk
      split
      · simp only [Memory.get, if_neg hj]
        split
        · exact Memory.get_low h.2 (by omega)
        · rfl
      · simp [Memory.get, hj]
    · split
      · split
        · rfl
        · simp only [Memory.get, if_neg hj]
          split
          · rw [if_neg (by omega), if_pos (by omega)]
          · rfl
      · simp only [Memory.get, ih h.2]

/-- A write keeps the canonical form above a bound that its address respects. -/
theorem Memory.wfFrom_set {m : Memory} {lo i : Nat} (h : Memory.wfFrom lo m = true) (hi : lo ≤ i) (v : Byte) :
    Memory.wfFrom lo (Memory.set m i v) = true := by
  induction m generalizing lo with
  | nil =>
    simp only [Memory.set]
    split
    · rfl
    · rename_i hv; simp only [Memory.wfFrom, Bool.and_eq_true, decide_eq_true_eq, bne_iff_ne, ne_eq]; exact ⟨⟨hi, hv⟩, trivial⟩
  | cons e m ih =>
    obtain ⟨k, w⟩ := e
    have h' := h
    simp only [Memory.wfFrom, Bool.and_eq_true, decide_eq_true_eq] at h
    simp only [Memory.set]
    split
    · rename_i hk; subst hk
      split
      · exact Memory.wfFrom_mono h.2 (by omega)
      · rename_i hv; simp only [Memory.wfFrom, Bool.and_eq_true, decide_eq_true_eq, bne_iff_ne, ne_eq]; exact ⟨⟨hi, hv⟩, h.2⟩
    · split
      · split
        · exact h'
        · rename_i hk hl hv
          simp only [Memory.wfFrom, Bool.and_eq_true, decide_eq_true_eq, bne_iff_ne, ne_eq]
          exact ⟨⟨hi, hv⟩, ⟨⟨by omega, by simpa using h.1.2⟩, h.2⟩⟩
      · simp only [Memory.wfFrom, Bool.and_eq_true, decide_eq_true_eq]
        exact ⟨h.1, ih h.2 (by omega)⟩

/-- A write keeps the canonical form. -/
theorem Memory.wf_set {m : Memory} (h : m.wf = true) (i : Nat) (v : Byte) : (Memory.set m i v).wf = true :=
  Memory.wfFrom_set h (Nat.zero_le i) v

/-- A write of several bytes keeps the canonical form. -/
theorem Memory.wf_writeN {m : Memory} (h : m.wf = true) (a n v : Nat) : (Memory.writeN m a n v).wf = true := by
  induction n generalizing m a v with
  | zero => exact h
  | succ n ih => exact ih (Memory.wf_set h a _) _ _

/-- Dropping entries keeps the canonical form. -/
theorem Memory.wfFrom_filter {m : Memory} {lo : Nat} (h : Memory.wfFrom lo m = true) (p : Host.Cell → Bool) :
    Memory.wfFrom lo (m.filter p) = true := by
  induction m generalizing lo with
  | nil => rfl
  | cons e m ih =>
    obtain ⟨k, v⟩ := e
    simp only [Memory.wfFrom, Bool.and_eq_true, decide_eq_true_eq] at h
    simp only [List.filter]
    split
    · simp only [Memory.wfFrom, Bool.and_eq_true, decide_eq_true_eq]
      exact ⟨h.1, ih h.2⟩
    · exact ih (Memory.wfFrom_mono h.2 (by omega))

theorem Memory.wf_filter {m : Memory} (h : m.wf = true) (p : Host.Cell → Bool) : Memory.wf (m.filter p) = true :=
  Memory.wfFrom_filter h p

/-- Bytes outside a written range read as before. -/
theorem Memory.get_writeN_out {m : Memory} (h : m.wf = true) (a n v : Nat) {j : Nat} (hj : j < a ∨ a + n ≤ j) :
    Memory.get (Memory.writeN m a n v) j = Memory.get m j := by
  induction n generalizing m a v with
  | zero => rfl
  | succ n ih =>
    simp only [Memory.writeN]
    rw [ih (Memory.wf_set h a _) (a + 1) (v / 256) (by omega)]
    exact Memory.get_set_ne h _ (by omega)

/-- Empty memory, which is that of reset, has the form. -/
theorem State.reset_mem_wf : Memory.wf State.reset.mem = true := rfl

/-! ### Updates of the state -/

@[simp] theorem State.setCore_mem (s : State) (c : Nat) (x : Core) : (s.setCore c x).mem = s.mem := rfl
@[simp] theorem State.setCore_tags (s : State) (c : Nat) (x : Core) : (s.setCore c x).tags = s.tags := rfl
@[simp] theorem State.setCore_dirty (s : State) (c : Nat) (x : Core) : (s.setCore c x).dirty = s.dirty := rfl
@[simp] theorem State.setCore_homes (s : State) (c : Nat) (x : Core) : (s.setCore c x).homes = s.homes := rfl
@[simp] theorem State.setCore_rdc (s : State) (c : Nat) (x : Core) : (s.setCore c x).rdc = s.rdc := rfl
@[simp] theorem State.setCore_held (s : State) (c : Nat) (x : Core) : (s.setCore c x).held = s.held := rfl
@[simp] theorem State.setCore_hostLines (s : State) (c : Nat) (x : Core) : (s.setCore c x).hostLines = s.hostLines := rfl
@[simp] theorem State.setCore_stlb (s : State) (c : Nat) (x : Core) : (s.setCore c x).stlb = s.stlb := rfl
@[simp] theorem State.setCore_peerOut (s : State) (c : Nat) (x : Core) : (s.setCore c x).peerOut = s.peerOut := rfl
@[simp] theorem State.setCore_inputs (s : State) (c : Nat) (x : Core) : (s.setCore c x).inputs = s.inputs := rfl
@[simp] theorem State.setCore_ctxs (s : State) (c : Nat) (x : Core) : (s.setCore c x).ctxs = s.ctxs := rfl
@[simp] theorem State.setCore_parts (s : State) (c : Nat) (x : Core) : (s.setCore c x).parts = s.parts := rfl
@[simp] theorem State.setCore_net (s : State) (c : Nat) (x : Core) : (s.setCore c x).net = s.net := rfl
@[simp] theorem State.setCore_nextMsg (s : State) (c : Nat) (x : Core) : (s.setCore c x).nextMsg = s.nextMsg := rfl
@[simp] theorem State.setCore_seqs (s : State) (c : Nat) (x : Core) : (s.setCore c x).seqs = s.seqs := rfl
@[simp] theorem State.setCore_parked (s : State) (c : Nat) (x : Core) : (s.setCore c x).parked = s.parked := rfl
@[simp] theorem State.setCore_homeWaiters (s : State) (c : Nat) (x : Core) : (s.setCore c x).homeWaiters = s.homeWaiters := rfl
@[simp] theorem State.setCore_dirs (s : State) (c : Nat) (x : Core) : (s.setCore c x).dirs = s.dirs := rfl
@[simp] theorem State.setCore_kept (s : State) (c : Nat) (x : Core) : (s.setCore c x).kept = s.kept := rfl
@[simp] theorem State.setCore_pool (s : State) (c : Nat) (x : Core) : (s.setCore c x).pool = s.pool := rfl
@[simp] theorem State.setCore_groups (s : State) (c : Nat) (x : Core) : (s.setCore c x).groups = s.groups := rfl
@[simp] theorem State.setCore_launches (s : State) (c : Nat) (x : Core) : (s.setCore c x).launches = s.launches := rfl
@[simp] theorem State.setCore_partitions (s : State) (c : Nat) (x : Core) : (s.setCore c x).partitions = s.partitions := rfl
@[simp] theorem State.setCore_queues (s : State) (c : Nat) (x : Core) : (s.setCore c x).queues = s.queues := rfl
@[simp] theorem State.setCore_cmds (s : State) (c : Nat) (x : Core) : (s.setCore c x).cmds = s.cmds := rfl
@[simp] theorem State.setCore_lauters (s : State) (c : Nat) (x : Core) : (s.setCore c x).lauters = s.lauters := rfl
@[simp] theorem State.setCore_power (s : State) (c : Nat) (x : Core) : (s.setCore c x).power = s.power := rfl
@[simp] theorem State.setCore_links (s : State) (c : Nat) (x : Core) : (s.setCore c x).links = s.links := rfl
@[simp] theorem State.setCore_rackQueue (s : State) (c : Nat) (x : Core) : (s.setCore c x).rackQueue = s.rackQueue := rfl
@[simp] theorem State.setCore_pageIns (s : State) (c : Nat) (x : Core) : (s.setCore c x).pageIns = s.pageIns := rfl
@[simp] theorem State.setCore_paged (s : State) (c : Nat) (x : Core) : (s.setCore c x).paged = s.paged := rfl
@[simp] theorem State.setCore_pins (s : State) (c : Nat) (x : Core) : (s.setCore c x).pins = s.pins := rfl
@[simp] theorem State.setCore_pageOuts (s : State) (c : Nat) (x : Core) : (s.setCore c x).pageOuts = s.pageOuts := rfl
@[simp] theorem State.setCore_fw (s : State) (c : Nat) (x : Core) : (s.setCore c x).fw = s.fw := rfl
@[simp] theorem State.setCore_now (s : State) (c : Nat) (x : Core) : (s.setCore c x).now = s.now := rfl
@[simp] theorem State.setCore_agenda (s : State) (c : Nat) (x : Core) : (s.setCore c x).agenda = s.agenda := rfl
@[simp] theorem State.setCore_focus (s : State) (c : Nat) (x : Core) : (s.setCore c x).focus = s.focus := rfl
@[simp] theorem State.setCore_issue (s : State) (c : Nat) (x : Core) : (s.setCore c x).issue = s.issue := rfl
@[simp] theorem State.setCore_fresh (s : State) (c : Nat) (x : Core) : (s.setCore c x).fresh = s.fresh := rfl
@[simp] theorem State.modCore_mem (s : State) (c : Nat) (f : Core → Core) : (s.modCore c f).mem = s.mem := rfl
@[simp] theorem State.modCore_tags (s : State) (c : Nat) (f : Core → Core) : (s.modCore c f).tags = s.tags := rfl
@[simp] theorem State.modCore_dirty (s : State) (c : Nat) (f : Core → Core) : (s.modCore c f).dirty = s.dirty := rfl
@[simp] theorem State.modCore_homes (s : State) (c : Nat) (f : Core → Core) : (s.modCore c f).homes = s.homes := rfl
@[simp] theorem State.modCore_rdc (s : State) (c : Nat) (f : Core → Core) : (s.modCore c f).rdc = s.rdc := rfl
@[simp] theorem State.modCore_held (s : State) (c : Nat) (f : Core → Core) : (s.modCore c f).held = s.held := rfl
@[simp] theorem State.modCore_hostLines (s : State) (c : Nat) (f : Core → Core) : (s.modCore c f).hostLines = s.hostLines := rfl
@[simp] theorem State.modCore_stlb (s : State) (c : Nat) (f : Core → Core) : (s.modCore c f).stlb = s.stlb := rfl
@[simp] theorem State.modCore_peerOut (s : State) (c : Nat) (f : Core → Core) : (s.modCore c f).peerOut = s.peerOut := rfl
@[simp] theorem State.modCore_inputs (s : State) (c : Nat) (f : Core → Core) : (s.modCore c f).inputs = s.inputs := rfl
@[simp] theorem State.modCore_ctxs (s : State) (c : Nat) (f : Core → Core) : (s.modCore c f).ctxs = s.ctxs := rfl
@[simp] theorem State.modCore_parts (s : State) (c : Nat) (f : Core → Core) : (s.modCore c f).parts = s.parts := rfl
@[simp] theorem State.modCore_net (s : State) (c : Nat) (f : Core → Core) : (s.modCore c f).net = s.net := rfl
@[simp] theorem State.modCore_nextMsg (s : State) (c : Nat) (f : Core → Core) : (s.modCore c f).nextMsg = s.nextMsg := rfl
@[simp] theorem State.modCore_seqs (s : State) (c : Nat) (f : Core → Core) : (s.modCore c f).seqs = s.seqs := rfl
@[simp] theorem State.modCore_parked (s : State) (c : Nat) (f : Core → Core) : (s.modCore c f).parked = s.parked := rfl
@[simp] theorem State.modCore_homeWaiters (s : State) (c : Nat) (f : Core → Core) : (s.modCore c f).homeWaiters = s.homeWaiters := rfl
@[simp] theorem State.modCore_dirs (s : State) (c : Nat) (f : Core → Core) : (s.modCore c f).dirs = s.dirs := rfl
@[simp] theorem State.modCore_kept (s : State) (c : Nat) (f : Core → Core) : (s.modCore c f).kept = s.kept := rfl
@[simp] theorem State.modCore_pool (s : State) (c : Nat) (f : Core → Core) : (s.modCore c f).pool = s.pool := rfl
@[simp] theorem State.modCore_groups (s : State) (c : Nat) (f : Core → Core) : (s.modCore c f).groups = s.groups := rfl
@[simp] theorem State.modCore_launches (s : State) (c : Nat) (f : Core → Core) : (s.modCore c f).launches = s.launches := rfl
@[simp] theorem State.modCore_partitions (s : State) (c : Nat) (f : Core → Core) : (s.modCore c f).partitions = s.partitions := rfl
@[simp] theorem State.modCore_queues (s : State) (c : Nat) (f : Core → Core) : (s.modCore c f).queues = s.queues := rfl
@[simp] theorem State.modCore_cmds (s : State) (c : Nat) (f : Core → Core) : (s.modCore c f).cmds = s.cmds := rfl
@[simp] theorem State.modCore_lauters (s : State) (c : Nat) (f : Core → Core) : (s.modCore c f).lauters = s.lauters := rfl
@[simp] theorem State.modCore_power (s : State) (c : Nat) (f : Core → Core) : (s.modCore c f).power = s.power := rfl
@[simp] theorem State.modCore_links (s : State) (c : Nat) (f : Core → Core) : (s.modCore c f).links = s.links := rfl
@[simp] theorem State.modCore_rackQueue (s : State) (c : Nat) (f : Core → Core) : (s.modCore c f).rackQueue = s.rackQueue := rfl
@[simp] theorem State.modCore_pageIns (s : State) (c : Nat) (f : Core → Core) : (s.modCore c f).pageIns = s.pageIns := rfl
@[simp] theorem State.modCore_paged (s : State) (c : Nat) (f : Core → Core) : (s.modCore c f).paged = s.paged := rfl
@[simp] theorem State.modCore_pins (s : State) (c : Nat) (f : Core → Core) : (s.modCore c f).pins = s.pins := rfl
@[simp] theorem State.modCore_pageOuts (s : State) (c : Nat) (f : Core → Core) : (s.modCore c f).pageOuts = s.pageOuts := rfl
@[simp] theorem State.modCore_fw (s : State) (c : Nat) (f : Core → Core) : (s.modCore c f).fw = s.fw := rfl
@[simp] theorem State.modCore_now (s : State) (c : Nat) (f : Core → Core) : (s.modCore c f).now = s.now := rfl
@[simp] theorem State.modCore_agenda (s : State) (c : Nat) (f : Core → Core) : (s.modCore c f).agenda = s.agenda := rfl
@[simp] theorem State.modCore_focus (s : State) (c : Nat) (f : Core → Core) : (s.modCore c f).focus = s.focus := rfl
@[simp] theorem State.modCore_issue (s : State) (c : Nat) (f : Core → Core) : (s.modCore c f).issue = s.issue := rfl
@[simp] theorem State.modCore_fresh (s : State) (c : Nat) (f : Core → Core) : (s.modCore c f).fresh = s.fresh := rfl
@[simp] theorem State.setCtx_mem (s : State) (c k : Nat) (x : Ctx) : (s.setCtx c k x).mem = s.mem := rfl
@[simp] theorem State.setCtx_tags (s : State) (c k : Nat) (x : Ctx) : (s.setCtx c k x).tags = s.tags := rfl
@[simp] theorem State.setCtx_dirty (s : State) (c k : Nat) (x : Ctx) : (s.setCtx c k x).dirty = s.dirty := rfl
@[simp] theorem State.setCtx_homes (s : State) (c k : Nat) (x : Ctx) : (s.setCtx c k x).homes = s.homes := rfl
@[simp] theorem State.setCtx_rdc (s : State) (c k : Nat) (x : Ctx) : (s.setCtx c k x).rdc = s.rdc := rfl
@[simp] theorem State.setCtx_held (s : State) (c k : Nat) (x : Ctx) : (s.setCtx c k x).held = s.held := rfl
@[simp] theorem State.setCtx_hostLines (s : State) (c k : Nat) (x : Ctx) : (s.setCtx c k x).hostLines = s.hostLines := rfl
@[simp] theorem State.setCtx_stlb (s : State) (c k : Nat) (x : Ctx) : (s.setCtx c k x).stlb = s.stlb := rfl
@[simp] theorem State.setCtx_peerOut (s : State) (c k : Nat) (x : Ctx) : (s.setCtx c k x).peerOut = s.peerOut := rfl
@[simp] theorem State.setCtx_inputs (s : State) (c k : Nat) (x : Ctx) : (s.setCtx c k x).inputs = s.inputs := rfl
@[simp] theorem State.setCtx_cores (s : State) (c k : Nat) (x : Ctx) : (s.setCtx c k x).cores = s.cores := rfl
@[simp] theorem State.setCtx_parts (s : State) (c k : Nat) (x : Ctx) : (s.setCtx c k x).parts = s.parts := rfl
@[simp] theorem State.setCtx_net (s : State) (c k : Nat) (x : Ctx) : (s.setCtx c k x).net = s.net := rfl
@[simp] theorem State.setCtx_nextMsg (s : State) (c k : Nat) (x : Ctx) : (s.setCtx c k x).nextMsg = s.nextMsg := rfl
@[simp] theorem State.setCtx_seqs (s : State) (c k : Nat) (x : Ctx) : (s.setCtx c k x).seqs = s.seqs := rfl
@[simp] theorem State.setCtx_parked (s : State) (c k : Nat) (x : Ctx) : (s.setCtx c k x).parked = s.parked := rfl
@[simp] theorem State.setCtx_homeWaiters (s : State) (c k : Nat) (x : Ctx) : (s.setCtx c k x).homeWaiters = s.homeWaiters := rfl
@[simp] theorem State.setCtx_dirs (s : State) (c k : Nat) (x : Ctx) : (s.setCtx c k x).dirs = s.dirs := rfl
@[simp] theorem State.setCtx_kept (s : State) (c k : Nat) (x : Ctx) : (s.setCtx c k x).kept = s.kept := rfl
@[simp] theorem State.setCtx_pool (s : State) (c k : Nat) (x : Ctx) : (s.setCtx c k x).pool = s.pool := rfl
@[simp] theorem State.setCtx_groups (s : State) (c k : Nat) (x : Ctx) : (s.setCtx c k x).groups = s.groups := rfl
@[simp] theorem State.setCtx_launches (s : State) (c k : Nat) (x : Ctx) : (s.setCtx c k x).launches = s.launches := rfl
@[simp] theorem State.setCtx_partitions (s : State) (c k : Nat) (x : Ctx) : (s.setCtx c k x).partitions = s.partitions := rfl
@[simp] theorem State.setCtx_queues (s : State) (c k : Nat) (x : Ctx) : (s.setCtx c k x).queues = s.queues := rfl
@[simp] theorem State.setCtx_cmds (s : State) (c k : Nat) (x : Ctx) : (s.setCtx c k x).cmds = s.cmds := rfl
@[simp] theorem State.setCtx_lauters (s : State) (c k : Nat) (x : Ctx) : (s.setCtx c k x).lauters = s.lauters := rfl
@[simp] theorem State.setCtx_power (s : State) (c k : Nat) (x : Ctx) : (s.setCtx c k x).power = s.power := rfl
@[simp] theorem State.setCtx_links (s : State) (c k : Nat) (x : Ctx) : (s.setCtx c k x).links = s.links := rfl
@[simp] theorem State.setCtx_rackQueue (s : State) (c k : Nat) (x : Ctx) : (s.setCtx c k x).rackQueue = s.rackQueue := rfl
@[simp] theorem State.setCtx_pageIns (s : State) (c k : Nat) (x : Ctx) : (s.setCtx c k x).pageIns = s.pageIns := rfl
@[simp] theorem State.setCtx_paged (s : State) (c k : Nat) (x : Ctx) : (s.setCtx c k x).paged = s.paged := rfl
@[simp] theorem State.setCtx_pins (s : State) (c k : Nat) (x : Ctx) : (s.setCtx c k x).pins = s.pins := rfl
@[simp] theorem State.setCtx_pageOuts (s : State) (c k : Nat) (x : Ctx) : (s.setCtx c k x).pageOuts = s.pageOuts := rfl
@[simp] theorem State.setCtx_fw (s : State) (c k : Nat) (x : Ctx) : (s.setCtx c k x).fw = s.fw := rfl
@[simp] theorem State.setCtx_now (s : State) (c k : Nat) (x : Ctx) : (s.setCtx c k x).now = s.now := rfl
@[simp] theorem State.setCtx_agenda (s : State) (c k : Nat) (x : Ctx) : (s.setCtx c k x).agenda = s.agenda := rfl
@[simp] theorem State.setCtx_focus (s : State) (c k : Nat) (x : Ctx) : (s.setCtx c k x).focus = s.focus := rfl
@[simp] theorem State.setCtx_issue (s : State) (c k : Nat) (x : Ctx) : (s.setCtx c k x).issue = s.issue := rfl
@[simp] theorem State.setCtx_fresh (s : State) (c k : Nat) (x : Ctx) : (s.setCtx c k x).fresh = s.fresh := rfl
@[simp] theorem State.modCtx_mem (s : State) (c k : Nat) (f : Ctx → Ctx) : (s.modCtx c k f).mem = s.mem := rfl
@[simp] theorem State.modCtx_tags (s : State) (c k : Nat) (f : Ctx → Ctx) : (s.modCtx c k f).tags = s.tags := rfl
@[simp] theorem State.modCtx_dirty (s : State) (c k : Nat) (f : Ctx → Ctx) : (s.modCtx c k f).dirty = s.dirty := rfl
@[simp] theorem State.modCtx_homes (s : State) (c k : Nat) (f : Ctx → Ctx) : (s.modCtx c k f).homes = s.homes := rfl
@[simp] theorem State.modCtx_rdc (s : State) (c k : Nat) (f : Ctx → Ctx) : (s.modCtx c k f).rdc = s.rdc := rfl
@[simp] theorem State.modCtx_held (s : State) (c k : Nat) (f : Ctx → Ctx) : (s.modCtx c k f).held = s.held := rfl
@[simp] theorem State.modCtx_hostLines (s : State) (c k : Nat) (f : Ctx → Ctx) : (s.modCtx c k f).hostLines = s.hostLines := rfl
@[simp] theorem State.modCtx_stlb (s : State) (c k : Nat) (f : Ctx → Ctx) : (s.modCtx c k f).stlb = s.stlb := rfl
@[simp] theorem State.modCtx_peerOut (s : State) (c k : Nat) (f : Ctx → Ctx) : (s.modCtx c k f).peerOut = s.peerOut := rfl
@[simp] theorem State.modCtx_inputs (s : State) (c k : Nat) (f : Ctx → Ctx) : (s.modCtx c k f).inputs = s.inputs := rfl
@[simp] theorem State.modCtx_cores (s : State) (c k : Nat) (f : Ctx → Ctx) : (s.modCtx c k f).cores = s.cores := rfl
@[simp] theorem State.modCtx_parts (s : State) (c k : Nat) (f : Ctx → Ctx) : (s.modCtx c k f).parts = s.parts := rfl
@[simp] theorem State.modCtx_net (s : State) (c k : Nat) (f : Ctx → Ctx) : (s.modCtx c k f).net = s.net := rfl
@[simp] theorem State.modCtx_nextMsg (s : State) (c k : Nat) (f : Ctx → Ctx) : (s.modCtx c k f).nextMsg = s.nextMsg := rfl
@[simp] theorem State.modCtx_seqs (s : State) (c k : Nat) (f : Ctx → Ctx) : (s.modCtx c k f).seqs = s.seqs := rfl
@[simp] theorem State.modCtx_parked (s : State) (c k : Nat) (f : Ctx → Ctx) : (s.modCtx c k f).parked = s.parked := rfl
@[simp] theorem State.modCtx_homeWaiters (s : State) (c k : Nat) (f : Ctx → Ctx) : (s.modCtx c k f).homeWaiters = s.homeWaiters := rfl
@[simp] theorem State.modCtx_dirs (s : State) (c k : Nat) (f : Ctx → Ctx) : (s.modCtx c k f).dirs = s.dirs := rfl
@[simp] theorem State.modCtx_kept (s : State) (c k : Nat) (f : Ctx → Ctx) : (s.modCtx c k f).kept = s.kept := rfl
@[simp] theorem State.modCtx_pool (s : State) (c k : Nat) (f : Ctx → Ctx) : (s.modCtx c k f).pool = s.pool := rfl
@[simp] theorem State.modCtx_groups (s : State) (c k : Nat) (f : Ctx → Ctx) : (s.modCtx c k f).groups = s.groups := rfl
@[simp] theorem State.modCtx_launches (s : State) (c k : Nat) (f : Ctx → Ctx) : (s.modCtx c k f).launches = s.launches := rfl
@[simp] theorem State.modCtx_partitions (s : State) (c k : Nat) (f : Ctx → Ctx) : (s.modCtx c k f).partitions = s.partitions := rfl
@[simp] theorem State.modCtx_queues (s : State) (c k : Nat) (f : Ctx → Ctx) : (s.modCtx c k f).queues = s.queues := rfl
@[simp] theorem State.modCtx_cmds (s : State) (c k : Nat) (f : Ctx → Ctx) : (s.modCtx c k f).cmds = s.cmds := rfl
@[simp] theorem State.modCtx_lauters (s : State) (c k : Nat) (f : Ctx → Ctx) : (s.modCtx c k f).lauters = s.lauters := rfl
@[simp] theorem State.modCtx_power (s : State) (c k : Nat) (f : Ctx → Ctx) : (s.modCtx c k f).power = s.power := rfl
@[simp] theorem State.modCtx_links (s : State) (c k : Nat) (f : Ctx → Ctx) : (s.modCtx c k f).links = s.links := rfl
@[simp] theorem State.modCtx_rackQueue (s : State) (c k : Nat) (f : Ctx → Ctx) : (s.modCtx c k f).rackQueue = s.rackQueue := rfl
@[simp] theorem State.modCtx_pageIns (s : State) (c k : Nat) (f : Ctx → Ctx) : (s.modCtx c k f).pageIns = s.pageIns := rfl
@[simp] theorem State.modCtx_paged (s : State) (c k : Nat) (f : Ctx → Ctx) : (s.modCtx c k f).paged = s.paged := rfl
@[simp] theorem State.modCtx_pins (s : State) (c k : Nat) (f : Ctx → Ctx) : (s.modCtx c k f).pins = s.pins := rfl
@[simp] theorem State.modCtx_pageOuts (s : State) (c k : Nat) (f : Ctx → Ctx) : (s.modCtx c k f).pageOuts = s.pageOuts := rfl
@[simp] theorem State.modCtx_fw (s : State) (c k : Nat) (f : Ctx → Ctx) : (s.modCtx c k f).fw = s.fw := rfl
@[simp] theorem State.modCtx_now (s : State) (c k : Nat) (f : Ctx → Ctx) : (s.modCtx c k f).now = s.now := rfl
@[simp] theorem State.modCtx_agenda (s : State) (c k : Nat) (f : Ctx → Ctx) : (s.modCtx c k f).agenda = s.agenda := rfl
@[simp] theorem State.modCtx_focus (s : State) (c k : Nat) (f : Ctx → Ctx) : (s.modCtx c k f).focus = s.focus := rfl
@[simp] theorem State.modCtx_issue (s : State) (c k : Nat) (f : Ctx → Ctx) : (s.modCtx c k f).issue = s.issue := rfl
@[simp] theorem State.modCtx_fresh (s : State) (c k : Nat) (f : Ctx → Ctx) : (s.modCtx c k f).fresh = s.fresh := rfl
@[simp] theorem State.modPart_mem (s : State) (c p : Nat) (f : CorePart → CorePart) : (s.modPart c p f).mem = s.mem := rfl
@[simp] theorem State.modPart_tags (s : State) (c p : Nat) (f : CorePart → CorePart) : (s.modPart c p f).tags = s.tags := rfl
@[simp] theorem State.modPart_dirty (s : State) (c p : Nat) (f : CorePart → CorePart) : (s.modPart c p f).dirty = s.dirty := rfl
@[simp] theorem State.modPart_homes (s : State) (c p : Nat) (f : CorePart → CorePart) : (s.modPart c p f).homes = s.homes := rfl
@[simp] theorem State.modPart_rdc (s : State) (c p : Nat) (f : CorePart → CorePart) : (s.modPart c p f).rdc = s.rdc := rfl
@[simp] theorem State.modPart_held (s : State) (c p : Nat) (f : CorePart → CorePart) : (s.modPart c p f).held = s.held := rfl
@[simp] theorem State.modPart_hostLines (s : State) (c p : Nat) (f : CorePart → CorePart) : (s.modPart c p f).hostLines = s.hostLines := rfl
@[simp] theorem State.modPart_stlb (s : State) (c p : Nat) (f : CorePart → CorePart) : (s.modPart c p f).stlb = s.stlb := rfl
@[simp] theorem State.modPart_peerOut (s : State) (c p : Nat) (f : CorePart → CorePart) : (s.modPart c p f).peerOut = s.peerOut := rfl
@[simp] theorem State.modPart_inputs (s : State) (c p : Nat) (f : CorePart → CorePart) : (s.modPart c p f).inputs = s.inputs := rfl
@[simp] theorem State.modPart_cores (s : State) (c p : Nat) (f : CorePart → CorePart) : (s.modPart c p f).cores = s.cores := rfl
@[simp] theorem State.modPart_ctxs (s : State) (c p : Nat) (f : CorePart → CorePart) : (s.modPart c p f).ctxs = s.ctxs := rfl
@[simp] theorem State.modPart_net (s : State) (c p : Nat) (f : CorePart → CorePart) : (s.modPart c p f).net = s.net := rfl
@[simp] theorem State.modPart_nextMsg (s : State) (c p : Nat) (f : CorePart → CorePart) : (s.modPart c p f).nextMsg = s.nextMsg := rfl
@[simp] theorem State.modPart_seqs (s : State) (c p : Nat) (f : CorePart → CorePart) : (s.modPart c p f).seqs = s.seqs := rfl
@[simp] theorem State.modPart_parked (s : State) (c p : Nat) (f : CorePart → CorePart) : (s.modPart c p f).parked = s.parked := rfl
@[simp] theorem State.modPart_homeWaiters (s : State) (c p : Nat) (f : CorePart → CorePart) : (s.modPart c p f).homeWaiters = s.homeWaiters := rfl
@[simp] theorem State.modPart_dirs (s : State) (c p : Nat) (f : CorePart → CorePart) : (s.modPart c p f).dirs = s.dirs := rfl
@[simp] theorem State.modPart_kept (s : State) (c p : Nat) (f : CorePart → CorePart) : (s.modPart c p f).kept = s.kept := rfl
@[simp] theorem State.modPart_pool (s : State) (c p : Nat) (f : CorePart → CorePart) : (s.modPart c p f).pool = s.pool := rfl
@[simp] theorem State.modPart_groups (s : State) (c p : Nat) (f : CorePart → CorePart) : (s.modPart c p f).groups = s.groups := rfl
@[simp] theorem State.modPart_launches (s : State) (c p : Nat) (f : CorePart → CorePart) : (s.modPart c p f).launches = s.launches := rfl
@[simp] theorem State.modPart_partitions (s : State) (c p : Nat) (f : CorePart → CorePart) : (s.modPart c p f).partitions = s.partitions := rfl
@[simp] theorem State.modPart_queues (s : State) (c p : Nat) (f : CorePart → CorePart) : (s.modPart c p f).queues = s.queues := rfl
@[simp] theorem State.modPart_cmds (s : State) (c p : Nat) (f : CorePart → CorePart) : (s.modPart c p f).cmds = s.cmds := rfl
@[simp] theorem State.modPart_lauters (s : State) (c p : Nat) (f : CorePart → CorePart) : (s.modPart c p f).lauters = s.lauters := rfl
@[simp] theorem State.modPart_power (s : State) (c p : Nat) (f : CorePart → CorePart) : (s.modPart c p f).power = s.power := rfl
@[simp] theorem State.modPart_links (s : State) (c p : Nat) (f : CorePart → CorePart) : (s.modPart c p f).links = s.links := rfl
@[simp] theorem State.modPart_rackQueue (s : State) (c p : Nat) (f : CorePart → CorePart) : (s.modPart c p f).rackQueue = s.rackQueue := rfl
@[simp] theorem State.modPart_pageIns (s : State) (c p : Nat) (f : CorePart → CorePart) : (s.modPart c p f).pageIns = s.pageIns := rfl
@[simp] theorem State.modPart_paged (s : State) (c p : Nat) (f : CorePart → CorePart) : (s.modPart c p f).paged = s.paged := rfl
@[simp] theorem State.modPart_pins (s : State) (c p : Nat) (f : CorePart → CorePart) : (s.modPart c p f).pins = s.pins := rfl
@[simp] theorem State.modPart_pageOuts (s : State) (c p : Nat) (f : CorePart → CorePart) : (s.modPart c p f).pageOuts = s.pageOuts := rfl
@[simp] theorem State.modPart_fw (s : State) (c p : Nat) (f : CorePart → CorePart) : (s.modPart c p f).fw = s.fw := rfl
@[simp] theorem State.modPart_now (s : State) (c p : Nat) (f : CorePart → CorePart) : (s.modPart c p f).now = s.now := rfl
@[simp] theorem State.modPart_agenda (s : State) (c p : Nat) (f : CorePart → CorePart) : (s.modPart c p f).agenda = s.agenda := rfl
@[simp] theorem State.modPart_focus (s : State) (c p : Nat) (f : CorePart → CorePart) : (s.modPart c p f).focus = s.focus := rfl
@[simp] theorem State.modPart_issue (s : State) (c p : Nat) (f : CorePart → CorePart) : (s.modPart c p f).issue = s.issue := rfl
@[simp] theorem State.modPart_fresh (s : State) (c p : Nat) (f : CorePart → CorePart) : (s.modPart c p f).fresh = s.fresh := rfl
@[simp] theorem State.modApart_mem (s : State) (c : Nat) (f : CorePart → CorePart) : (s.modApart c f).mem = s.mem := rfl
@[simp] theorem State.modApart_tags (s : State) (c : Nat) (f : CorePart → CorePart) : (s.modApart c f).tags = s.tags := rfl
@[simp] theorem State.modApart_dirty (s : State) (c : Nat) (f : CorePart → CorePart) : (s.modApart c f).dirty = s.dirty := rfl
@[simp] theorem State.modApart_homes (s : State) (c : Nat) (f : CorePart → CorePart) : (s.modApart c f).homes = s.homes := rfl
@[simp] theorem State.modApart_rdc (s : State) (c : Nat) (f : CorePart → CorePart) : (s.modApart c f).rdc = s.rdc := rfl
@[simp] theorem State.modApart_held (s : State) (c : Nat) (f : CorePart → CorePart) : (s.modApart c f).held = s.held := rfl
@[simp] theorem State.modApart_hostLines (s : State) (c : Nat) (f : CorePart → CorePart) : (s.modApart c f).hostLines = s.hostLines := rfl
@[simp] theorem State.modApart_stlb (s : State) (c : Nat) (f : CorePart → CorePart) : (s.modApart c f).stlb = s.stlb := rfl
@[simp] theorem State.modApart_peerOut (s : State) (c : Nat) (f : CorePart → CorePart) : (s.modApart c f).peerOut = s.peerOut := rfl
@[simp] theorem State.modApart_inputs (s : State) (c : Nat) (f : CorePart → CorePart) : (s.modApart c f).inputs = s.inputs := rfl
@[simp] theorem State.modApart_cores (s : State) (c : Nat) (f : CorePart → CorePart) : (s.modApart c f).cores = s.cores := rfl
@[simp] theorem State.modApart_ctxs (s : State) (c : Nat) (f : CorePart → CorePart) : (s.modApart c f).ctxs = s.ctxs := rfl
@[simp] theorem State.modApart_net (s : State) (c : Nat) (f : CorePart → CorePart) : (s.modApart c f).net = s.net := rfl
@[simp] theorem State.modApart_nextMsg (s : State) (c : Nat) (f : CorePart → CorePart) : (s.modApart c f).nextMsg = s.nextMsg := rfl
@[simp] theorem State.modApart_seqs (s : State) (c : Nat) (f : CorePart → CorePart) : (s.modApart c f).seqs = s.seqs := rfl
@[simp] theorem State.modApart_parked (s : State) (c : Nat) (f : CorePart → CorePart) : (s.modApart c f).parked = s.parked := rfl
@[simp] theorem State.modApart_homeWaiters (s : State) (c : Nat) (f : CorePart → CorePart) : (s.modApart c f).homeWaiters = s.homeWaiters := rfl
@[simp] theorem State.modApart_dirs (s : State) (c : Nat) (f : CorePart → CorePart) : (s.modApart c f).dirs = s.dirs := rfl
@[simp] theorem State.modApart_kept (s : State) (c : Nat) (f : CorePart → CorePart) : (s.modApart c f).kept = s.kept := rfl
@[simp] theorem State.modApart_pool (s : State) (c : Nat) (f : CorePart → CorePart) : (s.modApart c f).pool = s.pool := rfl
@[simp] theorem State.modApart_groups (s : State) (c : Nat) (f : CorePart → CorePart) : (s.modApart c f).groups = s.groups := rfl
@[simp] theorem State.modApart_launches (s : State) (c : Nat) (f : CorePart → CorePart) : (s.modApart c f).launches = s.launches := rfl
@[simp] theorem State.modApart_partitions (s : State) (c : Nat) (f : CorePart → CorePart) : (s.modApart c f).partitions = s.partitions := rfl
@[simp] theorem State.modApart_queues (s : State) (c : Nat) (f : CorePart → CorePart) : (s.modApart c f).queues = s.queues := rfl
@[simp] theorem State.modApart_cmds (s : State) (c : Nat) (f : CorePart → CorePart) : (s.modApart c f).cmds = s.cmds := rfl
@[simp] theorem State.modApart_lauters (s : State) (c : Nat) (f : CorePart → CorePart) : (s.modApart c f).lauters = s.lauters := rfl
@[simp] theorem State.modApart_power (s : State) (c : Nat) (f : CorePart → CorePart) : (s.modApart c f).power = s.power := rfl
@[simp] theorem State.modApart_links (s : State) (c : Nat) (f : CorePart → CorePart) : (s.modApart c f).links = s.links := rfl
@[simp] theorem State.modApart_rackQueue (s : State) (c : Nat) (f : CorePart → CorePart) : (s.modApart c f).rackQueue = s.rackQueue := rfl
@[simp] theorem State.modApart_pageIns (s : State) (c : Nat) (f : CorePart → CorePart) : (s.modApart c f).pageIns = s.pageIns := rfl
@[simp] theorem State.modApart_paged (s : State) (c : Nat) (f : CorePart → CorePart) : (s.modApart c f).paged = s.paged := rfl
@[simp] theorem State.modApart_pins (s : State) (c : Nat) (f : CorePart → CorePart) : (s.modApart c f).pins = s.pins := rfl
@[simp] theorem State.modApart_pageOuts (s : State) (c : Nat) (f : CorePart → CorePart) : (s.modApart c f).pageOuts = s.pageOuts := rfl
@[simp] theorem State.modApart_fw (s : State) (c : Nat) (f : CorePart → CorePart) : (s.modApart c f).fw = s.fw := rfl
@[simp] theorem State.modApart_now (s : State) (c : Nat) (f : CorePart → CorePart) : (s.modApart c f).now = s.now := rfl
@[simp] theorem State.modApart_agenda (s : State) (c : Nat) (f : CorePart → CorePart) : (s.modApart c f).agenda = s.agenda := rfl
@[simp] theorem State.modApart_focus (s : State) (c : Nat) (f : CorePart → CorePart) : (s.modApart c f).focus = s.focus := rfl
@[simp] theorem State.modApart_issue (s : State) (c : Nat) (f : CorePart → CorePart) : (s.modApart c f).issue = s.issue := rfl
@[simp] theorem State.modApart_fresh (s : State) (c : Nat) (f : CorePart → CorePart) : (s.modApart c f).fresh = s.fresh := rfl
@[simp] theorem State.modDir_mem (s : State) (h : Nat) (f : DirEnt → DirEnt) : (s.modDir h f).mem = s.mem := rfl
@[simp] theorem State.modDir_tags (s : State) (h : Nat) (f : DirEnt → DirEnt) : (s.modDir h f).tags = s.tags := rfl
@[simp] theorem State.modDir_dirty (s : State) (h : Nat) (f : DirEnt → DirEnt) : (s.modDir h f).dirty = s.dirty := rfl
@[simp] theorem State.modDir_homes (s : State) (h : Nat) (f : DirEnt → DirEnt) : (s.modDir h f).homes = s.homes := rfl
@[simp] theorem State.modDir_rdc (s : State) (h : Nat) (f : DirEnt → DirEnt) : (s.modDir h f).rdc = s.rdc := rfl
@[simp] theorem State.modDir_held (s : State) (h : Nat) (f : DirEnt → DirEnt) : (s.modDir h f).held = s.held := rfl
@[simp] theorem State.modDir_hostLines (s : State) (h : Nat) (f : DirEnt → DirEnt) : (s.modDir h f).hostLines = s.hostLines := rfl
@[simp] theorem State.modDir_stlb (s : State) (h : Nat) (f : DirEnt → DirEnt) : (s.modDir h f).stlb = s.stlb := rfl
@[simp] theorem State.modDir_peerOut (s : State) (h : Nat) (f : DirEnt → DirEnt) : (s.modDir h f).peerOut = s.peerOut := rfl
@[simp] theorem State.modDir_inputs (s : State) (h : Nat) (f : DirEnt → DirEnt) : (s.modDir h f).inputs = s.inputs := rfl
@[simp] theorem State.modDir_cores (s : State) (h : Nat) (f : DirEnt → DirEnt) : (s.modDir h f).cores = s.cores := rfl
@[simp] theorem State.modDir_ctxs (s : State) (h : Nat) (f : DirEnt → DirEnt) : (s.modDir h f).ctxs = s.ctxs := rfl
@[simp] theorem State.modDir_parts (s : State) (h : Nat) (f : DirEnt → DirEnt) : (s.modDir h f).parts = s.parts := rfl
@[simp] theorem State.modDir_net (s : State) (h : Nat) (f : DirEnt → DirEnt) : (s.modDir h f).net = s.net := rfl
@[simp] theorem State.modDir_nextMsg (s : State) (h : Nat) (f : DirEnt → DirEnt) : (s.modDir h f).nextMsg = s.nextMsg := rfl
@[simp] theorem State.modDir_seqs (s : State) (h : Nat) (f : DirEnt → DirEnt) : (s.modDir h f).seqs = s.seqs := rfl
@[simp] theorem State.modDir_parked (s : State) (h : Nat) (f : DirEnt → DirEnt) : (s.modDir h f).parked = s.parked := rfl
@[simp] theorem State.modDir_homeWaiters (s : State) (h : Nat) (f : DirEnt → DirEnt) : (s.modDir h f).homeWaiters = s.homeWaiters := rfl
@[simp] theorem State.modDir_kept (s : State) (h : Nat) (f : DirEnt → DirEnt) : (s.modDir h f).kept = s.kept := rfl
@[simp] theorem State.modDir_pool (s : State) (h : Nat) (f : DirEnt → DirEnt) : (s.modDir h f).pool = s.pool := rfl
@[simp] theorem State.modDir_groups (s : State) (h : Nat) (f : DirEnt → DirEnt) : (s.modDir h f).groups = s.groups := rfl
@[simp] theorem State.modDir_launches (s : State) (h : Nat) (f : DirEnt → DirEnt) : (s.modDir h f).launches = s.launches := rfl
@[simp] theorem State.modDir_partitions (s : State) (h : Nat) (f : DirEnt → DirEnt) : (s.modDir h f).partitions = s.partitions := rfl
@[simp] theorem State.modDir_queues (s : State) (h : Nat) (f : DirEnt → DirEnt) : (s.modDir h f).queues = s.queues := rfl
@[simp] theorem State.modDir_cmds (s : State) (h : Nat) (f : DirEnt → DirEnt) : (s.modDir h f).cmds = s.cmds := rfl
@[simp] theorem State.modDir_lauters (s : State) (h : Nat) (f : DirEnt → DirEnt) : (s.modDir h f).lauters = s.lauters := rfl
@[simp] theorem State.modDir_power (s : State) (h : Nat) (f : DirEnt → DirEnt) : (s.modDir h f).power = s.power := rfl
@[simp] theorem State.modDir_links (s : State) (h : Nat) (f : DirEnt → DirEnt) : (s.modDir h f).links = s.links := rfl
@[simp] theorem State.modDir_rackQueue (s : State) (h : Nat) (f : DirEnt → DirEnt) : (s.modDir h f).rackQueue = s.rackQueue := rfl
@[simp] theorem State.modDir_pageIns (s : State) (h : Nat) (f : DirEnt → DirEnt) : (s.modDir h f).pageIns = s.pageIns := rfl
@[simp] theorem State.modDir_paged (s : State) (h : Nat) (f : DirEnt → DirEnt) : (s.modDir h f).paged = s.paged := rfl
@[simp] theorem State.modDir_pins (s : State) (h : Nat) (f : DirEnt → DirEnt) : (s.modDir h f).pins = s.pins := rfl
@[simp] theorem State.modDir_pageOuts (s : State) (h : Nat) (f : DirEnt → DirEnt) : (s.modDir h f).pageOuts = s.pageOuts := rfl
@[simp] theorem State.modDir_fw (s : State) (h : Nat) (f : DirEnt → DirEnt) : (s.modDir h f).fw = s.fw := rfl
@[simp] theorem State.modDir_now (s : State) (h : Nat) (f : DirEnt → DirEnt) : (s.modDir h f).now = s.now := rfl
@[simp] theorem State.modDir_agenda (s : State) (h : Nat) (f : DirEnt → DirEnt) : (s.modDir h f).agenda = s.agenda := rfl
@[simp] theorem State.modDir_focus (s : State) (h : Nat) (f : DirEnt → DirEnt) : (s.modDir h f).focus = s.focus := rfl
@[simp] theorem State.modDir_issue (s : State) (h : Nat) (f : DirEnt → DirEnt) : (s.modDir h f).issue = s.issue := rfl
@[simp] theorem State.modDir_fresh (s : State) (h : Nat) (f : DirEnt → DirEnt) : (s.modDir h f).fresh = s.fresh := rfl
@[simp] theorem State.modKept_mem (s : State) (h : Nat) (f : Kept → Kept) : (s.modKept h f).mem = s.mem := rfl
@[simp] theorem State.modKept_tags (s : State) (h : Nat) (f : Kept → Kept) : (s.modKept h f).tags = s.tags := rfl
@[simp] theorem State.modKept_dirty (s : State) (h : Nat) (f : Kept → Kept) : (s.modKept h f).dirty = s.dirty := rfl
@[simp] theorem State.modKept_homes (s : State) (h : Nat) (f : Kept → Kept) : (s.modKept h f).homes = s.homes := rfl
@[simp] theorem State.modKept_rdc (s : State) (h : Nat) (f : Kept → Kept) : (s.modKept h f).rdc = s.rdc := rfl
@[simp] theorem State.modKept_held (s : State) (h : Nat) (f : Kept → Kept) : (s.modKept h f).held = s.held := rfl
@[simp] theorem State.modKept_hostLines (s : State) (h : Nat) (f : Kept → Kept) : (s.modKept h f).hostLines = s.hostLines := rfl
@[simp] theorem State.modKept_stlb (s : State) (h : Nat) (f : Kept → Kept) : (s.modKept h f).stlb = s.stlb := rfl
@[simp] theorem State.modKept_peerOut (s : State) (h : Nat) (f : Kept → Kept) : (s.modKept h f).peerOut = s.peerOut := rfl
@[simp] theorem State.modKept_inputs (s : State) (h : Nat) (f : Kept → Kept) : (s.modKept h f).inputs = s.inputs := rfl
@[simp] theorem State.modKept_cores (s : State) (h : Nat) (f : Kept → Kept) : (s.modKept h f).cores = s.cores := rfl
@[simp] theorem State.modKept_ctxs (s : State) (h : Nat) (f : Kept → Kept) : (s.modKept h f).ctxs = s.ctxs := rfl
@[simp] theorem State.modKept_parts (s : State) (h : Nat) (f : Kept → Kept) : (s.modKept h f).parts = s.parts := rfl
@[simp] theorem State.modKept_net (s : State) (h : Nat) (f : Kept → Kept) : (s.modKept h f).net = s.net := rfl
@[simp] theorem State.modKept_nextMsg (s : State) (h : Nat) (f : Kept → Kept) : (s.modKept h f).nextMsg = s.nextMsg := rfl
@[simp] theorem State.modKept_seqs (s : State) (h : Nat) (f : Kept → Kept) : (s.modKept h f).seqs = s.seqs := rfl
@[simp] theorem State.modKept_parked (s : State) (h : Nat) (f : Kept → Kept) : (s.modKept h f).parked = s.parked := rfl
@[simp] theorem State.modKept_homeWaiters (s : State) (h : Nat) (f : Kept → Kept) : (s.modKept h f).homeWaiters = s.homeWaiters := rfl
@[simp] theorem State.modKept_dirs (s : State) (h : Nat) (f : Kept → Kept) : (s.modKept h f).dirs = s.dirs := rfl
@[simp] theorem State.modKept_pool (s : State) (h : Nat) (f : Kept → Kept) : (s.modKept h f).pool = s.pool := rfl
@[simp] theorem State.modKept_groups (s : State) (h : Nat) (f : Kept → Kept) : (s.modKept h f).groups = s.groups := rfl
@[simp] theorem State.modKept_launches (s : State) (h : Nat) (f : Kept → Kept) : (s.modKept h f).launches = s.launches := rfl
@[simp] theorem State.modKept_partitions (s : State) (h : Nat) (f : Kept → Kept) : (s.modKept h f).partitions = s.partitions := rfl
@[simp] theorem State.modKept_queues (s : State) (h : Nat) (f : Kept → Kept) : (s.modKept h f).queues = s.queues := rfl
@[simp] theorem State.modKept_cmds (s : State) (h : Nat) (f : Kept → Kept) : (s.modKept h f).cmds = s.cmds := rfl
@[simp] theorem State.modKept_lauters (s : State) (h : Nat) (f : Kept → Kept) : (s.modKept h f).lauters = s.lauters := rfl
@[simp] theorem State.modKept_power (s : State) (h : Nat) (f : Kept → Kept) : (s.modKept h f).power = s.power := rfl
@[simp] theorem State.modKept_links (s : State) (h : Nat) (f : Kept → Kept) : (s.modKept h f).links = s.links := rfl
@[simp] theorem State.modKept_rackQueue (s : State) (h : Nat) (f : Kept → Kept) : (s.modKept h f).rackQueue = s.rackQueue := rfl
@[simp] theorem State.modKept_pageIns (s : State) (h : Nat) (f : Kept → Kept) : (s.modKept h f).pageIns = s.pageIns := rfl
@[simp] theorem State.modKept_paged (s : State) (h : Nat) (f : Kept → Kept) : (s.modKept h f).paged = s.paged := rfl
@[simp] theorem State.modKept_pins (s : State) (h : Nat) (f : Kept → Kept) : (s.modKept h f).pins = s.pins := rfl
@[simp] theorem State.modKept_pageOuts (s : State) (h : Nat) (f : Kept → Kept) : (s.modKept h f).pageOuts = s.pageOuts := rfl
@[simp] theorem State.modKept_fw (s : State) (h : Nat) (f : Kept → Kept) : (s.modKept h f).fw = s.fw := rfl
@[simp] theorem State.modKept_now (s : State) (h : Nat) (f : Kept → Kept) : (s.modKept h f).now = s.now := rfl
@[simp] theorem State.modKept_agenda (s : State) (h : Nat) (f : Kept → Kept) : (s.modKept h f).agenda = s.agenda := rfl
@[simp] theorem State.modKept_focus (s : State) (h : Nat) (f : Kept → Kept) : (s.modKept h f).focus = s.focus := rfl
@[simp] theorem State.modKept_issue (s : State) (h : Nat) (f : Kept → Kept) : (s.modKept h f).issue = s.issue := rfl
@[simp] theorem State.modKept_fresh (s : State) (h : Nat) (f : Kept → Kept) : (s.modKept h f).fresh = s.fresh := rfl
@[simp] theorem State.modPower_mem (s : State) (f : Power → Power) : (s.modPower f).mem = s.mem := rfl
@[simp] theorem State.modPower_tags (s : State) (f : Power → Power) : (s.modPower f).tags = s.tags := rfl
@[simp] theorem State.modPower_dirty (s : State) (f : Power → Power) : (s.modPower f).dirty = s.dirty := rfl
@[simp] theorem State.modPower_homes (s : State) (f : Power → Power) : (s.modPower f).homes = s.homes := rfl
@[simp] theorem State.modPower_rdc (s : State) (f : Power → Power) : (s.modPower f).rdc = s.rdc := rfl
@[simp] theorem State.modPower_held (s : State) (f : Power → Power) : (s.modPower f).held = s.held := rfl
@[simp] theorem State.modPower_hostLines (s : State) (f : Power → Power) : (s.modPower f).hostLines = s.hostLines := rfl
@[simp] theorem State.modPower_stlb (s : State) (f : Power → Power) : (s.modPower f).stlb = s.stlb := rfl
@[simp] theorem State.modPower_peerOut (s : State) (f : Power → Power) : (s.modPower f).peerOut = s.peerOut := rfl
@[simp] theorem State.modPower_inputs (s : State) (f : Power → Power) : (s.modPower f).inputs = s.inputs := rfl
@[simp] theorem State.modPower_cores (s : State) (f : Power → Power) : (s.modPower f).cores = s.cores := rfl
@[simp] theorem State.modPower_ctxs (s : State) (f : Power → Power) : (s.modPower f).ctxs = s.ctxs := rfl
@[simp] theorem State.modPower_parts (s : State) (f : Power → Power) : (s.modPower f).parts = s.parts := rfl
@[simp] theorem State.modPower_net (s : State) (f : Power → Power) : (s.modPower f).net = s.net := rfl
@[simp] theorem State.modPower_nextMsg (s : State) (f : Power → Power) : (s.modPower f).nextMsg = s.nextMsg := rfl
@[simp] theorem State.modPower_seqs (s : State) (f : Power → Power) : (s.modPower f).seqs = s.seqs := rfl
@[simp] theorem State.modPower_parked (s : State) (f : Power → Power) : (s.modPower f).parked = s.parked := rfl
@[simp] theorem State.modPower_homeWaiters (s : State) (f : Power → Power) : (s.modPower f).homeWaiters = s.homeWaiters := rfl
@[simp] theorem State.modPower_dirs (s : State) (f : Power → Power) : (s.modPower f).dirs = s.dirs := rfl
@[simp] theorem State.modPower_kept (s : State) (f : Power → Power) : (s.modPower f).kept = s.kept := rfl
@[simp] theorem State.modPower_pool (s : State) (f : Power → Power) : (s.modPower f).pool = s.pool := rfl
@[simp] theorem State.modPower_groups (s : State) (f : Power → Power) : (s.modPower f).groups = s.groups := rfl
@[simp] theorem State.modPower_launches (s : State) (f : Power → Power) : (s.modPower f).launches = s.launches := rfl
@[simp] theorem State.modPower_partitions (s : State) (f : Power → Power) : (s.modPower f).partitions = s.partitions := rfl
@[simp] theorem State.modPower_queues (s : State) (f : Power → Power) : (s.modPower f).queues = s.queues := rfl
@[simp] theorem State.modPower_cmds (s : State) (f : Power → Power) : (s.modPower f).cmds = s.cmds := rfl
@[simp] theorem State.modPower_lauters (s : State) (f : Power → Power) : (s.modPower f).lauters = s.lauters := rfl
@[simp] theorem State.modPower_links (s : State) (f : Power → Power) : (s.modPower f).links = s.links := rfl
@[simp] theorem State.modPower_rackQueue (s : State) (f : Power → Power) : (s.modPower f).rackQueue = s.rackQueue := rfl
@[simp] theorem State.modPower_pageIns (s : State) (f : Power → Power) : (s.modPower f).pageIns = s.pageIns := rfl
@[simp] theorem State.modPower_paged (s : State) (f : Power → Power) : (s.modPower f).paged = s.paged := rfl
@[simp] theorem State.modPower_pins (s : State) (f : Power → Power) : (s.modPower f).pins = s.pins := rfl
@[simp] theorem State.modPower_pageOuts (s : State) (f : Power → Power) : (s.modPower f).pageOuts = s.pageOuts := rfl
@[simp] theorem State.modPower_fw (s : State) (f : Power → Power) : (s.modPower f).fw = s.fw := rfl
@[simp] theorem State.modPower_now (s : State) (f : Power → Power) : (s.modPower f).now = s.now := rfl
@[simp] theorem State.modPower_agenda (s : State) (f : Power → Power) : (s.modPower f).agenda = s.agenda := rfl
@[simp] theorem State.modPower_focus (s : State) (f : Power → Power) : (s.modPower f).focus = s.focus := rfl
@[simp] theorem State.modPower_issue (s : State) (f : Power → Power) : (s.modPower f).issue = s.issue := rfl
@[simp] theorem State.modPower_fresh (s : State) (f : Power → Power) : (s.modPower f).fresh = s.fresh := rfl
@[simp] theorem State.modQueue_mem (s : State) (q : Nat) (f : Queue → Queue) : (s.modQueue q f).mem = s.mem := rfl
@[simp] theorem State.modQueue_tags (s : State) (q : Nat) (f : Queue → Queue) : (s.modQueue q f).tags = s.tags := rfl
@[simp] theorem State.modQueue_dirty (s : State) (q : Nat) (f : Queue → Queue) : (s.modQueue q f).dirty = s.dirty := rfl
@[simp] theorem State.modQueue_homes (s : State) (q : Nat) (f : Queue → Queue) : (s.modQueue q f).homes = s.homes := rfl
@[simp] theorem State.modQueue_rdc (s : State) (q : Nat) (f : Queue → Queue) : (s.modQueue q f).rdc = s.rdc := rfl
@[simp] theorem State.modQueue_held (s : State) (q : Nat) (f : Queue → Queue) : (s.modQueue q f).held = s.held := rfl
@[simp] theorem State.modQueue_hostLines (s : State) (q : Nat) (f : Queue → Queue) : (s.modQueue q f).hostLines = s.hostLines := rfl
@[simp] theorem State.modQueue_stlb (s : State) (q : Nat) (f : Queue → Queue) : (s.modQueue q f).stlb = s.stlb := rfl
@[simp] theorem State.modQueue_peerOut (s : State) (q : Nat) (f : Queue → Queue) : (s.modQueue q f).peerOut = s.peerOut := rfl
@[simp] theorem State.modQueue_inputs (s : State) (q : Nat) (f : Queue → Queue) : (s.modQueue q f).inputs = s.inputs := rfl
@[simp] theorem State.modQueue_cores (s : State) (q : Nat) (f : Queue → Queue) : (s.modQueue q f).cores = s.cores := rfl
@[simp] theorem State.modQueue_ctxs (s : State) (q : Nat) (f : Queue → Queue) : (s.modQueue q f).ctxs = s.ctxs := rfl
@[simp] theorem State.modQueue_parts (s : State) (q : Nat) (f : Queue → Queue) : (s.modQueue q f).parts = s.parts := rfl
@[simp] theorem State.modQueue_net (s : State) (q : Nat) (f : Queue → Queue) : (s.modQueue q f).net = s.net := rfl
@[simp] theorem State.modQueue_nextMsg (s : State) (q : Nat) (f : Queue → Queue) : (s.modQueue q f).nextMsg = s.nextMsg := rfl
@[simp] theorem State.modQueue_seqs (s : State) (q : Nat) (f : Queue → Queue) : (s.modQueue q f).seqs = s.seqs := rfl
@[simp] theorem State.modQueue_parked (s : State) (q : Nat) (f : Queue → Queue) : (s.modQueue q f).parked = s.parked := rfl
@[simp] theorem State.modQueue_homeWaiters (s : State) (q : Nat) (f : Queue → Queue) : (s.modQueue q f).homeWaiters = s.homeWaiters := rfl
@[simp] theorem State.modQueue_dirs (s : State) (q : Nat) (f : Queue → Queue) : (s.modQueue q f).dirs = s.dirs := rfl
@[simp] theorem State.modQueue_kept (s : State) (q : Nat) (f : Queue → Queue) : (s.modQueue q f).kept = s.kept := rfl
@[simp] theorem State.modQueue_pool (s : State) (q : Nat) (f : Queue → Queue) : (s.modQueue q f).pool = s.pool := rfl
@[simp] theorem State.modQueue_groups (s : State) (q : Nat) (f : Queue → Queue) : (s.modQueue q f).groups = s.groups := rfl
@[simp] theorem State.modQueue_launches (s : State) (q : Nat) (f : Queue → Queue) : (s.modQueue q f).launches = s.launches := rfl
@[simp] theorem State.modQueue_partitions (s : State) (q : Nat) (f : Queue → Queue) : (s.modQueue q f).partitions = s.partitions := rfl
@[simp] theorem State.modQueue_cmds (s : State) (q : Nat) (f : Queue → Queue) : (s.modQueue q f).cmds = s.cmds := rfl
@[simp] theorem State.modQueue_lauters (s : State) (q : Nat) (f : Queue → Queue) : (s.modQueue q f).lauters = s.lauters := rfl
@[simp] theorem State.modQueue_power (s : State) (q : Nat) (f : Queue → Queue) : (s.modQueue q f).power = s.power := rfl
@[simp] theorem State.modQueue_links (s : State) (q : Nat) (f : Queue → Queue) : (s.modQueue q f).links = s.links := rfl
@[simp] theorem State.modQueue_rackQueue (s : State) (q : Nat) (f : Queue → Queue) : (s.modQueue q f).rackQueue = s.rackQueue := rfl
@[simp] theorem State.modQueue_pageIns (s : State) (q : Nat) (f : Queue → Queue) : (s.modQueue q f).pageIns = s.pageIns := rfl
@[simp] theorem State.modQueue_paged (s : State) (q : Nat) (f : Queue → Queue) : (s.modQueue q f).paged = s.paged := rfl
@[simp] theorem State.modQueue_pins (s : State) (q : Nat) (f : Queue → Queue) : (s.modQueue q f).pins = s.pins := rfl
@[simp] theorem State.modQueue_pageOuts (s : State) (q : Nat) (f : Queue → Queue) : (s.modQueue q f).pageOuts = s.pageOuts := rfl
@[simp] theorem State.modQueue_fw (s : State) (q : Nat) (f : Queue → Queue) : (s.modQueue q f).fw = s.fw := rfl
@[simp] theorem State.modQueue_now (s : State) (q : Nat) (f : Queue → Queue) : (s.modQueue q f).now = s.now := rfl
@[simp] theorem State.modQueue_agenda (s : State) (q : Nat) (f : Queue → Queue) : (s.modQueue q f).agenda = s.agenda := rfl
@[simp] theorem State.modQueue_focus (s : State) (q : Nat) (f : Queue → Queue) : (s.modQueue q f).focus = s.focus := rfl
@[simp] theorem State.modQueue_issue (s : State) (q : Nat) (f : Queue → Queue) : (s.modQueue q f).issue = s.issue := rfl
@[simp] theorem State.modQueue_fresh (s : State) (q : Nat) (f : Queue → Queue) : (s.modQueue q f).fresh = s.fresh := rfl
@[simp] theorem State.setCmd_mem (s : State) (n : Nat) (x : Cmd) : (s.setCmd n x).mem = s.mem := rfl
@[simp] theorem State.setCmd_tags (s : State) (n : Nat) (x : Cmd) : (s.setCmd n x).tags = s.tags := rfl
@[simp] theorem State.setCmd_dirty (s : State) (n : Nat) (x : Cmd) : (s.setCmd n x).dirty = s.dirty := rfl
@[simp] theorem State.setCmd_homes (s : State) (n : Nat) (x : Cmd) : (s.setCmd n x).homes = s.homes := rfl
@[simp] theorem State.setCmd_rdc (s : State) (n : Nat) (x : Cmd) : (s.setCmd n x).rdc = s.rdc := rfl
@[simp] theorem State.setCmd_held (s : State) (n : Nat) (x : Cmd) : (s.setCmd n x).held = s.held := rfl
@[simp] theorem State.setCmd_hostLines (s : State) (n : Nat) (x : Cmd) : (s.setCmd n x).hostLines = s.hostLines := rfl
@[simp] theorem State.setCmd_stlb (s : State) (n : Nat) (x : Cmd) : (s.setCmd n x).stlb = s.stlb := rfl
@[simp] theorem State.setCmd_peerOut (s : State) (n : Nat) (x : Cmd) : (s.setCmd n x).peerOut = s.peerOut := rfl
@[simp] theorem State.setCmd_inputs (s : State) (n : Nat) (x : Cmd) : (s.setCmd n x).inputs = s.inputs := rfl
@[simp] theorem State.setCmd_cores (s : State) (n : Nat) (x : Cmd) : (s.setCmd n x).cores = s.cores := rfl
@[simp] theorem State.setCmd_ctxs (s : State) (n : Nat) (x : Cmd) : (s.setCmd n x).ctxs = s.ctxs := rfl
@[simp] theorem State.setCmd_parts (s : State) (n : Nat) (x : Cmd) : (s.setCmd n x).parts = s.parts := rfl
@[simp] theorem State.setCmd_net (s : State) (n : Nat) (x : Cmd) : (s.setCmd n x).net = s.net := rfl
@[simp] theorem State.setCmd_nextMsg (s : State) (n : Nat) (x : Cmd) : (s.setCmd n x).nextMsg = s.nextMsg := rfl
@[simp] theorem State.setCmd_seqs (s : State) (n : Nat) (x : Cmd) : (s.setCmd n x).seqs = s.seqs := rfl
@[simp] theorem State.setCmd_parked (s : State) (n : Nat) (x : Cmd) : (s.setCmd n x).parked = s.parked := rfl
@[simp] theorem State.setCmd_homeWaiters (s : State) (n : Nat) (x : Cmd) : (s.setCmd n x).homeWaiters = s.homeWaiters := rfl
@[simp] theorem State.setCmd_dirs (s : State) (n : Nat) (x : Cmd) : (s.setCmd n x).dirs = s.dirs := rfl
@[simp] theorem State.setCmd_kept (s : State) (n : Nat) (x : Cmd) : (s.setCmd n x).kept = s.kept := rfl
@[simp] theorem State.setCmd_pool (s : State) (n : Nat) (x : Cmd) : (s.setCmd n x).pool = s.pool := rfl
@[simp] theorem State.setCmd_groups (s : State) (n : Nat) (x : Cmd) : (s.setCmd n x).groups = s.groups := rfl
@[simp] theorem State.setCmd_launches (s : State) (n : Nat) (x : Cmd) : (s.setCmd n x).launches = s.launches := rfl
@[simp] theorem State.setCmd_partitions (s : State) (n : Nat) (x : Cmd) : (s.setCmd n x).partitions = s.partitions := rfl
@[simp] theorem State.setCmd_queues (s : State) (n : Nat) (x : Cmd) : (s.setCmd n x).queues = s.queues := rfl
@[simp] theorem State.setCmd_lauters (s : State) (n : Nat) (x : Cmd) : (s.setCmd n x).lauters = s.lauters := rfl
@[simp] theorem State.setCmd_power (s : State) (n : Nat) (x : Cmd) : (s.setCmd n x).power = s.power := rfl
@[simp] theorem State.setCmd_links (s : State) (n : Nat) (x : Cmd) : (s.setCmd n x).links = s.links := rfl
@[simp] theorem State.setCmd_rackQueue (s : State) (n : Nat) (x : Cmd) : (s.setCmd n x).rackQueue = s.rackQueue := rfl
@[simp] theorem State.setCmd_pageIns (s : State) (n : Nat) (x : Cmd) : (s.setCmd n x).pageIns = s.pageIns := rfl
@[simp] theorem State.setCmd_paged (s : State) (n : Nat) (x : Cmd) : (s.setCmd n x).paged = s.paged := rfl
@[simp] theorem State.setCmd_pins (s : State) (n : Nat) (x : Cmd) : (s.setCmd n x).pins = s.pins := rfl
@[simp] theorem State.setCmd_pageOuts (s : State) (n : Nat) (x : Cmd) : (s.setCmd n x).pageOuts = s.pageOuts := rfl
@[simp] theorem State.setCmd_fw (s : State) (n : Nat) (x : Cmd) : (s.setCmd n x).fw = s.fw := rfl
@[simp] theorem State.setCmd_now (s : State) (n : Nat) (x : Cmd) : (s.setCmd n x).now = s.now := rfl
@[simp] theorem State.setCmd_agenda (s : State) (n : Nat) (x : Cmd) : (s.setCmd n x).agenda = s.agenda := rfl
@[simp] theorem State.setCmd_focus (s : State) (n : Nat) (x : Cmd) : (s.setCmd n x).focus = s.focus := rfl
@[simp] theorem State.setCmd_issue (s : State) (n : Nat) (x : Cmd) : (s.setCmd n x).issue = s.issue := rfl
@[simp] theorem State.setCmd_fresh (s : State) (n : Nat) (x : Cmd) : (s.setCmd n x).fresh = s.fresh := rfl
@[simp] theorem State.spadWrite_tags (s : State) (c off n v : Nat) : (s.spadWrite c off n v).tags = s.tags := rfl
@[simp] theorem State.spadWrite_dirty (s : State) (c off n v : Nat) : (s.spadWrite c off n v).dirty = s.dirty := rfl
@[simp] theorem State.spadWrite_homes (s : State) (c off n v : Nat) : (s.spadWrite c off n v).homes = s.homes := rfl
@[simp] theorem State.spadWrite_rdc (s : State) (c off n v : Nat) : (s.spadWrite c off n v).rdc = s.rdc := rfl
@[simp] theorem State.spadWrite_held (s : State) (c off n v : Nat) : (s.spadWrite c off n v).held = s.held := rfl
@[simp] theorem State.spadWrite_hostLines (s : State) (c off n v : Nat) : (s.spadWrite c off n v).hostLines = s.hostLines := rfl
@[simp] theorem State.spadWrite_stlb (s : State) (c off n v : Nat) : (s.spadWrite c off n v).stlb = s.stlb := rfl
@[simp] theorem State.spadWrite_peerOut (s : State) (c off n v : Nat) : (s.spadWrite c off n v).peerOut = s.peerOut := rfl
@[simp] theorem State.spadWrite_inputs (s : State) (c off n v : Nat) : (s.spadWrite c off n v).inputs = s.inputs := rfl
@[simp] theorem State.spadWrite_cores (s : State) (c off n v : Nat) : (s.spadWrite c off n v).cores = s.cores := rfl
@[simp] theorem State.spadWrite_ctxs (s : State) (c off n v : Nat) : (s.spadWrite c off n v).ctxs = s.ctxs := rfl
@[simp] theorem State.spadWrite_parts (s : State) (c off n v : Nat) : (s.spadWrite c off n v).parts = s.parts := rfl
@[simp] theorem State.spadWrite_net (s : State) (c off n v : Nat) : (s.spadWrite c off n v).net = s.net := rfl
@[simp] theorem State.spadWrite_nextMsg (s : State) (c off n v : Nat) : (s.spadWrite c off n v).nextMsg = s.nextMsg := rfl
@[simp] theorem State.spadWrite_seqs (s : State) (c off n v : Nat) : (s.spadWrite c off n v).seqs = s.seqs := rfl
@[simp] theorem State.spadWrite_parked (s : State) (c off n v : Nat) : (s.spadWrite c off n v).parked = s.parked := rfl
@[simp] theorem State.spadWrite_homeWaiters (s : State) (c off n v : Nat) : (s.spadWrite c off n v).homeWaiters = s.homeWaiters := rfl
@[simp] theorem State.spadWrite_dirs (s : State) (c off n v : Nat) : (s.spadWrite c off n v).dirs = s.dirs := rfl
@[simp] theorem State.spadWrite_kept (s : State) (c off n v : Nat) : (s.spadWrite c off n v).kept = s.kept := rfl
@[simp] theorem State.spadWrite_pool (s : State) (c off n v : Nat) : (s.spadWrite c off n v).pool = s.pool := rfl
@[simp] theorem State.spadWrite_groups (s : State) (c off n v : Nat) : (s.spadWrite c off n v).groups = s.groups := rfl
@[simp] theorem State.spadWrite_launches (s : State) (c off n v : Nat) : (s.spadWrite c off n v).launches = s.launches := rfl
@[simp] theorem State.spadWrite_partitions (s : State) (c off n v : Nat) : (s.spadWrite c off n v).partitions = s.partitions := rfl
@[simp] theorem State.spadWrite_queues (s : State) (c off n v : Nat) : (s.spadWrite c off n v).queues = s.queues := rfl
@[simp] theorem State.spadWrite_cmds (s : State) (c off n v : Nat) : (s.spadWrite c off n v).cmds = s.cmds := rfl
@[simp] theorem State.spadWrite_lauters (s : State) (c off n v : Nat) : (s.spadWrite c off n v).lauters = s.lauters := rfl
@[simp] theorem State.spadWrite_power (s : State) (c off n v : Nat) : (s.spadWrite c off n v).power = s.power := rfl
@[simp] theorem State.spadWrite_links (s : State) (c off n v : Nat) : (s.spadWrite c off n v).links = s.links := rfl
@[simp] theorem State.spadWrite_rackQueue (s : State) (c off n v : Nat) : (s.spadWrite c off n v).rackQueue = s.rackQueue := rfl
@[simp] theorem State.spadWrite_pageIns (s : State) (c off n v : Nat) : (s.spadWrite c off n v).pageIns = s.pageIns := rfl
@[simp] theorem State.spadWrite_paged (s : State) (c off n v : Nat) : (s.spadWrite c off n v).paged = s.paged := rfl
@[simp] theorem State.spadWrite_pins (s : State) (c off n v : Nat) : (s.spadWrite c off n v).pins = s.pins := rfl
@[simp] theorem State.spadWrite_pageOuts (s : State) (c off n v : Nat) : (s.spadWrite c off n v).pageOuts = s.pageOuts := rfl
@[simp] theorem State.spadWrite_fw (s : State) (c off n v : Nat) : (s.spadWrite c off n v).fw = s.fw := rfl
@[simp] theorem State.spadWrite_now (s : State) (c off n v : Nat) : (s.spadWrite c off n v).now = s.now := rfl
@[simp] theorem State.spadWrite_agenda (s : State) (c off n v : Nat) : (s.spadWrite c off n v).agenda = s.agenda := rfl
@[simp] theorem State.spadWrite_focus (s : State) (c off n v : Nat) : (s.spadWrite c off n v).focus = s.focus := rfl
@[simp] theorem State.spadWrite_issue (s : State) (c off n v : Nat) : (s.spadWrite c off n v).issue = s.issue := rfl
@[simp] theorem State.spadWrite_fresh (s : State) (c off n v : Nat) : (s.spadWrite c off n v).fresh = s.fresh := rfl

@[simp] theorem State.modPartition_mem (s : State) (p : Nat) (f : Partition → Partition) : (s.modPartition p f).mem = s.mem := by
  unfold State.modPartition; split <;> rfl
@[simp] theorem State.modPartition_tags (s : State) (p : Nat) (f : Partition → Partition) : (s.modPartition p f).tags = s.tags := by
  unfold State.modPartition; split <;> rfl
@[simp] theorem State.modPartition_dirty (s : State) (p : Nat) (f : Partition → Partition) : (s.modPartition p f).dirty = s.dirty := by
  unfold State.modPartition; split <;> rfl
@[simp] theorem State.modPartition_homes (s : State) (p : Nat) (f : Partition → Partition) : (s.modPartition p f).homes = s.homes := by
  unfold State.modPartition; split <;> rfl
@[simp] theorem State.modPartition_rdc (s : State) (p : Nat) (f : Partition → Partition) : (s.modPartition p f).rdc = s.rdc := by
  unfold State.modPartition; split <;> rfl
@[simp] theorem State.modPartition_held (s : State) (p : Nat) (f : Partition → Partition) : (s.modPartition p f).held = s.held := by
  unfold State.modPartition; split <;> rfl
@[simp] theorem State.modPartition_hostLines (s : State) (p : Nat) (f : Partition → Partition) : (s.modPartition p f).hostLines = s.hostLines := by
  unfold State.modPartition; split <;> rfl
@[simp] theorem State.modPartition_stlb (s : State) (p : Nat) (f : Partition → Partition) : (s.modPartition p f).stlb = s.stlb := by
  unfold State.modPartition; split <;> rfl
@[simp] theorem State.modPartition_peerOut (s : State) (p : Nat) (f : Partition → Partition) : (s.modPartition p f).peerOut = s.peerOut := by
  unfold State.modPartition; split <;> rfl
@[simp] theorem State.modPartition_inputs (s : State) (p : Nat) (f : Partition → Partition) : (s.modPartition p f).inputs = s.inputs := by
  unfold State.modPartition; split <;> rfl
@[simp] theorem State.modPartition_cores (s : State) (p : Nat) (f : Partition → Partition) : (s.modPartition p f).cores = s.cores := by
  unfold State.modPartition; split <;> rfl
@[simp] theorem State.modPartition_ctxs (s : State) (p : Nat) (f : Partition → Partition) : (s.modPartition p f).ctxs = s.ctxs := by
  unfold State.modPartition; split <;> rfl
@[simp] theorem State.modPartition_parts (s : State) (p : Nat) (f : Partition → Partition) : (s.modPartition p f).parts = s.parts := by
  unfold State.modPartition; split <;> rfl
@[simp] theorem State.modPartition_net (s : State) (p : Nat) (f : Partition → Partition) : (s.modPartition p f).net = s.net := by
  unfold State.modPartition; split <;> rfl
@[simp] theorem State.modPartition_nextMsg (s : State) (p : Nat) (f : Partition → Partition) : (s.modPartition p f).nextMsg = s.nextMsg := by
  unfold State.modPartition; split <;> rfl
@[simp] theorem State.modPartition_seqs (s : State) (p : Nat) (f : Partition → Partition) : (s.modPartition p f).seqs = s.seqs := by
  unfold State.modPartition; split <;> rfl
@[simp] theorem State.modPartition_parked (s : State) (p : Nat) (f : Partition → Partition) : (s.modPartition p f).parked = s.parked := by
  unfold State.modPartition; split <;> rfl
@[simp] theorem State.modPartition_homeWaiters (s : State) (p : Nat) (f : Partition → Partition) : (s.modPartition p f).homeWaiters = s.homeWaiters := by
  unfold State.modPartition; split <;> rfl
@[simp] theorem State.modPartition_dirs (s : State) (p : Nat) (f : Partition → Partition) : (s.modPartition p f).dirs = s.dirs := by
  unfold State.modPartition; split <;> rfl
@[simp] theorem State.modPartition_kept (s : State) (p : Nat) (f : Partition → Partition) : (s.modPartition p f).kept = s.kept := by
  unfold State.modPartition; split <;> rfl
@[simp] theorem State.modPartition_pool (s : State) (p : Nat) (f : Partition → Partition) : (s.modPartition p f).pool = s.pool := by
  unfold State.modPartition; split <;> rfl
@[simp] theorem State.modPartition_groups (s : State) (p : Nat) (f : Partition → Partition) : (s.modPartition p f).groups = s.groups := by
  unfold State.modPartition; split <;> rfl
@[simp] theorem State.modPartition_launches (s : State) (p : Nat) (f : Partition → Partition) : (s.modPartition p f).launches = s.launches := by
  unfold State.modPartition; split <;> rfl
@[simp] theorem State.modPartition_queues (s : State) (p : Nat) (f : Partition → Partition) : (s.modPartition p f).queues = s.queues := by
  unfold State.modPartition; split <;> rfl
@[simp] theorem State.modPartition_cmds (s : State) (p : Nat) (f : Partition → Partition) : (s.modPartition p f).cmds = s.cmds := by
  unfold State.modPartition; split <;> rfl
@[simp] theorem State.modPartition_lauters (s : State) (p : Nat) (f : Partition → Partition) : (s.modPartition p f).lauters = s.lauters := by
  unfold State.modPartition; split <;> rfl
@[simp] theorem State.modPartition_power (s : State) (p : Nat) (f : Partition → Partition) : (s.modPartition p f).power = s.power := by
  unfold State.modPartition; split <;> rfl
@[simp] theorem State.modPartition_links (s : State) (p : Nat) (f : Partition → Partition) : (s.modPartition p f).links = s.links := by
  unfold State.modPartition; split <;> rfl
@[simp] theorem State.modPartition_rackQueue (s : State) (p : Nat) (f : Partition → Partition) : (s.modPartition p f).rackQueue = s.rackQueue := by
  unfold State.modPartition; split <;> rfl
@[simp] theorem State.modPartition_pageIns (s : State) (p : Nat) (f : Partition → Partition) : (s.modPartition p f).pageIns = s.pageIns := by
  unfold State.modPartition; split <;> rfl
@[simp] theorem State.modPartition_paged (s : State) (p : Nat) (f : Partition → Partition) : (s.modPartition p f).paged = s.paged := by
  unfold State.modPartition; split <;> rfl
@[simp] theorem State.modPartition_pins (s : State) (p : Nat) (f : Partition → Partition) : (s.modPartition p f).pins = s.pins := by
  unfold State.modPartition; split <;> rfl
@[simp] theorem State.modPartition_pageOuts (s : State) (p : Nat) (f : Partition → Partition) : (s.modPartition p f).pageOuts = s.pageOuts := by
  unfold State.modPartition; split <;> rfl
@[simp] theorem State.modPartition_fw (s : State) (p : Nat) (f : Partition → Partition) : (s.modPartition p f).fw = s.fw := by
  unfold State.modPartition; split <;> rfl
@[simp] theorem State.modPartition_now (s : State) (p : Nat) (f : Partition → Partition) : (s.modPartition p f).now = s.now := by
  unfold State.modPartition; split <;> rfl
@[simp] theorem State.modPartition_agenda (s : State) (p : Nat) (f : Partition → Partition) : (s.modPartition p f).agenda = s.agenda := by
  unfold State.modPartition; split <;> rfl
@[simp] theorem State.modPartition_focus (s : State) (p : Nat) (f : Partition → Partition) : (s.modPartition p f).focus = s.focus := by
  unfold State.modPartition; split <;> rfl
@[simp] theorem State.modPartition_issue (s : State) (p : Nat) (f : Partition → Partition) : (s.modPartition p f).issue = s.issue := by
  unfold State.modPartition; split <;> rfl
@[simp] theorem State.modPartition_fresh (s : State) (p : Nat) (f : Partition → Partition) : (s.modPartition p f).fresh = s.fresh := by
  unfold State.modPartition; split <;> rfl
@[simp] theorem State.setLink_mem (s : State) (i : Nat) (x : Link) : (s.setLink i x).mem = s.mem := rfl
@[simp] theorem State.setLink_tags (s : State) (i : Nat) (x : Link) : (s.setLink i x).tags = s.tags := rfl
@[simp] theorem State.setLink_dirty (s : State) (i : Nat) (x : Link) : (s.setLink i x).dirty = s.dirty := rfl
@[simp] theorem State.setLink_homes (s : State) (i : Nat) (x : Link) : (s.setLink i x).homes = s.homes := rfl
@[simp] theorem State.setLink_rdc (s : State) (i : Nat) (x : Link) : (s.setLink i x).rdc = s.rdc := rfl
@[simp] theorem State.setLink_held (s : State) (i : Nat) (x : Link) : (s.setLink i x).held = s.held := rfl
@[simp] theorem State.setLink_hostLines (s : State) (i : Nat) (x : Link) : (s.setLink i x).hostLines = s.hostLines := rfl
@[simp] theorem State.setLink_stlb (s : State) (i : Nat) (x : Link) : (s.setLink i x).stlb = s.stlb := rfl
@[simp] theorem State.setLink_peerOut (s : State) (i : Nat) (x : Link) : (s.setLink i x).peerOut = s.peerOut := rfl
@[simp] theorem State.setLink_inputs (s : State) (i : Nat) (x : Link) : (s.setLink i x).inputs = s.inputs := rfl
@[simp] theorem State.setLink_cores (s : State) (i : Nat) (x : Link) : (s.setLink i x).cores = s.cores := rfl
@[simp] theorem State.setLink_ctxs (s : State) (i : Nat) (x : Link) : (s.setLink i x).ctxs = s.ctxs := rfl
@[simp] theorem State.setLink_parts (s : State) (i : Nat) (x : Link) : (s.setLink i x).parts = s.parts := rfl
@[simp] theorem State.setLink_net (s : State) (i : Nat) (x : Link) : (s.setLink i x).net = s.net := rfl
@[simp] theorem State.setLink_nextMsg (s : State) (i : Nat) (x : Link) : (s.setLink i x).nextMsg = s.nextMsg := rfl
@[simp] theorem State.setLink_seqs (s : State) (i : Nat) (x : Link) : (s.setLink i x).seqs = s.seqs := rfl
@[simp] theorem State.setLink_parked (s : State) (i : Nat) (x : Link) : (s.setLink i x).parked = s.parked := rfl
@[simp] theorem State.setLink_homeWaiters (s : State) (i : Nat) (x : Link) : (s.setLink i x).homeWaiters = s.homeWaiters := rfl
@[simp] theorem State.setLink_dirs (s : State) (i : Nat) (x : Link) : (s.setLink i x).dirs = s.dirs := rfl
@[simp] theorem State.setLink_kept (s : State) (i : Nat) (x : Link) : (s.setLink i x).kept = s.kept := rfl
@[simp] theorem State.setLink_pool (s : State) (i : Nat) (x : Link) : (s.setLink i x).pool = s.pool := rfl
@[simp] theorem State.setLink_groups (s : State) (i : Nat) (x : Link) : (s.setLink i x).groups = s.groups := rfl
@[simp] theorem State.setLink_launches (s : State) (i : Nat) (x : Link) : (s.setLink i x).launches = s.launches := rfl
@[simp] theorem State.setLink_partitions (s : State) (i : Nat) (x : Link) : (s.setLink i x).partitions = s.partitions := rfl
@[simp] theorem State.setLink_queues (s : State) (i : Nat) (x : Link) : (s.setLink i x).queues = s.queues := rfl
@[simp] theorem State.setLink_cmds (s : State) (i : Nat) (x : Link) : (s.setLink i x).cmds = s.cmds := rfl
@[simp] theorem State.setLink_lauters (s : State) (i : Nat) (x : Link) : (s.setLink i x).lauters = s.lauters := rfl
@[simp] theorem State.setLink_power (s : State) (i : Nat) (x : Link) : (s.setLink i x).power = s.power := rfl
@[simp] theorem State.setLink_rackQueue (s : State) (i : Nat) (x : Link) : (s.setLink i x).rackQueue = s.rackQueue := rfl
@[simp] theorem State.setLink_pageIns (s : State) (i : Nat) (x : Link) : (s.setLink i x).pageIns = s.pageIns := rfl
@[simp] theorem State.setLink_paged (s : State) (i : Nat) (x : Link) : (s.setLink i x).paged = s.paged := rfl
@[simp] theorem State.setLink_pins (s : State) (i : Nat) (x : Link) : (s.setLink i x).pins = s.pins := rfl
@[simp] theorem State.setLink_pageOuts (s : State) (i : Nat) (x : Link) : (s.setLink i x).pageOuts = s.pageOuts := rfl
@[simp] theorem State.setLink_fw (s : State) (i : Nat) (x : Link) : (s.setLink i x).fw = s.fw := rfl
@[simp] theorem State.setLink_now (s : State) (i : Nat) (x : Link) : (s.setLink i x).now = s.now := rfl
@[simp] theorem State.setLink_agenda (s : State) (i : Nat) (x : Link) : (s.setLink i x).agenda = s.agenda := rfl
@[simp] theorem State.setLink_focus (s : State) (i : Nat) (x : Link) : (s.setLink i x).focus = s.focus := rfl
@[simp] theorem State.setLink_issue (s : State) (i : Nat) (x : Link) : (s.setLink i x).issue = s.issue := rfl
@[simp] theorem State.setLink_fresh (s : State) (i : Nat) (x : Link) : (s.setLink i x).fresh = s.fresh := rfl
@[simp] theorem State.takeWord_mem (s : State) : s.takeWord.2.mem = s.mem := rfl
@[simp] theorem State.takeWord_tags (s : State) : s.takeWord.2.tags = s.tags := rfl
@[simp] theorem State.takeWord_dirty (s : State) : s.takeWord.2.dirty = s.dirty := rfl
@[simp] theorem State.takeWord_homes (s : State) : s.takeWord.2.homes = s.homes := rfl
@[simp] theorem State.takeWord_rdc (s : State) : s.takeWord.2.rdc = s.rdc := rfl
@[simp] theorem State.takeWord_held (s : State) : s.takeWord.2.held = s.held := rfl
@[simp] theorem State.takeWord_hostLines (s : State) : s.takeWord.2.hostLines = s.hostLines := rfl
@[simp] theorem State.takeWord_stlb (s : State) : s.takeWord.2.stlb = s.stlb := rfl
@[simp] theorem State.takeWord_peerOut (s : State) : s.takeWord.2.peerOut = s.peerOut := rfl
@[simp] theorem State.takeWord_inputs (s : State) : s.takeWord.2.inputs = s.inputs := rfl
@[simp] theorem State.takeWord_cores (s : State) : s.takeWord.2.cores = s.cores := rfl
@[simp] theorem State.takeWord_ctxs (s : State) : s.takeWord.2.ctxs = s.ctxs := rfl
@[simp] theorem State.takeWord_parts (s : State) : s.takeWord.2.parts = s.parts := rfl
@[simp] theorem State.takeWord_net (s : State) : s.takeWord.2.net = s.net := rfl
@[simp] theorem State.takeWord_nextMsg (s : State) : s.takeWord.2.nextMsg = s.nextMsg := rfl
@[simp] theorem State.takeWord_seqs (s : State) : s.takeWord.2.seqs = s.seqs := rfl
@[simp] theorem State.takeWord_parked (s : State) : s.takeWord.2.parked = s.parked := rfl
@[simp] theorem State.takeWord_homeWaiters (s : State) : s.takeWord.2.homeWaiters = s.homeWaiters := rfl
@[simp] theorem State.takeWord_dirs (s : State) : s.takeWord.2.dirs = s.dirs := rfl
@[simp] theorem State.takeWord_kept (s : State) : s.takeWord.2.kept = s.kept := rfl
@[simp] theorem State.takeWord_pool (s : State) : s.takeWord.2.pool = s.pool := rfl
@[simp] theorem State.takeWord_groups (s : State) : s.takeWord.2.groups = s.groups := rfl
@[simp] theorem State.takeWord_launches (s : State) : s.takeWord.2.launches = s.launches := rfl
@[simp] theorem State.takeWord_partitions (s : State) : s.takeWord.2.partitions = s.partitions := rfl
@[simp] theorem State.takeWord_queues (s : State) : s.takeWord.2.queues = s.queues := rfl
@[simp] theorem State.takeWord_cmds (s : State) : s.takeWord.2.cmds = s.cmds := rfl
@[simp] theorem State.takeWord_lauters (s : State) : s.takeWord.2.lauters = s.lauters := rfl
@[simp] theorem State.takeWord_power (s : State) : s.takeWord.2.power = s.power := rfl
@[simp] theorem State.takeWord_links (s : State) : s.takeWord.2.links = s.links := rfl
@[simp] theorem State.takeWord_rackQueue (s : State) : s.takeWord.2.rackQueue = s.rackQueue := rfl
@[simp] theorem State.takeWord_pageIns (s : State) : s.takeWord.2.pageIns = s.pageIns := rfl
@[simp] theorem State.takeWord_paged (s : State) : s.takeWord.2.paged = s.paged := rfl
@[simp] theorem State.takeWord_pins (s : State) : s.takeWord.2.pins = s.pins := rfl
@[simp] theorem State.takeWord_pageOuts (s : State) : s.takeWord.2.pageOuts = s.pageOuts := rfl
@[simp] theorem State.takeWord_fw (s : State) : s.takeWord.2.fw = s.fw := rfl
@[simp] theorem State.takeWord_now (s : State) : s.takeWord.2.now = s.now := rfl
@[simp] theorem State.takeWord_agenda (s : State) : s.takeWord.2.agenda = s.agenda := rfl
@[simp] theorem State.takeWord_focus (s : State) : s.takeWord.2.focus = s.focus := rfl
@[simp] theorem State.takeWord_issue (s : State) : s.takeWord.2.issue = s.issue := rfl

/-! ### Reading an update back -/

@[simp] theorem State.core_setCore (s : State) (c : Nat) (x : Core) : (s.setCore c x).core c = x := by simp [State.core, State.setCore]
theorem State.core_setCore_ne (s : State) {c d : Nat} (x : Core) (h : d ≠ c) : (s.setCore c x).core d = s.core d := by
  simp [State.core, State.setCore, SMap.get_put_ne _ _ _ h]
@[simp] theorem State.core_modCore (s : State) (c : Nat) (f : Core → Core) : (s.modCore c f).core c = f (s.core c) := by simp [State.modCore]
theorem State.core_modCore_ne (s : State) {c d : Nat} (f : Core → Core) (h : d ≠ c) : (s.modCore c f).core d = s.core d := by
  simp [State.modCore, State.core_setCore_ne s _ h]
@[simp] theorem State.ctx_setCtx (s : State) (c k : Nat) (x : Ctx) : (s.setCtx c k x).ctx c k = x := by simp [State.ctx, State.setCtx]
@[simp] theorem State.ctx_modCtx (s : State) (c k : Nat) (f : Ctx → Ctx) : (s.modCtx c k f).ctx c k = f (s.ctx c k) := by simp [State.modCtx]
theorem State.ctx_modCtx_ne (s : State) {c k d j : Nat} (f : Ctx → Ctx) (h : d * 16 + j ≠ c * 16 + k) : (s.modCtx c k f).ctx d j = s.ctx d j := by
  simp [State.ctx, State.modCtx, State.setCtx, SMap.get_put_ne _ _ _ h]
@[simp] theorem State.cpart_modPart (s : State) (c p : Nat) (f : CorePart → CorePart) : (s.modPart c p f).cpart c p = f (s.cpart c p) := by
  simp [State.cpart, State.modPart]
@[simp] theorem State.queue_modQueue (s : State) (q : Nat) (f : Queue → Queue) : (s.modQueue q f).queue q = f (s.queue q) := by
  simp [State.queue, State.modQueue]
@[simp] theorem State.keep_modKept (s : State) (h : Nat) (f : Kept → Kept) : (s.modKept h f).keep h = f (s.keep h) := by
  simp [State.keep, State.modKept]
@[simp] theorem State.core_modCtx (s : State) (c k d : Nat) (f : Ctx → Ctx) : (s.modCtx c k f).core d = s.core d := rfl
@[simp] theorem State.ctx_modCore (s : State) (c d k : Nat) (f : Core → Core) : (s.modCore c f).ctx d k = s.ctx d k := rfl
@[simp] theorem State.core_setCtx (s : State) (c k d : Nat) (x : Ctx) : (s.setCtx c k x).core d = s.core d := rfl
@[simp] theorem State.ctx_setCore (s : State) (c d k : Nat) (x : Core) : (s.setCore c x).ctx d k = s.ctx d k := rfl
@[simp] theorem State.core_spadWrite (s : State) (c off n v d : Nat) : (s.spadWrite c off n v).core d = s.core d := rfl
@[simp] theorem State.ctx_spadWrite (s : State) (c off n v d k : Nat) : (s.spadWrite c off n v).ctx d k = s.ctx d k := rfl
@[simp] theorem State.spadRead_modCtx (s : State) (c k d off n : Nat) (f : Ctx → Ctx) : (s.modCtx c k f).spadRead d off n = s.spadRead d off n := rfl

/-- A write to a scratchpad keeps the form of memory. -/
theorem State.inv_spadWrite {s : State} (h : Memory.wf s.mem = true) (c off n v : Nat) : Memory.wf (s.spadWrite c off n v).mem = true :=
  Memory.wf_writeN h _ _ _

end Sys2Proof.Machine
end

