-- ==== Sys2Proof/Laws/Translate.lean ====
section
/-! SUPPORT. Translation within a page: the bytes of one 4 KiB page are those at its frame. -/
namespace Sys2Proof.Machine

/-- An address in the same 4 KiB page has the same index at every level (R192). -/
theorem levelIndex_page (va i l : Nat) (h : va % 4096 + i < 4096) : levelIndex (va + i) l = levelIndex va l := by
  unfold levelIndex levelSize bits
  split
  · omega
  · split <;> [skip; split <;> [skip; split]] <;> omega

/-- A walk finds the same leaf for every address of a 4 KiB page (R192). -/
theorem State.walkFrom_page (s : State) (p va i : Nat) (h : va % 4096 + i < 4096) :
    ∀ fuel l t, s.walkFrom p (va + i) fuel l t = s.walkFrom p va fuel l t := by
  intro fuel
  induction fuel with
  | zero => intros; rfl
  | succ n ih =>
    intro l t
    have e : entryAddr t (va + i) l = entryAddr t va l := by rw [entryAddr, entryAddr, levelIndex_page va i l h]
    rw [State.walkFrom, State.walkFrom, e]
    simp only [ih]

/-- A page of a level is a multiple of 4 KiB. -/
theorem levelSize_page (l : Nat) : ∃ k, 0 < k ∧ levelSize l = 4096 * k := by
  unfold levelSize
  split
  · exact ⟨2 ^ 36, by decide⟩
  · split
    · exact ⟨2 ^ 27, by decide⟩
    · split
      · exact ⟨2 ^ 18, by decide⟩
      · split
        · exact ⟨2 ^ 9, by decide⟩
        · exact ⟨1, by decide⟩

/-- An offset in a page of a level, for a later byte of its 4 KiB page. -/
theorem levelSize_mod (va i l : Nat) (h : va % 4096 + i < 4096) : (va + i) % levelSize l = va % levelSize l + i := by
  obtain ⟨q, hq, hl⟩ := levelSize_page l
  have h1 := Nat.mod_mul (a := 4096) (b := q) (x := va + i)
  have h2 := Nat.mod_mul (a := 4096) (b := q) (x := va)
  have h3 : (va + i) / 4096 = va / 4096 := by omega
  have h4 : (va + i) % 4096 = va % 4096 + i := by omega
  rw [h3, h4] at h1
  rw [hl, h1, h2]
  omega

/-- The entries that a walk reads are those of every address of the 4 KiB page (R192). -/
theorem State.walkPath_page (s : State) (p va i : Nat) (h : va % 4096 + i < 4096) :
    ∀ fuel l t, s.walkPath p (va + i) fuel l t = s.walkPath p va fuel l t := by
  intro fuel
  induction fuel with
  | zero => intros; rfl
  | succ n ih =>
    intro l t
    have e : entryAddr t (va + i) l = entryAddr t va l := by rw [entryAddr, entryAddr, levelIndex_page va i l h]
    rw [State.walkPath, State.walkPath, e]
    simp only [ih]

/-- What stops a walk stops it for every address of the 4 KiB page. -/
theorem State.walkStop_page (s : State) (p va i : Nat) (h : va % 4096 + i < 4096) : s.walkStop p (va + i) = s.walkStop p va := by
  simp only [State.walkStop, State.walkOf, s.walkPath_page p va i h]

/-- A frame is memory to its end (R174). -/
theorem frameOk_page (pa i : Nat) (h : pa % 4096 + i < 4096) : frameOk (pa + i) = frameOk pa := by
  have h1 : isDram (pa + i) = isDram pa := by unfold isDram; exact decide_eq_decide.mpr (by omega)
  have h2 : isSram (pa + i) = isSram pa := by unfold isSram sramBase; exact decide_eq_decide.mpr (by omega)
  rw [frameOk, frameOk, h1, h2]

/-- Within a 4 KiB page the tables lead on byte by byte (R192). -/
theorem State.leafFor_page (s : State) (p va i : Nat) (a : Access) (priv : Bool) (pa b k g : Nat) (h : va % 4096 + i < 4096)
    (ht : s.leafFor p va a priv = .ok pa b k g) : s.leafFor p (va + i) a priv = .ok (pa + i) b k g := by
  unfold State.leafFor leafWalk at *
  rw [State.walkFrom_page s p va i h]
  split at ht
  · cases ht
  · rename_i ea e l heq
    obtain ⟨q, hq, hl⟩ := levelSize_page l
    have hm := levelSize_mod va i l h
    dsimp only at ht ⊢
    rw [hm]
    have hv : (bits e 51 12 * 4096 / levelSize l * levelSize l + va % levelSize l) % 4096 + i < 4096 := by
      have h1 : bits e 51 12 * 4096 / levelSize l * levelSize l % 4096 = 0 := by
        rw [hl, Nat.mul_comm 4096 q, ← Nat.mul_assoc]; exact Nat.mul_mod_left _ _
      have h2 : va % levelSize l % 4096 = va % 4096 := by rw [hl]; exact Nat.mod_mul_right_mod _ _ _
      omega
    rw [← Nat.add_assoc, frameOk_page _ i hv]
    split at ht
    · cases ht
    · split at ht
      · cases ht
      · split at ht
        · cases ht
        · rw [if_neg ‹_›, if_neg ‹_›, if_neg ‹_›, Walk.ok.injEq]
          rw [Walk.ok.injEq] at ht
          exact ⟨by omega, ht.2⟩

/-- A walk is stopped by the DRAM's sleep or by an uncorrectable entry only (R50, R196). -/
theorem State.walkStop_kind (s : State) (p va : Nat) : ∀ w, s.walkStop p va = some w → w = .shut ∨ w = .ecc := by
  intro w h
  obtain ⟨ea, -, he⟩ := List.exists_of_findSome?_eq_some h
  split at he
  · exact .inl (Option.some.inj he).symm
  · split at he
    · exact .inr (Option.some.inj he).symm
    · cases he

/-- A translation for firmware that succeeds is what the tables say, with nothing in the walk's way. -/
theorem State.translateFor_ok {s : State} {p va : Nat} {a : Access} {priv : Bool} {pa b k g : Nat} (h : s.translateFor p va a priv = .ok pa b k g) :
    s.walkStop p va = none ∧ s.leafFor p va a priv = .ok pa b k g := by
  unfold State.translateFor at h
  split at h
  · rename_i w hw
    obtain rfl | rfl := s.walkStop_kind p va w hw <;> cases h
  · exact ⟨‹_›, h⟩

/-- Bytes of one 4 KiB page are those at its frame, where none of them is uncorrectable (R76, R192). -/
theorem State.virtBytes_page (s : State) (p pa b k g : Nat) : ∀ n va, va % 4096 + n ≤ 4096 → s.translateFor p va .read true = .ok pa b k g →
    (∀ i < n, s.bytesBad (pa + i) 1 = false) →
    s.virtBytes p va n = some ((List.range n).map fun i => BitVec.ofNat 8 (s.physRead p (pa + i) 1)) := by
  suffices ∀ n j va, va % 4096 + j + n ≤ 4096 → s.translateFor p va .read true = .ok pa b k g →
      (∀ i, j ≤ i → i < j + n → s.bytesBad (pa + i) 1 = false) →
      s.virtBytes p (va + j) n = some ((List.range' j n).map fun i => BitVec.ofNat 8 (s.physRead p (pa + i) 1)) by
    intro n va h ht hb
    simpa [List.range_eq_range'] using this n 0 va (by omega) ht (fun i _ hi => hb i (by omega))
  intro n
  induction n with
  | zero => intros; rfl
  | succ n ih =>
    intro j va h ht hb
    have h1 := ih (j + 1) va (by omega) ht (fun i h1 h2 => hb i (by omega) (by omega))
    obtain ⟨hs, hl⟩ := State.translateFor_ok ht
    have h2 : s.leafAwake p (va + j) .read = .ok (pa + j) b k g := by
      rw [State.leafAwake, s.walkStop_page p va j (by omega), hs]
      exact s.leafFor_page p va j _ _ pa b k g (by omega) hl
    have h3 : s.bytesBad (pa + j) 1 = false := hb j (by omega) (by omega)
    rw [← Nat.add_assoc] at h1
    simp only [State.virtBytes, h2, h3, h1, Bool.false_eq_true, if_false, List.range'_succ, List.map_cons]

/-- Bytes of a line read one at a time are the bytes read together. -/
theorem State.physRead_byte (s : State) (p pa n i : Nat) (h : pa % 64 + n ≤ 64) (hi : i < n) :
    s.physRead p (pa + i) 1 = s.physRead p pa n / 256 ^ i % 256 := by
  have h1 : (pa + i) / 64 = pa / 64 := by omega
  have h2 : (pa + i) % 64 = pa % 64 + i := by omega
  have h3 : pa % 64 + i + 1 ≤ 64 := by omega
  simp only [State.physRead, h1, h2, if_pos h, if_pos h3]
  generalize s.lineFor p (pa / 64) = x
  have h4 : (256 : Nat) ^ i = 2 ^ (8 * i) := by rw [Nat.pow_mul]
  have h5 : 8 * n = 8 * i + 8 * (n - i) := by omega
  have h6 : (2 : Nat) ^ (8 * (n - i)) = 2 ^ 8 * 2 ^ (8 * (n - i - 1)) := by rw [← Nat.pow_add]; congr 1; omega
  have h7 : 8 * (pa % 64 + i) = 8 * (pa % 64) + 8 * i := by omega
  rw [h4, h5, Nat.pow_add, Nat.mod_mul_right_div_self, h6, show (256 : Nat) = 2 ^ 8 from rfl, Nat.mod_mul_right_mod, h7, Nat.pow_add, Nat.div_div_eq_div_mul]

/-- The bytes of a number, put together again. -/
theorem ofBytes_digits (x n : Nat) (j : Nat) :
    ofBytes ((List.range' j n).map fun i => BitVec.ofNat 8 (x / 256 ^ i % 256)) = x / 256 ^ j % 256 ^ n := by
  induction n generalizing j with
  | zero => simp [ofBytes, Nat.mod_one]
  | succ n ih =>
    simp only [List.range'_succ, List.map_cons, ofBytes, ih, BitVec.toNat_ofNat]
    rw [show (256 : Nat) ^ (n + 1) = 256 * 256 ^ n from by rw [Nat.pow_succ, Nat.mul_comm], Nat.mod_mul, Nat.div_div_eq_div_mul, ← Nat.pow_succ, Nat.mod_mod_of_dvd _ (by decide)]

/-- Bytes of one line in partition space are those of the line at its frame (R76, R192). -/
theorem State.partRead_line (s : State) (p va n pa b k g : Nat) (h : va + n - 1 < 0xFD * 2 ^ 48) (hv : va % 4096 + n ≤ 4096) (hp : pa % 64 + n ≤ 64)
    (ht : s.translateFor p va .read true = .ok pa b k g) (hd : ∀ i < n, s.bytesBad (pa + i) 1 = false) :
    s.partRead p va n = some (s.physRead p pa n % 256 ^ n) := by
  have hb := s.virtBytes_page p pa b k g n va hv ht hd
  have he : ((List.range n).map fun i => BitVec.ofNat 8 (s.physRead p (pa + i) 1))
      = (List.range' 0 n).map fun i => BitVec.ofNat 8 (s.physRead p pa n / 256 ^ i % 256) := by
    rw [← List.range_eq_range']
    refine List.map_congr_left fun i hi => ?_
    rw [s.physRead_byte p pa n i hp (List.mem_range.mp hi)]
  rw [State.partRead, if_neg (by omega), hb, he, Option.map_some, ofBytes_digits]
  simp

/-- A byte of a number, of which the low bits have been cut out. -/
theorem digit_of_low (x n r : Nat) (h : 8 * r + 8 ≤ n) : x % 2 ^ n / 2 ^ (8 * r) % 2 ^ 8 = x / 2 ^ (8 * r) % 2 ^ 8 := by
  have h1 : (2 : Nat) ^ n = 2 ^ (8 * r) * (2 ^ 8 * 2 ^ (n - 8 * r - 8)) := by rw [← Nat.pow_add, ← Nat.pow_add]; congr 1; omega
  rw [h1, Nat.mod_mul_right_div_self, Nat.mod_mul_right_mod]

/-- Bytes of consecutive lines of one page in partition space are those of a number that agrees with the lines at their frame (R76, R192). -/
theorem State.partRead_lines (s : State) (p va k x pa b kind g : Nat) (h : va + 64 * k - 1 < 0xFD * 2 ^ 48) (hv : va % 4096 + 64 * k ≤ 4096) (hp : pa % 64 = 0)
    (ht : s.translateFor p va .read true = .ok pa b kind g) (hl : ∀ j < k, s.lineFor p (pa / 64 + j) % 2 ^ 512 = x / 2 ^ (512 * j) % 2 ^ 512)
    (hx : x < 256 ^ (64 * k)) (hs : pa + 64 * k ≤ sramBase) (hd : ∀ j < k, s.lineBad (pa / 64 + j) = false) :
    s.partRead p va (64 * k) = some x := by
  have hb := s.virtBytes_page p pa b kind g (64 * k) va hv ht fun i hi => by
    have h0 : isSram (pa + i) = false := decide_eq_false (by omega)
    rw [State.bytesBad, h0, show (pa + i) / 64 = pa / 64 + i / 64 by omega]
    exact hd _ (by omega)
  have he : ((List.range (64 * k)).map fun i => BitVec.ofNat 8 (s.physRead p (pa + i) 1))
      = (List.range' 0 (64 * k)).map fun i => BitVec.ofNat 8 (x / 256 ^ i % 256) := by
    rw [← List.range_eq_range']
    refine List.map_congr_left fun i hi => ?_
    have hi := List.mem_range.mp hi
    have h1 : (pa + i) / 64 = pa / 64 + i / 64 := by omega
    have h2 : (pa + i) % 64 = i % 64 := by omega
    have h3 : i % 64 + 1 ≤ 64 := by omega
    have h4 : (256 : Nat) ^ i = 2 ^ (512 * (i / 64)) * 2 ^ (8 * (i % 64)) := by
      rw [show (256 : Nat) = 2 ^ 8 from rfl, ← Nat.pow_mul, ← Nat.pow_add]; congr 1; omega
    have h5 : s.physRead p (pa + i) 1 = s.lineFor p (pa / 64 + i / 64) / 2 ^ (8 * (i % 64)) % 2 ^ 8 := by
      simp only [State.physRead, h1, h2, if_pos h3]
    have h6 := digit_of_low (x / 2 ^ (512 * (i / 64))) 512 (i % 64) (by omega)
    rw [h5, h4, ← Nat.div_div_eq_div_mul, show (256 : Nat) = 2 ^ 8 from rfl, ← digit_of_low _ 512 _ (by omega), hl (i / 64) (by omega), h6]
  rw [State.partRead, if_neg (by omega), hb, he, Option.map_some, ofBytes_digits]
  rw [Nat.pow_zero, Nat.div_one, Nat.mod_eq_of_lt hx]
end Sys2Proof.Machine
end

