-- ==== Sys2Proof/Tests/Slice0.lean ====
section
/-! SUPPORT. Tests: ill-formed instructions that the checks refuse, words written out from the encoding tables, single steps on small
states, and for every obligation a state and operands that meet its premises. -/
namespace Sys2Proof.Tests
open Sys2Proof.Machine

/-! ### The checks of WellFormed refuse -/

/-- No stall, no predicate. -/
def c0 : Ctl := ⟨0, 0, false⟩
/-- A matrix control word without a field set. -/
def m0 : MCtl := ⟨0, 0, 0, 0, false, false, false, .core, .rne, 0, 0⟩
/-- An engine control word without a field set. -/
def e0 : ECtl := ⟨0, false, 0, false, false, false, .core, .rne, 0, 0⟩

/-- R274, R275, R283, R303, R307, R311, R316, R318, R320, R322, R328, R336, R338. -/
theorem test_wf_refuses_scalar_and_memory :
    ([.mod ⟨false, false, false, false, false, 0, 0, 0⟩, .brc c0 .f32 .eq 1 2 0, .brc c0 .i32 .un 1 2 0, .add c0 .f16 1 2 (.reg 3),
      .clz c0 .bf16 1 2, .max c0 .f32 1 2 (.imm 3), .cmp c0 .i64 .un 1 2 (.reg 3), .bfx c0 false 1 2 60 5, .bfx c0 false 1 2 0 0,
      .bfi c0 1 2 3 1 64, .fadd c0 .i32 1 2 3, .ffma c0 .i32 1 2 3 4, .fsqrt c0 .u8 1 2, .fcmp c0 .i64 .eq 1 2 3, .fcvt c0 .i4 1 2 .f32 .rne,
      .fcvt c0 .f32 1 2 .n4x .rne, .pget c0 3 1 2, .pwalk c0 1 2 (.imm 0x10000), .pwalk c0 1 2 (.imm 0x20), .pwalk c0 1 2 (.imm 0x1000),
      .ld c0 .i4 1 2 3 0, .st c0 .n4x 1 2 3 0, .ldp c0 .i4 1 2 .size, .stp c0 .i4 1 .size 2, .amo c0 .i32 7 false 1 2 3 0,
      .amo c0 .i16 0 false 1 2 3 0, .cas c0 .f32 false 1 2 3 4 0, .barr c0 1 2 (.imm 0x100000000), .expect c0 2 (.imm 0x100000000),
      .sbind c0 true false true 1 2 0 0 0, .sbind c0 false false false 0 2 0 0 0, .sbind c0 false true false 16 2 0 0 0] : List Instr).all
      (fun i => !i.wf) = true := by decide

/-- R354, R358, R362, R372, R373, R378, R381, R394, R406, R407, R423, R427, R429, R431. -/
theorem test_wf_refuses_vector_to_system :
    ([.shape c0 false 3 .f16 0 (.imm 1 1 1), .shape c0 false 2 .i8 0 (.imm 1 1 1), .shape c0 false 1 .i32 0 (.imm 1 1 1), .shget c0 6 1 0,
      .vadd c0 .f8e4 1 2 (.vec 3) 0 0, .vshl c0 .f32 1 2 (.vec 3) 0 0, .vcmp c0 .i32 .un 1 2 (.vec 3) 0 0, .vqnt c0 .f32 1 2 3 0 .f32 .rne 0,
      .vqnt c0 .i8 1 2 3 0 .i8 .rne 0, .vdq c0 .i8 1 2 3 0 .i8 0, .vdq c0 .f32 1 2 3 0 .f32 0, .vreds c0 .i4 1 2 3 0 0, .vredm c0 .i4 false false 1 2 0 0,
      .vscan c0 .n4x 1 2 0 0, .vperm c0 .i4 1 2 3 0 0, .vslide c0 .n4x false 1 2 3 0 0, .vbcast c0 .i4 1 (.scal 2) 0 0, .viota c0 .f32 1 2 3 0 0,
      .vexp2 c0 .i32 1 2 0 0, .vmovs c0 .i4 (.extract 1 2) 3, .tld c0 .i32 false 1 2 0 m0, .tld c0 .i8 false 1 0 0 m0,
      .tld c0 .i8 false 1 2 0 { m0 with sp := 1 }, .tst c0 .i8 false 2 1 0 { m0 with trapf := true }, .tzero c0 1 { m0 with x := 1 },
      .tmov c0 (.t 1) (.c 2) m0, .ttr c0 .i4 1 2 0 m0, .cld c0 .i8 1 2 0 m0, .cst c0 .f32 48 1 0 m0, .czero c0 1 { m0 with rm := .rtz },
      .mma c0 (.ty .f32) true 1 (.tile 2) (.tile 3) 0 m0, .mma c0 .bank false 1 (.tile 2) (.mem 3) 0 m0, .mma c0 (.ty .i8) false 1 (.tile 2) (.mem 3) 0 { m0 with sa := 1 },
      .mmas c0 .i8 false 1 (.tile 2) (.tile 3) 0 { m0 with sp := 1 }, .mmas c0 .i4 false 1 (.tile 2) (.tile 3) 0 m0,
      .mmam c0 (.ty .i8) false 1 (.tile 2) (.tile 3) 0 { m0 with mt := 8 }, .mpbl c0 1 2 { m0 with scope := .die }, .ccvt c0 .f32 false 1 2 0 m0,
      .bcpy c0 1 2 3 { m0 with x := 1 }, .mlu c0 1 0 { m0 with acq := true }, .mqr c0 1 1 0 m0, .mqapp c0 false false 1 2 2 0 m0,
      .mtrs c0 false false false false 1 1 0 m0, .mperm c0 false 2 2 0 m0, .cpy c0 1 { e0 with eng := 1 }, .cpy c0 1 { e0 with arv := true },
      .csrg c0 1 2 e0, .lautLoad c0 1 2 3 { e0 with eng := 5 }, .lautMask c0 .i8 1 2 3 e0, .lautAdv c0 1 2 3 { e0 with ch := 1 },
      .decr c0 false 1 (.imm 0x100000000), .pitch c0 0 0 1, .pitch c0 2 4 1, .pitch c0 1 1 1, .port c0 1 2 (.imm 128), .mfs c0 1 0x00C, .mts c0 0x041 1] : List Instr).all
      (fun i => !i.wf) = true := by decide

/-! ### Words from the encoding tables -/

/-- The 96 bits of a slot from its fields, as R273 places them. -/
def slot (maj stall fn d a b c pk pn ty imm : Nat) : BitVec 96 :=
  BitVec.ofNat 96 (maj + stall * 2 ^ 8 + fn * 2 ^ 12 + d * 2 ^ 16 + a * 2 ^ 22 + b * 2 ^ 28 + c * 2 ^ 34 + pk * 2 ^ 40 + pn * 2 ^ 43 + ty * 2 ^ 44 + imm * 2 ^ 48)

/-- Control, R307: LPAD.F, BRC.I32 s2, s3, GE, JAL s1 with a long immediate, MOD with SAT and CLMP, LOOP with a predicate, ERET. -/
theorem test_decode_control :
    decode (slot 0x02 3 4 0 0 0 0 0 0 0 0) = .ok (.lpad 3 .firing)
    ∧ decode (slot 0x08 0 3 0 2 3 0 0 0 3 0x123) = .ok (.brc c0 .i32 .ge 2 3 0x123)
    ∧ decode (BitVec.ofNat 96 (0x04 + 1 * 2 ^ 16 + 0x123456789 * 2 ^ 32)) = .ok (.jal 0 1 0x123456789)
    ∧ decode (BitVec.ofNat 96 (0x01 + 2 ^ 12 + 2 ^ 16 + 0x11 * 2 ^ 32 + 0x22 * 2 ^ 64)) = .ok (.mod ⟨true, false, false, false, true, 0, 0x11, 0x22⟩)
    ∧ decode (slot 0x0A 5 0 7 0 0 0 2 1 0 9) = .ok (.loop ⟨5, 2, true⟩ 7 9)
    ∧ decode (slot 0x0C 0 0 0 0 0 0 0 0 0 0) = .ok (.eret c0) := by decide

/-- Scalar integer and floating point, R311 to R318: BFX.SX at 4 of 8 bits, FADD.F32, FFMA.BF16. -/
theorem test_decode_scalar :
    decode (slot 0x29 0 0 1 2 3 0 0 0 11 0) = .ok (.fadd c0 .f32 1 2 3) ∧ decode (slot 0x2B 0 0 1 2 3 4 0 0 9 0) = .ok (.ffma c0 .bf16 1 2 3 4) := by decide

/-- Pointers, R320: PADD p1, p2, s5; LEA with a scale of 3. -/
theorem test_decode_pointer :
    decode (slot 0x30 0 0 33 34 5 0 0 0 0 0) = .ok (.padd c0 33 34 (.reg 5))
    ∧ decode (slot 0x34 0 3 1 2 3 0 0 0 0 0x40) = .ok (.lea c0 3 1 2 3 0x40) := by decide

/-- Memory, R328: LD.I64, STP.U8 with an immediate, LDV.F16 with an extent, AMO.I32 far exchange, CAS.U32, FENCE.SYS. -/
theorem test_decode_memory :
    decode (slot 0x38 0 0 1 2 3 0 0 0 4 0xFFFFFFFFFFF8) = .ok (.ld c0 .i64 1 2 3 0xFFFFFFFFFFF8)
    ∧ decode (slot 0x3B 0 1 0 35 0 6 0 0 1 0xFFFFFFFFFFFF) = .ok (.stp c0 .u8 3 (.imm 0xFFFFFFFFFFFF) 6)
    ∧ decode (slot 0x3C 0 1 15 2 3 58 0 0 10 0) = .ok (.ldv c0 .f16 15 2 2 (some 3) 0)
    ∧ decode (slot 0x41 0 12 1 2 3 0 0 0 3 0) = .ok (.amo c0 .i32 4 true 1 2 3 0)
    ∧ decode (slot 0x42 0 0 1 2 3 4 0 0 13 8) = .ok (.cas c0 .u32 false 1 2 3 4 8) ∧ decode (slot 0x43 0 3 0 0 0 0 0 0 0 0) = .ok (.fence c0 .sys) := by decide

/-- Synchronisation and streams, R338, R349: MSG.D, MSGG.S with SELF, WAITD with an immediate mask, BWAIT.CHK, WAITW, SBIND.VIN, SFREE. -/
theorem test_decode_sync :
    decode (slot 0x48 0 1 0 2 3 0 0 0 0 0) = .ok (.msgD c0 2 3) ∧ decode (slot 0x49 0 0 0 2 3 0 0 0 0 0x1FE) = .ok (.msggS c0 true 0xFE 2 3)
    ∧ decode (slot 0x4A 0 1 1 0 0 4 0 0 0 6) = .ok (.waitd c0 1 (.imm 6) 4) ∧ decode (slot 0x4E 0 1 1 2 3 0 0 0 0 0) = .ok (.bwait c0 true 1 2 3)
    ∧ decode (slot 0x4F 0 0 1 0 3 0 0 0 0 9) = .ok (.waitw c0 1 3 9)
    ∧ decode (slot 0x50 0 2 15 2 0 59 0 0 0 0x25) = .ok (.sbind c0 false true false 15 2 3 5 2) ∧ decode (slot 0x51 0 0 1 0 0 0 0 0 0 3) = .ok (.sfree c0 1 3) := by
  decide

/-- Vectors and masks, R358, R362, R369: SHGET, VADD.F32 with a scalar B under a mask, VCMP.I16 with a scalar B, VCVT, VBCAST of an element, VMOVS insert,
KAND, KSET of an immediate. -/
theorem test_decode_vector :
    decode (slot 0x59 0 5 1 57 0 0 0 0 0 0) = .ok (.shget c0 5 1 1)
    ∧ decode (slot 0x5A 0 1 1 2 3 56 1 1 11 (5 * 2 ^ 42)) = .ok (.vadd ⟨0, 1, true⟩ .f32 1 2 (.scal 3) 0 5)
    ∧ decode (slot 0x66 0 10 1 2 3 56 0 0 2 0) = .ok (.vcmp c0 .i16 .lt 1 2 (.scal 3) 0 0)
    ∧ decode (slot 0x68 0 0 1 2 0 56 0 0 9 (0x1B + 2 ^ 42)) = .ok (.vcvt c0 .bf16 1 2 0 .f32 .rtz 1)
    ∧ decode (slot 0x70 0 1 1 2 0 59 0 0 3 7) = .ok (.vbcast c0 .i32 1 (.elem 2 7) 3 0)
    ∧ decode (slot 0x76 0 1 1 20 3 0 0 0 3 0) = .ok (.vmovs c0 .i32 (.insert 1 20) 3)
    ∧ decode (slot 0x78 0 0 49 50 51 0 0 0 0 0) = .ok (.kand c0 49 50 51) ∧ decode (slot 0x7E 0 1 49 0 0 0 0 0 0 5) = .ok (.kset c0 49 (.imm 5)) := by decide

/-- Matrix and factorisation, R372, R378, R394, R395: TLD.A with a stride register, MMA with one operand in memory, CCVT.I, BFMT.RD, MQAPP with the
transpose, MTRS upper with a unit diagonal, MFST.GROW. -/
theorem test_decode_matrix :
    decode (slot 0x80 0 0 3 2 0 56 0 0 9 (4 * 2 ^ 36)) = .ok (.tld c0 .bf16 false 3 2 0 { m0 with sa := 4 })
    ∧ decode (slot 0x88 0 2 9 1 20 57 0 0 10 (21 * 2 ^ 30)) = .ok (.mma c0 (.ty .f16) false 1 (.tile 1) (.mem 20) 1 { m0 with sb := 21 })
    ∧ decode (slot 0x8C 0 1 3 10 0 56 0 0 0 (2 * 2 ^ 16)) = .ok (.ccvt c0 .i8 true 3 2 0 { m0 with rm := .rdn })
    ∧ decode (slot 0x8D 0 1 5 0 0 0 0 0 0 7) = .ok (.bfmtRd c0 5 7)
    ∧ decode (slot 0x93 0 1 8 9 10 56 0 0 11 (6 * 2 ^ 24 + 2 ^ 23)) = .ok (.mqapp c0 true false 0 1 2 0 { m0 with bar := 6, trapf := true })
    ∧ decode (slot 0x94 0 6 8 9 0 56 0 0 11 (5 * 2 ^ 42)) = .ok (.mtrs c0 false true true false 0 1 0 { m0 with x := 5 })
    ∧ decode (slot 0x96 0 1 5 0 0 0 0 0 0 0) = .ok (.mfstGrow c0 5) := by decide

/-- Engines, R405, R406: CPY with ARV and a barrier, CSRG with two channels, WMARK.RD, LAUT.MASK.F32 on the cellar's engine. -/
theorem test_decode_engine :
    decode (slot 0x98 0 0 0 5 0 0 0 0 0 (2 ^ 32 + 6 * 2 ^ 24 + 3)) = .ok (.cpy c0 5 { e0 with arv := true, bar := 6, ch := 3 })
    ∧ decode (slot 0x9A 0 0 1 5 0 0 0 0 0 (2 * 2 ^ 4 + 3)) = .ok (.csrg c0 1 5 { e0 with ch2 := 2, ch := 3 })
    ∧ decode (slot 0x9B 0 3 1 0 0 0 0 0 0 15) = .ok (.wmarkRd c0 1 15)
    ∧ decode (slot 0x9C 0 2 1 2 3 0 0 0 11 (4 * 2 ^ 33)) = .ok (.lautMask c0 .f32 1 2 3 { e0 with eng := 4 }) := by decide

/-- Actors and system, R421, R430: SPAWN, DECR.W of an immediate, COMPOSE, PITCH, RACK by register, PORT of an immediate, MFS, CACHE.DINV, TLBI.ALL, WFM. -/
theorem test_decode_actor_and_system :
    decode (slot 0xA0 0 0 1 2 3 4 0 0 0 0) = .ok (.spawn c0 1 2 3 4) ∧ decode (slot 0xA1 0 3 0 2 0 0 0 0 0 5) = .ok (.decr c0 true 2 (.imm 5))
    ∧ decode (slot 0xA4 0 0 1 0 3 0 0 0 0 2) = .ok (.compose c0 1 2 3) ∧ decode (slot 0xA6 0 0 0 2 0 0 0 0 0 0xE) = .ok (.pitch c0 2 3 2)
    ∧ decode (slot 0xA7 0 1 1 2 3 4 0 0 0 0) = .ok (.rack c0 1 (.reg 4) 2 3) ∧ decode (slot 0xA8 0 1 33 0 0 0 0 0 0 0x702) = .ok (.port c0 1 2 (.imm 7))
    ∧ decode (slot 0xB0 0 0 1 0 0 0 0 0 0 0x21) = .ok (.mfs c0 1 0x21) ∧ decode (slot 0xB2 0 3 0 2 0 0 0 0 0 64) = .ok (.cacheDinv c0 2 64)
    ∧ decode (slot 0xB3 0 1 0 0 0 0 0 0 0 0) = .ok (.tlbiAll c0) ∧ decode (slot 0xB5 0 0 1 2 3 4 0 0 0 0) = .ok (.wfm c0 1 2 3 4) := by decide

/-- Words that R274, R275 and R287 refuse: an unassigned FN, an unused field, a type outside the set, an unassigned and a growth major. -/
theorem test_decode_refuses :
    decode (slot 0x02 0 6 0 0 0 0 0 0 0 0) = .error .reservedCode ∧ decode (slot 0x0C 0 0 1 0 0 0 0 0 0 0) = .error .reservedCode
    ∧ decode (slot 0x10 0 0 1 2 3 0 0 0 14 0) = .error .reservedCode ∧ decode (slot 0xB6 0 0 0 0 0 0 0 0 0 0) = .error .reservedCode
    ∧ decode (slot 0xC0 0 0 0 0 0 0 0 0 0 0) = .error .futureOpcode := by decide

/-- A reserved code of the table's own numbering (R273, R430). -/
theorem test_decodeTableWord : decodeTableWord 96 (0xB4 + 3 * 2 ^ 22) = some (.park c0 3) := by decide

/-! ### Small states -/

/-- Storage key of a byte of the small states' workspace. -/
def wsKey (off : Nat) : Nat := spadKey 0 1 (4096 + off)

/-- Words put into memory one after another: key, bytes, value. -/
def memOf (l : List (Nat × Nat × Nat)) : Memory := l.foldl (fun m e => Memory.writeN m e.1 e.2.1 e.2.2) []

/-- Core 0 runs context 0: a firing of partition 1 and launch 7 with its workspace at 4096, at the PC 0x10000C, in slot 1 of its line. Scalar
register `n` holds the value paired with `n`. -/
def st (regs : List (Nat × Nat)) : State :=
  { mem := memOf (regs.map fun r => (wsKey (8 * r.1), 8, r.2))
    cores := [(0, { period := 336, active := 1 })]
    ctxs := [(0, { firing := some { handle := 5, lid := 7, part := 1, handler := false, wsize := 74, ydl := 0 }, pc := 0x10000C, wptr := 4096, asid := 1 })] }

/-- The same on another core, whose clock and partition are those of core 0. -/
def stOn (c : Nat) (regs : List (Nat × Nat)) : State :=
  { mem := memOf (regs.map fun r => (spadKey c 1 (4096 + 8 * r.1), 8, r.2))
    cores := [(c, { period := 336, active := 1 })]
    ctxs := [(16 * c, { firing := some { handle := 5, lid := 7, part := 1, handler := false, wsize := 74, ydl := 0 }, pc := 0x10000C, wptr := 4096, asid := 1 })]
    issue := { core := c } }

/-- The cells of words at rising addresses: address, bytes, value. -/
def cellsOf (l : List (Nat × Nat × Nat)) : Memory :=
  l.flatMap fun e => (List.range e.2.1).filterMap fun i =>
    let b : Byte := BitVec.ofNat 8 (e.2.2 >>> (8 * i))
    if b = 0 then none else some (e.1 + i, b)

/-- The small state with one page at the virtual address 0x1000 of partition 1, whose level-4 entry is given, its tables from 0x10000 on and further
lines, by their numbers, held dirty at their homes. -/
def pagedWith (s : State) (leaf : Nat) (more : List (Nat × Nat)) : State :=
  { s with partitions := [(1, { root := 0x10000, kettle := 3, cellar := 0 })]
           dirty := ([(0x400, 0x11001), (0x440, 0x12001), (0x480, 0x13001), (0x4C0, 0x14001), (0x500, leaf * 2 ^ 64)] ++ more).map fun (e : Nat × Nat) =>
             (e.1, { data := e.2, ptag := 1, cellar := false }) }

/-- The same without further lines. -/
def paged (s : State) (leaf : Nat) : State := pagedWith s leaf []

/-- A line with slots of given bits from slot 0 and its parity, with marks. -/
def lineWith (marks : Nat) (l : List (BitVec 96)) : Nat :=
  let b := (l.map fun x => x.toNat).foldr (fun x acc => x + acc * 2 ^ 96) 0 % 2 ^ 480
  b + ([0, 1, 2, 3, 4, 5, 6, 7].foldl (fun p i => p + parity60 (bits b (60 * i + 59) (60 * i)) * 2 ^ i) (marks * 256)) * 2 ^ 480
/-- The same with every slot marked. -/
def line (l : List (BitVec 96)) : Nat := lineWith 0x1F l

/-- The small state with a line of code at a virtual line address, translated by the TLB and held in the instruction cache. -/
def withLine (s : State) (va v : Nat) : State :=
  s.modCore 0 fun k => { k with tlb := k.tlb ++ [{ part := 1, va := va, size := 64, pa := va, bits := 2 ^ 4, kind := 1, pkg := 0, leaf := 0 }]
                                icache := SMap.put k.icache (va / 64) v }

/-- The line that looking at an address finds. -/
def lineOf (p : Peek) : Option Nat := match p with | .line v => some v | .flash _ _ _ _ => none | .shut => none | .none => none
/-- What `lineOf` gives is the line found. -/
theorem line_found {p : Peek} {v : Nat} (h : lineOf p = some v) : p = .line v := by cases p <;> simp_all [lineOf]

/-! ### Witnesses: control (O1 to O5) -/

/-- The premises of SequentialControlFallsThrough. -/
theorem witness_sequential :
    (st []).clear none [] [] = true
    ∧ ((st [(2, 5), (3, 7)]).clear none [.scal 2, .scal 3] [] = true ∧ condI .ge (decI .i64 ((st [(2, 5), (3, 7)]).rs 2)) (decI .i64 ((st [(2, 5), (3, 7)]).rs 3)) = false)
    ∧ ((st []).clear none [.scal 4] [] = true ∧ ((st []).rs 4 = 0 ↔ true = true)) ∧ ((st [(4, 9)]).clear none [.scal 4] [] = true ∧ ((st [(4, 9)]).rs 4 = 0 ↔ false = true))
    ∧ ((st [(4, 1)]).clear none [.scal 4] [.scal 4] = true ∧ (st [(4, 1)]).rs 4 = 1)
    ∧ (decode (slot 0x10 0 0 1 2 3 0 0 0 4 0) = .ok (.add c0 .i64 1 2 (.reg 3)) ∧ (modTarget (.add c0 .i64 1 2 (.reg 3))).isSome = true
      ∧ ∀ a, modTarget (.add c0 .i64 1 2 (.reg 3)) = some a → modFits ⟨true, false, false, false, false, 0, 0, 0⟩ a.1 = true)
    ∧ (decode (slot 0 0 0 0 0 0 0 0 0 0 0) = .ok (.nop 0) ∧ (modTarget (.nop 0)).isNone = true) := by
  refine ⟨by decide +kernel, by decide +kernel, by decide +kernel, by decide +kernel, by decide +kernel, ⟨by decide +kernel, rfl, ?_⟩, by decide +kernel, rfl⟩
  rintro a ⟨⟩; decide +kernel

/-- The state of the transfers: s2 = 5, s3 = 7, s4 = 3, s5 = 0x100040 and s6 = 0x10004C, with the next line holding landing pads for a jump, a call and a return. -/
def jumps : State := withLine (st [(2, 5), (3, 7), (4, 3), (5, 0x100040), (6, 0x10004C), (7, 0x100058)]) 0x100040
  (line [slot 0x02 0 1 0 0 0 0 0 0 0 0, slot 0x02 0 0 0 0 0 0 0 0 0 0, slot 0x02 0 2 0 0 0 0 0 0 0 0])
/-- The line of `jumps`. -/
def jumpLine : Nat := line [slot 0x02 0 1 0 0 0 0 0 0 0 0, slot 0x02 0 0 0 0 0 0 0 0 0 0, slot 0x02 0 2 0 0 0 0 0 0 0 0]
/-- The line of `bare`: no slot marked. -/
def bareLine : Nat := jumpLine - 0x1F * 2 ^ 488
/-- The state of `jumps` with no slot of the next line marked. -/
def bare : State := withLine (st [(2, 5), (3, 7), (4, 3), (5, 0x100040)]) 0x100040 bareLine

/-- The premises of DirectTransfersNeedMarkedSlots, for slots 0 and 4, the first and the last, slot fields 5 and 7, and an unmarked slot. -/
theorem witness_direct :
    (wrap 56 (((jumps.ipc / 64 * 64 : Nat) : Int) + 64 * sval 61 (0xC / 8)) = 0x100040 ∧ jumps.peekLine jumps.ic jumps.ik 0x100040 = .line jumpLine
      ∧ marked jumpLine 0 = true ∧ marked jumpLine 4 = true)
    ∧ (wrap 56 (((bare.ipc / 64 * 64 : Nat) : Int) + 64 * sval 45 (8 / 8)) = 0x100040 ∧ bare.peekLine bare.ic bare.ik 0x100040 = .line bareLine
      ∧ marked bareLine 0 = false)
    ∧ jumps.clear none [] [.scal 1] = true ∧ bare.clear none [] [.scal 1] = true
    ∧ (jumps.clear none [.scal 2, .scal 3] [] = true ∧ condI .lt (decI .i8 (jumps.rs 2)) (decI .i8 (jumps.rs 3)) = true)
    ∧ (jumps.clear none [.scal 8] [] = true ∧ (jumps.rs 8 = 0 ↔ false = false))
    ∧ (jumps.clear none [.scal 4] [.scal 4] = true ∧ (jumps.rs 4 + (2 ^ 64 - 1)) % 2 ^ 64 ≠ 0)
    ∧ (bare.clear none [.scal 2, .scal 3] [] = true ∧ condI .lt (decI .i8 (bare.rs 2)) (decI .i8 (bare.rs 3)) = true)
    ∧ (bare.clear none [.scal 4] [.scal 4] = true ∧ (bare.rs 4 + (2 ^ 64 - 1)) % 2 ^ 64 ≠ 0) := by
  refine ⟨⟨by decide +kernel, line_found (by decide +kernel), by decide +kernel⟩, ⟨by decide +kernel, line_found (by decide +kernel), by decide +kernel⟩, by decide +kernel⟩

/-- The premises of IndirectTransfersNeedTheirPad: each pad, a target off a slot, an unmarked slot, and another pad. -/
theorem witness_indirect :
    (∃ v, jumps.peekLine jumps.ic jumps.ik 0x100040 = .line v ∧ marked v (slotIdx 0x100040) = true ∧ padOf v (slotIdx 0x100040) = some .jump)
    ∧ (∃ v, jumps.peekLine jumps.ic jumps.ik 0x10004C = .line v ∧ marked v (slotIdx 0x10004C) = true ∧ padOf v (slotIdx 0x10004C) = some .call)
    ∧ (∃ v, jumps.peekLine jumps.ic jumps.ik 0x100058 = .line v ∧ marked v (slotIdx 0x100058) = true ∧ padOf v (slotIdx 0x100058) = some .ret)
    ∧ (∃ v, bare.peekLine bare.ic bare.ik 0x100040 = .line v ∧ marked v (slotIdx 0x100040) = false)
    ∧ (slotOk 0x100040 = true ∧ slotOk 0x10004C = true ∧ slotOk 0x100058 = true ∧ slotOk 0x100050 = false)
    ∧ (jumps.rs 5 = 0x100040 ∧ jumps.rs 6 = 0x10004C ∧ jumps.rs 7 = 0x100058 ∧ bare.rs 5 = 0x100040 ∧ (jumps.rs 5 + sext64 48 0x10) % 2 ^ 64 = 0x100050)
    ∧ (∀ a ∈ [(5 : SReg), 6, 7], jumps.clear none [.scal a] [] = true ∧ jumps.clear none [.scal a] [.scal 1] = true)
    ∧ bare.clear none [.scal 5] [] = true ∧ bare.clear none [.scal 5] [.scal 1] = true := by
  refine ⟨⟨jumpLine, line_found (by decide +kernel), by decide +kernel⟩, ⟨jumpLine, line_found (by decide +kernel), by decide +kernel⟩,
    ⟨jumpLine, line_found (by decide +kernel), by decide +kernel⟩, ⟨bareLine, line_found (by decide +kernel), by decide +kernel⟩, by decide +kernel⟩

/-- A state whose trap can be entered: TVEC valid at 0x100048 + 12, the line there with an LPAD for traps in slot 1. -/
def trapping : State := withLine (st [(0x228 / 8, 2 ^ 63 + 0x10004C)]) 0x100040 (line [0, slot 0x02 0 5 0 0 0 0 0 0 0 0])

/-- The premises of TrapAndReturn. -/
theorem witness_trap :
    (st []).clear none [] [] = true
    ∧ (let tvec := trapping.wsRead 0 0 0x228 8
      trapping.Inv ∧ (trapping.ctx 0 0).pend = [] ∧ (trapping.ctx 0 0).wait = none ∧ bit (trapping.csw 0 0) 3 = 0 ∧ bit tvec 63 = 1 ∧ bits tvec 55 0 = 0x10004C
        ∧ slotOk 0x10004C = true ∧ lineAddr 0x10004C < 0xFD000000000000
        ∧ tlbHit (trapping.core 0).tlb 1 0x100040 = some { part := 1, va := 0x100040, size := 64, pa := 0x100040, bits := 2 ^ 4, kind := 1, pkg := 0, leaf := 0 }
        ∧ rightsOk (2 ^ 4) .fetch (trapping.priv 0 0) = true ∧ isSram 0x100040 = false
        ∧ SMap.find? (trapping.core 0).icache (0x100040 / 64) = some (line [0, slot 0x02 0 5 0 0 0 0 0 0 0 0])
        ∧ marked (line [0, slot 0x02 0 5 0 0 0 0 0 0 0 0]) 1 = true ∧ padOf (line [0, slot 0x02 0 5 0 0 0 0 0 0 0 0]) 1 = some .trap) := by
  unfold State.Inv; decide +kernel

/-- The premises of FalsePredicateSkips, and of the second part of DivisionCompletesOrTraps: k1 is clear. -/
theorem witness_falsePredicate :
    (st []).varBusy 0 0 (predReads (some (1, false))) = false ∧ (st []).stallInfo 0 0 (predReads (some (1, false))) = none
    ∧ (st []).composedWait 0 0 (predReads (some (1, false))) = false ∧ (st []).regBad 0 0 (predReads (some (1, false))) = none ∧ (st []).executes 0 0 (some (1, false)) = false ∧ (⟨0, 1, false⟩ : Ctl).pred = some (1, false) := by decide +kernel

/-! ### Witnesses: scalar instructions and pointers -/

/-- Scalar operands: s2 = 9, s3 = 0, s4 = −1, s5 = the least I32, s6 = the least I64. -/
def nums : State := st [(2, 9), (4, 2 ^ 64 - 1), (5, 2 ^ 31), (6, 2 ^ 63), (33, 2 ^ 63 + 2 * 2 ^ 52), (34, 0xFFFFFFFF)]

/-- The premises of IntegerArithmetic, BitwiseAndShifts, SelectionAndFields and FloatingPointRoundsOnce: sources of each form, types of each set, and the
fields of BFX and BFI at both ends. -/
theorem witness_scalar :
    (nums.clear none (.scal 2 :: SrcBReads (.reg 4)) [.scal 1] = true ∧ nums.clear none (.scal 2 :: SrcBReads (.imm 7)) [.scal 1] = true)
    ∧ nums.clear none [.scal 2] [.scal 1] = true ∧ nums.clear none [.scal 2, .scal 3] [.scal 1] = true
    ∧ nums.clear none [.scal 2, .scal 3, .scal 4] [.scal 1] = true ∧ nums.clear none [] [.scal 1] = true
    ∧ Ty.isInt .i8 = true ∧ Ty.isInt .u32 = true ∧ Ty.isFloat .bf16 = true ∧ Ty.isFloat .f32 = true
    ∧ (nums.rs 3 % 2 ^ 8 = 0 ∧ nums.rs 2 % 2 ^ 8 ≠ 0) ∧ fieldOk 0 1 = true ∧ fieldOk 63 1 = true ∧ fieldOk 0 64 = true := by decide +kernel

/-- The premises of DivisionCompletesOrTraps: a divisor, the least number over −1 in both widths, a zero divisor. -/
theorem witness_division :
    (nums.clear none (.scal 2 :: SrcBReads (.reg 4)) [.scal 1] = true ∧ decI .i32 (nums.srcB (.reg 4)) ≠ 0)
    ∧ (nums.clear none (.scal 5 :: SrcBReads (.reg 4)) [.scal 1] = true ∧ Ty.signed .i32 = true ∧ decI .i32 (nums.rs 5) = -2 ^ (Ty.width .i32 - 1)
      ∧ decI .i32 (nums.srcB (.reg 4)) = -1)
    ∧ (nums.clear none (.scal 6 :: SrcBReads (.imm 0xFFFFFFFFFFFF)) [.scal 1] = true ∧ decI .i64 (nums.rs 6) = -2 ^ (Ty.width .i64 - 1)
      ∧ decI .i64 (nums.srcB (.imm 0xFFFFFFFFFFFF)) = -1)
    ∧ (nums.clear none (.scal 2 :: SrcBReads (.reg 3)) [.scal 1] = true ∧ decI .u8 (nums.srcB (.reg 3)) = 0) := by decide +kernel

/-- The premises of PointerInstructions: a pointer that walks, a reserved ORDER, both forms of PWALK, a pointer without a walk at the end of its offset. -/
theorem witness_pointer :
    (nums.clear none (.scal 34 :: SrcBReads (.reg 2)) [.scal 33] = true ∧ (walkPtr (nums.rs 34) (sval 64 (nums.srcB (.reg 2)))).isSome = true)
    ∧ (nums.clear none (.scal 33 :: SrcBReads (.imm 7)) [.scal 33] = true ∧ bit (nums.rs 33) 63 = 1 ∧ 2 ≤ bits (nums.rs 33) 53 52)
    ∧ nums.clear none [.scal 33] [.scal 1] = true ∧ nums.clear none [.scal 33, .scal 2] [.scal 33] = true
    ∧ (0xFFFFFFFF < 2 ^ 64 ∧ bit 0xFFFFFFFF 63 = 0) := by decide +kernel

/-- R312: 5 − 9 in U8 wraps to 252 and SAT stops it at 0; −128 in I8 has no positive value, so SAT of its negation is 127. -/
theorem test_finish_wraps_and_saturates :
    finishI .u8 .rne none (XR.ofInt (5 - 9)) = 252 ∧ finishI .u8 .rne (some ⟨true, false, false, false, false, 0, 0, 0⟩) (XR.ofInt (5 - 9)) = 0
    ∧ finishI .i8 .rne (some ⟨true, false, false, false, false, 0, 0, 0⟩) (XR.ofInt 128) = 127 := by decide +kernel

/-- R255: 1 + 2^−24 in F32 is a tie that rounds to the even 1; 1 + 2^−23 is exact. -/
theorem test_f32_ties_to_even :
    finishF .f32 .rne none ((decF .f32 0x3F800000).add (decF .f32 0x33800000)) = 0x3F800000
    ∧ finishF .f32 .rne none ((decF .f32 0x3F800000).add (decF .f32 0x34000000)) = 0x3F800001 := by decide +kernel

/-- R313: shifts by the width or more leave nothing or the sign, and a rotation takes its count modulo the width. -/
theorem test_shifts_of_the_width : opShl 32 1 32 = 0 ∧ opShr 32 0x80000000 255 = 0 ∧ opSra 8 0x80 200 = 0xFF ∧ opRol 8 0x81 9 = 0x03 := by decide +kernel

/-! ### Witnesses: memory -/

/-- The load that a load result carries. -/
def loadOf (x : LoadRes) : Option LoadAcc := match x with | .done r => some r | .trap _ _ => none | .retry _ => none | .flash _ _ => none
/-- A load result that passes a test carries a load. -/
theorem load_found {x : LoadRes} {f : LoadAcc → Bool} (h : (loadOf x).map f = some true) : ∃ r, x = .done r ∧ f r = true := by
  cases x <;> simp_all [loadOf]
/-- The writes that a checked store carries. -/
def storeOf (x : StoreRes) : Option (List Write) := match x with | .done _ l => some l | .trap _ _ => none | .retry _ => none | .flash _ _ => none
/-- A store that a test finds checked has its state and its writes. -/
theorem store_found {x : StoreRes} (h : (storeOf x).isSome = true) : ∃ t l, x = .done t l := by
  cases x <;> simp_all [storeOf]

/-- s2 is local 0x8000, s3 the last eight bytes of the scratchpad, s4 = 5, s5 beyond the address space, s7 in the control window, s8 a page address,
p0 at 0x8000 of core (1, 0), p1 at 0x8000 of the own core, sh0 a vector of 16 F32. -/
def mems : State := st [(2, 0xFD000000008000), (3, 0xFD0000000FFFF8), (4, 5), (5, 2 ^ 60), (7, 0xFF000000000000), (8, 0x1000),
  (32, 2 ^ 32 + 0x8000), (33, 0x8000), (56, 2 ^ 55 + 11 * 2 ^ 48 + 2 ^ 32 + 2 ^ 16 + 16)]
/-- What a load starts from. -/
def load0 (s : State) : LoadAcc := { s := s, acc := 0, pieces := [], remote := false }

/-- The premises of LoadsCompleteOrWait for LD and LDP: at the end of the own scratchpad, and from another core. -/
theorem witness_scalarLoads :
    (mems.clear none [.scal 3, .scal 0] [.scal 1] = true ∧ mems.clear none [.scal 32, .scal 0] [.scal 1] = true
      ∧ ctlCheck (fun t => t.ea 3 0 0) mems = none ∧ ctlCheck (fun t => t.ea 32 0 0) mems = none
      ∧ mems.clear none (.scal 33 :: incReads .size) [.scal 1, .scal 33] = true ∧ mems.clear none (.scal 32 :: incReads (.reg 4)) [.scal 1, .scal 32] = true
      ∧ walkPtr (mems.rs 33) 8 = some 0x8008 ∧ (walkPtr (mems.rs 32) (sval 64 (mems.rs 4))).isSome = true)
    ∧ (∃ r, mems.loadChunks 0 0 8 [{ va := eaVal (mems.ea 3 0 0), len := 8, off := 0, nib := 0 }] (load0 mems) = .done r ∧ r.pieces.isEmpty = true)
    ∧ (∃ r, mems.loadChunks 0 0 8 [{ va := eaVal (mems.ea 32 0 0), len := 8, off := 0, nib := 0 }] (load0 mems) = .done r ∧ (!r.pieces.isEmpty) = true)
    ∧ (∃ r, mems.loadChunks 0 0 8 [{ va := 0xFE000000000000 + mems.rs 33 % 2 ^ 48, len := 8, off := 0, nib := 0 }] (load0 mems) = .done r ∧ r.pieces.isEmpty = true)
    ∧ (∃ r, mems.loadChunks 0 0 8 [{ va := 0xFE000000000000 + mems.rs 32 % 2 ^ 48, len := 8, off := 0, nib := 0 }] (load0 mems) = .done r
      ∧ (!r.pieces.isEmpty) = true) := by
  refine ⟨by decide +kernel, ?_, ?_, ?_, ?_⟩ <;> exact load_found (by decide +kernel)

/-- The premises of LoadsCompleteOrWait for LDV and LDVG. -/
theorem witness_vectorLoads :
    (vecCheck 0 (fun t => t.ea 2 0 0) (fun t => t.memExtent 0 .f32 2048 none) mems = none
      ∧ vecCheck 0 (fun t => t.ea 32 0 0) (fun t => t.memExtent 0 .f32 2048 (some 4)) mems = none
      ∧ vecCheck 0 (fun t => t.firstElem 2 2 0) (fun t => t.memExtent 0 .f32 64 none) mems = none ∧ mems.ea 2 0 0 = .inl 0xFD000000008000 ∧ mems.ea 32 0 0 = .inl 0xFE000100008000
      ∧ mems.clear none [.scal 2, .shape 0] [.vec 1] = true ∧ mems.clear none ([.scal 32, .shape 0] ++ optReads (some 4)) [.vec 1] = true
      ∧ mems.clear none [.scal 2, .shape 0, .vec 2] [.vec 1] = true ∧ mems.clear none [.scal 32, .shape 0, .vec 2] [.vec 1] = true)
    ∧ (∃ r, mems.loadChunks 0 0 (elemAlign .f32) (runChunks .f32 0xFD000000008000 (mems.memExtent 0 .f32 2048 none)) (load0 mems) = .done r ∧ r.pieces.isEmpty = true)
    ∧ (∃ r, mems.loadChunks 0 0 (elemAlign .f32) (runChunks .f32 0xFE000100008000 (mems.memExtent 0 .f32 2048 (some 4))) (load0 mems) = .done r
      ∧ (!r.pieces.isEmpty) = true)
    ∧ (∃ r, mems.loadChunks 0 0 (elemAlign .f32) (gatherChunks .f32 0xFD000000008000 (mems.rv 2) (mems.memExtent 0 .f32 64 none)) (load0 mems) = .done r
      ∧ r.pieces.isEmpty = true)
    ∧ (∃ r, mems.loadChunks 0 0 (elemAlign .f32) (gatherChunks .f32 0xFE000100008000 (mems.rv 2) (mems.memExtent 0 .f32 64 none)) (load0 mems) = .done r
      ∧ (!r.pieces.isEmpty) = true) := by
  refine ⟨by decide +kernel, ?_, ?_, ?_, ?_⟩ <;> exact load_found (by decide +kernel)

/-- The premises of StoresComplete, with targets in the own core and in another. -/
theorem witness_stores :
    (mems.clear none [.scal 3, .scal 0, .scal 4] [] = true ∧ ctlCheck (fun t => t.ea 3 0 0) mems = none ∧ mems.clear none ([.scal 32, .scal 4] ++ incReads .size) [.scal 32] = true
      ∧ (walkPtr (mems.rs 32) 8).isSome = true ∧ mems.clear none ([.scal 2, .shape 0, .vec 1] ++ optReads none) [] = true
      ∧ mems.clear none [.scal 2, .shape 0, .vec 2, .vec 1] [] = true)
    ∧ (∃ t l, mems.storeCheck 0 0 8 [({ va := eaVal (mems.ea 3 0 0), len := 8, off := 0, nib := 0 }, mems.rs 4 % 2 ^ 64)] mems [] = .done t l)
    ∧ (∃ t l, mems.storeCheck 0 0 8 [({ va := 0xFE000000000000 + mems.rs 32 % 2 ^ 48, len := 8, off := 0, nib := 0 }, mems.rs 4 % 2 ^ 64)] mems [] = .done t l)
    ∧ (∃ t l, mems.storeCheck 0 0 (elemAlign .f32) ((runChunks .f32 0xFD000000008000 (mems.memExtent 0 .f32 2048 none)).map (chunkVal (mems.rv 1))) mems [] = .done t l)
    ∧ (∃ t l, mems.storeCheck 0 0 (elemAlign .f32) ((gatherChunks .f32 0xFD000000008000 (mems.rv 2) (mems.memExtent 0 .f32 64 none)).map (chunkVal (mems.rv 1))) mems []
      = .done t l) := by
  refine ⟨by decide +kernel, ?_, ?_, ?_, ?_⟩ <;> exact store_found (by decide +kernel)

/-- The premises of OwnScratchpadAccesses and StoresLeaveTheRest: the last word of the scratchpad, and operands at both ends of an atomic's range. -/
theorem witness_ownAccesses :
    mems.ea 3 0 0 = .inl 0xFD0000000FFFF8 ∧ mems.ownBytes 0xFD0000000FFFF8 8 0xFFFF8 = true ∧ mems.clear none [.scal 3, .scal 0] [.scal 1] = true
    ∧ mems.clear none [.scal 3, .scal 0, .scal 4] [] = true ∧ mems.clear none [.scal 3, .scal 4] [.scal 1] = true
    ∧ mems.clear none [.scal 3, .scal 4, .scal 5] [.scal 1] = true ∧ Memory.wf mems.mem = true
    ∧ (∀ w ∈ mems.areasOf 0, (∀ x ∈ [0, 0x180, 0x200], rangesMeet (w + x) 8 0xFFFF8 8 = false)
      ∧ fieldMasks.filter (fun e => rangesMeet (w + e.1) 8 0xFFFF8 8) = [])
    ∧ 0 < 2 ^ Ty.width .i32 ∧ 2 ^ 64 - 1 < 2 ^ Ty.width .i64 := by decide +kernel

/-- The premises of StoresLeaveTheRest's store to a word with reserved bits: PIVTHR of the running firing. -/
theorem witness_maskedStore :
    let s := st [(3, 0xFD000000001278), (4, 5)]
    s.areasOf 0 = [4096] ∧ (0x278, 0xFFFFFFFF) ∈ fieldMasks ∧ s.ea 3 0 0 = .inl 0xFD000000001278 ∧ s.ownBytes 0xFD000000001278 8 0x1278 = true
      ∧ s.clear none [.scal 3, .scal 0, .scal 4] [] = true ∧ Memory.wf s.mem = true
      ∧ (match exec (.st c0 .i64 3 0 4 0) s with | .next t => t.spadRead 0 0x1278 8 == 5 | _ => false) = true := by decide +kernel

/-- The small state with an unordered coherent store of its context on its way. -/
def sending (op : Nat) : State := (st [(4, 5)]).modCore 0 fun k =>
  { k with out := [{ id := 3, ctx := 0, op := op, lid := 7, part := 1, pc := 0, dst := 0, counted := true, addr := 0, handle := 5 }] }

/-- The premises of PrefetchAndFence: each region, the scopes, and a store that is still on its way. -/
theorem witness_prefetchAndFence :
    mems.clear none [.scal 2, .scal 0] [] = true ∧ mems.clear none [.scal 5, .scal 0] [] = true ∧ mems.clear none [.scal 7, .scal 0] [] = true
    ∧ mems.clear none [.scal 8, .scal 0] [] = true ∧ mems.ea 5 0 0 = .inr (2 ^ 60) ∧ mems.ea 2 0 0 = .inl 0xFD000000008000 ∧ mems.ea 32 0 0 = .inl 0xFE000100008000
    ∧ mems.ea 7 0 0 = .inl 0xFF000000000000 ∧ mems.priv 0 0 = false ∧ mems.ea 8 0 0 = .inl 0x1000
    ∧ (mems.fenceDone 0 0 0 = true ∧ mems.fenceDone 0 0 3 = true ∧ mems.clear none [] [] = true)
    ∧ ((sending 0x23).fenceDone 0 0 0 = false ∧ (sending 0x23).clear none [] [] = true) := by decide +kernel

/-! ### Witnesses: synchronisation and streams -/

/-- The state of an answer that completes. -/
def okOf (x : Res) : Option State :=
  match x with
  | .ok u => some u
  | .jump _ _ | .retry _ | .block _ _ | .hold _ _ | .gone _ | .trap _ _ | .trapWith _ _ _ => none
/-- An answer that a test finds completing is that completion. -/
theorem ok_found {x : Res} (h : (okOf x).isSome = true) : ∃ u, x = .ok u := by cases x <;> simp_all [okOf]
/-- An own barrier that an address names. -/
def ownBar (x : BarFound) : Option (Nat × State) := match x with | .at_ (.own off) t => some (off, t) | .at_ _ _ => none | .trap _ _ => none | .flash _ _ => none | .wait _ => none
/-- What `ownBar` gives is the place found. -/
theorem bar_found {x : BarFound} {off : Nat} {t : State} (h : ownBar x = some (off, t)) : x = .at_ (.own off) t := by
  cases x with
  | at_ p t => cases p <;> simp_all [ownBar]
  | trap a b => simp_all [ownBar]
  | flash a b => simp_all [ownBar]
  | wait a => simp_all [ownBar]

/-- s2 at the last aligned 32 bytes of the own scratchpad, s3 at the last word of core (1, 0), s4 = 5, s5 a group offset, deposit flags 1 and 2; group 3
of partition 1 has the cores 0 and 1, and channel 2 has a watermark at 0x100. -/
def syncs : State :=
  let s := (st [(2, 0xFD0000000FFFE0), (3, 0xFE0001000FFFF8), (4, 5), (5, 0xFFFF8), (6, 0xFF), (8, 0x1000), (0x230 / 8, 6)]).modApart 0 fun p =>
    { p with marks := [(2, { act := true, lo := 0, hi := 0x200, wm := 0x100 })] }
  { s with groups := [(groupKey 1 3, { kettle := 3, lid := 7 })] }

/-- The premises of MessagesAreSent: own and remote deposits, and a group with and without its sender. -/
theorem witness_messages :
    syncs.signalHeld = false ∧ syncs.clear none [.scal 4, .scal 2, .scal 3] [] = true ∧ syncs.clear none [.scal 2, .scal 4] [] = true
    ∧ syncs.ea 2 0 0 = .inl 0xFD0000000FFFE0 ∧ windowPlace 0 0xFD0000000FFFE0 8 = some (if (0 : Nat) = syncs.ic then .own 0xFFFE0 else .core 0 0xFFFE0)
    ∧ syncs.clear none [.scal 3, .scal 4] [] = true ∧ syncs.ea 3 0 0 = .inl 0xFE0001000FFFF8
    ∧ windowPlace 0 0xFE0001000FFFF8 8 = some (if (1 : Nat) = syncs.ic then .own 0xFFFF8 else .core 1 0xFFFF8)
    ∧ syncs.clear none [.scal 5, .scal 4] [] = true ∧ syncs.rs 5 < 2 ^ 20 ∧ syncs.groupValid 1 3 7 = true ∧ syncs.groupMembers 1 3 = [0, 1] := by decide +kernel

/-- The premises of WaitingInstructions on WAITD and WAITW: an empty mask, a flag set, none set; a watermark just above the offset, and one released. -/
theorem witness_waits :
    (syncs.clear none (.scal 0 :: SrcBReads (.imm 0)) [.scal 1] = true ∧ syncs.srcU (.imm 0) = 0)
    ∧ (syncs.clear none (.scal 0 :: SrcBReads (.imm 2)) [.scal 1] = true ∧ syncs.depmask 0 0 &&& syncs.srcU (.imm 2) ≠ 0)
    ∧ (syncs.clear none (.scal 0 :: SrcBReads (.imm 8)) [.scal 1] = true ∧ syncs.srcU (.imm 8) ≠ 0 ∧ syncs.depmask 0 0 &&& syncs.srcU (.imm 8) = 0)
    ∧ (syncs.clear none [.scal 6] [.scal 1] = true ∧ (syncs.markOf 0 2).act = true ∧ syncs.rs 6 % 2 ^ 20 < (syncs.markOf 0 2).wm)
    ∧ (syncs.markOf 0 3).act = false := by decide +kernel

/-- The premises of WaitingInstructions on barriers: a barrier at the end of the own scratchpad, a count in each form, and the numbers of a barrier's
words at their ends. -/
theorem witness_barriers :
    syncs.barLocate 0 0 (syncs.ea 2 0 0) = .at_ (.own 0xFFFE0) syncs
    ∧ syncs.barHeld (.own 0xFFFE0) = false
    ∧ syncs.binitCount (.reg 4) = some 5 ∧ syncs.binitCount (.imm 7) = some 7 ∧ syncs.binitCount (.group 3) = some 2 ∧ syncs.released 0 0 = true
    ∧ syncs.clear none [.scal 2, .scal 4] [] = true ∧ syncs.clear none [.scal 2] [] = true ∧ syncs.clear none (.scal 2 :: SrcBReads (.imm 3)) [.scal 1] = true
    ∧ syncs.clear none (.scal 2 :: SrcBReads (.imm 3)) [] = true ∧ syncs.clear none [.scal 2, .scal 4] [.scal 1] = true
    ∧ ((2 ^ 32 - 2 : Nat) < 2 ^ 32 - 1 ∧ (2 ^ 32 - 1 : Nat) < 2 ^ 32 ∧ (2 ^ 32 - 2 : Nat) + 1 < 2 ^ 32) :=
  ⟨bar_found (by decide +kernel), by decide +kernel⟩

/-- The premises of WaitingInstructions on the operations at the own core's interface: the last core and the last aligned 32 bytes of a scratchpad, the
largest count, and words that are readable. -/
theorem witness_barrier_messages :
    (0x413 : Nat) ∈ allCores ∧ (15 : Nat) < 16 ∧ 0xFFFE0 < 2 ^ 20 ∧ (4 : Nat) < 16 ∧ 2 ^ 32 - 1 < 2 ^ 32
    ∧ syncs.wordsBad (spadKey 0x413 (syncs.core 0x413).active 0xFFFE0) 32 = false := by decide +kernel

/-- The premises of WaitingInstructions on an arrival whose release is not yet there: a remote store of the firing unanswered. -/
theorem witness_late_arrival :
    let s : State := syncs.modCore 0 fun k =>
      { k with out := [{ id := 9, ctx := 0, op := 0x23, lid := 7, part := 1, pc := 0, dst := epCore 1, counted := true, addr := 0, handle := syncs.firingOf 0 0 }] }
    s.barLocate 0 0 (s.ea 2 0 0) = .at_ (.own 0xFFFE0) s ∧ s.barHeld (.own 0xFFFE0) = false ∧ s.released 0 0 = false ∧ s.clear none (.scal 2 :: SrcBReads (.imm 3)) [.scal 0] = true :=
  ⟨bar_found (by decide +kernel), by decide +kernel, by decide +kernel⟩

/-- A state with an output binding of s1 in slot 1 on channel 2, drained, and a pattern's descriptor in the own scratchpad at 0x8000. -/
def streams : State :=
  let s := (st [(2, 0xFD000000008000), (0x250 / 8, 2 ^ 63 + 2 ^ 62 + 2 ^ 52 + 2 * 2 ^ 48 + 9)]).modApart 0 fun p => { p with chans := [(2, { kind := 2, ctl := {}, out := true })] }
  let w (i v : Nat) (s : State) : State := s.spadWrite 0 (0x8000 + 8 * i) 8 v
  w 2 (4 + 2 ^ 16 + 2 ^ 32) (w 1 (0x9000 * 2 ^ 8 + 3) (w 0 0x1000 s))

/-- The premises of StreamBindings: a free slot, a drained slot, and a descriptor that an input and an output bind. -/
theorem witness_streams :
    (streams.clear none [] [.scal 5] = true ∧ bit (streams.sb 0 0 0) 63 = 0) ∧ (bit (streams.sb 0 0 1) 63 = 1 ∧ streams.slotDrained 0 0 1 = true)
    ∧ (streams.clear none [.scal 2] [] = true ∧ eaVal (streams.ea 2 0 0) % 64 = 0 ∧ (streams.ctx streams.ic streams.ik).got = none)
    ∧ (∃ r, streams.loadChunks 0 0 64 [{ va := 0xFD000000008000, len := 64, off := 0, nib := 0 }] (load0 streams) = .done r
      ∧ (r.pieces.isEmpty && Memory.wf r.s.mem && (okOf (r.s.bindRes 0xFD000000008000 r.acc false false false 3 0 4 0)).isSome
        && (okOf (r.s.bindRes 0xFD000000008000 r.acc true false false 31 0 15 3)).isSome) = true) :=
  ⟨by decide +kernel, by decide +kernel, by decide +kernel, load_found (by decide +kernel)⟩

/-- R122: the arrival that meets an expectation of 2 at generation 5 advances it and leaves no arrival; without beats due only. -/
theorem test_barrier_completes :
    barApply (5 + 2 * 2 ^ 32 + 1 * 2 ^ 64) (.arrive 1) = 6 + 2 * 2 ^ 32 ∧ barApply (5 + 2 * 2 ^ 32 + 1 * 2 ^ 64 + 2 ^ 96) (.arrive 1) = 5 + 2 * 2 ^ 32 + 2 * 2 ^ 64 + 2 ^ 96
    ∧ barApply (5 + 2 * 2 ^ 32 + 2 * 2 ^ 64 + 2 ^ 96) (.landed 1) = 6 + 2 * 2 ^ 32 := by decide +kernel

/-! ### Witnesses: shapes, vectors and masks -/

/-- s2 = 5, s3 = 0, s4 = 65535, s5 = 65536, s6 = 1.0, s7 a NaN, s8 an infinity, s9 = 63, s10 = 64; sh0 a vector of 16 F32, sh1 of 1 element. -/
def vecs : State := st [(2, 5), (4, 65535), (5, 65536), (6, 0x3F800000), (7, 0x7FC00000), (8, 0xFF800000), (9, 63), (10, 64),
  (56, 2 ^ 55 + 11 * 2 ^ 48 + 2 ^ 32 + 2 ^ 16 + 16), (58, 2 ^ 55 + 2 ^ 54 + 2 ^ 32 + 2 ^ 16 + 1)]

/-- The premises of ShapeRequestsAreGranted: the least and greatest requests, a request of 0 and one above 65,535, every field of SHGET's two statements. -/
theorem witness_shapes :
    (vecs.clear none (reqReads (.imm 1 65535 1)) [.shape 0] = true ∧ vecs.request (.imm 1 65535 1) = (1, 65535, 1))
    ∧ (vecs.clear none (reqReads (.regs 4 4 4)) [.shape 3] = true ∧ vecs.request (.regs 4 4 4) = (65535, 65535, 65535))
    ∧ (vecs.clear none (reqReads (.regs 3 4 4)) [.shape 0] = true ∧ (vecs.request (.regs 3 4 4)).1 = 0)
    ∧ (vecs.clear none (reqReads (.regs 5 4 4)) [.shape 0] = true ∧ 65535 < (vecs.request (.regs 5 4 4)).1)
    ∧ vecs.clear none [.shape 0] [.scal 1] = true ∧ (0 : BitVec 4).toNat < 5 ∧ (4 : BitVec 4).toNat < 5
    ∧ (1 ≤ 5 ∧ 1 ≤ 64 ∧ 1 ≤ 16 ∧ (16 ≤ 64 → 64 % 16 = 0)) := by decide +kernel

/-- The premises of VectorArithmetic, VectorComparisonAndConversion, VectorReductionAndMovement and MaskInstructions: shapes in use, operands of each form,
a mask with and without the first element, scales of each kind, indices at both ends. -/
theorem witness_vectors :
    (shapeUse 0 (vecs.grant 0) [0] = true ∧ shapeUse 0 (vecs.grant 1) [0] = true)
    ∧ (∀ l ∈ [[Dest.vec 2, .vec 3], [.vec 2, .scal 2], [.vec 2, .vec 3, .vec 1], [.vec 2], [.scal 2], [.scal 2, .scal 3], [.vec 2, .scal 6], [.vec 2, .scal 2, .scal 1]],
      vecs.clear none (predReads none ++ l ++ [.shape 0] ++ extReads 0) [.vec 1] = true
      ∧ vecs.clear none (predReads (some (1, true)) ++ l ++ [.shape 1] ++ extReads 2) [.scal 1] = true)
    ∧ (∀ l ∈ [[Dest.scal 2, .scal 3, .scal 1], [.scal 2, .scal 1], [.scal 1], [.scal 2, .shape 0, .scal 1]], vecs.clear none (predReads none ++ l) [.scal 1] = true)
    ∧ (activeAt (vecs.maskOf c0) 32 15 = true ∧ activeAt (vecs.maskOf ⟨0, 1, false⟩) 32 0 = false ∧ activeAt 1 4 7 = true)
    ∧ (match decF .f32 (vecs.rs 6) with | .fin _ _ n _ => decide (n ≠ 0) | .inf _ => false | .nan => false) = true
    ∧ ((decF .f32 (vecs.rs 3)).isZero = true ∧ (decF .f32 (vecs.rs 7)).isNan = true)
    ∧ (match decF .f32 (vecs.rs 8) with | .inf _ => true | .fin _ _ _ _ => false | .nan => false) = true
    ∧ ((bestOf true (vecs.activeVals c0 .f32 2 16)).isSome = true ∧ (bestOf false (vecs.activeVals c0 .f32 2 1)).isSome = true)
    ∧ (vecs.rs 9 < 2048 / Ty.width .f32 ∧ 2048 / Ty.width .f32 ≤ vecs.rs 10 ∧ activeAt (vecs.maskOf c0) 32 63 = true)
    ∧ (vecs.clear none (predReads none ++ [.vec 2, .scal 9]) [.scal 1] = true ∧ vecs.clear none (predReads none ++ [.scal 1, .scal 10]) [.vec 2] = true)
    ∧ (1 ≤ 4 ∧ 512 * 4 ≤ 2048 ∧ 4 ∣ 8) ∧ (32 * 64 ≤ 2048 ∧ 8 ∣ 64) := by decide +kernel

/-- R360: with a mask of bit 0 alone, the first two of three 16-bit elements are active (a group of two), and without TU the tail to a granted 4 is written. -/
theorem test_vector_result :
    vecResult 4 16 3 false ((List.range 3).filterMap fun i => if activeAt 1 16 i then some (i, 7) else none) = (0xFFFF0000FFFFFFFF, 0x00070007) := by decide +kernel

/-! ### Witnesses: matrix and factorisation -/

/-- The state and the wait of an answer that waits. -/
def holdOf (x : Res) : Option State :=
  match x with
  | .hold u _ => some u
  | .ok _ | .jump _ _ | .retry _ | .block _ _ | .gone _ | .trap _ _ | .trapWith _ _ _ => none
/-- The answer of a matrix instruction's staging, where it passes every check before it. -/
def stages (s : State) (i : Instr) : Option Res :=
  match matSpec i with
  | some p =>
    if !p.resv s && !p.tooWide s && (match p.sh with | some (sh, ks) => shapeUse s.ic (s.grant sh) ks | none => true)
      && s.clear p.ctl.pred (mReads p.x (p.sh.map Prod.fst) p.more) [] then some (p.body s) else none
  | none => none
/-- An instruction whose staging is reached meets the premises of MatrixCommandsAreQueued. -/
theorem stages_premises {s : State} {i : Instr} {f : Res → Bool} (h : (stages s i).map f = some true) :
    ∃ p, matSpec i = some p ∧ p.resv s = false ∧ (∀ sh ks, p.sh = some (sh, ks) → shapeUse s.ic (s.grant sh) ks = true) ∧ p.tooWide s = false
      ∧ s.clear p.ctl.pred (mReads p.x (p.sh.map Prod.fst) p.more) [] = true ∧ f (p.body s) = true := by
  unfold stages at h
  cases hp : matSpec i with
  | none => simp [hp] at h
  | some p =>
    refine ⟨p, rfl, ?_⟩
    obtain ⟨ctl, x, sh, more, resv, tooWide, body⟩ := p
    cases sh <;> simp_all
    rintro a b rfl
    exact h.1.1.2

/-- s2 at local 0x8000 and s3 its stride 256, s4 a count; sh0 an 8-by-8-by-32 BF16 tile, sh1 an F32 factorisation of 4 by 4, sh2 one of 5 by 4, sh3 one of 4 by 5;
every bank of I8 without groups. -/
def mats (c : Nat) (ty : Nat := 9) : State :=
  let word (kind ty m n k : Nat) : Nat := 2 ^ 55 + kind * 2 ^ 52 + ty * 2 ^ 48 + k * 2 ^ 32 + n * 2 ^ 16 + m
  (stOn c [(2, 0xFD000000008000), (7, 0x1000), (3, 256), (4, 16), (5, 0x100), (6, 0x8000), (56, word 1 ty 8 8 32), (58, word 3 11 4 4 1), (60, word 3 11 5 4 1), (62, word 3 11 4 5 1)]).modApart c fun p =>
    { p with bfr := (List.range 16).map fun b => (b, 0) }

/-- The premises of MatrixCommandsAreQueued on staged commands: a tile load, a product from tiles, one that the policy core emulates, an instruction without a shape. -/
theorem witness_matrixIssue :
    (∃ p, matSpec (.tld c0 .bf16 false 1 2 0 { m0 with sa := 3 }) = some p ∧ p.resv (mats 0) = false
      ∧ (∀ sh ks, p.sh = some (sh, ks) → shapeUse (mats 0).ic ((mats 0).grant sh) ks = true) ∧ p.tooWide (mats 0) = false
      ∧ (mats 0).clear p.ctl.pred (mReads p.x (p.sh.map Prod.fst) p.more) [] = true ∧ (okOf (p.body (mats 0))).isSome = true)
    ∧ ((stages (mats 0) (.mma c0 (.ty .bf16) false 0 (.tile 1) (.tile 2) 0 m0)).map fun r => (okOf r).isSome) = some true
    ∧ ((stages (mats 0) (.tzero c0 1 m0)).map fun r => (okOf r).isSome) = some true
    ∧ ((stages (mats 0x400 8) (.tld c0 .f8e5 false 1 2 0 { m0 with sa := 3 })).map fun r => (holdOf r).isSome) = some true :=
  ⟨stages_premises (f := fun r => (okOf r).isSome) (by decide +kernel), by decide +kernel, by decide +kernel, by decide +kernel⟩

/-- The premises of the staging statements of MatrixCommandsAreQueued. -/
theorem witness_matrixStaging :
    (∃ slot < 8, SMap.find? ((mats 0).apart 0).inbox slot = none) ∧ (mats 0).guardCount 0 ≤ 6 ∧ isCellar 0 = false
    ∧ (mats 0).memMisaligned [moveOp (mats 0) .bf16 false 2 0 { m0 with sa := 3 } true] = none
    ∧ (mats 0).memBeyond [moveOp (mats 0) .bf16 false 2 0 { m0 with sa := 3 } true] = none
    ∧ (mats 0).memMisaligned (prodMem false (.mem 2) 3 8 64 2 ++ prodMem true (.mem 2) 3 8 64 2) = none
    ∧ (mats 0).memBeyond (prodMem false (.mem 2) 3 8 64 2 ++ prodMem true (.mem 2) 3 8 64 2) = none
    ∧ (mats 0).memMisaligned [{ isB := false, base := 2, str := 0, rows := 1, bytes := 576, es := 1, src := true, algn := 64 }] = none
    ∧ ((mats 0).rs 4 % 2 ^ 32 ≠ 0 ∧ (mats 0).rs 5 + packedBytes .i8 16 ≤ 2 ^ 20 ∧ (mats 0).rs 6 + packedBytes .i8 16 ≤ 2 ^ 20
      ∧ ∀ bank < nbanks 0, bfrTy ((mats 0).bfrOf 0 1 bank) = some .i8 ∧ (mats 0).bfrOf 0 1 bank = (mats 0).bfrOf 0 1 0) := by
  refine ⟨⟨0, by decide +kernel⟩, by decide +kernel⟩

/-- The premises on factorisations: a square shape, a tall one and a wide one. -/
theorem witness_factorisationIssue :
    ((mats 0).clear none (mReads m0 (some 1) []) [] = true ∧ (mats 0).clear none (mReads m0 (some 2) []) [] = true ∧ (mats 0).clear none (mReads m0 (some 3) []) [] = true)
    ∧ (shapeUse 0 ((mats 0).grant 1) [3] = true ∧ shapeUse 0 ((mats 0).grant 2) [3] = true ∧ shapeUse 0 ((mats 0).grant 3) [3] = true)
    ∧ (∀ sh ∈ [(1 : ShReg), 2, 3], bits ((mats 0).grant sh) 51 48 = 11)
    ∧ ((mats 0).mExtent 1 0).1 = ((mats 0).mExtent 1 0).2.1 ∧ ((mats 0).mExtent 2 0).2.1 ≤ ((mats 0).mExtent 2 0).1
    ∧ ((mats 0).mExtent 2 0).1 ≠ ((mats 0).mExtent 2 0).2.1 ∧ ((mats 0).mExtent 3 0).1 < ((mats 0).mExtent 3 0).2.1 := by decide +kernel

/-- The premises of BankFormatsAndFactorResults: the last bank with and without groups, and a bank that a cellar core has not. -/
theorem witness_banks :
    (let v := (st [(2, 11 + 2 ^ 4 + 0x10 * 2 ^ 8)]).rs 2 % 2 ^ 24;
      v % 16 ≠ 14 ∧ (15 : BitVec 4).toNat < nbanks 0 ∧ bits v 7 4 < 3 ∧ bfrGroup v ≠ 0
      ∧ bits v 23 8 * 64 + 2 * ((bankSize 0 * 8 / (tyOfNat (v % 16)).width + bfrGroup v - 1) / bfrGroup v) ≤ spadSize 0)
    ∧ bfrGroup 0 = 0 ∧ (st [(2, 5)]).clear none [.scal 2] [] = true ∧ (st []).clear none [] [.scal 1] = true
    ∧ nbanks 0x400 ≤ (8 : BitVec 4).toNat ∧ (stOn 0x400 [(2, 5)]).clear none [.scal 2] [] = true ∧ (stOn 0x400 []).clear none [] [.scal 1] = true
    ∧ ((st []).apart 0).inbox = [] ∧ (st []).clear none [] [.vec 3] = true := by decide +kernel

/-- The premises of BankFormatsAndFactorResults on a result behind a queued command. -/
theorem witness_queuedResult :
    let s : State := (st []).modApart 0 fun p => { p with inbox := [(0, { instr := .tzero c0 1 m0, ctl := { part := 1, asid := 1 }, seq := 0 })] }
    ((s.apart 0).inbox ≠ [] ∧ (∃ slot < 8, SMap.find? (s.apart 0).inbox slot = none) ∧ s.guardCount 0 ≤ 8 ∧ s.firingOf 0 0 ≠ 0)
    ∧ (∀ d ∈ [Dest.vec 3, .scal 1], s.clear none [] [d] = true) := ⟨⟨by decide +kernel, ⟨1, by decide +kernel⟩, by decide +kernel⟩, by decide +kernel⟩

/-! ### Witnesses: the array at work -/

/-- The small state after a matrix instruction put its command in the inbox, with the compute die 0 in K0 and the DRAM active. -/
def queued (s : State) (i : Instr) : State :=
  match exec i s with
  | .next u => { u with power := { u.power with die := [(0, 0)], dram := 0 } }
  | .fault _ => s
  | .refused _ => s

/-- The head command of a core's array with a record changed, if it could go on. -/
def headOf (s : State) (c : Nat) : Option (Nat × MCmd) :=
  match s.matHead c with
  | some (slot, m) =>
    if m.follow.isNone && m.failed.isNone && s.acqReady c m.ctl && s.engineOn c && (s.barNeeds c (matWho slot) m.ctl false).isNone && (s.matReads c m).all (fun e => !(s.apart c).badRows.contains e) then some (slot, m) else none
  | none => none
/-- A step that goes on. -/
def isMore (x : Option MStep) : Bool := match x with | some (.more _ _) => true | some (.fin _ _ _) => false | some (.wait _) => false | none => false
/-- A step that ends its command, where its release has not to wait for the DRAM. -/
def isFin (c : Nat) (m : MCmd) (x : Option MStep) : Bool :=
  match x with | some (.fin t n st) => !(t.mendRows c m st.isNone).relShut n.ctl | some (.more _ _) => false | some (.wait _) => false | none => false
/-- A step that asks the flash pager for a page. -/
def isAsk (s : State) (slot : Nat) (x : Option MStep) : Bool :=
  match x with | some (.wait (some t)) => t.pageAsked (matWho slot) s.nextMsg | some (.wait none) => false | some (.more _ _) => false | some (.fin _ _ _) => false | none => false

/-- A head command that passes a test meets the premises of ArrayRunsItsHeadCommand. -/
theorem head_found {s : State} {c : Nat} {f : Nat × MCmd → Bool} (h : (headOf s c).map f = some true) :
    ∃ slot m, s.matHead c = some (slot, m) ∧ m.follow = none ∧ m.failed = none ∧ s.acqReady c m.ctl = true ∧ s.engineOn c = true
      ∧ s.barNeeds c (matWho slot) m.ctl false = none ∧ (∀ e ∈ s.matReads c m, (s.apart c).badRows.contains e = false) ∧ f (slot, m) = true := by
  unfold headOf at h
  cases hs : s.matHead c with
  | none => simp [hs] at h
  | some x => exact ⟨x.1, x.2, rfl, by simp_all⟩

/-- A product of two tiles, a TZERO, a load that the policy core emulates, a factorisation, and a load from a page in flash. -/
def arrays : List State :=
  [queued (mats 0) (.mma c0 (.ty .bf16) false 0 (.tile 1) (.tile 2) 0 m0), queued (mats 0) (.tzero c0 1 m0), queued (mats 0x400 8) (.tld c0 .f8e5 false 1 2 0 { m0 with sa := 3 }),
    queued (mats 0) (.mchol c0 0 1 m0), queued (paged (mats 0) (2 + 2 ^ 8 + 2 ^ 2 + 5 * 4096)) (.tld c0 .bf16 false 1 7 0 { m0 with sa := 3 })]
/-- One of them. -/
def array (i : Nat) : State := arrays.getD i (mats 0)

/-- The premises of ArrayRunsItsHeadCommand: steps that go on and that end, on the array, in emulation and of a factorisation, and a page in flash. -/
theorem witness_array :
    ((headOf (array 0) 0).map fun x => !x.2.emul && isMore ((array 0).matStep 0 x.1 x.2)) = some true
    ∧ ((headOf (array 1) 0).map fun x => !x.2.emul && isFin 0 x.2 ((array 1).matStep 0 x.1 x.2)) = some true
    ∧ ((headOf (array 2) 0x400).map fun x => x.2.emul && isMore ((array 2).matStep 0x400 x.1 x.2)) = some true
    ∧ ((headOf (array 2) 0x400).map fun x =>
        let s := (array 2).setMat 0x400 x.1 { x.2 with rows := 7 }
        ((headOf s 0x400).map fun y => y.2.emul && isFin 0x400 y.2 (s.matStep 0x400 y.1 y.2)) == some true) = some true
    ∧ ((headOf (array 3) 0).map fun x => !x.2.emul && isMore ((array 3).facStep 0 x.1 x.2)) = some true
    ∧ ((headOf (array 3) 0).map fun x =>
        let s := (array 3).setMat 0 x.1 { x.2 with kb := 3 }
        ((headOf s 0).map fun y => isFin 0 y.2 (s.facStep 0 y.1 y.2)) == some true) = some true
    ∧ ((headOf (array 4) 0).map fun x => isAsk (array 4) x.1 ((array 4).matStep 0 x.1 x.2)) = some true
    ∧ ((headOf (array 0) 0).map fun x =>
        let s := (array 0).modApart 0 fun p => { p with badRows := [(1, 2)] }
        ((s.matReads 0 x.2).find? fun e => (s.apart 0).badRows.contains e) == some (1, 2) && (s.matStep 0 x.1 x.2).isSome && !x.2.emul
          && !(s.mendRows 0 x.2 false).relShut x.2.ctl) = some true := by decide +kernel

/-- A load from coherent memory whose first access has been asked for and is not answered. -/
def askingArray : State :=
  let s := queued (paged (mats 0) (1 + 4 + 8 + 0x700 + 0x20000)) (.tld c0 .bf16 false 1 7 0 { m0 with sa := 3 })
  match headOf s 0 with
  | some (slot, m) => (match s.matStep 0 slot m with | some (.wait (some t)) => t | some (.wait none) => s | some (.more _ _) => s | some (.fin _ _ _) => s | none => s)
  | none => s

/-- The premises of ArrayRunsItsHeadCommand on a first wait for an answer. -/
theorem witness_firstWait :
    ((headOf askingArray 0).map fun x => !x.2.emul && x.2.st != 1 && !askingArray.pagePending 0 (matWho x.1)
      && (match askingArray.matStep 0 x.1 x.2 with | some (.wait none) => true | some (.wait (some _)) => false | some (.more _ _) => false | some (.fin _ _ _) => false | none => false))
      = some true := by decide +kernel

/-- The premises on one block of a product, at the last row of the frame. -/
theorem witness_block : (frameRows 0 - 1) + [[XR.zero]].length ≤ frameRows 0 ∧ 4 * [[XR.zero]].length ≤ accBytes 0 ∧ ([XR.zero] ≠ []) := by
  refine ⟨by decide +kernel, by decide +kernel, by simp⟩

/-! ### Witnesses: copy and grammar engines -/

/-- Registers of a vector register's words. -/
def vecWords (v : Nat) (l : List Nat) : List (Nat × Nat) := (List.range l.length).map fun i => (80 + 32 * v + i, l.getD i 0)

/-- v1 copies 4 I32 from 0x1000 to 0x1800 of a page in memory, v2 is a descriptor with a reserved bit, v3 gathers at most 8 F32 of one row into the
scratchpad, v4 is reserved; s2 and s3 bound a watermark's range, s5 lies beyond the scratchpad; sh0 is a BF16 tile; channel 2 has a watermark; the next
slot is TZERO t1. -/
def engs : State :=
  let s := (st ([(2, 0xFFFFF), (3, 0x100), (4, 0x100000), (5, 0xFFFFF), (6, 0x150)] ++ vecWords 1 [0x1000, 0x1800, 4 + 2 ^ 16 + 2 ^ 32 + 3 * 2 ^ 48, 1, 0, 0]
      ++ vecWords 2 [2 ^ 60, 0x2000, 4 + 2 ^ 16 + 2 ^ 32, 4, 0, 0]
      ++ vecWords 3 [0x1000, 0x2000, 0x3000, 2 ^ 32, 0x8000 + 0x9000 * 2 ^ 20 + 11 * 2 ^ 40, 8, 0, 0] ++ vecWords 4 [2 ^ 60])).modApart 0 fun p =>
    { p with marks := [(2, { act := true, lo := 0, hi := 0x200, wm := 0x100 })] }
  paged { s with issue := { s.issue with nextSlot := some (slot 0x82 0 0 1 0 0 0 0 0 0 0) } } (1 + 4 + 8 + 0x700 + 0x20000)

/-- The state that a staged copy leaves. -/
def copied (s : State) (v : Nat) (e : ECtl) : Option State := match s.copyStage v e with | .inl u => some u | .inr _ => none

/-- The premises of CopiesAreQueued on CPY and CSRG: descriptors that are reserved and that are staged, with and without a result, and a copy that is
always staged. -/
theorem witness_copies :
    (∀ a ∈ [(1 : VReg), 2], engs.clear none (copyReads a e0) [] = true) ∧ (engs.copyResv (engs.rv 2) = true ∧ engs.copyResv (engs.rv 1) = false)
    ∧ (copied engs (engs.rv 1) e0).isSome = true
    ∧ (engs.chanFree 0 0 = true ∧ engs.guardCount 0 ≤ 8 ∧ bits (vWord (engs.rv 1) 2) 51 48 < 14 ∧ bits (vWord (engs.rv 1) 0) 55 0 % 8 = 0
      ∧ bits (vWord (engs.rv 1) 1) 55 0 % 8 = 0 ∧ bits (vWord (engs.rv 1) 1) 55 0 < 0xFD000000000000
      ∧ (∀ r ∈ copyDims (engs.rv 1), 0 ≤ r.2 ∧ r.2 < 2 ^ 16) ∧ bits (vWord (engs.rv 1) 0) 55 0 < 0xFC000000000000)
    ∧ (∀ a ∈ [(3 : VReg), 4], ∀ d ∈ [(0 : SReg), 1], engs.clear none (copyReads a { e0 with ch2 := 3 }) [.scal d] = true)
    ∧ (csrDescBad (engs.rv 4) = true ∧ csrDescBad (engs.rv 3) = false) ∧ (okOf (engs.csrStage (engs.rv 3) 0 { e0 with ch2 := 3 })).isSome = true
    ∧ (okOf (engs.csrStage (engs.rv 3) 1 { e0 with ch2 := 3 })).isSome = true := by decide +kernel

/-- The premises of CopiesAreQueued on a CSRG that is always staged. -/
theorem witness_gathers :
    (engs.chanFree 0 0 = true ∧ engs.chanFree 0 3 = true ∧ engs.guardCount 0 ≤ 5 ∧ (∀ i < 3, bits (vWord (engs.rv 3) i) 55 0 % 8 = 0)
      ∧ bits (vWord (engs.rv 3) 4) 19 0 % 4 = 0 ∧ bits (vWord (engs.rv 3) 4) 39 20 % 8 = 0
      ∧ bits (vWord (engs.rv 3) 4) 19 0 + 4 * bits (vWord (engs.rv 3) 5) 31 0 ≤ spadSize 0
      ∧ bits (vWord (engs.rv 3) 4) 39 20 + packedBytes (tyOfNat (bits (vWord (engs.rv 3) 4) 43 40)) (bits (vWord (engs.rv 3) 5) 31 0) ≤ spadSize 0)
    ∧ ∀ bank, bfrTy (engs.bfrOf 0 (engs.core 0).active bank) = none := ⟨by decide +kernel, fun _ => rfl⟩

/-- The premises of CopiesAreQueued on CPYF: a matrix instruction follows whose staging completes behind the copy's; and a next slot that is none. -/
theorem witness_followOn :
    (let t : State := { engs with issue := { engs.issue with len := 2 } }
    (match engs.followOn with
      | some p => t.clear none (copyReads 1 e0 ++ mReads p.x (p.sh.map Prod.fst) p.more) [] && !t.copyResv (t.rv 1) && !p.resv t && p.sh.isNone && !p.tooWide t
        && (match copied t (t.rv 1) e0 with | some u => (okOf (p.body u)).isSome | none => false)
      | none => false) = true)
    ∧ (st []).followOn.isNone = true ∧ (st []).clear none [] [] = true := by decide +kernel

/-- The premises of CopiesAreQueued on WMARK and LAUT: a range up to the last byte, one beyond, a watermark that advances, is cleared and is read. -/
theorem witness_watermarks :
    (engs.clear none [.scal 3, .scal 2] [] = true ∧ engs.rs 3 % 2 ^ 20 < spadSize 0 ∧ engs.rs 2 % 2 ^ 20 ≤ spadSize 0 ∧ engs.chanBusy 0 5 = false)
    ∧ ((stOn 0x400 [(2, 0x40000), (3, 5)]).clear none [.scal 2, .scal 3] [] = true ∧ spadSize 0x400 ≤ (stOn 0x400 [(2, 0x40000)]).rs 2 % 2 ^ 20)
    ∧ (engs.clear none [.scal 6] [] = true ∧ engs.clear none [] [] = true ∧ engs.clear none [] [.scal 1] = true ∧ engs.chanBusy 0 2 = false
      ∧ SMap.find? (engs.apart 0).marks 2 = some { act := true, lo := 0, hi := 0x200, wm := 0x100 })
    ∧ (engs.signalHeld = false ∧ engs.countFull engs.ic (engs.partOf engs.ic engs.ik) = false ∧ (engs.ctx 0 0).asid < 16 ∧ engs.replaying (coreOfEp (epCore 0)) = false ∧ engs.clear none (lautReads 2 3 e0) [.scal 1] = true) := by
  decide +kernel

/-- A copy channel at work, one that has ended, an input and an output stream. -/
def copying : State :=
  (queued engs (.cpy c0 1 e0)).modApart 0 fun p =>
    let m : CCmd := { kind := 2, ctl := { part := 1, asid := 1 }, src := 0x1000, sty := 3, cnt0 := 4, str0 := 1, ring := 0x8000, rsize := 256, total := 4 }
    { p with chans := p.chans ++ [(1, { m with kind := 0, ended := true }), (2, m), (3, { m with out := true, head := 2 })] }

/-- A granule that is ready. -/
def granOk (x : GranRes) : Bool := match x with | .ok _ _ _ => true | .wait _ => false | .fail _ _ _ => false
/-- An access that is performed. -/
def engOk (x : EngRes) : Bool := match x with | .ok _ _ => true | .wait _ => false | .fail _ _ _ => false

/-- The state in which every access that an engine of core 0 asked for in `t` has been answered. -/
def engAnswered (t : State) : State := t.modApart 0 fun p => { p with asked := p.asked.map fun a => { a with st := 1, val := 7 } }
/-- The state in which the copy of channel 0 has got what it reads for its next beat. -/
def copyFed : Nat → State → State
  | 0, s => s
  | n + 1, s =>
    match s.chan 0 0 with
    | none => s
    | some m =>
      match s.granule 0 (chanWho 0) m.ctl (patternView m) m.dst m.dbfr m.rm m.done with
      | .wait (some t) => copyFed n (engAnswered t)
      | .wait none => s
      | .ok _ _ _ => s
      | .fail _ _ _ => s
/-- The state in which an access that asked for something first has been answered. -/
def fed (s : State) (x : EngRes) : State :=
  match x with
  | .wait (some t) => engAnswered t
  | .wait none => s
  | .ok _ _ => s
  | .fail _ _ _ => s
/-- The state in which the streams of channels 2 and 3 have got the answers to their next accesses. -/
def streamsFed : State :=
  match copying.chan 0 2, copying.chan 0 3 with
  | some m, some w =>
    let s := fed copying (copying.rawElem 0 (chanWho 2) m.ctl (patternView m) m.head)
    fed s (s.engWrite 0 (chanWho 3) w.ctl (affineAddr w w.tailc) 4 (s.spadBits 0 (w.ring * 8) 32))
  | _, _ => copying

/-- The premises of CopyAndGrammarEnginesRun on channels. -/
theorem witness_channels :
    (((copyFed 9 copying).chan 0 0).map fun m => m.kind == 0 && !m.ended && m.failed.isNone && (copyFed 9 copying).acqReady 0 m.ctl && ((copyFed 9 copying).barNeeds 0 (chanWho 0) m.ctl false).isNone && (spadOf 0 m.dst 1).isNone
      && granOk ((copyFed 9 copying).granule 0 (chanWho 0) m.ctl (patternView m) m.dst m.dbfr m.rm m.done)) = some true
    ∧ (copyFed 9 copying).engineOn 0 = true ∧ copying.engineOn 0 = true ∧ streamsFed.engineOn 0 = true
    ∧ ((copying.chan 0 1).map fun m => m.kind == 0 && m.ended && m.failed.isNone && (copying.barNeeds 0 (chanWho 1) m.ctl false).isNone && !copying.relShut m.ctl) = some true
    ∧ ((streamsFed.chan 0 2).map fun m => m.kind == 2 && !m.portb && !m.ended && !m.out && decide (m.head < m.total) && decide (m.head - m.tailc < ringCap m)
      && engOk (streamsFed.rawElem 0 (chanWho 2) m.ctl (patternView m) m.head)) = some true
    ∧ ((streamsFed.chan 0 3).map fun m => m.kind == 2 && !m.portb && !m.ended && m.out && decide (m.tailc < m.head) && (copyTy m).width != 4
      && engOk (streamsFed.engWrite 0 (chanWho 3) m.ctl (affineAddr m m.tailc) 4 (streamsFed.spadBits 0 (m.ring * 8) 32))) = some true := by decide +kernel

/-- A lauter engine of die 0 with grammar 1 and instance 2 of partition 1, and one command in its inbox. -/
def lauting (fn a b : Nat) : State :=
  let l : LCmd := { fn := fn, ty := .f32, a := a, b := b, ctl := { part := 1, asid := 1 }, src := 0, msg := 3, reply := false, pts := 0 }
  let g : Grammar := { part := 1, nclass := 2, depth := 4, nsym := 1, nstates := 3, start := 1, vocab := 5, classmap := 0x1000, trans := 0x1100, midx := 0x1200 }
  { st [] with lauters := [(0, { inbox := [l], slots := [(1, g)], insts := [(2, { slot := 1, part := 1, state := 1, stack := [] })] })], power := { die := [(0, 0)] } }
/-- A command that is done, and whether it succeeded, where its release has not to wait for the DRAM. -/
def lautDone (l : LCmd) (x : LautRes) : Option Bool := match x with | .done t _ _ bad => if t.relShut l.ctl then none else some bad.isNone | .more _ _ _ => none | .wait _ => none

/-- A remote store that waited at the watermark of channel 2, which is clear now. -/
def heldStore : State :=
  let m : Msg := { id := 4, src := epCore 1, dst := epCore 0, part := 1, ch := 2, op := 0x23, taddr := 0xFE000000000010, data := [1, 2, 3, 4] }
  { (st []).modApart 0 fun p => { p with marks := [(2, { act := false, lo := 0, hi := 0x200, wm := 0x200 })] } with net := [m], power := { die := [(0, 0)] } }

/-- The premises of CopyAndGrammarEnginesRun on lauter commands: a reset that succeeds, and the others as they fail; and on a held access. -/
theorem witness_lauter :
    (∀ x ∈ [(0, 1, 8), (1, 255, 1), (2, 0, 9), (3, 5, 2)],
      let s := lauting x.1 x.2.1 x.2.2
      s.lautOn 0 = true ∧ ((SMap.get {} s.lauters 0).inbox.map fun l => l.failed.isNone && s.acqReady (coreOfEp l.src) l.ctl
        && (s.barNeeds (coreOfEp l.src) 300 l.ctl false).isNone) = [true])
    ∧ ((SMap.get {} (lauting 1 255 1).lauters 0).inbox.map fun l => lautDone l (lautReset (lauting 1 255 1) (SMap.get {} (lauting 1 255 1).lauters 0) l)) = [some true]
    ∧ ((SMap.get {} (lauting 0 1 8).lauters 0).inbox.map fun l => lautDone l ((lauting 0 1 8).lautLoad (SMap.get {} (lauting 0 1 8).lauters 0) 0 0 l)) = [some false]
    ∧ ((SMap.get {} (lauting 2 0 9).lauters 0).inbox.map fun l => lautDone l ((lauting 2 0 9).lautMask (SMap.get {} (lauting 2 0 9).lauters 0) 0 0 l)) = [some false]
    ∧ ((SMap.get {} (lauting 3 5 2).lauters 0).inbox.map fun l => lautDone l ((lauting 3 5 2).lautAdv (SMap.get {} (lauting 3 5 2).lauters 0) 0 0 l)) = [some false]
    ∧ ((1 : Nat) < 8 ∧ (255 : Nat) < 256)
    ∧ ((heldStore.heldAccess 0 2).map fun m => (heldStore.deliver m).isSome) = some true := by decide +kernel

/-! ### Witnesses: actors -/

/-- The descriptor of a task: entry 0x1040, workspace of 74 units. -/
def taskDesc : Nat := 0x1040 + 74 * 2 ^ 64
/-- The descriptor of a producer with one output port of rate 1, its table at 0x1100. -/
def portDesc : Nat := 0x1040 + (74 + 2 ^ 26 + 2 ^ 36) * 2 ^ 64 + 2 ^ 192 + 0x1100 * 2 ^ 256
/-- Handle of the acting firing. -/
def hand : Nat := mkHandle 1 0 1 5

/-- The port's entry: the consumer's handle, its FIFO at 0x9000 of 4 tokens of 16 bytes, its port 2. -/
def actsEntry : Nat := mkHandle 1 0 1 6 + 0x9000 * 2 ^ 64 + 4 * 2 ^ 93 + 16 * 2 ^ 100 + 2 * 2 ^ 112
/-- Context 0 runs the producer: s2 the descriptor of a task at 0x1000, s3 misaligned, s4 = 4, s5 = 129, s6 = 128, s7 at the mesh window, s8 in memory;
its output port has room for 4 tokens of the 4 its consumer holds. -/
def acts : State :=
  let s := pagedWith (st [(2, 0x1000), (3, 0x1020), (4, 4), (5, 129), (6, 128), (7, 0xFE000000000100), (8, 0x1000), (9, 5), (33, 0x9000)])
    (1 + 4 + 8 + 0x700 + 0x20000) [(0x800, taskDesc), (0x804, actsEntry)]
  { s with power := { s.power with dram := 0 }, dirs := [(5, { part := 1, gen := 1, loc := 1 })], kept := [(hand, { desc := portDesc, word1 := 4 * 2 ^ 8 })]
           ctxs := [(0, { s.ctx 0 0 with firing := some { handle := hand, lid := 7, part := 1, handler := false, wsize := 74, ydl := 0 } })] }

/-- The descriptor in memory. -/
theorem acts_desc : acts.partRead 1 0x1000 64 = some taskDesc :=
  (acts.partRead_line 1 0x1000 64 0x20000 0x70D 1 0 (by decide) (by decide) (by decide) (by decide +kernel) (by decide +kernel)).trans (congrArg some (by decide +kernel))

/-- The port's entry in memory. -/
theorem acts_entry : acts.portEntry 1 portDesc 0 = actsEntry := by
  have h := acts.partRead_line 1 0x1100 16 0x20100 0x70D 1 0 (by decide) (by decide) (by decide) (by decide +kernel) (by decide +kernel)
  rw [State.portEntry, show dPorts portDesc + 16 * 0 = 0x1100 from by decide, h]
  decide +kernel

/-- The premises of SpawnCreatesAnActor. -/
theorem witness_spawn :
    acts.partRead 1 0x1000 64 = some taskDesc
    ∧ (∀ a ∈ [(2 : SReg), 3], acts.clear none [.scal a, .scal 4, .scal 9] [.scal 1] = true) ∧ acts.signalHeld = false ∧ acts.rs 3 % 64 ≠ 0
    ∧ (acts.rs 2 % 64 = 0 ∧ acts.rs 2 < 2 ^ 56 ∧ acts.flashPage 1 [0x1000] = none
      ∧ acts.flashPage 1 ([dEntry taskDesc, dPorts taskDesc, dShapes taskDesc, dPitch taskDesc].filter fun x => x != 0) = none ∧ acts.descBad 1 taskDesc = false
      ∧ acts.anyShut 1 [0x1000] = false ∧ acts.anyShut 1 [dEntry taskDesc, dPorts taskDesc, dShapes taskDesc, dPitch taskDesc] = false
      ∧ dStream taskDesc = false ∧ acts.descBad 1 0 = true ∧ descFits taskDesc (if dClass taskDesc = 2 then isCellar 0 else dClass taskDesc == 1) = true)
    ∧ ((acts.readsMarked 1 (descReads 0x1000 taskDesc)).createActor 1 7 0x1000 taskDesc (coreDie 0) 4 5).isSome = true
    ∧ ((∀ e ∈ acts.dirs, e.2.gen < 2 ^ 24) ∧ SMap.find? acts.launches 7 = none) := ⟨acts_desc, by decide +kernel⟩

/-- The premises of FiringsEndOrGoOn on DECR, RETIRE and YIELD. -/
theorem witness_firings :
    acts.clear none (.scal 2 :: SrcBReads (.imm 0)) [] = true ∧ acts.srcU (.imm 0) % 2 ^ 32 = 0 ∧ acts.srcU (.imm 0xFFFFFFFF) % 2 ^ 32 ≠ 0
    ∧ acts.clear none (.scal 2 :: SrcBReads (.imm 0xFFFFFFFF)) [] = true ∧ acts.signalHeld = false ∧ acts.clear none [.scal 2] [] = true
    ∧ ([0, 1, 2, 3].all fun i => acts.slotDrained 0 0 i) = true ∧ acts.clear none [] [] = true
    ∧ (∀ exit, acts.creditsHeld exit = false) ∧ acts.tableShut = false := by decide +kernel

/-- The premises of FiringsEndOrGoOn on PITCH and PORT: targets in and out of a window; counts of 0, above the FIFO's capacity, of 128 and equal to
capacity and space. -/
theorem witness_pitch_and_port :
    acts.portEntry 1 portDesc 0 = actsEntry ∧ (∀ a ∈ [(7 : SReg), 8], acts.clear none [.scal a] [] = true) ∧ (acts.rs 8 / 2 ^ 48 ≠ 0xFD ∧ acts.rs 8 / 2 ^ 48 ≠ 0xFE) ∧ acts.rs 7 / 2 ^ 48 = 0xFE
    ∧ (∀ r ∈ [(4 : SReg), 5, 6], acts.clear none (.scal 33 :: portReads (.reg r)) [.scal (ptrSpec 1)] = true) ∧ ptrSpec 1 = 33
    ∧ (let desc := (acts.keep (acts.handleOf 0 0)).desc
      handlePart (acts.handleOf 0 0) = 1 ∧ desc = portDesc ∧ dNin desc = 0
        ∧ dNout desc ≤ 1 ∧ 0 < dNout desc ∧ acts.rs 6 % 2 ^ 7 = 0 ∧ acts.rs 5 % 2 ^ 7 ≠ 0 ∧ 2 ^ 7 ≤ acts.rs 5 ∧ acts.rs 4 ≤ peCap actsEntry ∧ peCap actsEntry < 5
        ∧ acts.rs 4 ≤ bits (acts.recWord (acts.handleOf 0 0) 1) 14 8)
    ∧ acts.tableShut = false ∧ acts.signalHeld = false ∧ acts.countFull 0 1 = false ∧ acts.replaying (coreOfEp (epCore 0)) = false := ⟨acts_entry, by decide +kernel⟩

/-- A partition whose share is the given cores of die 0, with firings on further cores. -/
def sharing (mask : Nat) (busy : List Nat) (regs : List (Nat × Nat)) : State :=
  let s := st regs
  let f (c : Nat) : Nat × Ctx := (c * 16, { s.ctx 0 0 with wptr := 8192 })
  { s with partitions := [(1, { root := 0x10000, kettle := mask, cellar := 0 })], ctxs := s.ctxs ++ busy.map f
           cores := s.cores ++ (List.range 3).map fun i => (i + 1, { period := 336, active := 1 }) }

/-- The premises of CompositionAndRacking. -/
theorem witness_composition :
    (∀ b ∈ [(0 : SReg), 4], (sharing 3 [1] [(4, 9)]).clear none [.scal b] [.scal 1] = true)
    ∧ (sharing 1 [] []).composeStatus 0 0 1 = some 4 ∧ (sharing 3 [] []).composeStatus 0 0 0 = some 2
    ∧ ((sharing 3 [] []).composeStatus 0 0 1 = none ∧ ((sharing 3 [] []).freeze 0 0 1).composeReady 0 0 1 = true)
    ∧ ((sharing 3 [1] [(4, 9)]).composeStatus 0 0 1 = none ∧ ((sharing 3 [1] [(4, 9)]).freeze 0 0 1).composeReady 0 0 1 = false
      ∧ (sharing 3 [1] [(4, 9)]).rs 0 = 0 ∧ (sharing 3 [1] [(4, 9)]).rs 4 ≠ 0)
    ∧ (bit ((st []).csw 0 0) 3 = 0 ∧ bit ((st [(0x40, 8)]).csw 0 0) 3 ≠ 0 ∧ (st []).clear none [] [] = true ∧ (st [(0x40, 8)]).clear none [] [] = true)
    ∧ (let s := sharing (1 + 2 ^ 64) [] [(4, 9)]
      (s.keep (s.handleOf 0 0)).target = none ∧ s.rs 0 = 0 ∧ dNin (s.keep (s.handleOf 0 0)).desc = 0 ∧ s.clear none ([.scal 0, .scal 4] ++ rackReads (.imm 1)) [.scal 1] = true
        ∧ s.rackReason 0 0 1 (s.rs 0) (s.rs 4 % 2 ^ 12) = none ∧ s.rackReason 0 0 0 (s.rs 0) (s.rs 4 % 2 ^ 12) = some 5
        ∧ s.rackReason 0 0 5 (s.rs 0) (s.rs 4 % 2 ^ 12) = some 11 ∧ (∀ r ∈ [none, some 5, some 11], s.rackLines 0 0 (s.rs 0) r = [])) := by decide +kernel

/-- A context of privileged code, with s2 = 64, s3 = 63, s4 the last workspace place and s5 one unit beyond it. -/
def systems (priv : Bool) : State := st [(2, 64), (3, 63), (4, 0x100000 - 4736), (5, 0x100000 - 4672), (0x40, if priv then 128 else 0), (6, 0xFD0000000FFFF8), (7, 5)]

/-- The premises of SystemRegistersReadAndWrite and PrivilegedRegistersTrap. -/
theorem witness_system_registers :
    (∀ p ∈ [true, false], (systems p).priv 0 0 = p ∧ (systems p).clear none [] [.scal 1] = true ∧ (systems p).clear none [] [] = true
      ∧ ∀ a ∈ [(2 : SReg), 3, 4, 5], (systems p).clear none [.scal a] [] = true)
    ∧ (∀ off ∈ [0x200, 0x208], (systems true).marked 0 (4096 + off) 8 = false ∧ (systems true).guarded 0 (4096 + off) 8 = false)
    ∧ (sysReg 0).isSome = true ∧ sysReg 0xFFF = none ∧ sysReg 9 = some .time ∧ (∀ n ∈ [0x010, 0x021], (sysReg n).isSome = true)
    ∧ (systems true).rs 2 % 64 = 0 ∧ (systems true).rs 2 + 4736 ≤ spadSize 0 ∧ (systems true).rs 3 % 64 ≠ 0 ∧ (systems true).rs 4 % 64 = 0
    ∧ (systems true).rs 4 + 4736 = spadSize 0 ∧ spadSize 0 < (systems true).rs 5 + 4736 := by decide +kernel

/-- Place, kind and state of a word that WFM finds. -/
def keyOf (x : WfmPlace) : Option (Bool × Nat × State) :=
  match x with | .own k s => some (false, k, s) | .sram k s => some (true, k, s) | .busy => none | .trap _ _ => none | .flash _ _ => none | .shut => none
/-- What `keyOf` gives is the place found. -/
theorem key_found {x : WfmPlace} {k : Nat} {s : State} (h : keyOf x = some (false, k, s)) : x = .own k s := by cases x <;> simp_all [keyOf]

/-- The premises of SystemInstructions on CACHE: a cached line and none, and the control window without CSW.PRIV. -/
theorem witness_caches :
    ((paged (st [(2, 0x1000)]) (1 + 4 + 8 + 16 + 0x700 + 0x20000)).cachedLine 0 0 (.inl 0x1FFF)).isSome = true
    ∧ ((paged (st [(2, 0x1000)]) (1 + 4 + 8 + 0x700 + 0x20000)).cachedLine 0 0 (.inl 0x1FFF)).isSome = true
    ∧ ctlCheck (fun t => t.ea 2 0 0) (paged (st [(2, 0x1000)]) (1 + 4 + 8 + 0x700 + 0x20000)) = none
    ∧ ((st [(2, 0xFD000000000000)]).cachedLine 0 0 (.inl 0xFD000000000000) = none ∧ (st []).cachedLine 0 0 (.inl 0xFD000000000000) = none)
    ∧ (ctlCheck (fun t => t.ea 2 0 0) (st [(2, 0xFF000000000000)]) = some (.priv, 0xFF000000000000) ∧ (st [(2, 0xFF000000000000)]).clear none [.scal 2] [] = true
      ∧ (st [(2, 0xFF000000000000)]).clear none [.scal 2, .scal 3, .scal 4] [.scal 1] = true) := by decide +kernel

/-- The premises of SystemInstructions on WFM: a word that equals s0 and differs from s7, one of cellar SRAM, and a misaligned one. -/
theorem witness_wfm :
    (systems true).priv 0 0 = true ∧ (systems true).clear none [] [] = true
    ∧ (∀ b ∈ [(0 : SReg), 7], (systems true).clear none [.scal 6, .scal b, .scal 0] [.scal 1] = true) ∧ ctlCheck (fun t => t.ea 6 0 0) (systems true) = none
    ∧ (systems true).wfmPlace 0 0 ((systems true).ea 6 0 0) = .own (spadKey 0 1 0xFFFF8) (systems true)
    ∧ (Memory.readN (systems true).mem (spadKey 0 1 0xFFFF8) 8 = (systems true).rs 0 ∧ Memory.readN (systems true).mem (spadKey 0 1 0xFFFF8) 8 ≠ (systems true).rs 7)
    ∧ (let s := paged (st [(2, 0x1000)]) (1 + 4 + 8 + 64 + 0x700 + 0x10000000000)
      ((keyOf (s.wfmPlace 0 0 (s.ea 2 0 0))).map fun x => x.1 && decide (x.2.2.issue = s.issue)) = some true)
    ∧ (match (st [(2, 0xFD000000000001)]).wfmPlace 0 0 ((st [(2, 0xFD000000000001)]).ea 2 0 0) with
      | .trap _ _ => true | .own _ _ => false | .sram _ _ => false | .busy => false | .flash _ _ => false | .shut => false) = true :=
  ⟨by decide +kernel, by decide +kernel, by decide +kernel, by decide +kernel, key_found (by decide +kernel), by decide +kernel⟩
/-! ### Witnesses: messages -/

/-- The small state with a message in focus, die 0 awake and the DRAM accepting accesses; core 0 has a window over its scratchpad, which `open_` grants,
deposits allowed at its workspace from 0x280 on, and a placed actor. -/
def mailed (open_ : Bool) (m : Msg) : State :=
  let s := (st [(0x238 / 8, 2 ^ 63 + 0x280 + 0x300 * 2 ^ 32)]).modApart 0 fun p =>
    { p with rwin := [(0, 2 ^ 63 + 2 ^ 60 + 16384 * 2 ^ 20 + (if open_ then 2 ^ 62 + 2 ^ 61 else 0))] }
  { s with net := [m], focus := m.id, power := { die := [(0, 0)], dram := 0 }, partitions := [(1, { root := 0, kettle := 3, cellar := 0 }), (2, { root := 0, kettle := 3, cellar := 0 })]
           dirs := [(5, { home := 0, part := 1, gen := 1, loc := 2, record := 0x4000, ws := 0x4040 })], kept := [(hand, { desc := taskDesc })] }

/-- A request of core 1 to the home of a line of die 0. -/
def toHome (op size arg : Nat) : Msg := { id := 7, src := epCore 1, dst := epL2 0, part := 1, ch := 0, op := op, taddr := 0x20000, size := size, arg := arg }
/-- A message of core 1 to core 0. -/
def toCore (ch op taddr arg size : Nat) : Msg := { id := 7, src := epCore 1, dst := epCore 0, part := 1, ch := ch, op := op, taddr := taddr, arg := arg, size := size }

/-- The premises of HomesServeCoherentRequests on requests at a home. -/
def atHome (right : Bool) (m : Msg) : Bool :=
  let s := mailed true m
  s.focusMsg == some m && epOk m.dst && !epIsCore m.dst && m.dpkg == s.fw.package && m.dst % 8 != 6 && !m.poison && m.ch == 0 && !s.dramShut m.taddr && s.wrongHome m == !right
/-- The premises of HomesServeCoherentRequests on requests at a core. -/
def atCore (open_ : Bool) (m : Msg) : Bool :=
  let s := mailed open_ m
  s.focusMsg == some m && epOk m.dst && epIsCore m.dst && m.dpkg == s.fw.package && m.dst % 8 != 6 && opOnChannel m.ch m.op && !m.poison
    && (s.forwardOf 0 m).isNone && s.dieAwake 0 && s.gate 0 m == .pass && coreOfEp m.dst == 0

/-- A deposit that is taken. -/
def taken (x : Nat ⊕ State) : Option State := match x with | .inl _ => none | .inr s => some s

/-- The premises of HomesServeCoherentRequests: homes, the right one and a wrong one; loads and stores granted at the last bytes of the scratchpad and not;
deposits into the window's first word and before it; counts and active messages for a placed actor and for one that has exited. -/
theorem witness_requests :
    ([toHome 1 8 1, toHome 2 8 0, toHome 3 8 0, toHome 4 64 0, toHome 3 0x1000 0].all (atHome true)) = true
    ∧ atHome false { toHome 1 8 0 with dst := epMc 0 } = true
    ∧ (∀ o ∈ [true, false], ∀ m ∈ [toCore 2 0x21 0xFFFF8 0 8, { toCore 2 0x23 0xFFFF8 0 0 with data := [1, 2, 3, 4, 5, 6, 7, 8] }, toCore 2 0x25 0x1280 5 0, toCore 2 0x25 0x1278 5 0,
        toCore 3 0x34 0x1280 5 0, toCore 3 0x34 0x1278 5 0, toCore 3 0x33 0 5 0, toCore 2 0x26 hand 0 0, toCore 2 0x26 (hand + 2 ^ 24) 0 0, toCore 2 0x28 hand 1 0, toCore 2 0x28 (hand + 2 ^ 24) 1 0,
        toCore 2 0x27 hand 1 0, toCore 2 0x27 (hand + 2 ^ 24) 1 0], atCore o m = true)
    ∧ (∀ o ∈ [true, false], ∀ w ∈ [true, false], ∀ m ∈ [toCore 2 0x21 0xFFFF8 0 8], (mailed o m).granted 0 0xFFFF8 8 w m = o ∧ (mailed o m).marked 0 0xFFFF8 8 = false
      ∧ (mailed o m).badSpad 0 0xFFFF8 8 = false)
    ∧ (∀ m ∈ [toCore 2 0x25 0x1280 5 0, toCore 2 0x25 0x1278 5 0, toCore 3 0x34 0x1280 5 0, toCore 3 0x34 0x1278 5 0],
      (taken (((mailed true m).received 0 m).deposit 0 (m.taddr % 2 ^ 32) m.arg)).isSome = (m.taddr == 0x1280))
    ∧ (∀ m ∈ [toCore 2 0x26 hand 0 0, toCore 2 0x26 (hand + 2 ^ 24) 0 0],
      ((mailed true m).dirOf m.taddr).map (fun e => e.loc == 2 && e.home == 0) = (if m.taddr == hand then some true else none))
    ∧ (let m := toCore 2 0x26 hand 0 0
      (((mailed true m).received 0 m).createHandler hand 0 0 0).isSome = true)
    ∧ (∀ m ∈ [toCore 2 0x28 hand 1 0, toCore 2 0x28 (hand + 2 ^ 24) 1 0], (((mailed true m).received 0 m).applyDecr m.taddr 1 0).isSome = (m.taddr == hand))
    ∧ (∀ m ∈ [toCore 2 0x27 hand 1 0, toCore 2 0x27 (hand + 2 ^ 24) 1 0], (((mailed true m).received 0 m).applyAdvance m.taddr m.arg 0).isSome = (m.taddr == hand)
      ∧ (mailed true m).anyShut 1 [dPorts ((mailed true m).keep m.taddr).desc] = false) := by
  decide +kernel

/-- The state of a message with a gate: parked for another partition of the share, refused for one outside it; the last word of the scratchpad is bad, and
the actor has exited. -/
def gated (m : Msg) : State :=
  let s := mailed true m
  { s with fw := { s.fw with badWords := [spadKey 0 1 0xFFFF8] }, dirs := [(5, { home := 0, part := 1, gen := 1, loc := 3 })] }

/-- The premises of HomesServeCoherentRequests on gates, on bad bytes and on an actor that has exited. -/
theorem witness_gates :
    (∀ op ∈ [0x21, 0x23, 0x25, 0x26, 0x27, 0x28], ∀ p ∈ [2, 3],
      let m : Msg := { toCore 2 op 0xFFFF8 0 8 with part := p }
      let s := gated m
      s.focusMsg = some m ∧ opOnChannel 2 op = true ∧ s.forwardOf 0 m = none ∧ s.dieAwake 0 = true ∧ s.gate 0 m = (if p = 2 then .park else .refuse 5))
    ∧ (let m := toCore 2 0x21 0xFFFF8 0 8
      (gated m).gate 0 m = .pass ∧ (gated m).marked 0 0xFFFF8 8 = false ∧ (gated m).granted 0 0xFFFF8 8 false m = true ∧ (gated m).badSpad 0 0xFFFF8 8 = true)
    ∧ (let m := toCore 2 0x26 hand 0 0
      (gated m).gate 0 m = .pass ∧ ((gated m).dirOf hand).map (fun e => e.loc) = some 3) := by decide +kernel

/-- The premises of CoresTakeAnswers on answers at a core. -/
def answered (m : Msg) : Bool :=
  let s := mailed true m
  s.focusMsg == some m && epOk m.dst && epIsCore m.dst && m.dpkg == s.fw.package && m.dst % 8 != 6 && opOnChannel m.ch m.op && s.dieAwake (coreDie (coreOfEp m.dst))

/-- A state in which context 0 waits at a barrier for the message numbered 9, and the answer is in focus. -/
def barWaiting (again : Bool) (bad : Bool := false) : State :=
  let m : Msg := { toCore 2 0x24 0x8000 3 0x1000 with re := 9, keepLo := again, poison := bad }
  (mailed true m).modCtx 0 0 fun x => { x with wait := some { kind := .bwait 9 false 3 1, pc := 0x10000C, after := 0x100018, stall := 0 } }

/-- The premises of CoresTakeAnswers: each answer, for the active and for another partition of the share; barrier messages at a core and at a memory home; the
answer to a wait; a message that no rule forms; and messages for an actor that moves and that has moved. -/
theorem witness_answers :
    (∀ m ∈ [toCore 1 0x11 0 0 0, toCore 1 0x12 0 0 0, toCore 1 0x13 0 0 0, toCore 2 0x22 0 0 0, toCore 2 0x24 0 0 0, toCore 2 0x29 0 0 0, toCore 1 0x14 0 0 0],
      answered m = true ∧ (mailed true m).isBwaitReply m = false ∧ (mailed true m).partOfMsg 0 m = ((mailed true m).core 0).active ∧ m.poison = false)
    ∧ (let m : Msg := { toCore 2 0x22 0 0 0 with part := 2 }
      answered m = true ∧ (mailed true m).isBwaitReply m = false ∧ (mailed true m).partOfMsg 0 m ≠ ((mailed true m).core 0).active
        ∧ (mailed true m).inShare ((mailed true m).partOfMsg 0 m) 0 = true)
    ∧ (∀ m ∈ [toCore 3 0x37 0 0 0, toCore 3 0x31 hand 0 0, toCore 3 0x32 0 0 0], answered m = true)
    ∧ ([(3, Instr.barrierInitialise), (1, .barrierArrive), (2, .barrierExpect), (4, .barrierWaitRegister), (5, .barrierLanded), (6, .barrierStatusWrite)].all fun e =>
        let m := toCore 3 0x33 0x8000 (e.1 * 2 ^ 60) 0x1000
        let n : Msg := { m with dst := epMc 0 }
        let own : Msg := { m with src := epCore 0 }
        (mailed true own).msgEvent own == e.2 && own.src == epCore (coreOfEp own.dst) && (mailed true m).granted 0 0x8000 32 true m && decide (m.after ≤ (mailed true m).now) &&
        (mailed true m).msgEvent m == e.2 && (mailed true m).focusMsg == some m && (mailed true m).gate 0 m == .pass && (mailed true m).dieAwake 0
          && !(mailed true m).marked 0 0x8000 32 && m.dpkg == (mailed true m).fw.package && !m.poison && n.dst % 8 != 6
          && (mailed true n).msgEvent n == e.2 && (mailed true n).focusMsg == some n && !epIsCore n.dst && !(mailed true n).dramShut n.taddr) = true
    ∧ (∀ b ∈ [true, false], ∀ a ∈ [true, false],
      ((barWaiting a b).focusMsg.map fun m => (barWaiting a b).msgEvent m == .bwaitReply && (barWaiting a b).dieAwake 0 && m.keepLo == a && m.poison == b) = some true)
    ∧ (let m := toCore 2 0x2F 0 0 0
      (mailed true m).focusMsg = some m ∧ (mailed true m).msgEvent m = .badFlitDiscard)
    ∧ (∀ u ∈ [0, 1],
      let m := toCore 2 0x28 hand 1 0
      let s := (mailed true m).modCore 0 fun k => { k with fwds := [{ handle := hand, dst := 3, ws := 0x4040, wlen := 0x1280, newWs := 0x5000, until_ := u }] }
      s.focusMsg = some m ∧ s.msgEvent m = .messageForward ∧ (s.forwardOf 0 m).map (fun f => f.until_) = some u ∧ s.parkFull m.part = false
        ∧ ({ s with parked := List.replicate 4096 { m with held := 1 } } : State).parkFull m.part = true) := by decide +kernel

/-! ### Witnesses: waits, firings and partitions -/

/-- Context 0 waits, at core cycle 100. -/
def holding (w : Wait) : State :=
  ({ st [(0x230 / 8, 2)] with now := 33600 }).modCtx 0 0 fun x => { x with wait := some { kind := w, pc := 0x10000C, after := 0x100018, stall := 0 } }

/-- The premises of WaitsEnd: fences of both ends of the scopes; WAITD with a flag and with its timeout; COMPOSE free and timed out; WFM changed and timed out;
a result on its way; and a barrier wait that found no entry. -/
theorem witness_waits_end :
    ((holding (.fence 0)).fenceDone 0 0 0 = true ∧ (holding (.fence 3)).fenceDone 0 0 3 = true)
    ∧ ((holding (.waitd 2 0 0 1)).depmask 0 0 &&& 2 ≠ 0) ∧ ((holding (.waitd 4 100 0 1)).depmask 0 0 &&& 4 = 0 ∧ 0 + 100 ≤ (holding (.waitd 4 100 0 1)).cycle 0)
    ∧ (((holding (.compose 1 50 50 1)).freeze 0 0 1).composeReady 0 0 1 = true)
    ∧ (let s : State := { holding (.compose 1 50 50 1) with ctxs := (holding (.compose 1 50 50 1)).ctxs ++ [(16, { firing := some { handle := 6, lid := 7, part := 1, handler := false, wsize := 74, ydl := 0 } })] }
      (s.freeze 0 0 1).composeReady 0 0 1 = false ∧ 50 + 50 ≤ s.cycle 0)
    ∧ (Memory.readN (holding (.wfm (wsKey 0x230) 3 0 0 0 1 0)).mem (wsKey 0x230) 8 ≠ 3 ∧ isSram (wsKey 0x230) = false
      ∧ ((holding (.wfm (wsKey 0x230) 3 0 0 0 1 0)).core 0).period ≠ 0)
    ∧ (Memory.readN (holding (.wfm (wsKey 0x230) 2 9 91 0 1 0)).mem (wsKey 0x230) 8 = 2 ∧ 91 + 9 ≤ (holding (.wfm (wsKey 0x230) 2 9 91 0 1 0)).cycle 0)
    ∧ (isSram 0x10000000000 = true ∧ ((holding (.wfm 0x10000000000 3 0 0 0 1 0)).core 0).period ≠ 0)
    ∧ (let s := (st []).modCtx 0 0 fun x => { x with pend := [{ dst := .scal 3, mask := 0xFF, val := 5, due := 40, fixed := false }] }
      (s.ctx 0 0).pend[0]?.map (fun p => p.fixed) = some false)
    ∧ (let o : Out := { id := 9, ctx := 0, op := 0x33, lid := 7, part := 1, pc := 0, dst := epCore 1, counted := true, addr := 0xFE000000008000 }
      let s := ((holding (.bwait 9 false 3 1)).modCore 0 fun k => { k with resend := [{ addr := 0x8000, gen := 3, id := 9, src := 0, ctx := 0, part := 1, lid := 7 }], out := [o] })
      ((s.core s.focus).resend.map fun w => decide (w.due ≤ s.now)) = [true] ∧ (s.core s.focus).out.find? (fun x => x.id == 9) = some o ∧ s.waiterOf 9 = some (.ctx 0 0)
        ∧ (((s.ctx 0 0).wait.map fun r => r.kind) = some (.bwait 9 false 3 1)) ∧ s.replaying (coreOfEp (epCore s.focus)) = false)
    ∧ (let s : State := (st []).modCore 0 fun k => { k with resend := [{ addr := 0x8000, gen := 3, id := 9, src := 0, ctx := 0, part := 1, lid := 7, due := 99 }] }
      (s.core s.focus).resend ≠ [] ∧ ∀ w ∈ (s.core s.focus).resend, s.now < w.due) := by decide +kernel

/-- An actor with the task's descriptor, placed on core 0 with its record and workspace, by its state. -/
def placed (s : State) (state : Nat) : State :=
  let s := { s with dirs := [(5, { home := 0, part := 1, gen := 1, loc := 2, record := 0x4000, ws := 0x4040, lid := 7 })], kept := [(hand, { desc := taskDesc, lid := 7 })]
                    power := { die := [(0, 0)], dram := 0 } }
  { s with mem := Memory.writeN s.mem (spadKey 0 1 0x4000) 8 state }

/-- A run list of `n` entries of level 2. -/
def runs (n : Nat) : List RunEnt := (List.range n).map fun i => { handle := hand + i, level := 2, since := 0 }

/-- The premises of FiringsComeAndGo on contexts: a refusal due, a deadline due, and a free context with an entry of the run list. -/
theorem witness_firings_go :
    ((st []).modCtx 0 0 fun x => { x with nacks := [{ addr := 0, reason := 1, pc := 0x100000 }] }).nackDue 0 0 = true
    ∧ (let s : State := ({ st [] with now := 33600, launches := [(7, { root := 5, part := 1, svc := 0, cmd := 0, prio := 0 })] }).modCtx 0 0 fun x =>
        { x with firing := some { handle := 5, lid := 7, part := 1, handler := false, wsize := 74, ydl := 60 }, start := some 40 }
      s.deadlineDue 0 0 = true ∧ (SMap.find? ((s.preemptCtx 0 0).modCore 0 fun k => { k with dlmiss := 1 }).launches (s.lidOf 0 0)).isSome = true)
    ∧ (let s := (placed (st []) 1).modCore 0 fun k => { k with runList := runs 1 }
      s.takes 0 = true ∧ (s.ctx 0 1).firing = none ∧ 1 < nctx 0 ∧ (s.source 0).map Source.handle = some hand ∧ s.source 0 ≠ some (.early hand) ∧ s.hasCounters 0 (s.keep hand).lid = true
        ∧ s.handlerFirst hand = false ∧ s.entryShut hand = false
        ∧ (((s.source 0).bind fun x => s.fetchFiring 0 x).map fun t => (t.keep hand).handlerOf == 0 && (t.keep hand).handlers == []
            && ((t.giveWorkspace hand).map fun u => (u.ctx 0 1).firing.isNone) == some true) = some true) := by decide +kernel

/-- The premises of FiringsComeAndGo on cores and the park block: 257 entries, one homed record, one aged entry, a fenced core; no actor, one that runs, one
parked. -/
theorem witness_lists_and_park :
    (let s := (st []).modCore 0 fun k => { k with runList := runs 257 };
      256 < (s.core 0).runList.length ∧ (spillEntry ((s.core 0).runList.take 256)).isSome = true ∧ (s.core 0).fenced = false)
    ∧ (let s : State := { st [] with pool := [{ handle := hand, die := 0, home := 0, homed := true, enq := 0, cls := 0 }, { handle := hand + 1, die := 0, home := 0, homed := false, enq := 0, cls := 0 }] }
      (s.core 0).runList.length < 192 ∧ (s.core 0).fenced = false ∧ ((s.pool.filter fun x => x.homed && x.home == 0).length = 1))
    ∧ (let s := ({ st [] with now := 336 * 65536 }).modCore 0 fun k => { k with runList := { handle := 1, level := 6, since := 0 } :: runs 1 }
      ((s.core 0).runList.filter fun x => decide (x.level < 6) && decide (x.since + 65536 ≤ s.cycle 0)).length = 1)
    ∧ (∀ l ∈ [[], [0]], let s := { (st []) with fw := { coresOut := l } }.modCore 0 fun k => { k with fenced := true }
      (s.core 0).fenced = true ∧ s.fw.coresOut.contains 0 = !l.isEmpty)
    ∧ ((st []).dirOf (SMap.get 0 (st []).fw.phandle 0) = none)
    ∧ (∀ v ∈ [1, 4], ∀ x ∈ [1, 2],
      let s : State := { placed (st []) v with fw := { phandle := [(0, hand)], pcmd := [(0, x)] } }
      SMap.get 0 s.fw.pcmd 0 = x ∧ (s.dirOf (SMap.get 0 s.fw.phandle 0)).isSome = true ∧ s.actorState (SMap.get 0 s.fw.phandle 0) = v) := by decide +kernel

/-- Partitions 1 and 2 share core 0; 2 is its shadow. -/
def shared : State :=
  ({ st [] with partitions := [(1, { root := 0, kettle := 1, cellar := 0 }), (2, { root := 0, kettle := 1, cellar := 0 })], now := 336 * 50 }).modCore 0 fun k => { k with shadow := some 2 }

/-- A fenced core in replay whose log at 0x30000 holds one entry of a kind, at its present cycle. -/
def replays (kind : Nat) : State :=
  let s := (st []).modCore 0 fun k => { k with fenced := true, log := { base := 0x30000, size := 4, head := 1, replay := true } }
  { s with mem := cellsOf [(0x30000, 8, s.logCyc 0), (0x30008, 8, kind), (0x30010, 8, 77)] ++ s.mem, partitions := [(1, { root := 0, kettle := 1, cellar := 0 })] }

/-- The premises of PartitionsTakeTurns. -/
theorem witness_partitions :
    (shared.nextPart 0 = some 2 ∧ (let s := shared.modPartition 1 fun y => { y with slice := 5 }
      s.nextPart 0 = some 2 ∧ s.sliceOf 1 ≠ 0 ∧ s.time + 10000 ≤ 20050 ∧ s.gangFrom 1 ≤ 20050 ∧ s.gangReady 1 = true))
    ∧ (let s := shared.modCore 0 fun k => { k with switch := some (50, 2) }
      (s.core 0).switch = some (50, 2) ∧ 50 ≤ s.time ∧ s.resident 0 2 = true)
    ∧ (isCellar 0 = false ∧ shared.inShare 2 0 = true ∧ (shared.core 0).active ≠ 2 ∧ (shared.core 0).switch = none)
    ∧ (let s := (st []).modCore 0 fun k => { k with pts := 2 ^ 62 }
      ({ s with power := { s.power with s1At := some 0 } } : State).renumberDue = true ∧ s.renumberWaits = false ∧ s.dirty = []
        ∧ ({ s with power := { s.power with s1At := some 0 } } : State).renumberWaits = false)
    ∧ (let s := (st []).modCore 0 fun k => { k with pts := 2 ^ 62, out := [{ id := 9, ctx := 0, op := 0x02, lid := 7, part := 1, pc := 0, dst := 8, counted := false, addr := 0 }] }
      ({ s with power := { s.power with s1At := some 0 } } : State).renumberDue = true ∧ ({ s with power := { s.power with s1At := some 0 } } : State).renumberWaits = true)
    ∧ (∀ w ∈ [2, 4, 1],
      let s := replays w
      s.replaying 0 = true ∧ (s.core 0).log.next < (s.core 0).log.head ∧ (s.core 0).log.head ≤ (s.core 0).log.markHead + (s.core 0).log.size ∧ s.logWord 0 0 0 = s.logCyc 0
        ∧ bits (s.logWord 0 0 1) 7 0 = w ∧ bits (s.logWord 0 0 1) 53 45 ≤ 32 ∧ (s.ctx 0 (bits (s.logWord 0 0 1) 44 41)).firing ≠ none) := by decide +kernel

/-! ### Witnesses: power -/

/-- Nothing runs, the firmware is past step 6, and `t` ns have passed. -/
def powered (t : Nat) (p : Power) : State := { power := p, now := 336 * t, fw := { step := 7 } }
/-- Die 3 in a state. -/
def die3 (k : Nat) : SMap Nat := [(0, 2), (1, 2), (2, 2), (3, k)]

/-- The premises of DiesSleepAndWake on dies. -/
theorem witness_dies :
    (let s := powered 1000 { die := die3 0, dram := 0 };
      s.dieState 3 = 0 ∧ SMap.get 0 s.power.trans 3 = 0 ∧ s.dieIdle 3 = true ∧ 1 ≤ s.dieFloor 3 ∧ SMap.get 0 s.power.dieSince 3 + 1000 ≤ s.time)
    ∧ (let s := powered 0 { die := die3 0, contracts := [(1, 0, 1, 0x0583)] }
      s.dieState 3 = 0 ∧ s.dieFloor 3 = 3 ∧ (powered 0 { die := die3 0, contracts := [(1, 0, 1, 0x0580)] }).dieFloor 3 = 0)
    ∧ (let s := powered 1000000 { die := die3 1, dram := 0 }
      s.dieState 3 = 1 ∧ s.dieTripped 3 = false ∧ SMap.get 0 s.power.dieSince 3 + s.power.kidle2 ≤ s.time ∧ 2 ≤ s.dieFloor 3 ∧ s.dieIdle 3 = true
        ∧ (∀ c ∈ dieCores 3, (s.core c).deque = [] ∧ (s.core c).spill = []) ∧ (∀ r ∈ s.pool, r.die ≠ 3) ∧ s.power.dram = 0)
    ∧ (let s := powered 10000000000 { die := die3 2, dram := 0 }
      s.dieState 3 = 2 ∧ SMap.get 0 s.power.trans 3 = 0 ∧ s.dieFloor 3 = 3 ∧ s.dieResident 3 = false ∧ SMap.get 0 s.power.dieSince 3 + s.power.kidle3 ≤ s.time
        ∧ 2 ≤ s.dieState 3 ∧ 6 ≤ s.fw.step)
    ∧ (let s := powered 0 { die := die3 2, dram := 0, trans := [(3, 3)] }
      SMap.get 0 s.power.trans 3 = 3 ∧ s.power.dram = 0 ∧ s.dieTripped 3 = false) := by decide +kernel

/-- A trigger of level 1. -/
def trig : Trigger := { level := 1, die := 0, rtgt := 0xFE000000000000, part := 1, time := 0, already := false }

/-- The premises of DiesSleepAndWake on the other components. -/
theorem witness_components :
    (let s := powered 10000 {};
      s.power.cellarC1 = false ∧ s.power.cellarWaking = false ∧ s.cellarIdle = true ∧ s.cellarHeld = false ∧ s.power.cellarSince + 10000 ≤ s.time)
    ∧ ((powered 0 { cellarC1 := true }).power.cellarC1 = true ∧ (powered 0 { cellarWaking := true }).power.cellarWaking = true)
    ∧ (let s := powered 100000 { die := die3 3, dram := 0, appAsleep := true }
      s.dramRestful = true ∧ s.power.dramSince + s.power.didle ≤ s.time ∧ s.power.appAsleep = true ∧ s.power.dram = 0)
    ∧ ((powered 0 {}).power.dram = 1 ∧ 5 ≤ (powered 0 {}).fw.step) ∧ ((powered 0 { dram := 2 }).power.dram = 2 ∧ (powered 0 { dram := 2 }).fw.hostWait = [])
    ∧ ((powered 0 { dram := 0 }).appHeld = none ∧ (powered 0 { dram := 0, contracts := [(1, 0, 2, 0x0D03)] }).appHeld = some (2, 0x0D03))
    ∧ ((powered 0 { dram := 2, appAsleep := true }).power.appAsleep = true ∧ (powered 0 { dram := 2, appAsleep := true }).power.dram ≠ 0)
    ∧ (let s := powered 5 { triggers := [trig] }
      s.power.triggers = [trig] ∧ trig.arrived = false ∧ trig.time ≤ s.time ∧ s.voids trig = false)
    ∧ (let s := powered 5 { die := die3 3 }
      s.power.contracts = [] ∧ (∀ q < 4, s.dieState q ≤ 3) ∧ ∀ q < 4, SMap.get 0 s.power.trans q ≠ 1)
    ∧ (let s := powered 5 { die := die3 1, contracts := [(0, 0, 0, 0x0580)] }
      bits 0x0580 9 8 ≠ 0 ∧ bit 0x0580 10 = 1 ∧ bit 0x0580 11 = 0 ∧ (∀ r < 4, bit 0x0580 (4 + r) = 1 ↔ r = 3) ∧ bits 0x0580 3 0 = 0 ∧ s.dieState 3 = 1
        ∧ s.dieTripped 3 = false ∧ ∀ r < 4, r ≠ 3 → s.dieState r ≤ 3 ∧ SMap.get 0 s.power.trans r ≠ 1) := by decide +kernel

/-- Cluster 63 with a temperature. -/
def heated (t time : Nat) (trip : Bool) : State := powered time { die := die3 0, clusters := [(63, { temp := t, trip := trip, sampling := true, step := 1 })] }

/-- The premises of ThrottlesAndMarket: 105 degrees and the last reading below, a trip that ends below 100 degrees, the ticks of 1 µs, 100 µs and 10 µs. -/
theorem witness_throttles :
    ((heated 1680 0 false).cluster 63).hot 1680 = true ∧ ((heated 1680 0 false).cluster 63).trip = false ∧ (heated 1680 0 false).dieState (63 / 16) = 0
    ∧ ((heated 1679 0 false).cluster 63).hot 1680 = false ∧ (((heated 1599 0 true).cluster 63).trip = true ∧ ((heated 1599 0 true).cluster 63).hot 1600 = false)
    ∧ (heated 0 3000 false).time % 1000 = 0
    ∧ ((heated 0 300000 false).time % 100000 = 0 ∧ ((heated 0 300000 false).cluster 63).sampling = true ∧ ((heated 0 300000 false).cluster 63).step ≠ 0)
    ∧ (∀ b ∈ [true, false], let s := powered 10000 { marketLate := b }; s.power.marketAt + 10000 ≤ s.time ∧ s.power.marketLate = b) := by decide +kernel

/-- R63: bids of 3 and 5 within a supply of 4 get 3 and 1, and the second a step of 13. -/
theorem test_market_low_grants : lowGrants [(0, 2, 3, 4), (1, 1, 5, 9)] 4 = ([((0, 2, 3, 4), 3, 0), ((1, 1, 5, 9), 1, 13)], 0) := by decide

/-! ### Witnesses: queues and commands -/

/-- A number of 64-bit words by their indices. -/
def words (l : List (Nat × Nat)) : Nat := l.foldr (fun e acc => e.2 * 2 ^ (64 * e.1) + acc) 0

/-- A packet: code, block length in units of 64 bytes, block address, partition. -/
def packet (code len addr part : Nat) : Nat := code + len * 2 ^ 18 + addr * 2 ^ 64 + part * 2 ^ 120

/-- Firmware has finished bring-up, the DRAM accepts accesses, page 0x1000 of partition 1 is mapped for reads and writes at 0x20000, page 0x2000 has a level-4
entry, and lines by their numbers hold numbers; core 0 has a window for all. -/
def servingWith (leaf : Nat) (lines : List (Nat × Nat)) : State :=
  let s := pagedWith ((st []).modApart 0 fun p => { p with rwin := [(0, 2 ^ 63 + 2 ^ 62 + 2 ^ 61 + 2 ^ 60 + 16384 * 2 ^ 20)] }) (1 + 4 + 8 + 0x700 + 0x20000 + leaf * 2 ^ 64) lines
  { s with power := { die := [(0, 0)], dram := 0 }, fw := { step := 7, nextCmd := 2, wakes := [(0, [(0, 1)])] }, now := 336 * 5
           queues := [(0, { enable := true, part := 1, svc := 0, rbase := 0x1000, cbase := 0x1080 })] }
/-- The same with numbers in the first two lines of the page. -/
def serving (l0 l1 : Nat) : State := servingWith 0 [(0x800, l0), (0x801, l1)]

/-- A command of queue 0 from the words of its block. -/
def cmd (code st : Nat) (ws : List Nat) : Cmd := { q := 0, svc := 0, part := 1, seq := 0, code := code, irq := false, ser := false, block := ws.flatMap (toBytes 8), st := st }
/-- The command in focus. -/
def commanding (x : Cmd) : State := { serving 0 0 with cmds := [(1, x)], focus := 1 }

/-- The premises of QueueRegistersAndPackets: tails up to the ring's end and beyond, configurations in and out of order, and packets read with a reserved code,
a foreign partition, a misaligned block and a SIGNAL. -/
theorem witness_queues :
    (let x := (serving 0 0).queue 0;
      (x.entries + 2 ^ 32 - x.head) % 2 ^ 32 = x.entries ∧ x.entries < (x.entries + 1 + 2 ^ 32 - x.head) % 2 ^ 32)
    ∧ (let x := ((serving 0 0).modQueue 0 fun x => { x with enable := false }).queue 0
      x.enable = false ∧ (SMap.find? (serving 0 0).partitions x.part).isSome = true ∧ x.svc ≤ 4 ∧ x.log2n ≤ 10)
    ∧ (SMap.find? (serving 0 0).partitions 3 = none)
    ∧ ({ serving 0 0 with links := [(8, { mode := 1 })] } : State).endpoint = true
    ∧ (∀ pk ∈ [packet 0 1 0x1040 1, packet 14 1 0x1040 1, packet 2 1 0x1040 2, packet 2 0 0x1040 1, packet 2 1 0x1041 1, packet 2 1 0x1040 1],
      let s := serving pk (0xFE000000008000 + 3 * 2 ^ 64)
      let x := s.queue 0
      4 ≤ s.fw.step ∧ x.enable = true ∧ (s.wakeHead x.svc).map Prod.fst = some 0 ∧ s.cmds = [] ∧ x.full = false
        ∧ (s.svcWait x.svc x.part [x.rbase + 16 * (x.head % x.entries)]).isNone = true ∧ s.partRead x.part (x.rbase + 16 * (x.head % x.entries)) 16 = some pk)
    ∧ (let pk := packet 2 1 0x1040 1
      let s := serving pk (0xFE000000008000 + 3 * 2 ^ 64)
      bits pk 15 10 = 0 ∧ bits pk 127 124 = 0 ∧ bits pk 7 0 = 2 ∧ bits pk 31 18 = 1 ∧ bits pk 123 120 = 1 ∧ bits pk 17 16 = 0 ∧ bits pk 119 64 % 64 = 0
        ∧ (s.svcWait 0 1 (pagesOf 0x1040 64)).isNone = true ∧ s.badAddr 1 0x1040 64 = none
        ∧ (s.virtBytes 1 0x1040 64).map (fun b => reservedZero (blockFields 2) b) = some true ∧ s.fw.lifecycle = 2) := by decide +kernel

/-- The barrier that a service core finds. -/
def barAt (x : SvcBar) : Option BarLoc := match x with | .at_ b => some b | .badBlock => none | .fault => none | .wait _ => none
/-- A barrier address that does not translate. -/
def barFault (x : SvcBar) : Bool := match x with | .fault => true | .at_ _ => false | .badBlock => false | .wait _ => false
/-- An operation that is done. -/
def doneOf (x : SvcDo) : Option (State × Nat) := match x with | .ok s g => some (s, g) | .wait _ => none | .refused => none

/-- The premises of BarrierContractAndRackCommands on SIGNAL and WAIT, at a barrier of core 0 at 0x8000, and on WAIT's timeout. -/
theorem witness_signal_and_wait :
    (∀ w ∈ [[0xFE000000008000, 0], [0xFE000000008000, 3], [0x3000, 1]], ((commanding (cmd 2 1 w)).focusCmd 2).isSome = true)
    ∧ (cmd 2 1 [0xFE000000008000, 0]).fld 8 31 0 = 0 ∧ (cmd 2 1 [0xFE000000008000, 3]).fld 8 31 0 = 3
    ∧ barFault ((commanding (cmd 2 1 [0x3000, 1])).svcBar 0 1 0x3000) = true
    ∧ (let s := commanding (cmd 2 1 [0xFE000000008000, 3])
      barAt (s.svcBar 0 1 0xFE000000008000) = some (.spad 0 1 0x8000) ∧ (doneOf ((s.barMark 1 0xFE000000008000 (.spad 0 1 0x8000)).svcBarDo 0 1 (.spad 0 1 0x8000) (.arrive 3))).isSome = true)
    ∧ (∀ w ∈ [[0xFE000000008000, 0], [0xFE000000008000, 1]], ((commanding (cmd 3 1 w)).focusCmd 3).isSome = true
      ∧ barAt ((commanding (cmd 3 1 w)).svcBar 0 1 ((cmd 3 1 w).fld 0 55 0)) = some (.spad 0 1 0x8000))
    ∧ (let s := commanding (cmd 3 1 [])
      genReached (bGen (s.barRead (.spad 0 1 0x8000))) 0 = true ∧ genReached (bGen (s.barRead (.spad 0 1 0x8000))) 1 = false)
    ∧ (let x : Cmd := { cmd 3 2 [0xFE000000008000, 1] with limit := 5 }
      ((commanding x).focusCmd 3).isSome = true ∧ x.st = 2 ∧ x.limit ≠ 0 ∧ x.limit ≤ (commanding x).time) := by decide +kernel

/-- The premises of BarrierContractAndRackCommands on contracts, racking and steps of a service core. -/
theorem witness_contract_and_rack :
    (∀ w ∈ [0x0503, 0xF503], ((commanding (cmd 9 1 [w])).focusCmd 9).isSome = true ∧ contractBad ((cmd 9 1 [w]).fld 0 15 0) = (w == 0xF503))
    ∧ (∀ h ∈ [hand, hand + 2 ^ 60], ((commanding (cmd 8 1 [h, 4])).focusCmd 8).isSome = true ∧ (handlePart ((cmd 8 1 [h, 4]).fld 0 63 0) = 1 ↔ h = hand))
    ∧ (let s := placed (commanding (cmd 8 1 [hand, 4])) 1
      (s.dirOf hand).map (fun e => e.loc == 3) = some false ∧ (s.keep hand).target = none)
    ∧ (let m : Msg := { id := 7, src := epAgent 0, dst := epAgent 6, part := 1, ch := 3, op := 0x35, taddr := 1 }
      let s : State := { commanding (cmd 10 3 []) with net := [m], focus := 7 }
      s.focusMsg = some m ∧ m.poison = false ∧ (SMap.find? (s.take m).cmds m.taddr).map (fun x => x.st) = some 3)
    ∧ (let s := commanding (cmd 10 4 [])
      s.focusMsg = none ∧ (SMap.find? s.cmds s.focus).map (fun x => x.st) = some 4 ∧ (s.queue 0).full = false ∧ s.power.dram = 0 ∧ (s.svcWait 0 1 [0x1080]).isNone = true) := by decide +kernel

/-- Leaves that are written. -/
def mapped (x : MapRes) : Option State := match x with | .ok s => some s | .noFrame _ => none | .clash _ => none

/-- The command in focus beside a second partition that it names. -/
def destroying (x : Cmd) : State := { commanding x with partitions := (serving 0 0).partitions ++ [(2, { root := 0x50000, kettle := 2, cellar := 0 })] }

/-- The premises of MapAndPartitionCommands: MAP of a page beside the mapped one, UNMAP of the mapped one, PARTITION's three operations. -/
theorem witness_map_and_partition :
    (((commanding (cmd 4 1 [0, 0, 0, 6])).focusCmd 4).isSome = true ∧ 5 < (cmd 4 1 [0, 0, 0, 6]).fld 0x18 11 0 % 8)
    ∧ (let x := cmd 4 1 [0x2000, 0x40000, 0x1000, 0x18]
      let s := commanding x
      (s.focusCmd 4).isSome = true ∧ 5 ≤ s.fw.step ∧ s.power.dram = 0 ∧ (s.partition 1).isSome = true ∧ x.fld 0x18 11 0 % 8 = 0 ∧ bit (x.fld 0x18 11 0) 7 = 0
        ∧ x.fld 0 55 0 % 4096 = 0 ∧ x.fld 8 51 0 % 4096 = 0 ∧ x.fld 0x10 47 0 % 4096 = 0 ∧ x.fld 0 55 0 + x.fld 0x10 47 0 ≤ spaceEnd
        ∧ meetsMaxima (x.fld 0 55 0) (x.fld 0x10 47 0) = false ∧ isDram (x.fld 8 51 0) = true ∧ isDram (x.fld 8 51 0 + x.fld 0x10 47 0 - 1) = true
        ∧ (mapped (s.mapLeaves x.part 4 (mapBits (x.fld 0x18 11 0) + x.fld 8 51 0) 4096 (x.fld 0x10 47 0 / 4096) (x.fld 0 55 0))).isSome = true)
    ∧ (((commanding (cmd 5 1 [1, 0])).focusCmd 5).isSome = true ∧ (cmd 5 1 [1, 0]).fld 0 55 0 % 4096 ≠ 0)
    ∧ (let x := cmd 5 1 [0x1000, 0x1000]
      let s := commanding x
      (s.focusCmd 5).isSome = true ∧ x.fld 0 55 0 % 4096 = 0 ∧ x.fld 8 47 0 % 4096 = 0 ∧ x.fld 0 55 0 + x.fld 8 47 0 ≤ spaceEnd
        ∧ meetsMaxima (x.fld 0 55 0) (x.fld 8 47 0) = false ∧ s.splitsLeaf x.part 0x1000 0x2000 5 0 (s.rootOf x.part) 0 = false)
    ∧ (∀ st ∈ [0, 1], ∀ w ∈ [0, 0x200, 0x101, 0x102], ((commanding (cmd 6 st [w, 0x50000, 2, 0, 0, 0, 2])).focusCmd 6).isSome = true)
    ∧ (let x := cmd 6 1 [0x200, 0x50000, 2, 0, 0, 0, 2]
      x.fld 0 11 8 = 2 ∧ x.fld 0 1 0 = 0 ∧ x.share = (2, 2, 0) ∧ x.fld 8 51 0 % 4096 = 0 ∧ frameOk (x.fld 8 51 0) = true ∧ (commanding x).partition 2 = none)
    ∧ ((cmd 6 1 [0x101, 0, 2, 0, 0, 0, 2]).fld 0 1 0 = 1 ∧ (cmd 6 1 [0x102]).fld 0 1 0 = 2 ∧ (cmd 6 1 [0x102]).fld 0 11 8 = 1)
    ∧ (∀ x ∈ [cmd 6 1 [0x202], cmd 6 2 [0x202]], x.fld 0 1 0 = 2 ∧ x.fld 0 11 8 = 2 ∧ ((destroying x).focusCmd 6).isSome = true ∧ ((destroying x).partition 2).isSome = true
      ∧ (destroying x).power.dram = 0 ∧ (destroying x).launches = [] ∧ ∀ y ∈ (destroying x).cmds, y.2.part ≠ 2)
    ∧ (let s : State := { destroying (cmd 6 2 [0x202]) with launches := [(7, { root := 5, part := 2, svc := 0, cmd := 0, prio := 0 })] }
      List.find? (fun (e : Nat × Launch) => e.2.part == 2 && !e.2.killed) s.launches = some (7, { root := 5, part := 2, svc := 0, cmd := 0, prio := 0 }))
    ∧ (let w : Cmd := { cmd 3 2 [0xFE000000008000, 1] with part := 2 }
      let s : State := { destroying (cmd 6 2 [0x202]) with cmds := [(1, cmd 6 2 [0x202]), (2, w)] }
      (s.focusCmd 6).isSome = true ∧ (∀ y ∈ s.cmds, y.2.part = 2 → y.2.st = 4 ∨ y.2.idles = true)
        ∧ List.find? (fun (y : Nat × Cmd) => y.2.part == 2 && y.2.idles) s.cmds = some (2, w)) := by
  decide +kernel

/-- The premises of PowerAttestQueryLoadAndCask on POWER. -/
theorem witness_power :
    ((commanding (cmd 10 0 [4])).focusCmd 10).isSome = true ∧ powerBad (cmd 10 0 [4]) = true
    ∧ (∀ st ∈ [0, 1, 2], ((commanding (cmd 10 st [0xFFFFFF])).focusCmd 10).isSome = true ∧ powerBad (cmd 10 st [0xFFFFFF]) = false
      ∧ (∀ i < 6, (cmd 10 st [0xFFFFFF]).comp i = 15)) ∧ 6 ≤ (serving 0 0).fw.step := by decide +kernel

/-- ATTEST and QUERY with a buffer at 0x1000. -/
def attesting (len : Nat) : Cmd := cmd 12 1 [1, 2, 3, 4, 0x1000, len]
/-- QUERY of an item. -/
def querying (item : Nat) : Cmd := cmd 13 1 [item, 0x1000, 64]

/-- The premises of PowerAttestQueryLoadAndCask on ATTEST and QUERY: a buffer a byte too short and one of the report's length; an item beyond the last, and the
grant maxima. -/
theorem witness_attest_and_query :
    (∀ n ∈ [385, 386], ((commanding (attesting n)).focusCmd 12).isSome = true ∧ (attesting n).st = 1 ∧ 32 ≤ (attesting n).block.length ∧ (attesting n).fld 0x28 63 0 = n ∧ (attesting n).fld 0x20 55 0 = 0x1000
      ∧ ((commanding (attesting n)).svcWait 0 1 (pagesOf 0x1000 n)).isNone = true ∧ (commanding (attesting n)).badWrite 1 0x1000 n = none)
    ∧ (((commanding (cmd 12 0 [])).focusCmd 12).isSome = true ∧ (cmd 12 0 []).st = 0)
    ∧ (∀ n ∈ [1, 5], ((commanding (querying n)).focusCmd 13).isSome = true ∧ (querying n).fld 0 7 0 = n ∧ (querying n).fld 0x10 63 0 = 64
      ∧ (querying n).fld 8 55 0 = 0x1000 ∧ ((commanding (querying n)).svcWait 0 1 (pagesOf 0x1000 64)).isNone = true ∧ (commanding (querying n)).badWrite 1 0x1000 64 = none) := by decide +kernel

/-- A bundle of one object of R439, under the key of the given number and without a signature: the header, the object's table entry, and the object, its
first word given, with its sections .text, .symtab, .strtab, .shstrtab, .actors and .shapes, each empty but for the names. -/
def bundleOf (key magic : Nat) : Nat := key * 2 ^ 128 + words
  [(0, 0x100014e42484c), (1, 0x340), (8, 0x80), (9, 0x240), (16, magic), (18, 0x151470002), (21, 0x80), (22, 0x4000000001), (23,
   0x4000700400000), (24, 0x2e00747865742e00), (25, 0x2e006261746d7973), (26, 0x2e00626174727473), (27, 0x6261747274736873), (28,
   0x73726f7463612e00), (29, 0x7365706168732e00), (40, 0x100000001), (41, 0x6), (48, 0x200000007), (56, 0x30000000f), (64, 0x300000017), (67,
   0x40), (68, 0x31), (72, 0x100000021), (80, 0x100000029)]
/-- The same as R439 has it. -/
def bundle (key : Nat) : Nat := bundleOf key 0x10102464c457f

/-- The key of the Ed448ph test vector "abc" of RFC 8032. -/
def rfcKey : List Byte := toBytes 57 0x8038f5c0015d3dedd576c232810dd90373b5b1d631a12894c043b7be529cbae03ede177d8fa490b56131dbcb2465d2aba777ef839fc1719b25
/-- The bundle under key 1 with its signature under the test vector's key, computed outside the model. -/
def signed : Nat := bundle 1 + 2 ^ 5744 *
  (0x3601877eacc5caab681810fe36286b23ad869fa9cadee2c9c37cb06af00ce484890b1799af1f85d20cb9f2 * 2 ^ 560
    + 0x30a89ea7bea0dc544b88acee1a0059399c2734c2868313cc951235cd9639aba79c831cdcb3bf53288178cfdf5c607350e3893f44154f3b4360453b5f70cc2fcbe53fd3640c11)
/-- A bundle under the owner's key whose object is no object. -/
def broken : Nat := bundleOf 0 0
/-- A bundle that registers a key, without a signature. -/
def keyBundle : Nat := words [(0, 0x14e42484c), (1, 235), (2, 2)]

/-- LOAD of a number of bytes at 0x1000. -/
def loading (n : Nat) : Cmd := cmd 11 1 [0x1000, n]
/-- LOAD of 832 bytes after the check of its signature. -/
def checked : Cmd := { loading 832 with step := 1 }
/-- A bundle in memory; partition 1 has registered the test vector's key where the bundle is signed. -/
def loaded (v : Nat) (x : Cmd) : State :=
  { (servingWith 0 ((List.range 13).map fun i => (0x800 + i, v / 2 ^ (512 * i) % 2 ^ 512))).modPartition 1 (fun y => { y with key := if v = signed then rfcKey else [] }) with
    cmds := [(1, x)], focus := 1 }
/-- LOAD reads a bundle. -/
theorem bundle_read (v : Nat) (h : v ∈ [bundle 0, bundle 1, bundle 3, signed, broken]) (x : Cmd) (hx : x ∈ [loading 832, checked]) :
    (loaded v x).partRead 1 0x1000 832 = some v :=
  State.partRead_lines (loaded v x) 1 0x1000 13 v 0x20000 0x70D 1 0 (by decide) (by decide) (by decide)
    (by revert v x; decide +kernel) (by revert v x; decide +kernel) (by revert v; decide +kernel) (by decide) (by revert v x; decide +kernel)

/-- What LOAD makes of the objects. -/
def objectsOf (x : (Nat × Nat) ⊕ Loading) : Option (List (Nat × OpxModule)) := match x with | .inl _ => none | .inr r => some r.modules
/-- The objects of a bundle. -/
def objectsIn (v : Nat) : List (Nat × Nat) :=
  (List.range (blobN v 6 2)).map fun i => (blobN v (blobN v (64 + 16 * i) 8) (blobN v (72 + 16 * i) 8), blobN v (72 + 16 * i) 8)
/-- Whether a bundle's signature verifies. -/
def verifies (v : Nat) : Bool :=
  ((loaded v (loading 832)).bundleKeys 1 (blobN v 16 8 % 16)).any fun k => ed448Verify k (toBytes (832 - 114) v) (toBytes 114 (v >>> (8 * (832 - 114))))

/-- The premises of PowerAttestQueryLoadAndCask on LOAD's steps 0 and 1, a bad bundle, a key bundle of partition 1, one of a partition that has registered none and one
whose signature verifies. -/
theorem witness_load :
    (∀ v ∈ [bundle 0, bundle 1, bundle 3, signed, broken], ∀ x ∈ [loading 832, checked], (loaded v x).partRead 1 0x1000 832 = some v)
    ∧ ((loaded 0 (cmd 11 0 [])).focusCmd 11).isSome = true ∧ (cmd 11 0 []).st = 0
    ∧ (∀ v ∈ [bundle 0, bundle 3, signed, broken], ∀ x ∈ [loading 832, checked], ((loaded v x).focusCmd 11).isSome = true ∧ x.fld 8 63 0 = 832 ∧ x.st = 1
      ∧ ((loaded v x).svcWait 0 1 (pagesOf 0x1000 832)).isNone = true ∧ (loaded v x).badAddr 1 0x1000 832 = none)
    ∧ (loading 832).step = 0 ∧ checked.step = 1
    ∧ bundleBad (bundle 3) 832 = true ∧ bundleBad (bundle 1) 832 = false ∧ bundleBad signed 832 = false ∧ blobN (bundle 1) 16 8 % 16 = 1 ∧ blobN signed 16 8 % 16 = 1
    ∧ verifies (bundle 1) = false ∧ verifies signed = true
    ∧ (let s := loaded keyBundle (loading 235)
      (s.focusCmd 11).isSome = true ∧ (s.svcWait 0 1 (pagesOf 0x1000 235)).isNone = true ∧ s.badAddr 1 0x1000 235 = none ∧ s.partRead 1 0x1000 235 = some keyBundle
        ∧ bundleBad keyBundle 235 = false ∧ blobN keyBundle 16 8 % 16 = 2)
    ∧ (∀ v ∈ [bundle 0, broken], let s := loaded v checked
      ((objectsIn v).findSome? fun o => s.segFlash 1 o.1) = none ∧ (s.svcWait 0 1 ((objectsIn v).flatMap fun o => (segs o.1).flatMap fun g => pagesOf g.addr g.msize)).isNone = true
        ∧ (s.partition 1).bind (fun y => objectsOf (s.loadObjects 1 (objectsIn v) { ranges := y.ranges, names := y.names, links := [], modules := [] }))
          = if v = broken then none else some []) :=
  ⟨bundle_read, by decide +kernel⟩

/-- The descriptor of a cask of one page at 0x2000 of partition 1, its list at 0x1040. -/
def caskDesc : Nat := words [(0, 0x2000), (1, 1), (2, 0x1040), (4, 0x11)]
/-- A CASK command at its only page, whose entry is given; its list names the frame 0x60000 and the block 9. -/
def casking (op st leaf : Nat) : State :=
  let x := cmd 7 st [op, 0x1000]
  { servingWith leaf [(0x800, caskDesc), (0x801, words [(0, 0x60000), (1, 9)])] with cmds := [(1, x)], focus := 1 }

/-- The premises of PowerAttestQueryLoadAndCask on CASK: its operations on a page in memory and on one in flash. -/
theorem witness_cask :
    ((casking 0 0 0).focusCmd 7).isSome = true
    ∧ (∀ op ∈ [0, 1, 2], ∀ leaf ∈ [1 + 4 + 8 + 0x700 + 0x70000, 2 + 4 + 8 + 0x100 + 9 * 2 ^ 12],
      let s := casking op 2 leaf
      (s.focusCmd 7).isSome = true ∧ 5 ≤ s.fw.step ∧ s.power.dram = 0 ∧ s.pageIns = [] ∧ (s.svcWait 0 1 [0x1000]).isNone = true
        ∧ s.partRead 1 0x1000 64 = some caskDesc ∧ caskBad caskDesc = false ∧ bits (kWord caskDesc 4) 3 0 = 1 ∧ bits (kWord caskDesc 1) 31 0 = 1
        ∧ bits (kWord caskDesc 0) 55 0 = 0x2000 ∧ (s.svcWait 0 1 (pagesOf (bits (kWord caskDesc 2) 55 0) 16)).isNone = true
        ∧ (let u := s.walkReads none 1 0x2000
          State.walkFrom u 1 0x2000 5 0 (u.rootOf 1) = some (0x14010, leaf, 4) ∧ u.writingPage 0x14010 = false ∧ u.pageIns = []
            ∧ u.partRead 1 (bits (kWord caskDesc 2) 55 0) 8 = some 0x60000))
    ∧ (bits (1 + 4 + 8 + 0x700 + 0x70000) 1 0 = 1 ∧ bits (2 + 4 + 8 + 0x100 + 9 * 2 ^ 12) 1 0 = 2 ∧ isDram 0x60000 = true) := by decide +kernel
/-! ### Witnesses: the pager, launches and watchdogs -/

/-- A page-in request for the leaf at 0x14010, which names flash or not, with partition 1's pager pool at 0x120000000. -/
def askingFor (leaf : Nat) (now : List PageIn) : State :=
  let m : Msg := { id := 7, src := epCore 0, dst := epAgent 8, part := 1, ch := 3, op := 0x36, taddr := 0x2000, arg := 0x14010, raddr := epCore 0 }
  let s := servingWith leaf []
  { s with net := [m], focus := 7, pageIns := now, partitions := [(1, { root := 0x10000, kettle := 3, cellar := 0, pager := 0x120000000 })] }
/-- The same for a leaf in flash. -/
def asking (now : List PageIn) : State := askingFor (2 + 4 + 8 + 0x100 + 9 * 2 ^ 12) now
/-- A page-in of that leaf. -/
def pageIn (st size : Nat) : PageIn := { leaf := 0x14010, va := 0x2000, part := 1, size := size, write := false, askers := [], st := st }

/-- The premises of FlashPagesComeAndGo: the page not yet asked for and asked for; a read that ends; a write that ends. -/
theorem witness_flash :
    (∀ l ∈ [[], [pageIn 1 4096]], ∀ leaf ∈ [2 + 4 + 8 + 0x100 + 9 * 2 ^ 12, 1 + 4 + 8 + 0x700 + 0x70000],
      let s := askingFor leaf l
      (s.focusMsg.map fun m => s.msgEvent m == .pageInRequest && (s.pagerBase m.part).isSome && !s.dramShut (bits m.arg 51 0)
        && bits (((s.take m).homeLook none m.part (bits m.arg 51 0 / 64)).physRead m.part (bits m.arg 51 0) 8) 1 0 == bits leaf 1 0 && leafHead (bits m.arg 51 0) (codeSize (bits m.arg 54 52)) == 0x14010) = some true)
    ∧ (let s : State := { asking [pageIn 1 (2 ^ 21)] with focus := 0x14010 }
      s.pageIns.find? (fun y => y.leaf == s.focus && y.st == 1) = some (pageIn 1 (2 ^ 21)) ∧ s.power.dram = 0 ∧ (pageIn 1 (2 ^ 21)).cmd = none
        ∧ s.flashLeaves (pageIn 1 (2 ^ 21)) = [(0x14010, 9, 0)] ∧ s.pagerFrame 1 (2 ^ 21) = some 0x120000000)
    ∧ (askingFor (1 + 4 + 8 + 0x700 + 0x70000) []).flashLeaves (pageIn 1 4096) = []
    ∧ (let x : Paged := { leaf := 0x14010, part := 1, va := 0x2000, size := 4096, frame := 0x120000000, blks := [(0x14010, 9, 0)], out := true }
      let s : State := { asking [] with focus := 0x14010, paged := [x] }
      s.fw.flashFails = false ∧ ({ s with fw := { s.fw with flashFails := true } } : State).fw.flashFails = true ∧ s.paged.find? (fun y => y.leaf == s.focus && y.out) = some x ∧ s.power.dram = 0) := by decide +kernel

/-- A state with a dirty line and DRAM in self-refresh. -/
def resting (s : State) : State :=
  { s with dirty := [(0, { data := 0, ptag := 0, cellar := false })], fw := { s.fw with step := 7 }, power := { s.power with dram := 1 } }

/-- LAUNCH of the task at 0x1000, from its words 0 to 10. -/
def launching (w1 : Nat) : Cmd := cmd 1 1 [0x1000, w1, 0, 0, 0, 0, 0, 0, 0, 0, 0]
/-- LAUNCH in focus, its descriptor in memory, with a share of core 0 or none. -/
def launched (x : Cmd) (share : Nat) : State :=
  let s := { servingWith 0 [(0x800, taskDesc)] with cmds := [(1, x)], focus := 1 }
  { s with fw := { s.fw with nextLid := 1 }, partitions := [(1, { root := 0x10000, kettle := share, cellar := 0 })] }

/-- A coherent store of partition 1 that is not answered. -/
def openStore : Out := { id := 9, ctx := 0, op := 2, lid := 7, part := 1, pc := 0, dst := 8, counted := false, addr := 0 }

/-- The first free launch identifier. -/
theorem newLid_found (s : State) (h : s.fw.nextLid = 1) (hl : s.launches = []) : s.newLid = 1 := by
  unfold State.newLid
  rw [h, hl, show (65536 : Nat) = 65535 + 1 from rfl, List.range_succ_eq_map]
  rfl

/-- The launch that LAUNCH forms. -/
def launchOf (s : State) (x : Cmd) : Launch :=
  { root := 0, part := x.part, svc := x.svc, cmd := 1, prio := x.fld 8 8 6, tbar := 0, wd1 := x.fld 0x38 31 0, wd2 := x.fld 0x38 63 32, wd3 := x.fld 0x40 31 0
    ydl := x.fld 0x40 63 32, wdFrom := s.time, waveAt := s.time
    wdHold := if s.activeSomewhere x.part then none else some s.time }

/-- The premises of LaunchesStartAndEnd on LAUNCH: a block that names another partition; a root that is placed; a share without a core. -/
theorem witness_launch :
    (∀ n, (launched (launching 1) n).newLid = 1) ∧ (launched (launching 1) 1).partRead 1 0x1000 64 = some taskDesc
    ∧ (∀ w ∈ [1, 2], ((launched (launching w) 1).focusCmd 1).isSome = true ∧ (launching w).st = 1 ∧ launchBad (launching w) = (w == 2))
    ∧ (let x := launching 1
      x.fld 0x30 55 0 = 0 ∧ x.fld 0x48 55 0 = 0 ∧ x.fld 0x10 55 0 = 0 ∧ 6 ≤ (launched x 1).fw.step ∧ x.fld 8 5 4 = 0 ∧ x.fld 0 55 0 = 0x1000
        ∧ ((launched x 1).svcWait 0 1 (pagesOf 0x1000 64 ++ [])).isNone = true
        ∧ ((launched x 1).svcWait 0 1 ([dEntry taskDesc] ++ pagesOf (dPorts taskDesc) (16 * (dNin taskDesc + dNout taskDesc))
          ++ [dShapes taskDesc, dPitch taskDesc].filter fun a => a != 0)).isNone = true
        ∧ (launched x 1).rootDie 1 0 0 = some 0 ∧ (launched x 0).rootDie 1 0 0 = none
        ∧ (launched x 1).fenceShut = false ∧ (resting (launched x 1)).fenceShut = true
        ∧ (launched x 1).storesOpen 1 = false ∧ (resting (launched x 1)).storesOpen 1 = false
        ∧ ((launched x 1).modCore 0 fun k => { k with out := [openStore] }).storesOpen 1 = true)
    ∧ (let x := launching 1
      let u : State := { launched x 1 with launches := [(1, launchOf (launched x 1) x)] }
      u.descBad 1 taskDesc = false ∧ descFits taskDesc false = true
        ∧ (((u.readsMarked 1 (descReads 0x1000 taskDesc)).createActor 1 1 0x1000 taskDesc 0 0 0).map fun r => SMap.find? r.2.launches 1 == some (launchOf (launched x 1) x)) = some true) :=
  ⟨fun _ => newLid_found _ rfl rfl,
    ((launched (launching 1) 1).partRead_line 1 0x1000 64 0x20000 0x70D 1 0 (by decide) (by decide) (by decide) (by decide +kernel)
      (by decide +kernel)).trans (congrArg some (by decide +kernel)),
    by decide +kernel⟩

/-- A launch in focus with a watchdog of 1, 2 and 3 µs and `t` µs, with or without a context that it holds, whose waves saw the sum 0. -/
def watched (wd t : Nat) (killed busy : Bool) : State :=
  let l : Launch := { root := 5, part := 1, svc := 0, cmd := 1, prio := 0, wd1 := 1, wd2 := 2, wd3 := 3, wd := wd, killed := killed, wave := some 0 }
  let s := if busy then st [] else (st []).modCtx 0 0 fun x => { x with firing := none }
  { s with launches := [(7, l)], focus := 7, now := 336000 * t, cmds := [(1, cmd 1 2 [])], power := { die := [(0, 0)], dram := 0 }
           partitions := [(1, { root := 0x10000, kettle := 1, cellar := 0 })] }

/-- The premises of LaunchesStartAndEnd on watchdogs, kills and waves. -/
theorem witness_watchdogs :
    (∀ w ∈ [(0, 1), (1, 2), (2, 3)],
      let s := watched w.1 w.2 false true
      ((SMap.find? s.launches 7).map fun l => l.wd == w.1 && s.wdReached l w.2) = some true)
    ∧ ((SMap.find? ((watched 1 2 false true).killLaunch 7).launches 7).isSome = true)
    ∧ ((watched 2 3 false true).coresWith 7 = [0])
    ∧ (∀ b ∈ [true, false],
      let s := watched 2 3 true b
      ((SMap.find? s.launches 7).map fun l => l.killed && s.killDone 7 == !b && l.tbar == 0) = some true)
    ∧ ((watched 2 3 true false).completeLaunch 7 0x0B).isSome = true ∧ (watched 2 3 true false).fenceShut = false ∧ (watched 2 3 true false).storesOpen 1 = false
    ∧ ((watched 2 3 true false).modCore 0 fun k => { k with out := [openStore] }).storesOpen 1 = true
    ∧ (resting (watched 2 3 true false)).fenceShut = true ∧ (resting (watched 2 3 true false)).storesOpen 1 = false
    ∧ (∀ b ∈ [true, false],
      let s := watched 0 2 false b
      ((SMap.find? s.launches 7).map fun l => l.wd != 4 && s.waveDue l && s.launchIdle 7 == !b && (s.launchSums 7).1 == (s.launchSums 7).2
        && l.wave == some (s.launchSums 7).1) = some true)
    ∧ (let l : Launch := { root := 5, part := 1, svc := 0, cmd := 1, prio := 0 }
      let s : State := { watched 0 2 false false with launches := [(7, l)] }
      l.wd ≠ 4 ∧ s.waveDue l = true ∧ s.launchIdle 7 = true ∧ (s.launchSums 7).1 = (s.launchSums 7).2 ∧ l.wave ≠ some (s.launchSums 7).1)
    ∧ (let s := watched 0 2 false false
      ((SMap.find? s.launches 7).bind fun l =>
        (({ s with launches := SMap.put s.launches 7 { l with waveAt := s.time, wave := some (s.launchSums 7).1 } } : State).quiesce 7).completeLaunch 7 0).isSome = true) := by decide +kernel
/-! ### Witnesses: bring-up, links and racking -/

/-- The premises of BringUpAndLifeCycle on steps, the life cycle and the host. -/
theorem witness_bringup :
    State.reset.fw.superImage = [] ∧ (∀ n < 8, ({ fw := { step := n } } : State).fw.step = n)
    ∧ (State.reset.fw.lifecycle < 3 ∧ 3 = State.reset.fw.lifecycle + 1 ∧ State.reset.fw.lifecycle < 4)
    ∧ State.reset.fw.repairMap = [] ∧ State.reset.fw.rowMarks = []
    ∧ isSram sramBase = true ∧ isDram 0xFFFFFFFFFF = true ∧ isDram (sramBase + 0x3000000) = false ∧ isSram (sramBase + 0x3000000) = false
    ∧ (serving 0 0).hostPlace 2 0 = none ∧ (powered 0 { appAsleep := true }).hostPlace 0 0x20000 = none
    ∧ (∀ a ∈ [0x20000, 0xFFFFFFFFFF, sramBase, sramBase + 0x3000000], (serving 0 0).hostPlace 0 a = some a ∧ (serving 0 0).dramShut a = false)
    ∧ SMap.find? (serving 0 0).hostLines (0x20000 / 64) = none ∧ (powered 0 { dram := 1 }).dramShut 0x20000 = true ∧ (powered 0 { dram := 1 }).hostPlace 0 0x20000 = some 0x20000
    ∧ (let s : State := { serving 0 0 with hostLines := [(0x800, { data := 5, dirty := false })] }
      SMap.find? s.hostLines (0x20000 / 64) = some { data := 5, dirty := false } ∧ s.hostPlace 0 0x20000 = some 0x20000)
    ∧ (let s : State := { serving 0 0 with links := [(8, { mode := 1 })], queues := [(63, { qrwin := 0x40000 })] }
      s.hostPlace 1 0xFFFFFF = some 0x7FFFF ∧ s.dramShut 0x7FFFF = false ∧ isDram 0x7FFFF = true) := by decide +kernel

/-- The premises of BringUpAndLifeCycle on links and mesh clocks. -/
theorem witness_links :
    (let s : State := { links := [(6, { tx := { fails := 6 }, rx := { fails := 7 } }), (9, { lanes := 8 })] };
      (s.link 6).tx.fails < 7 ∧ 7 ≤ (s.link 6).rx.fails ∧ 0 < (s.link 6).rx.spares ∧ (s.link 9).lanes = 8)
    ∧ (let s : State := { links := [(7, { tx := { fails := 7, spares := 0 } }), (8, { lanes := 16 }), (9, { lanes := 4 })] }
      7 ≤ (s.link 7).tx.fails ∧ (s.link 7).tx.spares = 0 ∧ (s.link 7).half = false ∧ (s.link 8).lanes = 16 ∧ (s.link 9).lanes = 4 ∧ s.focusMsg = none)
    ∧ (∀ f ∈ [800, 1000, 2200, 2400],
      let s := powered 1000 { die := [(3, 1)], mesh := [(3, f)] }
      s.time % 1000 = 0 ∧ s.allGated = false ∧ s.meshClock 3 = f)
    ∧ (powered 1001 {}).time % 1000 ≠ 0 ∧ (powered 0 { die := [(0, 2), (1, 2), (2, 2), (3, 2)] }).allGated = true
    ∧ (let m : Msg := { toCore 2 0x21 0x8000 0 8 with dst := 14, dpkg := 1 }
      (mailed true m).focusMsg = some m ∧ (mailed true m).msgEvent m = .peerLinkDown 1) := by decide +kernel

/-- A move of an actor placed on core 0 toward die 1, in a state, with the cask's descriptor at 0x1000 where it has one; the context waits for the engine. -/
def moving (st cask : Nat) (die1 : Nat) (share : Nat) : State :=
  let m : Move := { handle := hand, part := 1, core := 0, ctx := 0, target := 1, cask := cask, live := 0, d := 3, cmd := none, st := st }
  let s := servingWith (1 + 4 + 8 + 0x700 + 0x70000) [(0x800, words [(0, 0x2000), (1, 1), (4, 0x11)])]
  let s : State := { placed s 4 with rackQueue := [m], power := { die := [(0, 0), (1, die1)], dram := 0 }
                                     partitions := [(1, { root := 0x10000, kettle := share, cellar := 0, area := 0x100000000 })]
                                     cores := s.cores ++ [(256, { period := 336, active := 1 })] }
  s.modCtx 0 0 fun x => { x with firing := some { handle := hand, lid := 7, part := 1, handler := false, wsize := 74, ydl := 0 }
                                 wait := some { kind := .rack 3, pc := 0x10000C, after := 0x100018, stall := 0 } }

/-- The premises of RackingMovesAFiring. -/
theorem witness_racking :
    (let s := (moving 1 0 0 3).modCtx 0 0 fun x => { x with nacks := [{ addr := 0, reason := 1, pc := 0 }] };
      (s.ctx 0 0).nacks ≠ [] ∧ s.rackQueue.length = 1)
    ∧ (let s := (moving 1 0 0 3).modCore 0 fun k => { k with out := [{ id := 3, ctx := 0, op := 0x23, lid := 7, part := 1, pc := 0, dst := 8, counted := true, addr := 0, handle := hand }] }
      (s.ctx 0 0).nacks = [] ∧ s.rackQueue.all (fun m => !s.rackDrained m) = true)
    ∧ (let s := moving 1 0 0 3
      s.rackParty hand = some (.ctx 0 0) ∧ (s.ctx 0 0).nacks = [] ∧ s.rackQueue.all (fun m => s.rackDrained m) = true ∧ (s.rackArea 1).isSome = true)
    ∧ (let s := moving 2 0x1000 0 3
      (s.partRead 1 0x1000 64).isSome = true ∧ s.power.dram = 0 ∧ s.rackQueue.all (fun m => (s.svcWait 7 1 (s.caskLines m)).isNone) = true
        ∧ ((s.readsMarked 1 [0x1000]).caskPages 1 ((s.partRead 1 0x1000 64).getD 0) 1 1 0 []).2.2 = false
        ∧ (s.partRead 1 0x1000 64).map (fun d => bits (kWord d 1) 31 0) = some 1)
    ∧ ((moving 3 0 0 3).dieAwake 1 = true ∧ (moving 3 0 2 3).dieAwake 1 = false)
    ∧ ((moving 4 0 0 1).rackQueue.map (moving 4 0 0 1).rackChoice = [[]])
    ∧ (let s := moving 4 0 0 (2 ^ 64)
      s.rackQueue.map (fun m => ((s.rackChoice m).findSome? fun c => (s.rehome hand c).map fun _ => c).isSome) = [true]
        ∧ (s.rackArea 1).map (fun line => s.dramShut (line * 64) || s.linesBad line 100) = some false
        ∧ (s.rackArea 1).map (fun line => ({ s with dirty := s.dirty ++ [(line, { data := 0, ptag := 1, cellar := false, poison := true })] } : State).linesBad line 1) = some true)
    ∧ (let s := moving 6 0 0 3
      s.rackParty hand = some (.ctx 0 0) ∧ (s.waitOf (.ctx 0 0)).isSome = true)
    ∧ ((moving 1 0 0 3).preemptCtx 0 0).rackParty hand = some (.saved hand) := by decide +kernel

/-! ### Witnesses: decoding, stepping, memory and frames -/

/-- The premises of DecodedWords and DecodeEncodeRoundTrip. -/
theorem witness_codes :
    (0xC0 ≤ (0xC0 : BitVec 8).toNat ∧ (0xC0 : BitVec 8).toNat ≤ 0xEF ∧ 0xC0 ≤ (0xEF : BitVec 8).toNat ∧ (0xEF : BitVec 8).toNat ≤ 0xEF ∧ (1 : BitVec 84) ≠ 0)
    ∧ ((Instr.park c0 3).wf = true ∧ encode (.park c0 3) = some (slot 0xB4 0 0 0 3 0 0 0 0 0 0) ∧ decode (slot 0xB4 0 0 0 3 0 0 0 0 0 0) = .ok (.park c0 3))
    ∧ ((Instr.ld c0 .i64 63 2 3 0xFFFFFFFFFFFF).wf = true ∧ encode (.ld c0 .i64 63 2 3 0xFFFFFFFFFFFF) = some (slot 0x38 0 0 63 2 3 0 0 0 4 0xFFFFFFFFFFFF)) := by
  decide +kernel

/-- The line that a fetch finds. -/
def fetchedOf (f : Fetch) : Option Nat := match f with | .line _ v => some v | .trap _ _ _ => none | .wait _ _ => none | .shut => none
/-- A fetch that finds a line has its state. -/
theorem fetched {f : Fetch} {v : Nat} (h : fetchedOf f = some v) : ∃ t, f = .line t v := by cases f <;> simp_all [fetchedOf]
/-- The state of a fetched slot whose line is known to be in use. -/
def inLine (w : Nat) : State := (State.reset.withFetchWord 96 w).modCtx 0 0 fun x => { x with line := some (fetchVa / 64 * 64) }
/-- The premises of a slot that issues: no event, the slot and its line. -/
def issues (s : State) (w : Nat) : Bool :=
  s.agenda.isEmpty && s.inputs.isEmpty && s.earlyEvent.isNone && s.nextIssue == some (0, 0) && slotOk (s.ctx 0 0).pc.toNat && slotIdx (s.ctx 0 0).pc.toNat == 0
    && fetchedOf (s.fetchLine 0 0) == some (fetchLineOf w) && (s.ctx 0 0).entry.isNone

/-- Reset with firmware past its last step of bring-up. -/
def up : State := { State.reset with fw := { State.reset.fw with step := 7 } }

/-- The premises of StepRunsTheDecodedInstruction: an operation chosen, an input, an event due before and one after issue, nothing to do, a slot whose line is checked, one whose line is in use,
a slot at an entry, and slots with a reserved and a growth code. -/
theorem witness_step :
    (({ st [] with agenda := [{ instr := .nop 0 }] } : State).agenda ≠ [])
    ∧ (State.reset.agenda = [] ∧ State.reset.inputs = [] ∧ State.reset.earlyEvent.isSome = true ∧ ({ up with inputs := [.lineParity 0] } : State).agenda = [])
    ∧ (let s : State := { up with net := [{ id := 7, src := epAgent 0, dst := epAgent 6, part := 1, ch := 3, op := 0x35 }] }
      s.earlyEvent = none ∧ s.nextIssue = none ∧ s.lateEvent.isSome = true)
    ∧ (up.agenda = [] ∧ up.inputs = [] ∧ up.earlyEvent = none ∧ up.nextIssue = none ∧ up.lateEvent = none)
    ∧ (issues (State.reset.withFetchWord 96 (0x10 + 4 * 2 ^ 44)) (0x10 + 4 * 2 ^ 44) = true
      ∧ lineCheck (fetchLineOf (0x10 + 4 * 2 ^ 44)) 0 = none ∧ decode (slotBits (fetchLineOf (0x10 + 4 * 2 ^ 44)) 0) = .ok (.add c0 .i64 0 0 (.reg 0)))
    ∧ (issues (inLine (0x10 + 4 * 2 ^ 44)) (0x10 + 4 * 2 ^ 44) = true ∧ ((inLine (0x10 + 4 * 2 ^ 44)).ctx 0 0).line = some (lineAddr fetchVa))
    ∧ (marked (fetchLineOf (0x02 + 4 * 2 ^ 12)) 0 = true ∧ padOf (fetchLineOf (0x02 + 4 * 2 ^ 12)) 0 = some .firing)
    ∧ (issues (inLine 0x0D) 0x0D = true ∧ ((inLine 0x0D).ctx 0 0).line = some (lineAddr fetchVa) ∧ decode (slotBits (fetchLineOf 0x0D) 0) = .error .reservedCode)
    ∧ (issues (inLine 0xEF) 0xEF = true ∧ decode (slotBits (fetchLineOf 0xEF) 0) = .error .futureOpcode)
    ∧ (∃ t, (inLine 0x0D).fetchLine 0 0 = .line t (fetchLineOf 0x0D)) := by
  refine ⟨by simp, ?_, ?_, ?_, ?_, ?_, ?_, ?_, ?_, fetched (by decide +kernel)⟩ <;> decide +kernel

/-- The premises of StepKeepsMemoryForm. -/
theorem witness_memoryForm : State.reset.Inv ∧ (∃ t, step { State.reset with agenda := [{ instr := .nop 0 }] } = .next t) := by
  refine ⟨by unfold State.Inv; decide +kernel, ⟨_, rfl⟩⟩

/-- The premises of MemoryReadsBackWhatIsWritten, at the ends of the written bytes and of the key ranges. -/
theorem witness_memory :
    Memory.wf [] = true ∧ Memory.wf [(3, 1), (7, 2)] = true ∧ ((4 : Nat) < 5 ∨ 5 + 8 ≤ 4) ∧ ((13 : Nat) < 5 ∨ 5 + 8 ≤ 13)
    ∧ ((1 : Nat) + 4 ≤ 5 ∨ 5 + 8 ≤ 1) ∧ (2 ^ 20 - 1 < 2 ^ 20 ∧ 15 < 16 ∧ 2 ^ 11 - 1 < 2 ^ 11 ∧ 2 ^ 56 - 1 < 2 ^ 56) := by decide +kernel

/-- The premises of RegisterInstructionsLeaveTheRest: every group, with registers free, operands of the types that it needs and an executed instruction. -/
theorem witness_registerFrames :
    vecs.Inv ∧ vecs.clear none [.scal 2, .scal 3] [.scal 61] = true ∧ (∀ l ∈ [[Dest.scal 2, .scal 3], [.scal 2], [.scal 2, .scal 3, .scal 4], [.scal 2, .scal 3, .scal 1], [.scal 2, .scal 1]],
      vecs.clear none l [.scal 1] = true ∧ Dest.scal 62 ∉ l)
    ∧ (∀ l ∈ [[Dest.vec 2, .scal 2, .shape 0, .scal 6], [.vec 2, .vec 3, .shape 0], [.vec 2, .shape 0]], vecs.clear none l [.vec 1] = true ∧ Dest.scal 62 ∉ l)
    ∧ shapeUse vecs.ic (vecs.grant 0) [0] = true ∧ shapeUse vecs.ic (vecs.grant 1) [0] = true
    ∧ (decI .i64 (vecs.srcB (.reg 2)) ≠ 0 ∧ decI .i8 (vecs.srcB (.imm 255)) ≠ 0 ∧ bit (vecs.rs 2) 63 = 0 ∧ Ty.isInt .i64 = true ∧ Ty.isFloat .f32 = true) := by
  refine ⟨by unfold State.Inv; decide +kernel, by decide +kernel⟩

/-- Instructions of every group answer a next state. -/
theorem witness_registerSteps :
    (∃ t, exec (.add c0 .i64 1 2 (.reg 3)) vecs = .next t) ∧ (∃ t, exec (.add c0 .i64 61 2 (.reg 3)) vecs = .next t) ∧ (∃ t, exec (.div c0 .i64 1 4 (.reg 2)) vecs = .next t) ∧ (∃ t, exec (.padd c0 1 2 (.imm 8)) vecs = .next t)
    ∧ (∃ t, exec (.clz c0 .i64 1 2) vecs = .next t) ∧ (∃ t, exec (.fsqrt c0 .f32 1 6) vecs = .next t) ∧ (∃ t, exec (.bfi c0 1 2 3 0 8) vecs = .next t)
    ∧ (∃ t, exec (.fadd c0 .f32 1 6 6) vecs = .next t) ∧ (∃ t, exec (.sel c0 1 2 3 4) vecs = .next t) ∧ (∃ t, exec (.ffma c0 .f32 1 6 6 6) vecs = .next t)
    ∧ (∃ t, exec (.vadd c0 .f32 1 2 (.vec 3) 0 0) vecs = .next t) ∧ (∃ t, exec (.vscan c0 .f32 1 2 0 0) vecs = .next t) ∧ (∃ t, exec (.kand c0 1 2 3) vecs = .next t)
    ∧ (∃ t, exec (.knot c0 1 2) vecs = .next t) ∧ (∃ t, exec (.kpopc c0 1 2) vecs = .next t) :=
  ⟨⟨_, rfl⟩, ⟨_, rfl⟩, ⟨_, rfl⟩, ⟨_, rfl⟩, ⟨_, rfl⟩, ⟨_, rfl⟩, ⟨_, rfl⟩, ⟨_, rfl⟩, ⟨_, rfl⟩, ⟨_, rfl⟩, ⟨_, rfl⟩, ⟨_, rfl⟩, ⟨_, rfl⟩, ⟨_, rfl⟩, ⟨_, rfl⟩⟩

/-- The premises of StoresLeaveTheRest beside those of witness_ownAccesses: the form of memory, and steps of a store, an atomic and a compare and swap. -/
theorem witness_storeFrames :
    mems.Inv ∧ Ty.isScalar .i64 = true ∧ (3 : SReg) ≠ 62 ∧ mems.ownBytes 0xFD000000008000 8 0x8000 = true ∧ mems.ea 2 0 0 = .inl 0xFD000000008000
    ∧ (∀ w ∈ mems.areasOf 0, (∀ x ∈ [0, 0x180, 0x200], rangesMeet (w + x) 8 0x8000 8 = false) ∧ (fieldMasks.filter fun e => rangesMeet (w + e.1) 8 0x8000 8) = [])
    ∧ (∃ t, exec (.st c0 .i64 3 0 4 0) mems = .next t) ∧ (∃ t, exec (.amo c0 .i64 0 false 1 3 4 0) mems = .next t)
    ∧ (∃ t, exec (.cas c0 .i64 false 1 3 4 5 0) mems = .next t) := by
  refine ⟨by unfold State.Inv; decide +kernel, by decide +kernel, by decide, by decide +kernel, by decide +kernel, by decide +kernel, ⟨_, rfl⟩, ⟨_, rfl⟩, ⟨_, rfl⟩⟩

/-- The premises of ResultsReachTheirRegisters: a register that discards, CSW, and general registers at both ends. -/
theorem witness_results :
    mems.Inv ∧ (mems.ctx 0 0).pend = [] ∧ (∀ d ∈ [(0 : SReg), 1, 61, 60, 59], mems.boundSlot 0 0 true (.scal d) = none)
    ∧ (0 : SReg) ∈ [(0 : SReg), 48, 60, 62, 63] ∧ (1 : SReg) ∉ [(0 : SReg), 48, 60, 61, 62, 63] ∧ (59 : SReg) ∉ [(0 : SReg), 48, 60, 61, 62, 63] := by
  refine ⟨by unfold State.Inv; decide +kernel, by decide +kernel⟩
end Sys2Proof.Tests
end

section
/-! The proofs of the statements on scope: memory, accesses in the own scratchpad, and the step. -/

-- Makes Lean elaborate the proofs below one after another. In parallel with those of the tests above they start more threads than the
-- memory limit on the compile of the one text has room for; no section variable stands here, so the option changes nothing else.
set_option deprecated.oldSectionVars true

section
/-! Bytes written to memory, read back and left alone, and the storage keys of its parts (R7, R173). -/
namespace Sys2Proof.Machine

/-- Bytes that agree read as the same number. -/
theorem Memory.readN_congr {m m' : Memory} {a n : Nat} (h : ∀ j, a ≤ j → j < a + n → Memory.get m j = Memory.get m' j) :
    Memory.readN m a n = Memory.readN m' a n := by
  induction n generalizing a with
  | zero => rfl
  | succ n ih =>
    rw [Memory.readN, Memory.readN, h a (by omega) (by omega), ih fun j h1 h2 => h j (by omega) (by omega)]

theorem Memory.readN_lt (m : Memory) (a n : Nat) : Memory.readN m a n < 2 ^ (8 * n) := by
  induction n generalizing a with
  | zero => simp [Memory.readN]
  | succ n ih =>
    have hrest := ih (a + 1)
    have hbyte := (Memory.get m a).isLt
    rw [Memory.readN, show 8 * (n + 1) = 8 * n + 8 by omega, Nat.pow_add]
    omega

/-- A number written to memory reads back, as far as its bytes go (R7). -/
theorem Memory.readN_writeN_self {m : Memory} (h : m.wf = true) (a n v : Nat) :
    Memory.readN (Memory.writeN m a n v) a n = v % 2 ^ (8 * n) := by
  induction n generalizing m a v with
  | zero => simp [Memory.readN, Nat.mod_one]
  | succ n ih =>
    have hset := Memory.wf_set h a (BitVec.ofNat 8 v)
    have hlow : Memory.get (Memory.writeN m a (n + 1) v) a = BitVec.ofNat 8 v :=
      (Memory.get_writeN_out hset (a + 1) n (v / 256) (by omega)).trans (Memory.get_set_self h a _)
    have hpow : 2 ^ (8 * (n + 1)) = 256 * 2 ^ (8 * n) := by rw [Nat.mul_succ, Nat.pow_add, Nat.mul_comm]
    rw [Memory.readN, hlow, Memory.writeN, ih hset, BitVec.toNat_ofNat, hpow, Nat.mod_mul]

/-- Bytes apart from those written read as before. -/
theorem Memory.readN_writeN_out {m : Memory} (h : m.wf = true) (a n v : Nat) {b j : Nat} (hb : b + j ≤ a ∨ a + n ≤ b) :
    Memory.readN (Memory.writeN m a n v) b j = Memory.readN m b j :=
  Memory.readN_congr fun _ h1 h2 => Memory.get_writeN_out h a n v (by omega)

/-- A scratchpad's key names its core, partition and offset. -/
theorem spadKey_inj {c p off c' p' off' : Nat} (hp : p < 16) (hp' : p' < 16) (ho : off < 2 ^ 20) (ho' : off' < 2 ^ 20)
    (h : spadKey c p off = spadKey c' p' off') : c = c' ∧ p = p' ∧ off = off' := by
  unfold spadKey at h; omega

theorem spadKey_ne_physical {c p off pa : Nat} (hpa : pa < 2 ^ 56) : spadKey c p off ≠ pa := by
  unfold spadKey; omega

theorem spadKey_ne_flashKey {c p off blk x : Nat} (hc : c < 2 ^ 11) (hp : p < 16) (ho : off < 2 ^ 20) : spadKey c p off ≠ flashKey blk x := by
  unfold spadKey flashKey; omega

theorem physical_ne_flashKey {pa blk x : Nat} (hpa : pa < 2 ^ 56) : pa ≠ flashKey blk x := by
  unfold flashKey; omega

end Sys2Proof.Machine

open Sys2Proof.Machine

/-- Settles O57: reading back by induction on the bytes, and the keys by their ranges. -/
theorem memoryReadsBackWhatIsWritten : Obligations.MemoryReadsBackWhatIsWritten := by
  unfold Obligations.MemoryReadsBackWhatIsWritten
  refine ⟨fun m a n v h => ⟨?_, ?_, ?_, ?_⟩, fun c p off c' p' off' pa blk x ho ho' hp hp' hc hpa => ⟨?_, ?_, ?_, ?_⟩⟩
  · exact Memory.readN_writeN_self h a n v
  · exact Memory.wf_writeN h a n v
  · exact fun _ hb => Memory.get_writeN_out h a n v hb
  · exact fun _ _ hb => Memory.readN_writeN_out h a n v hb
  · exact spadKey_inj hp hp' ho ho'
  · exact spadKey_ne_physical hpa
  · exact spadKey_ne_flashKey hc hp ho
  · exact physical_ne_flashKey hpa

end

section
/-! What scalar loads, stores and atomics answer where their bytes lie in the executing core's own scratchpad (R173, R329, R335, R336). -/
namespace Sys2Proof.Machine

/-- A scalar type has whole bytes (R248, R328). -/
theorem width_of_bytes {ty : Ty} (h : ty.isScalar = true) : 8 * (ty.width / 8) = ty.width := by
  revert h; cases ty <;> decide

theorem bytes_pos {ty : Ty} (h : ty.isScalar = true) : 0 < ty.width / 8 := by
  revert h; cases ty <;> decide

/-- The bytes of a scalar type hold a value of that type. -/
theorem State.spadRead_lt {ty : Ty} (h : ty.isScalar = true) (s : State) (c off : Nat) : s.spadRead c off (ty.width / 8) < 2 ^ ty.width := by
  have hlt := Memory.readN_lt s.mem (spadKey c (s.core c).active off) (ty.width / 8)
  rwa [width_of_bytes h] at hlt

/-- The parts of an access in the own scratchpad that nothing holds back. -/
theorem State.ownBytes_parts {s : State} {va n off : Nat} (h : s.ownBytes va n off = true) :
    (va / 2 ^ 48 = 0xFD ∨ va / 2 ^ 48 = 0xFE) ∧ va % n = 0 ∧ windowPlace s.ic va n = some (.own off) ∧ s.spillMeets s.ic off n = false
      ∧ s.marked s.ic off n = false ∧ s.guarded s.ic off n = false ∧ s.badSpad s.ic off n = false := by
  simpa only [State.ownBytes, Bool.and_eq_true, Bool.or_eq_true, beq_iff_eq, Bool.not_eq_true', and_assoc] using h

/-- The addresses of the local and mesh windows lie below 2^56. -/
theorem eaNat_window {va : Nat} (h : va / 2 ^ 48 = 0xFD ∨ va / 2 ^ 48 = 0xFE) : eaNat va = .inl va :=
  if_pos (by omega)

/-- An access to own bytes is found at their offset, and finding it changes nothing (R173, R325). -/
theorem State.locate_own {s : State} {va n off : Nat} (h : s.ownBytes va n off = true) (k : Nat) (a : Access) :
    s.locate s.ic k (.inl va) n n a = .at_ (.own off) s := by
  obtain ⟨hr, halign, hplace, hspill, -, -, -⟩ := s.ownBytes_parts h
  have hff : va / 2 ^ 48 ≠ 0xFF := by omega
  have hfd : 0xFD ≤ va / 2 ^ 48 := by omega
  simp [-Nat.reducePow, State.locate, hff, hfd, halign, hplace, hspill]

/-- An address in the own scratchpad is none of the control window (R325). -/
theorem ctlCheck_own {s : State} {va n off : Nat} {ea : State → Nat ⊕ Nat} (he : ea s = .inl va) (h : s.ownBytes va n off = true) :
    ctlCheck ea s = none := by
  obtain ⟨hr, -⟩ := s.ownBytes_parts h
  have hff : va / 2 ^ 48 ≠ 0xFF := by omega
  simp [-Nat.reducePow, ctlCheck, he, hff]

/-- A whole value placed in an empty one. -/
theorem placeBits_zero {n v : Nat} (hn : 0 < n) (hv : v < 2 ^ (8 * n)) : placeBits 0 v n 0 0 = v := by
  have hlen : 8 * n - 1 + 1 = 8 * n := by omega
  simp [placeBits, setBits, bits, hlen, Nat.mod_eq_of_lt hv]

/-- A load of own bytes, which is one part, reads them at once. -/
theorem State.loadChunks_own {s : State} {va n off : Nat} (h : s.ownBytes va n off = true) (hn : 0 < n) :
    s.loadChunks s.ic s.ik n [{ va := va, len := n, off := 0, nib := 0 }] { s := s, acc := 0, pieces := [], remote := false }
      = .done { s := s, acc := s.spadRead s.ic off n, pieces := [], remote := false } := by
  obtain ⟨hr, -, -, -, hmark, -, hbad⟩ := s.ownBytes_parts h
  have hval := placeBits_zero hn (Memory.readN_lt s.mem (spadKey s.ic (s.core s.ic).active off) n)
  simp [State.loadChunks, State.loadChunk, eaNat_window hr, s.locate_own h, hmark, hbad, LoadAcc.put, State.spadRead, hval]

/-- A scalar load of own bytes has its value at once (R329). -/
theorem State.loadScalar_own {s : State} {ty : Ty} {va off : Nat} (hty : ty.isScalar = true) (h : s.ownBytes va (ty.width / 8) off = true)
    (d : SReg) (fin : Finish) (f : State → State) :
    s.loadScalar ty d va fin f = .ok (f (s.putVar s.ic s.ik d (ty.widen (s.spadRead s.ic off (ty.width / 8))) 1)) := by
  have hload := s.loadChunks_own h (bytes_pos hty)
  simp only [State.loadScalar, Bytes]
  rw [loadRes_done fin _ hload rfl]

/-- A scalar store to own bytes is performed at once (R329). -/
theorem State.storeScalar_own {s : State} {ty : Ty} {va off : Nat} (h : s.ownBytes va (ty.width / 8) off = true) (v : Nat) (f : State → State) :
    s.storeScalar ty va v f = .ok (f (s.spadStore s.ic off (ty.width / 8) (v % 2 ^ ty.width))) := by
  obtain ⟨hr, -, -, -, hmark, hguard, -⟩ := s.ownBytes_parts h
  have hcheck : s.storeCheck s.ic s.ik (Bytes ty) [({ va := va, len := Bytes ty, off := 0, nib := 0 }, v % 2 ^ ty.width)] s []
      = .done s [{ place := .own off, va := va, len := Bytes ty, val := v % 2 ^ ty.width, nib := 0 }] := by
    simp [State.storeCheck, eaNat_window hr, Bytes, s.locate_own h, hmark, hguard]
  exact storeRes_done f hcheck

/-- An atomic on own bytes stores its new value, if it has one, and gives the old one to its register (R335, R336). -/
theorem State.atomicRes_own {s : State} {ty : Ty} {va off : Nat} (h : s.ownBytes va (ty.width / 8) off = true)
    (op : Nat) (far : Bool) (d : SReg) (b r : Nat) :
    s.atomicRes s.ic s.ik (.inl va) op ty far d b r =
      .ok (((atomicNew op ty (s.spadRead s.ic off (ty.width / 8)) b r).elim s (s.spadStore s.ic off (ty.width / 8))).putVar s.ic s.ik d
        (atomicOld ty (s.spadRead s.ic off (ty.width / 8))) 1) := by
  obtain ⟨-, -, -, -, hmark, hguard, hbad⟩ := s.ownBytes_parts h
  cases hnew : atomicNew op ty (s.spadRead s.ic off (ty.width / 8)) b r <;>
    simp [State.atomicRes, s.locate_own h, hmark, hguard, hbad, hnew]

/-! ### The instructions -/

/-- LD of own bytes (R329). -/
theorem exec_ld_own {c : Ctl} {ty : Ty} {d a b : SReg} {disp : BitVec 48} {s : State} {va off : Nat} (hty : ty.isScalar = true)
    (he : s.ea a b disp = .inl va) (h : s.ownBytes va (ty.width / 8) off = true) (hc : s.clear c.pred [.scal a, .scal b] [.scal d] = true) :
    exec (.ld c ty d a b disp) s
      = .next (s.completes (s.later d (ty.widen (s.spadRead s.ic off (ty.width / 8))) 1) c.stall [.scal a, .scal b]) :=
  next_ok _ _ _ _ hc (ctlCheck_own he h) (by rw [eaVal_inl he, s.loadScalar_own hty h]; rfl)

/-- ST to own bytes (R329). -/
theorem exec_st_own {c : Ctl} {ty : Ty} {a b r : SReg} {disp : BitVec 48} {s : State} {va off : Nat}
    (he : s.ea a b disp = .inl va) (h : s.ownBytes va (ty.width / 8) off = true) (hc : s.clear c.pred [.scal a, .scal b, .scal r] [] = true) :
    exec (.st c ty a b r disp) s
      = .next (s.completes (s.spadStore s.ic off (ty.width / 8) (s.rs r % 2 ^ ty.width)) c.stall [.scal a, .scal b, .scal r]) :=
  next_ok _ _ _ _ hc (ctlCheck_own he h) (by rw [eaVal_inl he, s.storeScalar_own h]; rfl)

/-- AMO on own bytes (R335, R336). -/
theorem exec_amo_own {c : Ctl} {ty : Ty} {op : BitVec 3} {far : Bool} {d a b : SReg} {disp : BitVec 48} {s : State} {va off : Nat}
    (he : s.ea a 0 disp = .inl va) (h : s.ownBytes va (ty.width / 8) off = true) (hc : s.clear c.pred [.scal a, .scal b] [.scal d] = true) :
    exec (.amo c ty op far d a b disp) s = .next (s.completes
      (((atomicNew op.toNat ty (s.spadRead s.ic off (ty.width / 8)) (s.rs b) 0).elim s (s.spadStore s.ic off (ty.width / 8))).putVar s.ic s.ik d
        (atomicOld ty (s.spadRead s.ic off (ty.width / 8))) 1) c.stall [.scal a, .scal b]) :=
  next_ok _ _ _ _ hc (ctlCheck_own he h) (by rw [he, s.atomicRes_own h])

/-- CAS on own bytes (R335, R336). -/
theorem exec_cas_own {c : Ctl} {ty : Ty} {far : Bool} {d a b r : SReg} {disp : BitVec 48} {s : State} {va off : Nat}
    (he : s.ea a 0 disp = .inl va) (h : s.ownBytes va (ty.width / 8) off = true)
    (hc : s.clear c.pred [.scal a, .scal b, .scal r] [.scal d] = true) :
    exec (.cas c ty far d a b r disp) s = .next (s.completes
      (((atomicNew 8 ty (s.spadRead s.ic off (ty.width / 8)) (s.rs b) (s.rs r)).elim s (s.spadStore s.ic off (ty.width / 8))).putVar s.ic s.ik d
        (atomicOld ty (s.spadRead s.ic off (ty.width / 8))) 1) c.stall [.scal a, .scal b, .scal r]) :=
  next_ok _ _ _ _ hc (ctlCheck_own he h) (by rw [he, s.atomicRes_own h])

/-! ### The operations (R336) -/

/-- A compare and swap stores where the old value, which fits its type, is the one expected. -/
theorem atomicNew_cas {ty : Ty} {old : Nat} (ho : old < 2 ^ ty.width) (b r : Nat) :
    atomicNew 8 ty old b r = if old = b % 2 ^ ty.width then some (r % 2 ^ ty.width) else none := by
  simp [atomicNew, Nat.mod_eq_of_lt ho]

/-- What AMO's sum, AND, OR, XOR and exchange store. -/
theorem atomicNew_arithmetic {ty : Ty} {old b : Nat} (ho : old < 2 ^ ty.width) (hb : b < 2 ^ ty.width) :
    atomicNew 0 ty old b 0 = some ((old + b) % 2 ^ ty.width) ∧ atomicNew 1 ty old b 0 = some (old &&& b)
      ∧ atomicNew 2 ty old b 0 = some (old ||| b) ∧ atomicNew 3 ty old b 0 = some (old ^^^ b) ∧ atomicNew 4 ty old b 0 = some b := by
  simp [atomicNew, Nat.mod_eq_of_lt ho, Nat.mod_eq_of_lt hb]

theorem atomicNew_lesser {ty : Ty} {old b : Nat} (ho : old < 2 ^ ty.width) (hb : b < 2 ^ ty.width) :
    atomicNew 5 ty old b 0 = some (if decI ty old < decI ty b then old else b) := by
  simp [atomicNew, Nat.mod_eq_of_lt ho, Nat.mod_eq_of_lt hb]

theorem atomicNew_greater {ty : Ty} {old b : Nat} (ho : old < 2 ^ ty.width) (hb : b < 2 ^ ty.width) :
    atomicNew 6 ty old b 0 = some (if decI ty old < decI ty b then b else old) := by
  simp [atomicNew, Nat.mod_eq_of_lt ho, Nat.mod_eq_of_lt hb]

end Sys2Proof.Machine

open Sys2Proof Sys2Proof.Machine

/-- Settles O14: each instruction's answer on own bytes, and the operations one by one. -/
theorem ownScratchpadAccesses : Obligations.OwnScratchpadAccesses := by
  unfold Obligations.OwnScratchpadAccesses
  constructor
  · intro c ty op far d a b r disp s va off n hty
    refine ⟨?ld, ?st, ?amo, ?cas⟩
    case ld => exact fun he h hc => exec_ld_own hty he h hc
    case st => exact fun he h hc => exec_st_own he h hc
    case amo =>
      intro he h hc
      rw [exec_amo_own he h hc]
      cases atomicNew op.toNat ty (s.spadRead s.ic off (ty.width / 8)) (s.rs b) 0 <;> rfl
    case cas =>
      intro he h hc
      rw [exec_cas_own he h hc, atomicNew_cas (s.spadRead_lt hty s.ic off)]
      by_cases heq : s.spadRead s.ic off (ty.width / 8) = s.rs b % 2 ^ ty.width <;> simp [heq, n]
  · intro ty old b _ ho hb
    obtain ⟨hadd, hand, hor, hxor, hswap⟩ := atomicNew_arithmetic ho hb
    refine ⟨hadd, hand, hor, hxor, hswap, ⟨_, atomicNew_lesser ho hb, ?_⟩, ⟨_, atomicNew_greater ho hb, ?_⟩⟩
    all_goals split_ifs with hlt
    all_goals simp; omega

/-! ### An atomic whose destination is CSW -/

namespace Sys2Proof.Machine

/-- A firing of partition 1 runs on core 0 with its workspace at 0x1000; its scratchpad holds a word of value 1 at 0x8000, and zeros elsewhere. -/
def stateBeforeAmoToCsw : State :=
  { mem := [(spadKey 0 1 0x8000, 1)]
    cores := [(0, { period := 336, active := 1 })]
    ctxs := [(0, { firing := some { handle := 5, lid := 7, part := 1, handler := false, wsize := 74, ydl := 0 }
                   pc := 0x10000C, wptr := 0x1000, asid := 1 })] }

end Sys2Proof.Machine

/-- Refutes O59: an atomic whose destination is CSW, specifier 61, writes that word of the workspace at once (R306), which lies apart from its
operand. Here AMO at 0x8000 finds the value 1 there and so sets CHK of the CSW at 0x1200. -/
theorem not_storesLeaveTheRest : ¬ Obligations.StoresLeaveTheRest := by
  unfold Obligations.StoresLeaveTheRest
  intro hall
  have hea : stateBeforeAmoToCsw.ea 32 0 0x8000 = .inl 0xFE000000008000 := by decide
  have hown : stateBeforeAmoToCsw.ownBytes 0xFE000000008000 8 0x8000 = true := by decide
  have hclear : stateBeforeAmoToCsw.clear (some (0, false)) [.scal 32, .scal 0] [.scal 61] = true := by decide
  have hamo := exec_amo_own (c := ⟨0, 0, false⟩) (ty := .i64) (op := 0) (far := false) hea hown hclear
  obtain ⟨-, hrest⟩ := hall ⟨0, 0, false⟩ .i64 0 false 61 32 0 0 0x8000
    stateBeforeAmoToCsw _ _ _ rfl rfl (by decide) (by decide) (by decide) hown
  obtain ⟨-, hatomic, -⟩ := hrest (by decide)
  obtain ⟨⟨hbytes, -⟩, -⟩ := hatomic hea hclear hamo
  exact absurd (hbytes (spadKey 0 1 0x1200) (by decide)) (by decide)

end

section
/-! Every meaning ends in a next state (R9). -/
namespace Sys2Proof.Machine

/-- A target of MOD runs as its instruction does by itself, in the state that holds the modifiers (R284, R285). -/
theorem modTarget_run {i : Instr} {a : Accepts} {run : State → Host.Outcome State Fault Refusal} (h : modTarget i = some (a, run)) :
    run = exec i := by
  unfold modTarget at h
  split at h
  all_goals cases h
  all_goals rfl

theorem execVmovs_next (c : Ctl) (ty : Ty) (dir : MovsDir) (b : SReg) (s : State) : ∃ t, execVmovs c ty dir b s = .next t := by
  cases dir <;> exact ⟨_, rfl⟩

theorem execKset_next (c : Ctl) (d : SReg) (src : KsetArg) (s : State) : ∃ t, execKset c d src s = .next t := by
  cases src <;> exact ⟨_, rfl⟩

/-- Every meaning but MOD's, which may run that of another instruction, ends in a next state. -/
theorem exec_next_of_ne_mod {i : Instr} (hi : ∀ m, i ≠ .mod m) (s : State) : ∃ t, exec i s = .next t := by
  cases i with
  | mod m => exact absurd rfl (hi m)
  | vmovs c ty dir b => exact execVmovs_next c ty dir b s
  | kset c d src => exact execKset_next c d src s
  | _ => exact ⟨_, rfl⟩

/-- MOD traps, or runs a target, which is no MOD. -/
theorem execMod_next (m : ModWord) (s : State) : ∃ t, execMod m s = .next t := by
  unfold execMod
  split
  · exact ⟨_, rfl⟩
  · split
    · exact ⟨_, rfl⟩
    · split
      · exact ⟨_, rfl⟩
      · rename_i i _ _ _ htarget
        split_ifs
        · exact ⟨_, rfl⟩
        · rw [modTarget_run htarget]
          refine exec_next_of_ne_mod (fun m' hi => ?_) _
          subst hi
          cases htarget

theorem exec_next (i : Instr) (s : State) : ∃ t, exec i s = .next t := by
  by_cases hi : ∃ m, i = .mod m
  · obtain ⟨m, rfl⟩ := hi
    exact execMod_next m s
  · exact exec_next_of_ne_mod (not_exists.mp hi) s

theorem stepIssue_next (s : State) (c k : Nat) : ∃ t, stepIssue s c k = .next t := by
  unfold stepIssue
  split
  · exact ⟨_, rfl⟩
  · rename_i i t line _
    obtain ⟨u, hu⟩ := exec_next i t
    exact ⟨_, by rw [stepRun, hu]⟩

theorem stepOn_next (s : State) : ∃ t, stepOn s = .next t := by
  unfold stepOn
  split
  · exact exec_next _ _
  · split
    · exact stepIssue_next _ _ _
    · split
      · exact exec_next _ _
      · exact ⟨_, rfl⟩

end Sys2Proof.Machine

open Sys2Proof.Machine

/-- Settles O53: an operation of the agenda, an input, an event, an issue and the passing of time each answer a next state. -/
theorem everyStepGoesOn : Obligations.EveryStepGoesOn := by
  unfold Obligations.EveryStepGoesOn
  intro s
  unfold step
  split
  · exact exec_next _ _
  · split
    · exact ⟨_, rfl⟩
    · exact stepOn_next s

/-- Settles O54: the fields of the reset state, whose tables of contexts, cores, actors and partitions are empty. -/
theorem resetState : Obligations.ResetState := by
  unfold Obligations.ResetState
  exact ⟨rfl, fun _ _ => rfl, rfl, fun _ => rfl, fun _ => ⟨rfl, rfl, rfl⟩, by decide, rfl, rfl, fun _ _ _ => rfl⟩

end

end

section
/-! The proofs of the statements on the package and its links: messages, queues, bring-up, hosts and links. -/

-- As above: the proofs are elaborated one after another. Every section variable below is named by the statements that use it, or included.
set_option deprecated.oldSectionVars true

section
/-! The delivery of messages: which event delivers one, and what its destination does with it (R22 to R28, R129, R184). -/
namespace Sys2Proof.Machine

/-! ### The event of a message -/

/-- The opcode of a message names its channel (R27). -/
theorem channel_of_opOnChannel {ch op : Nat} (h : opOnChannel ch op = true) : ch = op / 16 := by
  simp only [opOnChannel, Bool.or_eq_true, Bool.and_eq_true, beq_iff_eq, decide_eq_true_eq] at h
  omega

/-- A message of this package that the rules form, and that no forwarding record of its core takes: its opcode names its event. -/
structure State.Formed (s : State) (m : Msg) : Prop where
  ep : epOk m.dst = true
  channel : opOnChannel m.ch m.op = true
  here : m.dpkg = s.fw.package
  unmoved : epIsCore m.dst = true → s.forwardOf (coreOfEp m.dst) m = none

/-- The opcodes whose event needs no other field of the message. -/
def plainEvents : List (Nat × Instr) :=
  [(0x01, .readWithLease), (0x02, .writeThroughToHome), (0x11, .dataWithWriteTime), (0x12, .writeAcknowledgement), (0x14, .coherentNack),
   (0x21, .remoteScratchpadLoad), (0x22, .remoteLoadData), (0x23, .remoteScratchpadStore), (0x25, .registerDeposit), (0x26, .activeMessage),
   (0x27, .portCountAdvance), (0x28, .dependenceDecrement), (0x29, .windowNack), (0x31, .placement), (0x32, .trapOrFaultMessage),
   (0x34, .kettleReadyMessage), (0x37, .pageInDone)]

theorem State.portOf_here {s : State} {m : Msg} (h : m.dpkg = s.fw.package) : s.portOf m = none := if_pos h

/-- None of the three events that go before the opcode's takes a formed message. -/
theorem State.Formed.checks {s : State} {m : Msg} (h : s.Formed m) :
    (!epOk m.dst || !opOnChannel m.ch m.op) = false ∧ ((s.portOf m).any fun i => !s.portUp i) = false
      ∧ ((s.portOf m).isNone && epIsCore m.dst && m.ch == 2 && (s.forwardOf (coreOfEp m.dst) m).isSome) = false := by
  refine ⟨by simp [h.ep, h.channel], by simp [s.portOf_here h.here], ?_⟩
  cases hcore : epIsCore m.dst with
  | false => simp
  | true => simp [h.unmoved hcore]

theorem State.Formed.msgEvent_plain {s : State} {m : Msg} (h : s.Formed m) {op : Nat} {i : Instr} (hop : m.op = op)
    (hi : (op, i) ∈ plainEvents := by simp [plainEvents]) : s.msgEvent m = i := by
  obtain ⟨hform, hport, hfwd⟩ := h.checks
  simp only [State.msgEvent, hform, hport, hfwd]
  subst hop
  generalize m.op = op at hi
  simp only [plainEvents, List.mem_cons, Prod.mk.injEq, List.not_mem_nil, or_false] at hi
  rcases hi with ⟨rfl, rfl⟩ | ⟨rfl, rfl⟩ | ⟨rfl, rfl⟩ | ⟨rfl, rfl⟩ | ⟨rfl, rfl⟩ | ⟨rfl, rfl⟩ | ⟨rfl, rfl⟩ | ⟨rfl, rfl⟩ | ⟨rfl, rfl⟩ | ⟨rfl, rfl⟩
    | ⟨rfl, rfl⟩ | ⟨rfl, rfl⟩ | ⟨rfl, rfl⟩ | ⟨rfl, rfl⟩ | ⟨rfl, rfl⟩ | ⟨rfl, rfl⟩ | ⟨rfl, rfl⟩
  all_goals rfl

/-- An atomic, or a barrier operation in memory, by its size word. -/
theorem State.Formed.msgEvent_atomic {s : State} {m : Msg} (h : s.Formed m) (hop : m.op = 0x03) :
    s.msgEvent m = if m.size = 0x1000 then barEvent m else .farAtomic := by
  obtain ⟨hform, hport, hfwd⟩ := h.checks
  simp only [State.msgEvent, hform, hport, hfwd]
  simp [hop]

theorem State.Formed.msgEvent_writeBack {s : State} {m : Msg} (h : s.Formed m) (hop : m.op = 0x04) : s.msgEvent m = .writeBack (m.taddr / 64) := by
  obtain ⟨hform, hport, hfwd⟩ := h.checks
  simp only [State.msgEvent, hform, hport, hfwd]
  simp [hop]

/-- The answer to a far atomic, or to a BWAIT at a barrier in memory. -/
theorem State.Formed.msgEvent_atomicResult {s : State} {m : Msg} (h : s.Formed m) (hop : m.op = 0x13) :
    s.msgEvent m = if s.isBwaitReply m then .bwaitReply else .farAtomicResult := by
  obtain ⟨hform, hport, hfwd⟩ := h.checks
  simp only [State.msgEvent, hform, hport, hfwd]
  simp [hop]

/-- The acknowledgement of a store, or the answer to a BWAIT at a barrier in a scratchpad. -/
theorem State.Formed.msgEvent_acknowledgement {s : State} {m : Msg} (h : s.Formed m) (hop : m.op = 0x24) :
    s.msgEvent m = if s.isBwaitReply m then .bwaitReply else .remoteStoreAcknowledgement := by
  obtain ⟨hform, hport, hfwd⟩ := h.checks
  simp only [State.msgEvent, hform, hport, hfwd]
  simp [hop]

/-- An engine's reply, or a barrier operation in a scratchpad. -/
theorem State.Formed.msgEvent_reply {s : State} {m : Msg} (h : s.Formed m) (hop : m.op = 0x33) :
    s.msgEvent m = if bits m.arg 63 60 = 0 || m.size != 0x1000 then .engineReply else barEvent m := by
  obtain ⟨hform, hport, hfwd⟩ := h.checks
  simp only [State.msgEvent, hform, hport, hfwd]
  simp [hop]

/-! ### Delivery -/

/-- An event that delivers the message in focus leaves what its destination makes of it. -/
theorem exec_delivery {s t : State} {m : Msg} {i : Instr} (hx : exec i s = nextState (s.runMsg i)) (hf : s.focusMsg = some m) (he : s.msgEvent m = i)
    (hd : s.deliver m = some t) : exec i s = .next t := by
  rw [hx]
  simp only [State.runMsg, hf, he, hd, if_true]
  rfl

theorem exec_writeBack_delivery {s t : State} {m : Msg} {line : Nat} (hf : s.focusMsg = some m) (he : s.msgEvent m = .writeBack line)
    (hd : s.deliver m = some t) : exec (.writeBack line) s = .next t := by
  show nextState _ = _
  simp only [hf, he, hd, if_true]
  rfl

/-- The event of every barrier message delivers it. -/
theorem exec_barEvent (m : Msg) (s : State) : exec (barEvent m) s = nextState (s.runMsg (barEvent m)) := by
  simp only [barEvent]
  split_ifs <;> rfl

/-- A core of this package takes a message itself. -/
theorem State.deliver_core {s : State} {m : Msg} (hhere : m.dpkg = s.fw.package) (hcore : epIsCore m.dst = true) :
    s.deliver m = s.atCore (coreOfEp m.dst) m := by
  simp [State.deliver, s.portOf_here hhere, hcore]

/-- A coherent request goes to the home of its line (R188, R210). -/
theorem State.deliver_home {s : State} {m : Msg} (hhere : m.dpkg = s.fw.package) (hcore : epIsCore m.dst = false) (hport : m.dst % 8 ≠ 6)
    (hsound : m.poison = false) (hch : m.ch = 0) (hop : m.op ≤ 4) : s.deliver m = s.homeMsg m := by
  have hop22 : m.op ≠ 0x22 ∧ m.op ≠ 0x24 ∧ m.op ≠ 0x26 ∧ m.op ≠ 0x29 := by omega
  simp [State.deliver, s.portOf_here hhere, hcore, hport, hsound, hch, hop22]

/-! ### What a line's home does with a request (R188, R210, R213) -/

theorem State.homeMsg_wrongHome {s : State} {m : Msg} (h : s.wrongHome m = true) :
    s.homeMsg m = some ((s.take m).send { m with src := m.dst, dst := m.src, ch := 1, op := 0x14, re := m.id }) := if_pos h

section
variable {s : State} {m : Msg} (hhome : s.wrongHome m = false) (hopen : s.dramShut m.taddr = false)
include hhome hopen

theorem State.homeMsg_read (hop : m.op = 1) : s.homeMsg m = some ((s.take m).homeReadMsg m) := by
  simp [State.homeMsg, hhome, hopen, hop]

theorem State.homeMsg_write (hop : m.op = 2) : s.homeMsg m = some ((s.take m).homeWriteMsg m) := by
  simp [State.homeMsg, hhome, hopen, hop]

theorem State.homeMsg_writeBack (hop : m.op = 4) : s.homeMsg m = some ((s.take m).writeBackLine (m.taddr / 64)) := by
  simp [State.homeMsg, hhome, hopen, hop]

theorem State.homeMsg_barrier (hop : m.op = 3) (hsize : m.size = 0x1000) : s.homeMsg m = some ((s.take m).barMsg m) := by
  simp [State.homeMsg, hhome, hopen, hop, hsize]

theorem State.homeMsg_atomic (hop : m.op = 3) (hsize : m.size ≠ 0x1000) : s.homeMsg m = some ((s.take m).homeAtomicMsg m) := by
  simp [State.homeMsg, hhome, hopen, hop, hsize]

end

/-! ### What a core does with a request (R128 to R130, R184) -/

/-- A message in focus that the rules form and that has come to an awake core of this package. -/
structure State.AtAwakeCore (s : State) (m : Msg) : Prop where
  focus : s.focusMsg = some m
  ep : epOk m.dst = true
  core : epIsCore m.dst = true
  here : m.dpkg = s.fw.package
  channel : opOnChannel m.ch m.op = true
  awake : s.dieAwake (coreDie (coreOfEp m.dst)) = true

/-- A sound one, where no forwarding record takes it. -/
structure State.RequestAtCore (s : State) (m : Msg) : Prop extends s.AtAwakeCore m where
  sound : m.poison = false
  unmoved : s.forwardOf (coreOfEp m.dst) m = none

theorem State.RequestAtCore.formed {s : State} {m : Msg} (h : s.RequestAtCore m) : s.Formed m :=
  ⟨h.ep, h.channel, h.here, fun _ => h.unmoved⟩

/-- The opcodes of the requests that a core's gate looks at. -/
def gatedOps : List Nat := [0x21, 0x23, 0x25, 0x26, 0x27, 0x28, 0x33, 0x34]

/-- An awake core looks at a sound request through its gate. -/
theorem State.atCore_request {s : State} {c : Nat} {m : Msg} (hawake : s.dieAwake (coreDie c) = true) (hsound : m.poison = false)
    (hchannel : opOnChannel m.ch m.op = true) (hop : m.op ∈ gatedOps) : s.atCore c m = s.gated c m := by
  have hch := channel_of_opOnChannel hchannel
  simp only [gatedOps, List.mem_cons, List.not_mem_nil, or_false] at hop
  have hsystem : m.op ≠ 0x31 ∧ m.op ≠ 0x32 ∧ m.op ≠ 0x37 := by omega
  have hanswer : m.ch ≠ 1 ∧ m.op ≠ 0x22 ∧ m.op ≠ 0x24 ∧ m.op ≠ 0x29 := by omega
  simp [State.atCore, hawake, hsound, hsystem, hanswer]

theorem State.RequestAtCore.deliver_eq {s : State} {m : Msg} (h : s.RequestAtCore m) (hop : m.op ∈ gatedOps) :
    s.deliver m = s.gated (coreOfEp m.dst) m := by
  rw [s.deliver_core h.here h.core, s.atCore_request h.awake h.sound h.channel hop]

/-- A request whose opcode names its event leaves what the core makes of it. -/
theorem State.RequestAtCore.exec_gated {s t : State} {m : Msg} (h : s.RequestAtCore m) {op : Nat} {i : Instr}
    (hx : exec i s = nextState (s.runMsg i)) (hop : m.op = op) (ht : s.gated (coreOfEp m.dst) m = some t)
    (hi : (op, i) ∈ plainEvents := by simp [plainEvents]) (hgate : op ∈ gatedOps := by simp [gatedOps]) : exec i s = .next t :=
  exec_delivery hx h.focus (h.formed.msgEvent_plain hop hi) ((h.deliver_eq (hop ▸ hgate)).trans ht)

/-- The counted requests and the events that deliver them (R125, R130). -/
def countedEvents : List (Nat × Instr) :=
  [(0x21, .remoteScratchpadLoad), (0x23, .remoteScratchpadStore), (0x25, .registerDeposit), (0x26, .activeMessage), (0x27, .portCountAdvance),
   (0x28, .dependenceDecrement)]

theorem counted_ne_ready {e : Nat × Instr} (he : e ∈ countedEvents) : e.1 ≠ 0x34 := by
  simp only [countedEvents, List.mem_cons, List.not_mem_nil, or_false] at he
  rcases he with rfl | rfl | rfl | rfl | rfl | rfl
  all_goals decide

theorem State.RequestAtCore.exec_counted {s t : State} {m : Msg} (h : s.RequestAtCore m) {e : Nat × Instr} (he : e ∈ countedEvents)
    (hop : m.op = e.1) (ht : s.gated (coreOfEp m.dst) m = some t) : exec e.2 s = .next t := by
  simp only [countedEvents, List.mem_cons, List.not_mem_nil, or_false] at he
  rcases he with rfl | rfl | rfl | rfl | rfl | rfl
  all_goals exact h.exec_gated rfl hop ht

theorem State.gated_park {s : State} {c : Nat} {m : Msg} (h : s.gate c m = .park) : s.gated c m = some ((s.take m).park m) := by
  simp [State.gated, h]

theorem State.gated_refuse {s : State} {c : Nat} {m : Msg} {r : Nat} (h : s.gate c m = .refuse r) (hop : m.op ≠ 0x34) :
    s.gated c m = some ((s.received c m).refuse m r) := by
  simp [State.gated, h, hop]

/-- A request that passes the gate is the core's, unless it is a count (R107, R108). -/
theorem State.gated_pass {s : State} {c : Nat} {m : Msg} (h : s.gate c m = .pass) (hadv : m.op ≠ 0x27) (hdec : m.op ≠ 0x28) :
    s.gated c m = s.coreMsg c m := by
  simp [State.gated, h, hadv, hdec]

/-- A count for an actor that is not placed on another core acts on its record here, where its port table can be read (R107, R108, R129). -/
theorem State.gated_count {s : State} {c : Nat} {m : Msg} (h : s.gate c m = .pass) (hop : m.op = 0x27 ∨ m.op = 0x28)
    (hshut : m.op = 0x27 → s.anyShut m.part [dPorts (s.keep m.taddr).desc] = false)
    (hplaced : ∀ e, s.dirOf m.taddr = some e → e.loc = 2 → e.home = c) : s.gated c m = some ((s.received c m).recordMsg m) := by
  have hopen : (decide (m.op = 0x27) && s.anyShut m.part [dPorts (s.keep m.taddr).desc]) = false := by
    by_cases h27 : m.op = 0x27
    · simp [hshut h27]
    · simp [h27]
  have hcount : (decide (m.op = 0x27) || decide (m.op = 0x28)) = true := by simpa using hop
  cases hdir : s.dirOf m.taddr with
  | none => simp [State.gated, h, hdir, hopen, hcount]
  | some e =>
    have hhome : (decide (e.loc = 2) && e.home != c) = false := by
      by_cases hloc : e.loc = 2
      · simp [hplaced e hdir hloc]
      · simp [hloc]
    simp only [State.gated, h, hdir, hopen, hcount, hhome, Bool.false_eq_true, if_false, if_true]

/-! ### What a core does with a request that passes its gate -/

section
variable {s : State} {c : Nat} {m : Msg}

/-- A remote load that nothing marks (R184, R205): the bytes where a window grants them, with POISON where they are known to be bad. -/
theorem State.coreMsg_load (hop : m.op = 0x21) (hafter : m.after ≤ s.now) (hmark : s.marked c (m.taddr % 2 ^ 32) m.size = false) :
    s.coreMsg c m = some (
      if s.granted c (m.taddr % 2 ^ 32) m.size false m = false then (s.received c m).refuse m 0
      else if s.badSpad c (m.taddr % 2 ^ 32) m.size then (s.received c m).send
        { id := 0, src := m.dst, dst := m.src, part := m.part, ch := 2, op := 0x22, re := m.id, taddr := m.taddr, ctx := m.ctx, lid := m.lid, poison := true }
      else (s.received c m).answerMsg m 0x22 0 (toBytes m.size (s.spadRead c (m.taddr % 2 ^ 32) m.size))) := by
  have hwait : (decide (s.now < m.after) || s.marked c (m.taddr % 2 ^ 32) m.size) = false := by simp [-Nat.reducePow, hafter, hmark]
  simp only [State.coreMsg, hop, if_true, hwait, Bool.false_eq_true, if_false, Bool.not_eq_true']
  split_ifs <;> rfl

/-- A remote store that nothing marks (R184, R205): performed and acknowledged where a window grants it. -/
theorem State.coreMsg_store (hop : m.op = 0x23) (hafter : m.after ≤ s.now) (hmark : s.marked c (m.taddr % 2 ^ 32) m.data.length = false) :
    s.coreMsg c m = some (
      if s.granted c (m.taddr % 2 ^ 32) m.data.length true m = false then (s.received c m).refuse m 0
      else ((s.received c m).spadStore c (m.taddr % 2 ^ 32) m.data.length
        (keepNib m.data.length (s.spadRead c (m.taddr % 2 ^ 32) m.data.length) (ofBytes m.data) m.keepLo m.keepHi)).answerMsg m 0x24 0) := by
  have hwait : (decide (s.now < m.after) || s.marked c (m.taddr % 2 ^ 32) m.data.length) = false := by simp [-Nat.reducePow, hafter, hmark]
  simp only [State.coreMsg, hop, hwait, Bool.false_eq_true, if_false, Bool.not_eq_true', Nat.reduceEqDiff, if_true]
  split_ifs <;> rfl

/-- A deposit is acknowledged, or refused for its reason (R185). -/
theorem State.coreMsg_deposit (hop : m.op = 0x25) :
    s.coreMsg c m = some (((s.received c m).deposit c (m.taddr % 2 ^ 32) m.arg).elim ((s.received c m).refuse m) fun u => u.answerMsg m 0x24 0) := by
  simp only [State.coreMsg, hop, Nat.reduceEqDiff, if_true, if_false]
  cases (s.received c m).deposit c (m.taddr % 2 ^ 32) m.arg <;> rfl

/-- A kettle-ready word is deposited, or told to the supervisor (R58). -/
theorem State.coreMsg_ready (hop : m.op = 0x34) :
    s.coreMsg c m = some (((s.received c m).deposit c (m.taddr % 2 ^ 32) m.arg).elim (fun _ => (s.received c m).readyUndelivered m) id) := by
  simp only [State.coreMsg, hop, Nat.reduceEqDiff, if_true, if_false]
  cases (s.received c m).deposit c (m.taddr % 2 ^ 32) m.arg <;> rfl

/-- An engine's reply goes to what waits for it (R221, R415). -/
theorem State.coreMsg_reply (hop : m.op = 0x33) (hreply : bits m.arg 63 60 = 0) :
    s.coreMsg c m = some ((s.received c m).fill c none m.re m.arg false) := by
  simp [State.coreMsg, hop, hreply]

/-- A barrier operation that nothing marks acts, where it is the core's own or a window grants it (R184, R344). -/
theorem State.coreMsg_barrier (hop : m.op = 0x33) (hbar : bits m.arg 63 60 ≠ 0) (hsize : m.size = 0x1000) (hafter : m.after ≤ s.now)
    (hmark : s.marked c (m.taddr % 2 ^ 32) 32 = false) :
    s.coreMsg c m = some (if m.src = epCore c ∨ s.granted c (m.taddr % 2 ^ 32) 32 true m = true then (s.received c m).barMsg m
      else (s.received c m).refuse m 0) := by
  have hwait : (decide (s.now < m.after) || s.marked c (m.taddr % 2 ^ 32) 32) = false := by simp [-Nat.reducePow, hafter, hmark]
  have hgrant : (m.src != epCore c && !s.granted c (m.taddr % 2 ^ 32) 32 true m) = true
      ↔ ¬(m.src = epCore c ∨ s.granted c (m.taddr % 2 ^ 32) 32 true m = true) := by simp
  have hoper : (decide (bits m.arg 63 60 = 0) || m.size != 0x1000) = false := by simp [hbar, hsize]
  simp only [State.coreMsg, hop, hoper, hwait, hgrant, ite_not, Nat.reduceEqDiff, decide_true, decide_false, Bool.true_and, Bool.or_false,
    Bool.false_eq_true, if_true, if_false]
  split_ifs <;> rfl

/-- An active message for an actor that is unknown or has exited (R129). -/
theorem State.coreMsg_active_gone (hop : m.op = 0x26) (hkind : bits m.arg 7 0 = 0) (hgone : ∀ e, s.dirOf m.taddr = some e → e.loc = 3) :
    s.coreMsg c m = some ((s.received c m).refuse m 1) := by
  cases hdir : s.dirOf m.taddr with
  | none => simp [State.coreMsg, hop, hkind, hdir]
  | some e => simp [State.coreMsg, hop, hkind, hdir, hgone e hdir]

/-- An active message makes a handler firing at its actor's home, with the three words of its body (R340). -/
theorem State.coreMsg_active_placed {e : DirEnt} {u : State} (hop : m.op = 0x26) (hkind : bits m.arg 7 0 = 0) (hdir : s.dirOf m.taddr = some e)
    (hloc : e.loc = 2) (hhome : e.home = c)
    (hu : (s.received c m).createHandler m.taddr (ofBytes (m.data.take 8)) (ofBytes ((m.data.drop 8).take 8)) (ofBytes ((m.data.drop 16).take 8))
      = some u) : s.coreMsg c m = some (u.answerMsg m 0x24 0) := by
  simp [State.coreMsg, hop, hkind, hdir, hloc, hhome, hu]

end

/-! ### Counts for an actor's record (R107, R108, R129) -/

theorem State.recordMsg_some {s u : State} {m : Msg}
    (h : (if m.op = 0x28 then s.applyDecr m.taddr (bits m.arg 31 0) m.lid else s.applyAdvance m.taddr m.arg m.lid) = some u) :
    s.recordMsg m = u.answerMsg m 0x24 0 := by
  simp [State.recordMsg, h]

theorem State.recordMsg_none {s : State} {m : Msg}
    (h : (if m.op = 0x28 then s.applyDecr m.taddr (bits m.arg 31 0) m.lid else s.applyAdvance m.taddr m.arg m.lid) = none) :
    s.recordMsg m = s.refuse m 1 := by
  simp [State.recordMsg, h]

end Sys2Proof.Machine

open Sys2Proof Sys2Proof.Machine

/-- Settles O35: each request by its event, what its home or its core's gate makes of it, and its operation. -/
theorem homesServeCoherentRequests : Obligations.HomesServeCoherentRequests := by
  unfold Obligations.HomesServeCoherentRequests
  constructor
  · intro m s hfocus hep hcore hhere hport hsound hch hopen
    have hformed (hop : 1 ≤ m.op ∧ m.op ≤ 4) : s.Formed m :=
      ⟨hep, by simp [opOnChannel, hch, hop], hhere, by simp [hcore]⟩
    have hdeliver (hop : m.op ≤ 4) : s.deliver m = s.homeMsg m := s.deliver_home hhere hcore hport hsound hch hop
    refine ⟨fun hhome => ⟨fun hop => ?read, fun hop => ?write, fun hop hsize => ?atomic, fun hop => ?back, fun hop hsize => ?barrier⟩,
      fun haway hop => ?wrong⟩
    case read =>
      exact exec_delivery rfl hfocus ((hformed (by omega)).msgEvent_plain hop)
        ((hdeliver (by omega)).trans (s.homeMsg_read hhome hopen hop))
    case write =>
      exact exec_delivery rfl hfocus ((hformed (by omega)).msgEvent_plain hop)
        ((hdeliver (by omega)).trans (s.homeMsg_write hhome hopen hop))
    case atomic =>
      exact exec_delivery rfl hfocus (((hformed (by omega)).msgEvent_atomic hop).trans (if_neg hsize))
        ((hdeliver (by omega)).trans (s.homeMsg_atomic hhome hopen hop hsize))
    case back =>
      exact exec_writeBack_delivery hfocus ((hformed (by omega)).msgEvent_writeBack hop)
        ((hdeliver (by omega)).trans (s.homeMsg_writeBack hhome hopen hop))
    case barrier =>
      exact exec_delivery (exec_barEvent m s) hfocus (((hformed (by omega)).msgEvent_atomic hop).trans (if_pos hsize))
        ((hdeliver (by omega)).trans (s.homeMsg_barrier hhome hopen hop hsize))
    case wrong =>
      exact exec_delivery rfl hfocus ((hformed (by omega)).msgEvent_plain hop)
        ((hdeliver (by omega)).trans (s.homeMsg_wrongHome haway))
  · intro m s hfocus hep hcore hhere hchannel hsound c off n t hunmoved hawake
    have hreq : s.RequestAtCore m := ⟨⟨hfocus, hep, hcore, hhere, hchannel, hawake⟩, hsound, hunmoved⟩
    refine ⟨fun e he hop => ⟨fun hpark => ?park, fun r hrefuse => ?refuse⟩, fun hpass =>
      ⟨?load, ?store, ?deposit, ?ready, ?reply, ?active, ?decr, ?advance⟩⟩
    case park => exact hreq.exec_counted he hop (s.gated_park hpark)
    case refuse => exact hreq.exec_counted he hop (s.gated_refuse hrefuse (by rw [hop]; exact counted_ne_ready he))
    case load =>
      intro hop hafter hmark
      have hmsg := (s.gated_pass hpass (by omega) (by omega)).trans (s.coreMsg_load hop hafter hmark)
      refine ⟨fun hgrant hbad => ?_, fun hgrant hbad => ?_, fun hgrant => ?_⟩
      all_goals refine hreq.exec_gated rfl hop (hmsg.trans (congrArg some ?_))
      · exact (if_neg (ne_false_of_eq_true hgrant)).trans (if_neg (ne_true_of_eq_false hbad))
      · exact (if_neg (ne_false_of_eq_true hgrant)).trans (if_pos hbad)
      · exact if_pos hgrant
    case store =>
      intro hop hafter hmark
      have hmsg := (s.gated_pass hpass (by omega) (by omega)).trans (s.coreMsg_store hop hafter hmark)
      refine ⟨fun hgrant => ?_, fun hgrant => ?_⟩
      all_goals refine hreq.exec_gated rfl hop (hmsg.trans (congrArg some ?_))
      · exact if_neg (ne_false_of_eq_true hgrant)
      · exact if_pos hgrant
    case deposit =>
      intro hop
      have hmsg := (s.gated_pass hpass (by omega) (by omega)).trans (s.coreMsg_deposit hop)
      refine ⟨fun u hu => ?_, fun r hr => ?_⟩
      all_goals refine hreq.exec_gated rfl hop (hmsg.trans (congrArg some ?_))
      · exact congrArg (Sum.elim _ _) hu
      · exact congrArg (Sum.elim _ _) hr
    case ready =>
      intro hop
      have hmsg := (s.gated_pass hpass (by omega) (by omega)).trans (s.coreMsg_ready hop)
      refine ⟨fun u hu => ?_, fun r hr => ?_⟩
      all_goals refine hreq.exec_gated rfl hop (hmsg.trans (congrArg some ?_))
      · exact congrArg (Sum.elim _ _) hu
      · exact congrArg (Sum.elim _ _) hr
    case reply =>
      intro hop hreply
      refine exec_delivery rfl hfocus ((hreq.formed.msgEvent_reply hop).trans (if_pos (by simp [hreply]))) ?_
      exact (hreq.deliver_eq (by simp [gatedOps, hop])).trans
        ((s.gated_pass hpass (by omega) (by omega)).trans (s.coreMsg_reply hop hreply))
    case active =>
      intro hop hkind
      have hgated := s.gated_pass hpass (by omega) (by omega)
      refine ⟨fun hdir => ?_, fun e hdir hloc => ?_, fun e u hdir hloc hhome hu => ?_⟩
      all_goals refine hreq.exec_gated rfl hop (hgated.trans ?_)
      · exact s.coreMsg_active_gone hop hkind (by simp [hdir])
      · exact s.coreMsg_active_gone hop hkind (by simp [hdir, hloc])
      · exact s.coreMsg_active_placed hop hkind hdir hloc hhome hu
    case decr =>
      intro hop hplaced
      have hmsg := s.gated_count hpass (.inr hop) (by omega) hplaced
      refine ⟨fun u hu => ?_, fun hnone => ?_⟩
      all_goals refine hreq.exec_gated rfl hop (hmsg.trans (congrArg some ?_))
      · exact State.recordMsg_some ((if_pos hop).trans hu)
      · exact State.recordMsg_none ((if_pos hop).trans hnone)
    case advance =>
      intro hop hplaced hshut
      have hmsg := s.gated_count hpass (.inl hop) (fun _ => hshut) hplaced
      have hadv : m.op ≠ 0x28 := by omega
      refine ⟨fun u hu => ?_, fun hnone => ?_⟩
      all_goals refine hreq.exec_gated rfl hop (hmsg.trans (congrArg some ?_))
      · exact State.recordMsg_some ((if_neg hadv).trans hu)
      · exact State.recordMsg_none ((if_neg hadv).trans hnone)
end

section
/-! Answers, barrier messages, and messages that no rule forms or that follow a racked actor (R25, R27, R28, R122 to R125, R167, R347). -/
namespace Sys2Proof.Machine

/-! ### Answers at a core (R125, R143, R329) -/

/-- A forwarding record takes requests only (R167). -/
theorem State.forwardOf_none {s : State} {m : Msg} (c : Nat) (hop : m.op ∉ [0x21, 0x23, 0x25, 0x26, 0x27, 0x28]) : s.forwardOf c m = none := by
  simp only [List.mem_cons, List.not_mem_nil, or_false, not_or] at hop
  simp [State.forwardOf, hop]

theorem State.AtAwakeCore.formed {s : State} {m : Msg} (h : s.AtAwakeCore m) (hop : m.op ∉ [0x21, 0x23, 0x25, 0x26, 0x27, 0x28]) : s.Formed m :=
  ⟨h.ep, h.channel, h.here, fun _ => s.forwardOf_none _ hop⟩

/-- The opcodes of the answers: channel 1, and three of channel 2 (R27). -/
def answerOps : List Nat := [0x11, 0x12, 0x13, 0x14, 0x22, 0x24, 0x29]

/-- An answer at an awake core: kept for another partition of the core's share, made again for a coherent NACK, or taken. -/
theorem State.atCore_answer {s : State} {c : Nat} {m : Msg} (hawake : s.dieAwake (coreDie c) = true) (hchannel : opOnChannel m.ch m.op = true)
    (hop : m.op ∈ answerOps) :
    s.atCore c m = some (
      if s.partOfMsg c m != (s.core c).active && s.inShare (s.partOfMsg c m) c then (s.take m).park m
      else if m.op = 0x14 && !m.poison then (s.received c m).resendCoherent c m
      else (s.received c m).answerAt c m) := by
  have hch := channel_of_opOnChannel hchannel
  simp only [answerOps, List.mem_cons, List.not_mem_nil, or_false] at hop
  have hsystem : m.op ≠ 0x31 ∧ m.op ≠ 0x32 ∧ m.op ≠ 0x37 := by omega
  have hanswer : (m.ch == 1 || m.op == 0x22 || m.op == 0x24 || m.op == 0x29) = true := by
    simp only [Bool.or_eq_true, beq_iff_eq]; omega
  simp only [State.atCore, hawake, hanswer, hsystem]
  simp
  split_ifs <;> rfl

/-- The answers that a core takes, and the events that deliver them. -/
def answerEvents : List (Nat × Instr) :=
  [(0x11, .dataWithWriteTime), (0x12, .writeAcknowledgement), (0x13, .farAtomicResult), (0x22, .remoteLoadData), (0x24, .remoteStoreAcknowledgement),
   (0x29, .windowNack)]

/-- An answer that is none to a BWAIT leaves what the core makes of it. -/
theorem State.AtAwakeCore.exec_answer {s t : State} {m : Msg} (h : s.AtAwakeCore m) (hwait : s.isBwaitReply m = false) {e : Nat × Instr}
    (he : e ∈ answerEvents) (hop : m.op = e.1) (ht : s.atCore (coreOfEp m.dst) m = some t) : exec e.2 s = .next t := by
  have hd := (s.deliver_core h.here h.core).trans ht
  have hwait := ne_true_of_eq_false hwait
  simp only [answerEvents, List.mem_cons, List.not_mem_nil, or_false] at he
  rcases he with rfl | rfl | rfl | rfl | rfl | rfl
  all_goals have hformed := h.formed (by simp [hop])
  case inr.inr.inl => exact exec_delivery rfl h.focus ((hformed.msgEvent_atomicResult hop).trans (if_neg hwait)) hd
  case inr.inr.inr.inr.inl => exact exec_delivery rfl h.focus ((hformed.msgEvent_acknowledgement hop).trans (if_neg hwait)) hd
  all_goals exact exec_delivery rfl h.focus (hformed.msgEvent_plain hop) hd

theorem answerEvents_ops {e : Nat × Instr} (he : e ∈ answerEvents) : e.1 ∈ answerOps ∧ e.1 ≠ 0x14 := by
  simp only [answerEvents, List.mem_cons, List.not_mem_nil, or_false] at he
  rcases he with rfl | rfl | rfl | rfl | rfl | rfl
  all_goals decide

/-! ### System messages at a core (R88, R110, R200) -/

section
variable {s : State} {c : Nat} {m : Msg} (hawake : s.dieAwake (coreDie c) = true) (hsound : m.poison = false)
include hawake hsound

theorem State.atCore_mail (hop : m.op = 0x32) : s.atCore c m = some ((s.received c m).mailEntry m) := by
  simp [State.atCore, hawake, hsound, hop]

theorem State.atCore_placement (hop : m.op = 0x31) : s.atCore c m = some ((s.received c m).placeNow m.taddr c) := by
  simp [State.atCore, hawake, hsound, hop]

theorem State.atCore_pageIn (hop : m.op = 0x37) : s.atCore c m = some ((s.received c m).pageDone c m) := by
  simp [State.atCore, hawake, hsound, hop]

end

/-- A message that is no request, and whose opcode names its event, leaves what the core makes of it. -/
theorem State.AtAwakeCore.exec_plain {s t : State} {m : Msg} (h : s.AtAwakeCore m) {op : Nat} {i : Instr}
    (hx : exec i s = nextState (s.runMsg i)) (hop : m.op = op) (ht : s.atCore (coreOfEp m.dst) m = some t)
    (hi : (op, i) ∈ plainEvents := by simp [plainEvents]) (hunasked : op ∉ [0x21, 0x23, 0x25, 0x26, 0x27, 0x28] := by simp) : exec i s = .next t :=
  exec_delivery hx h.focus ((h.formed (hop ▸ hunasked)).msgEvent_plain hop hi) ((s.deliver_core h.here h.core).trans ht)

/-! ### Barrier messages (R122 to R124, R344) -/

/-- The events of the six operations at a barrier's home. -/
def barrierEvents : List Instr :=
  [.barrierInitialise, .barrierArrive, .barrierExpect, .barrierWaitRegister, .barrierLanded, .barrierStatusWrite]

/-- A message whose endpoint or opcode no rule forms is discarded (R25, R27). -/
theorem State.msgEvent_unformed {s : State} {m : Msg} (h : (epOk m.dst && opOnChannel m.ch m.op) = false) : s.msgEvent m = .badFlitDiscard := by
  have hbad : (!epOk m.dst || !opOnChannel m.ch m.op) = true := by rw [← Bool.not_and, h]; rfl
  simp only [State.msgEvent, hbad, if_true]

/-- A message that carries the barrier operation of an event, to a scratchpad or to memory. -/
structure Msg.CarriesBarrier (m : Msg) (i : Instr) : Prop where
  event : barEvent m = i
  channel : opOnChannel m.ch m.op = true
  oper : bits m.arg 63 60 ≠ 0
  size : m.size = 0x1000

/-- A message of opcode 0x33 that a barrier's event delivers carries its operation. -/
theorem State.carriesBarrier_of_msgEvent {s : State} {m : Msg} {i : Instr} (hi : i ∈ barrierEvents) (he : s.msgEvent m = i) (hop : m.op = 0x33)
    (hhere : m.dpkg = s.fw.package) : m.CarriesBarrier i := by
  cases hok : epOk m.dst && opOnChannel m.ch m.op with
  | false =>
    rw [s.msgEvent_unformed hok] at he
    subst he
    simp [barrierEvents] at hi
  | true =>
    obtain ⟨hep, hchannel⟩ := Bool.and_eq_true_iff.mp hok
    have hformed : s.Formed m := ⟨hep, hchannel, hhere, fun _ => s.forwardOf_none _ (by simp [hop])⟩
    rw [hformed.msgEvent_reply hop] at he
    split_ifs at he with hreply
    · subst he
      simp [barrierEvents] at hi
    · simp only [Bool.or_eq_true, decide_eq_true_eq, bne_iff_ne, not_or, not_not] at hreply
      obtain ⟨hoper, hsize⟩ := hreply
      exact ⟨he, hchannel, hoper, hsize⟩

/-- A barrier's event delivers the message that carries its operation. -/
theorem Msg.CarriesBarrier.exec_eq {s t : State} {m : Msg} {i : Instr} (h : m.CarriesBarrier i) (hf : s.focusMsg = some m) (he : s.msgEvent m = i)
    (hd : s.deliver m = some t) : exec i s = .next t :=
  exec_delivery (by rw [← h.event]; exact exec_barEvent m s) hf he hd

/-- A barrier operation at a home in memory acts while the DRAM accepts accesses. -/
theorem Msg.CarriesBarrier.deliver_memory {s : State} {m : Msg} {i : Instr} (h : m.CarriesBarrier i) (hop : m.op = 0x33)
    (hhere : m.dpkg = s.fw.package) (hsound : m.poison = false) (hcore : epIsCore m.dst = false) (hport : m.dst % 8 ≠ 6)
    (hopen : s.dramShut m.taddr = false) : s.deliver m = some ((s.take m).barMsg m) := by
  have hch := channel_of_opOnChannel h.channel
  have hch3 : m.ch = 3 := by omega
  simp [State.deliver, s.portOf_here hhere, hcore, hport, hsound, hch3, hop, h.size, hopen]

/-- A barrier operation that passes a core's gate, and that nothing marks, acts or is refused. -/
theorem Msg.CarriesBarrier.deliver_core {s : State} {m : Msg} {i : Instr} (h : m.CarriesBarrier i) (hop : m.op = 0x33)
    (hhere : m.dpkg = s.fw.package) (hsound : m.poison = false) (hcore : epIsCore m.dst = true)
    (hawake : s.dieAwake (coreDie (coreOfEp m.dst)) = true) (hpass : s.gate (coreOfEp m.dst) m = .pass) (hafter : m.after ≤ s.now)
    (hmark : s.marked (coreOfEp m.dst) (m.taddr % 2 ^ 32) 32 = false) :
    s.deliver m = some (if m.src = epCore (coreOfEp m.dst) ∨ s.granted (coreOfEp m.dst) (m.taddr % 2 ^ 32) 32 true m = true
      then (s.received (coreOfEp m.dst) m).barMsg m else (s.received (coreOfEp m.dst) m).refuse m 0) := by
  rw [s.deliver_core hhere hcore, s.atCore_request hawake hsound h.channel (by simp [gatedOps, hop]),
    s.gated_pass hpass (by omega) (by omega), s.coreMsg_barrier hop h.oper h.size hafter hmark]

/-! ### The answer to a BWAIT, and messages that are discarded or sent on -/

/-- The answer to a BWAIT at an awake core is logged; an unregistered wait is kept, and another is over (R124, R347). -/
theorem exec_bwaitReply {s : State} {m : Msg} (hf : s.focusMsg = some m) (he : s.msgEvent m = .bwaitReply)
    (hawake : s.dieAwake (coreDie (coreOfEp m.dst)) = true) :
    exec .bwaitReply s = .next (
      let c := coreOfEp m.dst
      let t := s.received c m
      if m.keepLo && !m.poison then
        t.modCore c fun k => { k with resend := k.resend ++ [{
          addr := m.taddr, gen := m.arg, id := m.re, src := m.src, ctx := m.ctx, part := m.part, lid := m.lid, due := t.now + t.resendAfter m.src }] }
      else if m.poison then (t.takeOut c m.re).2.poisoned m (t.takeOut c m.re).1 else (t.takeOut c m.re).2.bwaitAnswer m) := by
  show nextState _ = _
  simp only [hf, he, hawake, decide_true, Bool.and_self, if_true]
  rfl

theorem exec_badFlitDiscard {s : State} {m : Msg} (hf : s.focusMsg = some m) (he : s.msgEvent m = .badFlitDiscard) :
    exec .badFlitDiscard s = .next ((s.took m).report m.dst 1 m.taddr 0) := by
  show nextState _ = _
  simp only [hf, he, if_true]
  rfl

/-- A message for a racked actor waits until the move is installed, or goes on to the new home (R167). -/
theorem exec_messageForward {s : State} {m : Msg} {f : Fwd} (hf : s.focusMsg = some m) (he : s.msgEvent m = .messageForward)
    (hfwd : s.forwardOf (coreOfEp m.dst) m = some f) :
    exec .messageForward s = .next (
      if f.until_ = 0 then
        if s.parkFull m.part then (s.took m).refuse m 3 else { s.took m with parked := s.parked ++ [{ m with held := 3, forH := f.handle }] }
      else { s.took m with net := (s.took m).net ++ [m.onTo (coreOfEp m.dst) f] }) := by
  show nextState _ = _
  simp only [hf, he, hfwd, if_true]
  rfl

end Sys2Proof.Machine

open Sys2Proof Sys2Proof.Machine

/-- Settles O36: answers and system messages by their opcodes, barrier messages by what their event says of them, and the rest by its own event. -/
theorem coresTakeAnswers : Obligations.CoresTakeAnswers := by
  unfold Obligations.CoresTakeAnswers
  constructor
  · intro m s hfocus hep hcore hhere hchannel c kept hawake
    have hat : s.AtAwakeCore m := ⟨hfocus, hep, hcore, hhere, hchannel, hawake⟩
    refine ⟨fun hwait => ⟨fun e he hop => ?answer, fun hop hsound hkept => ?nack⟩,
      fun hsound => ⟨fun hop => ?page, fun hop => ?place, fun hop => ?mail⟩⟩
    case answer =>
      obtain ⟨hanswer, hne⟩ := answerEvents_ops he
      have hmsg := s.atCore_answer hawake hchannel (hop ▸ hanswer)
      refine ⟨fun hkept => ?_, fun hkept => ?_⟩
      all_goals refine hat.exec_answer hwait he hop (hmsg.trans (congrArg some ?_))
      · exact (if_neg (ne_true_of_eq_false hkept)).trans (if_neg (by simp [hop, hne]))
      · exact if_pos hkept
    case nack =>
      have hmsg := s.atCore_answer hawake hchannel (by simp [answerOps, hop])
      refine hat.exec_plain rfl hop (hmsg.trans (congrArg some ?_))
      exact (if_neg (ne_true_of_eq_false hkept)).trans (if_pos (by simp [hop, hsound]))
    case page => exact hat.exec_plain rfl hop (s.atCore_pageIn hawake hsound hop)
    case place => exact hat.exec_plain rfl hop (s.atCore_placement hawake hsound hop)
    case mail => exact hat.exec_plain rfl hop (s.atCore_mail hawake hsound hop)
  · intro m s hfocus
    refine ⟨fun i hi he hop hhere hsound => ?barrier, fun he hawake => ?wait, exec_badFlitDiscard hfocus, fun f he hfwd => ?forward⟩
    case barrier =>
      have hbar := s.carriesBarrier_of_msgEvent hi he hop hhere
      refine ⟨fun hcore hawake hpass hafter hmark => ?_, fun hcore hport hopen => ?_⟩
      · exact hbar.exec_eq hfocus he (hbar.deliver_core hop hhere hsound hcore hawake hpass hafter hmark)
      · exact hbar.exec_eq hfocus he (hbar.deliver_memory hop hhere hsound hcore hport hopen)
    case wait =>
      have hreply := exec_bwaitReply hfocus he hawake
      refine ⟨fun hbad => ?_, fun hsound hkept => ?_, fun hsound hkept => ?_⟩
      · simpa [hbad] using hreply
      · simpa [hsound, hkept] using hreply
      · simpa [hsound, hkept] using hreply
    case forward =>
      have hsent := exec_messageForward hfocus he hfwd
      refine ⟨fun hmoving hroom => ?_, fun hmoving hfull => ?_, fun hmoved => ⟨?_, rfl, rfl, rfl, rfl, rfl⟩⟩
      · simpa [hmoving, hroom] using hsent
      · simpa [hmoving, hfull] using hsent
      · simpa [hmoved] using hsent
end

section
/-! Queue registers, and the packets that a service core reads (R35, R70 to R76, R81). -/
namespace Sys2Proof.Machine

/-! ### Queues and their registers (R70 to R73) -/

/-- Bits of a word that a whole store of 8 bytes replaces are those of the value stored. -/
theorem storeWord_mod (old v : Nat) {k : Nat} (hk : k ≤ 64) :
    ((old - (old &&& (2 ^ 64 - 1))) ||| (v % 2 ^ 64 &&& (2 ^ 64 - 1))) % 2 ^ k = v % 2 ^ k := by
  have hold : (old - old % 2 ^ 64) % 2 ^ k = 0 := by
    have hdiv : 2 ^ k ∣ old - old % 2 ^ 64 := (Nat.pow_dvd_pow 2 hk).trans (Nat.dvd_sub_mod old)
    exact Nat.mod_eq_zero_of_dvd hdiv
  rw [Nat.and_two_pow_sub_one_eq_mod, Nat.and_two_pow_sub_one_eq_mod, Nat.mod_mod, Nat.or_mod_two_pow, hold, Nat.zero_or,
    Nat.mod_mod_of_dvd _ (Nat.pow_dvd_pow 2 hk)]

/-- A queue's register block lies within those of the 64 queues, at its physical address (R70). -/
theorem State.queueOff_block {s : State} {q off : Nat} (hq : q < 64) (hoff : off < 0x400) :
    s.queueOff (0x20000000000 + q * 0x400 + off) = some (q * 0x400 + off) := by
  have hlow : queueBase ≤ 0x20000000000 + q * 0x400 + off := by unfold queueBase; omega
  have hhigh : 0x20000000000 + q * 0x400 + off < queueBase + 0x10000 := by unfold queueBase; omega
  have hrest : 0x20000000000 + q * 0x400 + off - queueBase = q * 0x400 + off := by unfold queueBase; omega
  simp [State.queueOff, hlow, hhigh, hrest]

/-- In endpoint mode BAR0 names the same registers (R35). -/
theorem State.queueOff_bar {s : State} {q off : Nat} (he : s.endpoint = true) (hq : q < 64) (hoff : off < 0x400) :
    s.queueOff (q * 0x400 + off) = some (q * 0x400 + off) := by
  have hlow : ¬ queueBase ≤ q * 0x400 + off := by unfold queueBase; omega
  have hhigh : q * 0x400 + off < 0x10000 := by omega
  simp [State.queueOff, hlow, hhigh, he]

/-- A whole store of 8 bytes to a register of a queue (R10, R70). -/
theorem exec_registerWrite_whole {s : State} {addr q off : Nat} (v : Nat) (haddr : addr / 2 ^ 48 ≠ 0xFF) (halign : addr % 8 = 0)
    (hoff : off < 0x400) (hword : off % 8 = 0) (hq : s.queueOff addr = some (q * 0x400 + off)) :
    exec (.registerWrite addr 8 v) s = .next (s.queuePut q off (2 ^ 64 - 1) (v % 2 ^ 64)) := by
  have hblock : (q * 0x400 + off) / 0x400 = q := by omega
  have hreg : (q * 0x400 + off) % 0x400 / 8 * 8 = off := by omega
  show nextState _ = _
  simp only [haddr, if_false, hq, halign, hblock, hreg]
  rfl

theorem State.queuePut_tail (s : State) (q v : Nat) : s.queuePut q 0 (2 ^ 64 - 1) (v % 2 ^ 64) = s.nextAct (.wakeTail q (v % 2 ^ 32)) := by
  have hv := storeWord_mod ((s.queue q).word 0) v (k := 32) (by omega)
  have hm : ¬ (2 ^ 64 - 1) % 2 ^ 32 = 0 := by decide
  simp only [State.queuePut, hv, hm, if_true, if_false]

/-- CBASE of an enabled queue ignores a store (R71). -/
theorem State.queuePut_cbase (s : State) (q v : Nat) :
    s.queuePut q 0x20 (2 ^ 64 - 1) (v % 2 ^ 64) = if (s.queue q).enable then s else s.modQueue q fun x => { x with cbase := v % 2 ^ 56 } := by
  have hv := storeWord_mod ((s.queue q).word 0x20) v (k := 56) (by omega)
  simp only [State.queuePut, hv, Nat.reduceEqDiff, if_true, if_false]

section
variable {q : Nat} (hq : q < 64) (v : Nat) (s : State)
include hq

theorem exec_wakeTail_fits (h : (v % 2 ^ 32 + 2 ^ 32 - (s.queue q).head) % 2 ^ 32 ≤ (s.queue q).entries) :
    exec (.wakeTail q v) s = .next (let t := (s.modQueue q fun x => { x with tail := v % 2 ^ 32 }).trimWakes q (v % 2 ^ 32)
      if (s.queue q).enable && v % 2 ^ 32 != (s.queue q).head then t.rouse q (v % 2 ^ 32) else t) := by
  show nextState _ = _
  rw [if_neg (by omega), if_neg (by omega)]
  rfl

theorem exec_wakeTail_overflows (h : (s.queue q).entries < (v % 2 ^ 32 + 2 ^ 32 - (s.queue q).head) % 2 ^ 32) :
    exec (.wakeTail q v) s = .next (s.modQueue q fun x => { x with ovr := true }) := by
  show nextState _ = _
  rw [if_neg (by omega), if_pos h]
  rfl

theorem exec_enable_valid (hv : v % 2 = 1) (hoff : (s.queue q).enable = false) (hpart : (SMap.find? s.partitions (s.queue q).part).isSome = true)
    (hsvc : (s.queue q).svc ≤ 4) (hlen : (s.queue q).log2n ≤ 10) :
    exec (.enable q v) s = .next (if (s.queue q).tail = (s.queue q).head then s.modQueue q fun x => { x with enable := true }
      else (s.modQueue q fun x => { x with enable := true }).rouse q (s.queue q).tail) := by
  show nextState _ = _
  rw [if_neg (by omega), if_neg (by omega), if_neg (ne_true_of_eq_false hoff), if_pos (by simp [hpart, hsvc, hlen])]
  rfl

theorem exec_enable_invalid (hv : v % 2 = 1) (hoff : (s.queue q).enable = false)
    (hbad : SMap.find? s.partitions (s.queue q).part = none ∨ 4 < (s.queue q).svc ∨ 10 < (s.queue q).log2n) :
    exec (.enable q v) s = .next (s.modQueue q fun x => { x with badcfg := true }) := by
  have hcfg : ¬ ((SMap.find? s.partitions (s.queue q).part).isSome && decide ((s.queue q).svc ≤ 4) && decide ((s.queue q).log2n ≤ 10)) = true := by
    simp only [Bool.and_eq_true, decide_eq_true_eq, Option.isSome_iff_ne_none]
    rintro ⟨⟨hpart, hsvc⟩, hlen⟩
    rcases hbad with hnone | hsvc' | hlen'
    · exact hpart hnone
    · omega
    · omega
  show nextState _ = _
  rw [if_neg (by omega), if_neg (by omega), if_neg (ne_true_of_eq_false hoff), if_neg hcfg]
  rfl

/-- Clearing ENABLE stops the reading of packets and leaves commands and memory (R71). -/
theorem exec_enable_clear (hv : v % 2 = 0) :
    ∃ t, exec (.enable q v) s = .next t ∧ (t.queue q).enable = false ∧ t.mem = s.mem ∧ t.cmds = s.cmds := by
  refine ⟨_, congrArg Host.Outcome.next ((if_neg (by omega)).trans (if_pos hv)), ?_, rfl, rfl⟩
  exact congrArg Queue.enable (s.queue_modQueue q fun x => { x with enable := false })

theorem exec_chead : exec (.chead q v) s = .next (s.modQueue q fun x => { x with chead := v % 2 ^ 32 }) :=
  congrArg Host.Outcome.next (if_neg (by omega))

end

/-! ### Packets (R74 to R76, R81) -/

/-- Address of the packet that a queue's HEAD names (R70, R74). -/
def Queue.packetVa (x : Queue) : Nat := x.rbase + 16 * (x.head % x.entries)

/-- The command that a packet of a queue begins, before its block is read (R75). -/
def State.packetCmd (s : State) (q pk : Nat) : Cmd :=
  { q := q, svc := (s.queue q).svc, part := (s.queue q).part, seq := bits pk 63 32, code := bits pk 7 0, irq := bit pk 9 == 1, ser := bit pk 8 == 1
    block := [] }

/-- The state in which a service core took a queue's next packet, which no indirection follows, for a command (R74). -/
def State.packetTaken (s : State) (q : Nat) (c : Cmd) : State :=
  let t := ((s.readsMarked (s.queue q).part [(s.queue q).packetVa]).modQueue q fun x => { x with head := (x.head + 1) % 2 ^ 32 }).dropWakes (s.queue q).svc
  { t with cmds := SMap.put t.cmds s.fw.nextCmd c, fw := { t.fw with nextCmd := s.fw.nextCmd + 1 } }

/-- A service core without a command reads a packet of an enabled queue: nothing holds it back, and its bytes can be read. -/
structure State.PacketDue (s : State) (q pk : Nat) : Prop where
  up : 4 ≤ s.fw.step
  enabled : (s.queue q).enable = true
  next : (s.wakeHead (s.queue q).svc).map Prod.fst = some q
  idle : s.cmds = []
  room : (s.queue q).full = false
  page : s.svcWait (s.queue q).svc (s.queue q).part [(s.queue q).packetVa] = none
  read : s.partRead (s.queue q).part (s.queue q).packetVa 16 = some pk

/-- The packet's own fields are out of order: a reserved bit, a code that R81 does not give, no block, or another partition (R75). -/
def State.packetBad (s : State) (q pk : Nat) : Bool :=
  decide (bits pk 15 10 ≠ 0) || decide (bits pk 127 124 ≠ 0) || decide (bits pk 7 0 = 0) || decide (13 < bits pk 7 0) || decide (bits pk 31 18 = 0)
    || decide (bits pk 123 120 ≠ (s.queue q).part)

theorem State.packetBad_false {s : State} {q pk : Nat} (hres : bits pk 15 10 = 0) (hpad : bits pk 127 124 = 0) (hlow : 1 ≤ bits pk 7 0)
    (hhigh : bits pk 7 0 ≤ 13) (hlen : bits pk 31 18 ≠ 0) (hpart : bits pk 123 120 = (s.queue q).part) : s.packetBad q pk = false := by
  have hcode : bits pk 7 0 ≠ 0 := by omega
  simp only [State.packetBad, Bool.or_eq_false_iff, decide_eq_false_iff_not]
  exact ⟨⟨⟨⟨⟨not_not.mpr hres, not_not.mpr hpad⟩, hcode⟩, by omega⟩, hlen⟩, not_not.mpr hpart⟩

theorem exec_packetRead {s t : State} {q : Nat} (h : s.readPacket q = some t) : exec (.packetRead q) s = .next t := by
  show nextState _ = _
  rw [h]
  rfl

theorem State.PacketDue.ready {s : State} {q pk : Nat} (h : s.PacketDue q pk) :
    (decide (s.fw.step < 4) || !(s.queue q).enable || (s.wakeHead (s.queue q).svc).map Prod.fst != some q) = false := by
  simp [h.up, h.enabled, h.next]

section
variable {s : State} {q pk : Nat} (h : s.PacketDue q pk)
include h

/-- A packet whose own fields are out of order ends with BAD_PACKET (R75, R81). -/
theorem State.PacketDue.readPacket_bad (hbad : s.packetBad q pk = true) :
    s.readPacket q = some ((s.packetTaken q (s.packetCmd q pk)).finishCmd s.fw.nextCmd 1 0) := by
  have hready := h.ready
  obtain ⟨-, -, -, hidle, hroom, hpage, hread⟩ := h
  rw [Queue.packetVa] at hpage hread
  rw [State.packetBad] at hbad
  simp only [State.readPacket, hready, hidle, hroom, hpage, hread, hbad, List.any_nil, Option.getD_some, Option.isNone_some, Bool.false_eq_true,
    if_false, if_true]
  rfl

variable (hok : s.packetBad q pk = false) (hdirect : bits pk 17 16 = 0)
include hok hdirect

/-- A direct block that is not aligned to 64 bytes ends with BAD_BLOCK (R76). -/
theorem State.PacketDue.readPacket_misaligned (halign : bits pk 119 64 % 64 ≠ 0) :
    s.readPacket q = some ((s.packetTaken q (s.packetCmd q pk)).finishCmd s.fw.nextCmd 2 0) := by
  have hready := h.ready
  obtain ⟨-, -, -, hidle, hroom, hpage, hread⟩ := h
  rw [Queue.packetVa] at hpage hread
  rw [State.packetBad] at hok
  have hchain : s.chain (s.queue q).svc (s.queue q).part 0 (bits pk 119 64) (bits pk 31 18) = .ends 2 0 := if_pos halign
  simp only [State.readPacket, hready, hidle, hroom, hpage, hread, hok, hdirect, hchain, List.any_nil, Option.getD_some, Option.isNone_some,
    Bool.and_false, Bool.false_eq_true, if_false, if_true]
  rfl

/-- A SIGNAL with a direct block of 64 bytes that can be read begins in a package in production (R75, R76, R84). -/
theorem State.PacketDue.readPacket_signal {b : List Byte} (hcode : bits pk 7 0 = 2) (hlen : bits pk 31 18 = 1) (halign : bits pk 119 64 % 64 = 0)
    (hpages : s.svcWait (s.queue q).svc (s.queue q).part (pagesOf (bits pk 119 64) 64) = none)
    (hgood : s.badAddr (s.queue q).part (bits pk 119 64) 64 = none) (hblock : s.virtBytes (s.queue q).part (bits pk 119 64) 64 = some b)
    (hzero : reservedZero (blockFields 2) b = true) (hlife : s.fw.lifecycle = 2) :
    s.readPacket q = some (((s.packetTaken q { s.packetCmd q pk with block := b.take 128 }).readsMarked (s.queue q).part
      (linesOf (bits pk 119 64) 64)).nextAct .signal s.fw.nextCmd) := by
  have hready := h.ready
  obtain ⟨-, -, -, hidle, hroom, hpage, hread⟩ := h
  rw [Queue.packetVa] at hpage hread
  rw [State.packetBad] at hok
  have hchain : s.chain (s.queue q).svc (s.queue q).part 0 (bits pk 119 64) (bits pk 31 18) = .block (bits pk 119 64) 1 :=
    (if_neg (not_not.mpr halign)).trans (by rw [hlen])
  have hlong : ¬ 1 < minBlock (bits pk 7 0) := by rw [hcode]; decide
  have hserved : served s.fw.lifecycle (bits pk 7 0) (s.queue q).part b = true := by rw [hcode, hlife]; rfl
  have hrights : ((decide (bits pk 7 0 = 6) || decide (bits pk 7 0 = 10)) && (s.queue q).part != 0) = false := by simp [hcode]
  have hfields : (!reservedZero (blockFields (bits pk 7 0)) b
      || (decide (bits pk 7 0 = 6) || decide (bits pk 7 0 = 7)) && decide ((b.headD 0).toNat % 4 = 3)) = false := by simp [hcode, hzero]
  have hevent : cmdEvent { s.packetCmd q pk with block := b.take 128 } = .signal := by simp only [cmdEvent, State.packetCmd, hcode]
  rw [← hevent]
  simp only [State.readPacket, hready, hidle, hroom, hpage, hread, hok, hdirect, hchain, hlong, Nat.mul_one, hpages, hgood, hblock, hserved, hrights,
    hfields, List.any_nil, Option.getD_some, Option.isNone_some, Bool.and_false, Bool.not_true, Bool.false_eq_true, if_false, if_true]
  rfl

end

end Sys2Proof.Machine

open Sys2Proof Sys2Proof.Machine

/-- Settles O42: each register by its queue's fields, and a packet that is due by its own fields, its block's address and its block. -/
theorem queueRegistersAndPackets : Obligations.QueueRegistersAndPackets := by
  unfold Obligations.QueueRegistersAndPackets
  constructor
  · intro q v s hq x
    refine ⟨exec_wakeTail_fits hq v s, exec_wakeTail_overflows hq v s, exec_enable_valid hq v s, exec_enable_invalid hq v s, exec_enable_clear hq v s,
      exec_chead hq v s, ?cbase, ?tail, fun hend => ?bar⟩
    case cbase =>
      rw [exec_registerWrite_whole v (by omega) (by omega) (by omega) (by omega) (s.queueOff_block hq (by omega)), s.queuePut_cbase]
    case tail =>
      have hoff : s.queueOff (0x20000000000 + q * 0x400) = some (q * 0x400 + 0) := by simpa using s.queueOff_block (off := 0) hq (by omega)
      rw [exec_registerWrite_whole v (by omega) (by omega) (by omega) (by omega) hoff, s.queuePut_tail]
    case bar =>
      have hoff : s.queueOff (q * 0x400) = some (q * 0x400 + 0) := by simpa using s.queueOff_bar (off := 0) hend hq (by omega)
      rw [exec_registerWrite_whole v (by omega) (by omega) (by omega) (by omega) hoff, s.queuePut_tail]
  · intro q pk s x va took c hup hen hnext hidle hroom hpage hread
    have hdue : s.PacketDue q pk := ⟨hup, hen, hnext, hidle, hroom, hpage, hread⟩
    refine ⟨fun hbad => ?bad, fun hres hpad hlow hhigh hlen hpart hdirect halign => ?misaligned,
      fun b hres hpad hcode hlen hpart hdirect halign hpages hgood hblock hzero hlife => ?signal⟩
    case bad =>
      have hfields : s.packetBad q pk = true := by
        simp only [State.packetBad, Bool.or_eq_true, decide_eq_true_eq]
        tauto
      exact exec_packetRead (hdue.readPacket_bad hfields)
    case misaligned =>
      exact exec_packetRead (hdue.readPacket_misaligned (s.packetBad_false hres hpad hlow hhigh hlen hpart) hdirect halign)
    case signal =>
      exact exec_packetRead (hdue.readPacket_signal (s.packetBad_false hres hpad (by omega) (by omega) (by omega) hpart) hdirect
        hcode hlen halign hpages hgood hblock hzero hlife)
end

section
/-! Bring-up and the life cycle: what writing the first page tables leaves alone, and what each step makes ready (R72, R89, R90, R95). -/
namespace Sys2Proof.Machine

/-! ### What bring-up's table writes leave alone -/

/-- What of the state bring-up sets once: its step, the life cycle, the supervisor image, the cores out of service, commands, launches and messages. -/
structure BootView where
  step : Nat
  lifecycle : Nat
  superImage : List Byte
  coresOut : List Nat
  cmds : SMap Cmd
  launches : SMap Launch
  net : List Msg

def State.bootView (s : State) : BootView :=
  { step := s.fw.step, lifecycle := s.fw.lifecycle, superImage := s.fw.superImage, coresOut := s.fw.coresOut, cmds := s.cmds, launches := s.launches
    net := s.net }

/-- The state has a view, and no DRAM line that a read would have to correct and report (R94). -/
structure State.Quiet (v : BootView) (s : State) : Prop where
  view : s.bootView = v
  sound : ∀ line x, SMap.find? s.tags line = some x → x.err = 0

section
variable {v : BootView} {s : State}

theorem State.Quiet.congr {t : State} (h : s.Quiet v) (hview : t.bootView = s.bootView) (htags : t.tags = s.tags) : t.Quiet v :=
  ⟨hview.trans h.view, htags ▸ h.sound⟩

theorem State.Quiet.withMem (h : s.Quiet v) (m : Memory) : State.Quiet v { s with mem := m } := h.congr rfl rfl

/-- A tag of a written line notes no error. -/
theorem State.Quiet.putTag (h : s.Quiet v) (line : Nat) (x : LineMeta) (hx : x.err = 0) : State.Quiet v { s with tags := SMap.put s.tags line x } := by
  refine ⟨h.view, fun l y hy => ?_⟩
  by_cases hl : l = line
  · subst hl
    rw [SMap.find?_put_self] at hy
    cases hy
    exact hx
  · rw [SMap.find?_put_ne _ _ hl] at hy
    exact h.sound l y hy

theorem State.Quiet.metaOf_err (h : s.Quiet v) (line : Nat) : (s.metaOf line).err = 0 := by
  unfold State.metaOf
  split
  case h_1 x hx => exact h.sound line x hx
  case h_2 => split <;> rfl

theorem State.Quiet.pickVictim (h : s.Quiet v) (ways : Nat) (l : List Nat) : (s.pickVictim ways l).2.Quiet v := by
  unfold State.pickVictim
  split_ifs
  · exact h
  · exact h.congr rfl rfl

theorem State.Quiet.writeBackLine (h : s.Quiet v) (line : Nat) : (s.writeBackLine line).Quiet v := by
  unfold State.writeBackLine
  split
  · exact h
  case h_2 d _ => exact (h.putTag line { ptag := d.ptag, poison := d.poison } rfl).congr (by simp only [State.bootView]) rfl

theorem State.Quiet.makeRoom (h : s.Quiet v) (line : Nat) : (s.makeRoom line).Quiet v := by
  have hpick := h.pickVictim 16 (s.setMates line)
  unfold State.makeRoom
  split
  case h_1 t heq => rwa [heq] at hpick
  case h_2 w t heq =>
    rw [heq] at hpick
    exact (hpick.writeBackLine w).congr rfl rfl

theorem State.Quiet.roomFor (h : s.Quiet v) (line : Nat) : (if s.cached line then s else s.makeRoom line).Quiet v := by
  split_ifs
  · exact h
  · exact h.makeRoom line

theorem State.Quiet.snoop (h : s.Quiet v) (line : Nat) : (s.snoop line).Quiet v := by
  unfold State.snoop
  split
  · exact h
  · exact (h.roomFor line).congr rfl rfl

/-- A read of DRAM under a sound tag counts from DIDLE alone. -/
theorem State.Quiet.readDram (h : s.Quiet v) (line : Nat) : (s.readDram line).Quiet v := by
  have herr := h.metaOf_err line
  unfold State.readDram
  simp only [herr, OfNat.zero_ne_ofNat, zero_ne_one, if_false]
  split_ifs
  · exact h
  · exact h.congr rfl rfl

theorem State.Quiet.homeRead (h : s.Quiet v) (line t : Nat) : (s.homeRead line t).Quiet v :=
  ((h.snoop line).readDram line).congr rfl rfl

theorem State.Quiet.homeWrite (h : s.Quiet v) (line t : Nat) : (s.homeWrite line t).Quiet v :=
  ((h.snoop line).readDram line).congr rfl rfl

theorem State.Quiet.lineWrite (h : s.Quiet v) (p line off n w : Nat) (cached : Bool) : (s.lineWrite p line off n w cached).Quiet v := by
  unfold State.lineWrite
  split_ifs
  · exact h.congr rfl rfl
  · exact h.congr rfl rfl
  · exact (h.makeRoom line).congr rfl rfl
  · exact (h.putTag line { ptag := p, poison := s.lineBad line && decide (n < 64) } rfl).congr (by simp only [State.bootView]) rfl

theorem State.Quiet.raisePts (h : s.Quiet v) (a : Option Nat) (w : Nat) : (s.raisePts a w).Quiet v := by
  cases a <;> exact h.congr rfl rfl

theorem State.Quiet.countMismatch (h : s.Quiet v) (p line : Nat) : (s.countMismatch p line).Quiet v := by
  simp only [State.countMismatch]
  split_ifs
  · exact h
  · exact h.congr rfl rfl

theorem State.Quiet.homeLook (h : s.Quiet v) (a : Option Nat) (p line : Nat) : (s.homeLook a p line).Quiet v :=
  ((h.countMismatch p line).homeRead line _).raisePts a _

theorem State.Quiet.physWrite (h : s.Quiet v) (p pa n w : Nat) (cached : Bool) : (s.physWrite p pa n w cached).Quiet v :=
  ((h.homeWrite _ _).lineWrite p _ _ n w cached).raisePts none _

theorem State.Quiet.linesWrite (h : s.Quiet v) (p line n w : Nat) : (s.linesWrite p line n w).Quiet v := by
  induction n generalizing s line w with
  | zero => exact h
  | succ n ih => exact ih (h.physWrite p _ 64 _ false) _ _

theorem State.Quiet.modPartition (h : s.Quiet v) (p : Nat) (f : Partition → Partition) : (s.modPartition p f).Quiet v := by
  unfold State.modPartition
  split
  · exact h.congr rfl rfl
  · exact h

theorem State.Quiet.takeTable {t : State} {p f : Nat} (h : s.Quiet v) (ht : s.takeTable p = some (f, t)) : t.Quiet v := by
  unfold State.takeTable at ht
  split at ht
  · cases ht
  · split at ht
    · cases ht
    · cases ht
      exact (h.modPartition p _).linesWrite p _ 64 0

theorem State.Quiet.mapLeaf (h : s.Quiet v) (p va target e fuel level table : Nat) : (s.mapLeaf p va target e fuel level table).state.Quiet v := by
  induction fuel generalizing s level table with
  | zero => exact h
  | succ fuel ih =>
    have hlook := h.homeLook none p (entryAddr table va level / 64)
    simp only [State.mapLeaf]
    split_ifs
    · exact hlook
    · exact hlook.physWrite p _ 8 e true
    · exact ih hlook _ _
    · exact hlook
    · split
      · exact hlook
      case h_2 f t ht => exact ih ((hlook.takeTable ht).physWrite p _ 8 _ true) _ _

theorem State.Quiet.mapLeaves (h : s.Quiet v) (p level e step n va : Nat) : (s.mapLeaves p level e step n va).state.Quiet v := by
  induction n generalizing s e va with
  | zero => exact h
  | succ n ih =>
    have hleaf := h.mapLeaf p va level e 5 0 (s.rootOf p)
    simp only [State.mapLeaves]
    split
    case h_1 t ht => exact ih (by rwa [ht] at hleaf) _ _
    case h_2 t ht => rwa [ht] at hleaf
    case h_3 t ht => rwa [ht] at hleaf

/-- What every step of a fold keeps, the fold keeps. -/
theorem State.Quiet.foldl {α : Type} {f : State → α → State} (h : s.Quiet v) (l : List α)
    (hf : ∀ (u : State) (a : α), u.Quiet v → (f u a).Quiet v) : (l.foldl f s).Quiet v :=
  List.foldlRecOn l f h fun u hu a _ => hf u a hu

theorem State.Quiet.mapCode (h : s.Quiet v) (va pa n : Nat) : (s.mapCode va pa n).Quiet v :=
  h.foldl _ fun _ _ hu => hu.mapLeaf ..

theorem State.Quiet.mapSram (h : s.Quiet v) : s.mapSram.Quiet v := by
  refine State.Quiet.foldl (h.foldl _ fun u i hu => ?pages) _ fun u x hu => ?code
  case pages =>
    dsimp only
    split_ifs
    · exact hu.foldl _ fun _ _ hw => hw.mapLeaf ..
    · exact hu.mapLeaf ..
  case code =>
    split_ifs
    · exact hu
    · exact hu.mapCode ..

theorem State.Quiet.mapMaxima (h : s.Quiet v) (p : Nat) : (s.mapMaxima p).Quiet v := by
  have hleaves := h.mapLeaves p 4 (maximaPa + 1 + 2 ^ 2 + 2 ^ 7 + 2 ^ 8) 4096 32 maximaVa
  unfold State.mapMaxima
  split
  case h_1 t ht => rwa [ht] at hleaves
  case h_2 t ht => rwa [ht] at hleaves
  case h_3 t ht => rwa [ht] at hleaves

theorem State.Quiet.openWindows (h : s.Quiet v) (p : Nat) : (s.openWindows p).Quiet v :=
  h.foldl _ fun _ _ hu => hu.congr rfl rfl

theorem State.Quiet.islandClocks (h : s.Quiet v) (die : Nat) (on : Bool) : (s.islandClocks die on).Quiet v :=
  h.foldl _ fun _ _ hu => hu.congr rfl rfl

theorem State.Quiet.freeLine (h : s.Quiet v) (line : Nat) : (s.freeLine line).Quiet v := by
  unfold State.freeLine
  generalize (List.range 64).foldl (fun m i => Memory.set m (line * 64 + i) (Config.freeByte (s.fresh + 1 + i))) s.mem = mem
  dsimp only
  split_ifs
  · exact h.congr rfl rfl
  · exact (h.putTag line { ptag := Config.freeChoice s.fresh 17 % 17 } rfl).congr rfl rfl

end

/-! ### Cold reset: steps 1 to 3 (R89) -/

/-- The view that a cold reset sets: step 3, the life cycle and the images as they were, and nothing under way. -/
def State.coldView (s : State) : BootView :=
  { step := 3, lifecycle := s.fw.lifecycle, superImage := s.fw.superImage, coresOut := s.fw.cold.coresOut, cmds := [], launches := [], net := [] }

/-- The state of a cold reset before any table is written (R9, R72, R89). -/
def State.coldStart (s : State) : State :=
  { State.reset with
    mem := s.mem.filter fun e => decide (2 ^ 62 ≤ e.1), fresh := s.fresh, fw := s.fw.cold, queues := [(0, Queue.reset0 s.fw)]
    partitions := [(0, partition0 s.fw)], links := linksOf s.fw }

/-- The state of a cold reset with its lines unspecified and its tables and clocks set up. -/
def State.coldTables (s : State) : State :=
  let t := s.dramLines.foldl (fun u l => u.freeLine l) s.coldStart
  let t := { t with mem := Memory.writeN (Memory.writeN t.mem maximaPa 64 (maximaTable false)) (maximaPa + 0x10000) 64 (maximaTable true) }
  (((t.openWindows 0).mapSram).mapMaxima 0).islandClocks 4 true

theorem State.coldReset_eq (s : State) : s.coldReset = s.coldTables.startSupervisor.spareless s.fw := rfl

theorem State.coldTables_quiet (s : State) : s.coldTables.Quiet s.coldView := by
  have hstart : s.coldStart.Quiet s.coldView := ⟨rfl, fun _ _ hx => nomatch hx⟩
  have hlines := hstart.foldl s.dramLines fun u l hu => State.Quiet.freeLine hu l
  exact ((((hlines.withMem _).openWindows 0).mapSram.mapMaxima 0).islandClocks 4 true)

/-- Without a supervisor image no supervisor starts (R87). -/
theorem State.startSupervisor_none {s : State} (h : s.fw.superImage = []) : s.startSupervisor = s := by
  simp [State.startSupervisor, h]

/-- Firmware, commands and launches of one state stand in another. -/
def State.SameOrders (s t : State) : Prop := t.fw = s.fw ∧ t.cmds = s.cmds ∧ t.launches = s.launches

/-- Reporting what is out of service leaves firmware, commands and launches. -/
theorem State.spareless_sameOrders (s : State) (old : Firmware) : s.SameOrders (s.spareless old) :=
  List.foldlRecOn (motive := s.SameOrders) _ _ (List.foldlRecOn (motive := s.SameOrders) _ _ ⟨rfl, rfl, rfl⟩ fun _ h _ _ => h) fun _ h _ _ => h

theorem State.spareless_whole {s : State} {old : Firmware} (hcores : s.fw.coresOut = []) (hrows : old.rowMarks = []) : s.spareless old = s := by
  simp [State.spareless, hcores, hrows]

theorem Firmware.cold_coresOut {fw : Firmware} (h : fw.repairMap = []) : fw.cold.coresOut = [] := by
  simp [Firmware.cold, h]

/-- After a cold reset without a supervisor image: step 3, the life cycle as it was, no command and no launch, and no message unless something is out
of service (R89). -/
theorem State.coldReset_ready {s : State} (himage : s.fw.superImage = []) :
    s.coldReset.fw.step = 3 ∧ s.coldReset.fw.lifecycle = s.fw.lifecycle ∧ s.coldReset.cmds = [] ∧ s.coldReset.launches = []
      ∧ (s.fw.repairMap = [] → s.fw.rowMarks = [] → s.coldReset.net = []) := by
  have hview := s.coldTables_quiet.view
  have hsuper : s.coldTables.fw.superImage = [] := (congrArg BootView.superImage hview).trans himage
  rw [s.coldReset_eq, State.startSupervisor_none hsuper]
  obtain ⟨hfw, hcmds, hlaunches⟩ := s.coldTables.spareless_sameOrders s.fw
  rw [hfw, hcmds, hlaunches]
  refine ⟨congrArg BootView.step hview, congrArg BootView.lifecycle hview, congrArg BootView.cmds hview, congrArg BootView.launches hview,
    fun hmap hmarks => ?_⟩
  rw [State.spareless_whole ((congrArg BootView.coresOut hview).trans (Firmware.cold_coresOut hmap)) hmarks]
  exact congrArg BootView.net hview

/-! ### Steps 4 to 7 (R89, R90) -/

theorem State.islandClocks_frame (s : State) (die : Nat) (on : Bool) :
    (s.islandClocks die on).mem = s.mem ∧ (s.islandClocks die on).power = s.power ∧ (s.islandClocks die on).fw = s.fw :=
  List.foldlRecOn (motive := fun t : State => t.mem = s.mem ∧ t.power = s.power ∧ t.fw = s.fw) _ _ ⟨rfl, rfl, rfl⟩ fun _ h _ _ => h

theorem State.fillPool_frame (s : State) (p : Nat) :
    (s.fillPool p).fw = s.fw ∧ ∀ e ∈ (s.fillPool p).mem, e ∈ s.mem := by
  unfold State.fillPool
  split
  · exact ⟨rfl, fun _ he => he⟩
  · exact ⟨rfl, fun _ he => List.mem_of_mem_filter he⟩

/-- The state at step 5 with partition 0's areas reserved under its key (R72, R472). -/
def State.reserveAreas (s : State) : State :=
  (s.atStep 5).takeWord.2.modPartition 0 fun x => { Partition.reserve x 0 with inlineKey := (s.atStep 5).takeWord.1.toNat }

/-- Step 5: the DRAM accepts accesses, and no memory is written (R89). -/
theorem exec_lpddr6Trained {s : State} (h : s.fw.step = 4) :
    ∃ t, exec .lpddr6Trained s = .next t ∧ t.fw.step = 5 ∧ t.power.dram = 0 ∧ ∀ e ∈ t.mem, e ∈ s.mem := by
  obtain ⟨hfw, hmem⟩ := s.reserveAreas.fillPool_frame 0
  refine ⟨(s.reserveAreas.fillPool 0).modPower fun p => { p with dram := 0, dramWant := false, dramSince := s.time },
    congrArg Host.Outcome.next (if_pos h), ?_, rfl, fun e he => ?_⟩
  · have hstep : s.reserveAreas.fw.step = 5 := by simp [State.reserveAreas, State.atStep]
    exact (congrArg Firmware.step hfw).trans hstep
  · have hkept : s.reserveAreas.mem = s.mem := by simp [State.reserveAreas, State.atStep]
    exact hkept ▸ hmem e he

/-- The state with a compute die in K0 and its clocks running, as step 6 leaves it (R89, log 84). -/
def State.startDie (s : State) (q : Nat) : State :=
  (s.modPower fun p => { p with die := SMap.put p.die q 0, dieSince := SMap.put p.dieSince q s.time }).islandClocks q true

theorem State.startDie_frame (s : State) (q : Nat) :
    (s.startDie q).mem = s.mem ∧ (s.startDie q).power.die = SMap.put s.power.die q 0 ∧ (s.startDie q).fw = s.fw := by
  obtain ⟨hmem, hpower, hfw⟩ := State.islandClocks_frame
    (s.modPower fun p => { p with die := SMap.put p.die q 0, dieSince := SMap.put p.dieSince q s.time }) q true
  exact ⟨hmem, congrArg Power.die hpower, hfw⟩

theorem State.startDies_frame (s : State) (l : List Nat) :
    (l.foldl State.startDie s).mem = s.mem ∧ (l.foldl State.startDie s).fw = s.fw :=
  List.foldlRecOn (motive := fun t : State => t.mem = s.mem ∧ t.fw = s.fw) _ _ ⟨rfl, rfl⟩ fun t h q _ =>
    have ⟨hmem, _, hfw⟩ := t.startDie_frame q
    ⟨hmem.trans h.1, hfw.trans h.2⟩

/-- A die that is started is in K0, and starting another leaves it there. -/
theorem State.dieState_startDie (s : State) (q d : Nat) : (s.startDie q).dieState d = if d = q then 0 else s.dieState d := by
  obtain ⟨-, hdie, -⟩ := s.startDie_frame q
  unfold State.dieState
  rw [hdie]
  split_ifs with h
  · rw [h, SMap.get_put_self]
  · exact SMap.get_put_ne _ _ _ h

/-- The state at step 6 with every scratchpad of the compute dies wiped (R89). -/
def State.wipeDies (s : State) : State :=
  { s.atStep 6 with mem := s.mem.filter fun e => !(decide (2 ^ 60 ≤ e.1) && decide (e.1 < spadKey 0x400 0 0)) }

theorem State.wipeDies_mem (s : State) :
    s.wipeDies.mem = s.mem.filter fun e => !(decide (2 ^ 60 ≤ e.1) && decide (e.1 < spadKey 0x400 0 0)) := rfl

theorem State.movePool_frame (s : State) : s.movePool.fw = s.fw ∧ s.movePool.mem = s.mem ∧ s.movePool.power = s.power := ⟨rfl, rfl, rfl⟩

theorem exec_computeDiesTrained_eq {s : State} (h : s.fw.step = 5) :
    exec .computeDiesTrained s = .next ([0, 1, 2, 3].foldl State.startDie s.wipeDies).movePool := by
  show nextState _ = _
  rw [if_pos h]
  rfl

/-- Step 6: the compute dies in K0, and scratchpads wiped (R89, R90, log 84). -/
theorem exec_computeDiesTrained {s : State} (h : s.fw.step = 5) :
    ∃ t, exec .computeDiesTrained s = .next t ∧ t.fw.step = 6 ∧ (∀ q < 4, t.dieState q = 0)
      ∧ ∀ e ∈ t.mem, e ∈ s.mem ∧ ¬(2 ^ 60 ≤ e.1 ∧ e.1 < spadKey 0x400 0 0) := by
  obtain ⟨hmem, hfw⟩ := s.wipeDies.startDies_frame [0, 1, 2, 3]
  obtain ⟨hfw', hmem', hpower⟩ := ([0, 1, 2, 3].foldl State.startDie s.wipeDies).movePool_frame
  refine ⟨_, exec_computeDiesTrained_eq h, ?step, fun q hq => ?dies, fun e he => ?wiped⟩
  case step =>
    rw [hfw', hfw]
    rfl
  case dies =>
    rw [State.dieState, hpower, ← State.dieState]
    simp only [List.foldl, State.dieState_startDie]
    split_ifs <;> omega
  case wiped =>
    rw [hmem', hmem, State.wipeDies_mem, List.mem_filter] at he
    obtain ⟨hold, hout⟩ := he
    simp only [Bool.not_eq_true', Bool.and_eq_false_iff, decide_eq_false_iff_not] at hout
    exact ⟨hold, by tauto⟩

/-! ### The life cycle (R95) -/

/-- A transition wipes all but what is fused and flash (R95). -/
theorem exec_lifeCycleTransition {s : State} {target : Nat} (hlater : s.fw.lifecycle < target) (hnext : target = s.fw.lifecycle + 1 ∨ target = 4)
    (hlast : target ≤ 4) :
    ∃ t, exec (.lifeCycleTransition target) s = .next t ∧ t.fw.lifecycle = target ∧ t.fw.step = 0 ∧ t.ctxs = [] ∧ t.tags = []
      ∧ ∀ e ∈ t.mem, e ∈ s.mem ∧ 2 ^ 62 ≤ e.1 := by
  refine ⟨_, congrArg Host.Outcome.next (if_pos (by simp [hlater, hnext, hlast])), rfl, rfl, rfl, rfl, fun e he => ?_⟩
  obtain ⟨hmem, hflash⟩ := List.mem_filter.mp he
  exact ⟨hmem, of_decide_eq_true hflash⟩

theorem exec_lifeCycleTransition_back {s : State} {target : Nat} (h : target ≤ s.fw.lifecycle) : exec (.lifeCycleTransition target) s = .next s :=
  congrArg Host.Outcome.next (if_neg (by simp; omega))

end Sys2Proof.Machine
end

section
/-! Host accesses, links and mesh clocks (R16, R18, R32, R35 to R42, R50, R226). -/
namespace Sys2Proof.Machine

/-! ### Host accesses (R32, R35, R226) -/

theorem isDram_iff {a : Nat} : isDram a = true ↔ a < 0x10000000000 := decide_eq_true_iff

theorem isSram_iff {a : Nat} : isSram a = true ↔ 0x10000000000 ≤ a ∧ a < 0x10000000000 + 0x3000000 := decide_eq_true_iff

theorem not_isDram_of_isSram {a : Nat} (h : isSram a = true) : isDram a = false := by
  rw [isSram_iff] at h
  exact Bool.eq_false_iff.mpr fun hd => by rw [isDram_iff] at hd; omega

theorem not_isSram_of_isDram {a : Nat} (h : isDram a = true) : isSram a = false :=
  Bool.eq_false_iff.mpr fun hs => by rw [not_isDram_of_isSram hs] at h; cases h

/-- The lines of cellar SRAM are none of DRAM. -/
theorem not_isDram_line {a : Nat} (h : isSram a = true) : isDram (a / 64 * 64) = false := by
  rw [isSram_iff] at h
  exact Bool.eq_false_iff.mpr fun hd => by rw [isDram_iff] at hd; omega

theorem State.readDram_sram {s : State} {a : Nat} (h : isSram a = true) : s.readDram (a / 64) = s := by
  simp [State.readDram, not_isDram_line h]

theorem State.dramShut_sram {s : State} {a : Nat} (h : isSram a = true) : s.dramShut a = false := by
  simp [State.dramShut, not_isDram_of_isSram h]

/-- The access that a host agent asks for, at the place that it reaches: within one line (R32). -/
def hostAcc (agent : Nat) (w : Bool) (a len v : Nat) : HostAcc :=
  { agent := agent, write := w, pa := a, len := min len (64 - a % 64), val := v % 2 ^ (8 * min len (64 - a % 64)) }

section
variable {agent : Nat} {w : Bool} {pa : Nat} {s : State}

theorem exec_hostDramAccess_nowhere (h : s.hostPlace agent pa = none) (len v : Nat) : exec (.hostDramAccess ⟨agent, w⟩ pa len v) s = .next s := by
  show nextState _ = _
  simp only [h]
  rfl

variable {a : Nat} (h : s.hostPlace agent pa = some a) (len v : Nat)
include h

theorem exec_hostDramAccess_outside (hdram : isDram a = false) (hsram : isSram a = false) : exec (.hostDramAccess ⟨agent, w⟩ pa len v) s = .next s := by
  show nextState _ = _
  simp only [h, hdram, hsram]
  rfl

/-- An access that must wait for the DRAM is kept, and the DRAM's exit asked for (R50). -/
theorem exec_hostDramAccess_waits (hdram : isDram a = true) (hshut : s.dramShut a = true)
    (hmiss : agent = 0 → SMap.find? s.hostLines (a / 64) = none) :
    exec (.hostDramAccess ⟨agent, w⟩ pa len v) s
      = .next { s.wantDram.getD s with fw := { (s.wantDram.getD s).fw with hostWait := (s.wantDram.getD s).fw.hostWait ++ [hostAcc agent w a len v] } } := by
  have hheld : (agent == 0 && (SMap.find? s.hostLines (a / 64)).isSome) = false := by
    by_cases hagent : agent = 0
    · simp [hmiss hagent]
    · simp [hagent]
  show nextState _ = _
  simp only [h, hdram, hshut, hheld]
  rfl

/-- Another access is performed at once. -/
theorem exec_hostDramAccess_now (hplace : isDram a = true ∨ isSram a = true)
    (hopen : s.dramShut a = false ∨ agent = 0 ∧ (SMap.find? s.hostLines (a / 64)).isSome = true) :
    exec (.hostDramAccess ⟨agent, w⟩ pa len v) s = .next (s.hostAccess (hostAcc agent w a len v)) := by
  have hin : (!(isDram a || isSram a)) = false := by rw [Bool.not_eq_false', Bool.or_eq_true]; exact hplace
  have hgo : (s.dramShut a && !(agent == 0 && (SMap.find? s.hostLines (a / 64)).isSome)) = false := by
    rcases hopen with hopen | ⟨hagent, hline⟩
    · simp [hopen]
    · simp [hagent, hline]
  show nextState _ = _
  simp only [h, hin, hgo]
  rfl

end

/-! ### What an access does (R32, R226) -/

section
variable {s : State} {x : HostAcc}

/-- An access to cellar SRAM, which the application cores' cache does not hold. -/
theorem State.hostAccess_sram (h : isSram x.pa = true) :
    s.hostAccess x = if x.write then s.hostWrite x.pa x.len x.val else { s with fw := { s.fw with hostRead := Memory.readN s.mem x.pa x.len } } := by
  have hdram := not_isDram_of_isSram h
  simp only [State.hostAccess, State.readDram_sram h, ite_self, hdram, Bool.and_false, Bool.false_eq_true, if_false]
  split_ifs
  · rfl
  · simp [State.appRead, h]
  · simp [State.hostValue, h]

/-- An access of an endpoint's host goes straight to memory. -/
theorem State.hostAccess_straight (h : x.agent ≠ 0) :
    s.hostAccess x = (let t := s.readDram (x.pa / 64)
      if x.write then t.hostWrite x.pa x.len x.val else { t with fw := { t.fw with hostRead := t.hostValue x.pa x.len } }) := by
  simp [State.hostAccess, h]

/-- An application core's access to a line of DRAM that its cache does not hold. -/
theorem State.hostAccess_miss (h : x.agent = 0) (hdram : isDram x.pa = true) (hmiss : SMap.find? s.hostLines (x.pa / 64) = none) :
    s.hostAccess x = (let t := s.readDram (x.pa / 64)
      if x.write then t.appWrite x.pa x.len x.val
      else { (t.appRead x.pa x.len).2 with fw := { (t.appRead x.pa x.len).2.fw with hostRead := (t.appRead x.pa x.len).1 } }) := by
  simp [State.hostAccess, h, hdram, hmiss]

/-- An application core's access to a line that its cache holds. -/
theorem State.hostAccess_hit {l : HostLine} (h : x.agent = 0) (hdram : isDram x.pa = true) (hhit : SMap.find? s.hostLines (x.pa / 64) = some l) :
    s.hostAccess x =
      if x.write then
        { s with hostLines := SMap.put s.hostLines (x.pa / 64) { data := patch l.data (x.pa % 64) x.len x.val, dirty := true, poison := l.poison && decide (x.len < 64) } }
      else { s with fw := { s.fw with hostRead := lineBytes l.data x.pa x.len } } := by
  have hroom : s.hostRoom (x.pa / 64) = s := by simp [State.hostRoom, hhit]
  simp [State.hostAccess, h, hdram, hhit, State.appWrite, State.appRead, hroom, not_isSram_of_isDram hdram]

end

/-! ### Links and mesh clocks (R16, R18, R36 to R42) -/

/-- A direction of a link (R16). -/
def Link.lanesOf (x : Link) (tx : Bool) : Lanes := if tx then x.tx else x.rx

/-- The link with one direction replaced. -/
def Link.withLanes (x : Link) (tx : Bool) (y : Lanes) : Link := if tx then { x with tx := y } else { x with rx := y }

/-- What a replay of one direction leaves (R16, R37). -/
def State.replayed (s : State) (link : Nat) (tx failed : Bool) : State :=
  let x := s.link link
  let d := x.lanesOf tx
  if !failed then s.setLink link (x.withLanes tx { d with fails := 0 })
  else if 8 ≤ link then s.setLink link (x.withLanes tx { d with fails := d.fails + 1 })
  else match d.fail with
    | some y => s.setLink link (x.withLanes tx y)
    | none =>
      let t := s.setLink link { x.withLanes tx { d with fails := 0 } with half := true }
      if x.half then t else t.linkReport link

theorem exec_flitReplay {link : Nat} (hlink : link ≤ 13) (tx failed : Bool) (s : State) :
    exec (.flitReplay ⟨link, tx⟩ failed) s = .next (s.replayed link tx failed) := by
  show nextState _ = _
  rw [if_neg (by simpa using hlink)]
  rfl

theorem Lanes.fail_counts {x : Lanes} (h : x.fails < 7) : x.fail = some { x with fails := x.fails + 1 } := if_pos (by omega)

theorem Lanes.fail_spare {x : Lanes} (h : 7 ≤ x.fails) (hspare : 0 < x.spares) : x.fail = some { fails := 0, spares := x.spares - 1 } :=
  (if_neg (by omega)).trans (if_pos hspare)

theorem Lanes.fail_none {x : Lanes} (h : 7 ≤ x.fails) (hspare : x.spares = 0) : x.fail = none :=
  (if_neg (by omega)).trans (if_neg (by omega))

/-- A failed replay counts, before the eighth in a row or on a port. -/
theorem State.replayed_counts {s : State} {link : Nat} {tx : Bool} (h : ((s.link link).lanesOf tx).fails < 7 ∨ 8 ≤ link) :
    s.replayed link tx true
      = s.setLink link ((s.link link).withLanes tx { (s.link link).lanesOf tx with fails := ((s.link link).lanesOf tx).fails + 1 }) := by
  by_cases hport : 8 ≤ link
  · simp [State.replayed, hport]
  · simp [State.replayed, hport, Lanes.fail_counts (h.resolve_right hport)]

/-- The eighth failure in a row swaps a lane for a spare of that direction. -/
theorem State.replayed_spare {s : State} {link : Nat} {tx : Bool} (h : 7 ≤ ((s.link link).lanesOf tx).fails) (hlink : link < 8)
    (hspare : 0 < ((s.link link).lanesOf tx).spares) :
    s.replayed link tx true = s.setLink link ((s.link link).withLanes tx { fails := 0, spares := ((s.link link).lanesOf tx).spares - 1 }) := by
  simp [State.replayed, Nat.not_le.mpr hlink, Lanes.fail_spare h hspare]

/-- Without a spare the link runs at half width, and is reported. -/
theorem State.replayed_half {s : State} {link : Nat} {tx : Bool} (h : 7 ≤ ((s.link link).lanesOf tx).fails) (hlink : link < 8)
    (hspare : ((s.link link).lanesOf tx).spares = 0) (hwhole : (s.link link).half = false) :
    s.replayed link tx true = (s.setLink link { (s.link link).withLanes tx { (s.link link).lanesOf tx with fails := 0 } with half := true }).report
      (epAgent 9) 6 link 0 := by
  simp [State.replayed, Nat.not_le.mpr hlink, Lanes.fail_none h hspare, hwhole, State.linkReport]

/-- A mesh domain's clock after a sample of its occupancy (R18). -/
def steppedClock (f occ : Nat) : Nat := if 512 < occ && f < 2400 then f + 200 else if occ < 128 && 800 < f then f - 200 else f

theorem exec_meshClockSample {domain : Nat} (occ : Nat) {s : State} (hdomain : domain ≤ 4) (htime : s.time % 1000 = 0) (hrun : s.allGated = false) :
    exec (.meshClockSample domain occ) s
      = .next (s.modPower fun p => { p with mesh := SMap.put p.mesh domain (steppedClock (s.meshClock domain) occ) }) := by
  show nextState _ = _
  rw [if_neg (by simp [htime, hrun]; omega)]
  rfl

theorem exec_meshClockSample_none {domain : Nat} (occ : Nat) {s : State} (h : 4 < domain ∨ s.time % 1000 ≠ 0 ∨ s.allGated = true) :
    exec (.meshClockSample domain occ) s = .next s := by
  show nextState _ = _
  rw [if_pos (by simpa [or_assoc] using h)]
  rfl

/-- Lanes of a peer link after it sheds some, or restores them, one step (R38). -/
def steppedLanes (n : Nat) (shed : Bool) : Nat := if shed then (if n = 16 then 8 else 4) else (if n = 4 then 8 else 16)

section
variable {link : Nat} (hlink : link ≤ 1) {s : State}
include hlink

/-- A peer link without a message goes down, and is reported (R39). -/
theorem exec_peerLinkDown_idle (h : s.focusMsg = none) :
    exec (.peerLinkDown link) s = .next ((s.setLink (8 + link) { s.link (8 + link) with down := true }).report (epAgent 9) 6 (8 + link) 0) := by
  show nextState _ = _
  simp only [h]
  rw [if_neg (by omega)]
  rfl

theorem exec_peerLaneShed (shed : Bool) :
    exec (.peerLaneShed link shed) s = .next (s.setLink (8 + link) { s.link (8 + link) with lanes := steppedLanes (s.link (8 + link)).lanes shed }) := by
  show nextState _ = _
  rw [if_neg (by omega)]
  rfl

end

/-- A message for a link that is down returns as a refusal, whatever its channel (R36). -/
theorem exec_peerLinkDown_refuses {link : Nat} {s : State} {m : Msg} (hf : s.focusMsg = some m) (he : s.msgEvent m = .peerLinkDown link) :
    exec (.peerLinkDown link) s = .next ((s.take m).refuse { m with ack := true } 4) := by
  show nextState _ = _
  simp only [hf, he, if_true]
  rfl

end Sys2Proof.Machine

open Sys2Proof Sys2Proof.Machine

/-- Settles O48: each step of bring-up and each access, link and clock by its own cases. That step 6 leaves the dies in K0 is the model's choice
(log 84), as are the source and ARG of a link's KIND 6 entry (log 50). -/
theorem bringUpAndLifeCycle : Obligations.BringUpAndLifeCycle := by
  unfold Obligations.BringUpAndLifeCycle
  refine ⟨fun s => ⟨rfl, State.coldReset_ready, fun h => congrArg Host.Outcome.next (if_pos h), fun h => congrArg Host.Outcome.next (if_neg h),
    exec_lpddr6Trained, exec_computeDiesTrained, fun h => congrArg Host.Outcome.next (if_pos h),
    fun _ hlater hnext hlast => exec_lifeCycleTransition hlater hnext hlast, fun _ h => exec_lifeCycleTransition_back h,
    fun agent pa len v w h => exec_hostDramAccess_nowhere h len v, fun agent pa a len v hplace => ?access⟩,
    ?replay, ?sample, fun _ occ _ h => exec_meshClockSample_none occ h, ?peer⟩
  case access =>
    intro n x t
    refine ⟨fun w hdram hsram => exec_hostDramAccess_outside hplace len v hdram hsram, fun w => exec_hostDramAccess_waits hplace len v,
      fun hdram hopen hagent => ?straight, fun hsram => ?sram, fun hdram hopen hagent hmiss => ?miss, fun l hdram hagent hhit => ?hit⟩
    case straight =>
      constructor
      all_goals refine (exec_hostDramAccess_now hplace len v (.inl hdram) (.inl hopen)).trans (congrArg Host.Outcome.next ?_)
      all_goals exact State.hostAccess_straight hagent
    case sram =>
      constructor
      all_goals refine (exec_hostDramAccess_now hplace len v (.inr hsram) (.inl (s.dramShut_sram hsram))).trans (congrArg Host.Outcome.next ?_)
      all_goals exact State.hostAccess_sram hsram
    case miss =>
      constructor
      all_goals refine (exec_hostDramAccess_now hplace len v (.inl hdram) (.inl hopen)).trans (congrArg Host.Outcome.next ?_)
      all_goals exact State.hostAccess_miss hagent hdram hmiss
    case hit =>
      constructor
      all_goals refine (exec_hostDramAccess_now hplace len v (.inl hdram) (.inr ⟨hagent, by simp [hhit]⟩)).trans (congrArg Host.Outcome.next ?_)
      all_goals exact State.hostAccess_hit hagent hdram hhit
  case replay =>
    intro link tx s hlink x d put
    refine ⟨exec_flitReplay hlink tx false s, fun h => ?_, fun h hlow hspare => ?_, fun h hlow hspare hwhole => ?_⟩
    all_goals refine (exec_flitReplay hlink tx true s).trans (congrArg Host.Outcome.next ?_)
    · exact State.replayed_counts h
    · exact State.replayed_spare h hlow hspare
    · exact State.replayed_half h hlow hspare hwhole
  case sample =>
    intro domain occ s hdomain htime hrun f at_
    refine ⟨fun hocc hf => ?_, fun hocc hf => ?_, fun hlow hhigh => ?_⟩
    all_goals refine (exec_meshClockSample occ hdomain htime hrun).trans (congrArg (fun g => Host.Outcome.next (at_ g)) ?_)
    · exact if_pos (by simp [hocc]; exact hf)
    · exact (if_neg (by simp; omega)).trans (if_pos (by simp [hocc]; exact hf))
    · exact (if_neg (by simp; omega)).trans (if_neg (by simp; omega))
  case peer =>
    intro link s hlink x put
    refine ⟨exec_peerLinkDown_idle hlink, fun m => exec_peerLinkDown_refuses, fun h => ?_, fun h => ?_, fun h => ?_, fun h => ?_⟩
    all_goals refine (exec_peerLaneShed hlink _).trans (congrArg (fun n => Host.Outcome.next (put { x with lanes := n })) ?_)
    all_goals exact congrArg (steppedLanes · _) h
end

end

section
/-! The proofs of the statements on islands and power, and on the commands that move them. -/

-- As above: the proofs are elaborated one after another. Every section variable below is named by the statements that use it, or included.
set_option deprecated.oldSectionVars true

section
/-! Dies, cellar, DRAM and application cores asleep and awake, pitch triggers and wake contracts (R46 to R59). -/
namespace Sys2Proof.Machine

/-! ### Compute dies (R46 to R48, R53) -/

section
variable {die : Nat} {s : State}

theorem exec_k1Entry_enters (hdie : die < 4) (hk0 : s.dieState die = 0) (hstays : SMap.get 0 s.power.trans die = 0) (hidle : s.dieIdle die = true)
    (hfloor : 1 ≤ s.dieFloor die) (htime : SMap.get 0 s.power.dieSince die + 1000 ≤ s.time) :
    exec (.k1Entry die) s = .next ((s.modPower fun p =>
      { p with die := SMap.put p.die die 1, dieSince := SMap.put p.dieSince die s.time }).islandClocks die false) :=
  congrArg Host.Outcome.next (if_pos (by simp [hdie, hk0, hstays, hidle, hfloor, htime]))

theorem exec_k1Entry_stays (h : s.dieIdle die = false ∨ s.dieFloor die = 0) : exec (.k1Entry die) s = .next s :=
  congrArg Host.Outcome.next (if_neg (by rcases h with h | h <;> simp [h]))

/-- A die in K1 that no critical trip holds returns to K0. -/
theorem State.leaveK1_eq (hk1 : s.dieState die = 1) (hfree : s.dieTripped die = false) :
    s.leaveK1 die = s.startDie die :=
  if_pos (by simp [hk1, hfree])

theorem exec_k2IdleEntry_enters (hdie : die < 4) (hk1 : s.dieState die = 1) (htime : SMap.get 0 s.power.dieSince die + s.power.kidle2 ≤ s.time)
    (hfloor : 2 ≤ s.dieFloor die) (hfree : s.dieTripped die = false) (hidle : s.dieIdle die = true)
    (hqueues : ∀ c ∈ dieCores die, (s.core c).deque = [] ∧ (s.core c).spill = []) (hpool : ∀ r ∈ s.pool, r.die ≠ die) (hdram : s.power.dram = 0) :
    exec (.k2IdleEntry die) s = .next (s.enterK2 die) := by
  have hempty : ((dieCores die).any fun c => !(s.core c).deque.isEmpty || !(s.core c).spill.isEmpty) = false :=
    List.any_eq_false.mpr fun c hc => by simp [hqueues c hc]
  have hnone : (s.pool.any fun r => r.die == die) = false := List.any_eq_false.mpr fun r hr => by simp [hpool r hr]
  exact congrArg Host.Outcome.next (if_pos (by simp [hdie, hk1, htime, hfloor, hfree, hidle, hempty, hnone, hdram]))

theorem exec_k3Entry_enters (hdie : die < 4) (hk2 : s.dieState die = 2) (hstays : SMap.get 0 s.power.trans die = 0) (hfloor : s.dieFloor die = 3)
    (hempty : s.dieResident die = false) (htime : SMap.get 0 s.power.dieSince die + s.power.kidle3 ≤ s.time) :
    exec (.k3Entry die) s = .next (s.enterK3 die) :=
  congrArg Host.Outcome.next (if_pos (by simp [hdie, hk2, hstays, hfloor, hempty, htime]))

/-- The wake of a gated die begins, and the DRAM's exit with it. -/
theorem State.beginWake_gated (hgated : 2 ≤ s.dieState die) (hstays : SMap.get 0 s.power.trans die = 0) (hup : 6 ≤ s.fw.step) :
    s.beginWake die
      = (s.modPower fun p => { p with trans := SMap.put p.trans die 3, dieSince := SMap.put p.dieSince die s.time }).dramExit := by
  have hk : ¬ s.dieState die < 2 := Nat.not_lt.mpr hgated
  exact (if_neg (by simp [hstays])).trans (if_neg (by simp [hk, hstays, hup]))

theorem exec_dieWake (hdie : die < 4) : exec (.dieWake die) s = .next (s.beginWake die) :=
  congrArg Host.Outcome.next (if_pos hdie)

theorem exec_dieReady_reaches (hwakes : SMap.get 0 s.power.trans die = 3) (hdram : s.power.dram = 0) (hfree : s.dieTripped die = false) :
    exec (.dieReady die) s = .next (s.reachK0 die) :=
  congrArg Host.Outcome.next (if_pos (by simp [hwakes, hdram, hfree]))

end

/-! ### Cellar, DRAM and application cores (R49 to R51) -/

section
variable {s : State}

theorem exec_cellarC1Entry_dozes (hawake : s.power.cellarC1 = false) (hsettled : s.power.cellarWaking = false) (hidle : s.cellarIdle = true)
    (hfree : s.cellarHeld = false) (htime : s.power.cellarSince + 10000 ≤ s.time) :
    exec .cellarC1Entry s = .next ((s.modPower fun p => { p with cellarC1 := true, cellarSince := s.time }).islandClocks 4 false) :=
  congrArg Host.Outcome.next (if_pos (by simp [hawake, hsettled, hidle, hfree, htime]))

/-- The DRAM's exit from self-refresh begins, which takes the package out of S2 and S3. -/
theorem State.dramExit_resting (hrest : s.power.dram = 1) (hup : 5 ≤ s.fw.step) :
    s.dramExit = (s.modPower fun p => { p with dram := 2, dramSince := s.time }).noteS1 s.systemState :=
  if_pos (by simp [hrest, hup])

/-- A sleep request is granted where no contract keeps the application cores running: their stores are ordered first (R51, R226). -/
theorem exec_appCoreSleepRequest_granted (hdram : s.power.dram ≠ 1) (hfree : s.appHeld = none) :
    exec .appCoreSleepRequest s = .next (State.modPower { s.hostLines.foldl (fun (u : State) e => u.snoop e.1) s with hostLines := [] }
      fun p => { p with appAsleep := true, appWaking := false, appBusy := false }) := by
  refine congrArg Host.Outcome.next ((if_neg hdram).trans ?_)
  rw [hfree]

theorem exec_appCoreSleepRequest_busy {p v : Nat} (hdram : s.power.dram ≠ 1) (hheld : s.appHeld = some (p, v)) :
    exec .appCoreSleepRequest s
      = .next ((s.modPower fun p => { p with appBusy := true }).report (epAgent 9) 5 (2 ^ 56 + p % 16 * 2 ^ 16 + v % 2 ^ 16) 0) := by
  refine congrArg Host.Outcome.next ((if_neg hdram).trans ?_)
  rw [hheld]

theorem exec_appCoreWake_runs (hasleep : s.power.appAsleep = true) (hdram : s.power.dram = 0) :
    exec .appCoreWake s = .next (s.modPower fun p => { p with appAsleep := false, appWaking := false }) :=
  congrArg Host.Outcome.next ((if_neg (by simp [hasleep])).trans (if_pos hdram))

/-- Behind a DRAM that rests, the application cores' wake raises it first. -/
theorem exec_appCoreWake_waits (hasleep : s.power.appAsleep = true) (hdram : s.power.dram ≠ 0) :
    exec .appCoreWake s = .next (s.modPower fun p => { p with appWaking := true }).dramExit :=
  congrArg Host.Outcome.next ((if_neg (by simp [hasleep])).trans ((if_neg hdram).trans (if_pos hasleep)))

/-! ### Pitch triggers (R57 to R59) -/

/-- A trigger as it stands when it has reached the power controller with its maximum in force (R57, R58). -/
def State.triggerArrives (s : State) (t : Trigger) : Trigger :=
  { t with arrived := true, time := s.time, already := s.triggerReady t, voided := false }

/-- The state with the entries for the components of a trigger that a critical trip holds, and for the faulty ones (R53). -/
def State.reportVoids (s : State) (t : Trigger) : State :=
  let u := (s.tripsOf t).foldl (fun (v : State) q => v.reportVoid 1 q) s
  (u.power.faulty.filter fun i => t.wakes i).foldl (fun (v : State) i => v.reportVoid 2 i) u

/-- Where a trigger's maximum is in force there is nothing to report. -/
theorem State.reportVoids_eq {t : Trigger} (h : s.voids t = false) : s.reportVoids t = s := by
  simp only [State.voids, Bool.or_eq_false_iff, Bool.not_eq_false', List.isEmpty_iff, List.any_eq_false] at h
  obtain ⟨htrips, hsound⟩ := h
  simp only [State.reportVoids, htrips, List.foldl_nil, List.filter_eq_nil_iff.mpr hsound]

theorem exec_pitchTrigger_arrives {t : Trigger} (honly : s.power.triggers = [t]) (hnew : t.arrived = false) (htime : t.time ≤ s.time)
    (hgood : s.voids t = false) :
    exec .pitchTrigger s
      = .next (((s.modPower fun p => { p with triggers := [s.triggerArrives t] }).wakeForTrigger (s.triggerArrives t)).answerTriggers) := by
  have hfind : (s.power.triggers.findIdx? fun t => !t.arrived && decide (t.time ≤ s.time)) = some 0 := by simp [honly, hnew, htime]
  have hget : s.power.triggers[0]? = some t := by simp [honly]
  have hset : (s.modPower fun p => { p with triggers := p.triggers.set 0 (s.triggerArrives t) })
      = s.modPower fun p => { p with triggers := [s.triggerArrives t] } := by simp [State.modPower, honly]
  have hgood' : (s.modPower fun p => { p with triggers := [s.triggerArrives t] }).voids (s.triggerArrives t) = false := hgood
  calc exec .pitchTrigger s
      = .next ((((s.modPower fun p => { p with triggers := p.triggers.set 0 (s.triggerArrives t) }).reportVoids
          (s.triggerArrives t)).wakeForTrigger (s.triggerArrives t)).answerTriggers) := by
        show nextState _ = _
        simp only [hfind, hget, hgood]
        rfl
    _ = _ := by rw [hset, State.reportVoids_eq hgood']

/-! ### Wake contracts (R54, R55) -/

/-- A step of the wakes that a contract in force makes: a die whose floor is shallower than its state (R55). -/
def State.raiseDie (s : State) (q : Nat) : State :=
  if s.dieFloor q < s.dieState q then (if s.dieState q = 1 then s.leaveK1 q else s.beginWake q)
  else if SMap.get 0 s.power.trans q = 1 && decide (s.dieFloor q < 2) then s.beginWake q
  else s

/-- Where the contracts hold neither cellar, DRAM nor application cores, a contract in force wakes dies alone. -/
theorem exec_contractInForce_dies (hdram : s.dramHeld = false) (hcellar : s.cellarHeld = false) (happ : s.appHeld = none) :
    exec .contractInForce s = .next ([0, 1, 2, 3].foldl State.raiseDie s) := by
  show nextState _ = _
  simp only [hdram, hcellar, happ, Option.isSome_none, Bool.false_eq_true, if_false]
  rfl

/-- A die that no contract holds, and that has not begun to enter K2, stays as it is. -/
theorem State.raiseDie_stays {q : Nat} (hfloor : s.dieFloor q = 3) (hstate : s.dieState q ≤ 3) : s.raiseDie q = s :=
  (if_neg (by omega)).trans (if_neg (by simp [hfloor]))

theorem State.raiseDie_leavesK1 {q : Nat} (hfloor : s.dieFloor q = 0) (hk1 : s.dieState q = 1) : s.raiseDie q = s.leaveK1 q := by
  simp [State.raiseDie, hfloor, hk1]

theorem State.dieFloor_of_none (h : s.power.contracts = []) (q : Nat) : s.dieFloor q = 3 := by
  simp [State.dieFloor, State.contractsNow, h]

theorem State.dieFloor_of_one {o p r v : Nat} (h : s.power.contracts = [(o, p, r, v)]) (q : Nat) :
    s.dieFloor q = if bit v (4 + q) = 1 then min 3 (bits v 3 0) else 3 := by
  simp [State.dieFloor, State.contractsNow, h]

/-- With no contract in force nothing wakes. -/
theorem exec_contractInForce_none (h : s.power.contracts = []) (hstate : ∀ q < 4, s.dieState q ≤ 3) : exec .contractInForce s = .next s := by
  have hstays (q : Nat) (hq : q < 4) : s.raiseDie q = s := State.raiseDie_stays (State.dieFloor_of_none h q) (hstate q hq)
  rw [exec_contractInForce_dies (by simp [State.dramHeld, State.contractsNow, h]) (by simp [State.cellarHeld, State.contractsNow, h])
    (by simp [State.appHeld, h])]
  simp [hstays]

/-- Where raising every other die changes nothing, before and after die q is raised, the dies' fold raises die q. -/
theorem State.raiseDies_one {q : Nat} (hq : q < 4) (hbefore : ∀ r < 4, r ≠ q → s.raiseDie r = s)
    (hafter : ∀ r < 4, r ≠ q → (s.raiseDie q).raiseDie r = s.raiseDie q) : [0, 1, 2, 3].foldl State.raiseDie s = s.raiseDie q := by
  simp only [List.foldl_cons, List.foldl_nil]
  interval_cases q <;> simp [hbefore, hafter]

/-- Returning a die to K0 changes nothing else of the power controller's state. -/
theorem State.startDie_power (s : State) (q : Nat) :
    (s.startDie q).power = { s.power with die := SMap.put s.power.die q 0, dieSince := SMap.put s.power.dieSince q s.time } :=
  (State.islandClocks_frame _ q true).2.1

/-- A contract that names die q alone, which is in K1, returns it to K0 (R46, R55). -/
theorem exec_contractInForce_one {q o p r v : Nat} (hone : s.power.contracts = [(o, p, r, v)]) (hdram : bits v 9 8 ≠ 0) (hcellar : bit v 10 = 1)
    (happ : bit v 11 = 0) (hq : q < 4) (hnames : ∀ r < 4, bit v (4 + r) = 1 ↔ r = q) (hshallow : bits v 3 0 = 0) (hk1 : s.dieState q = 1)
    (hfree : s.dieTripped q = false) (hrest : ∀ r < 4, r ≠ q → s.dieState r ≤ 3) : exec .contractInForce s = .next (s.startDie q) := by
  have hfloorq : s.dieFloor q = 0 := by rw [State.dieFloor_of_one hone, if_pos ((hnames q hq).mpr rfl), hshallow]; rfl
  have hraise : s.raiseDie q = s.startDie q := (State.raiseDie_leavesK1 hfloorq hk1).trans (State.leaveK1_eq hk1 hfree)
  have hone' : (s.startDie q).power.contracts = [(o, p, r, v)] := by rw [s.startDie_power, hone]
  rw [exec_contractInForce_dies (by simp [State.dramHeld, State.contractsNow, hone, hdram])
    (by simp [State.cellarHeld, State.contractsNow, hone, hcellar]) (by simp [State.appHeld, hone, happ]), ← hraise]
  refine congrArg Host.Outcome.next (State.raiseDies_one hq (fun d hd hne => ?_) fun d hd hne => ?_)
  all_goals have hother : ¬ bit v (4 + d) = 1 := fun h => hne ((hnames d hd).mp h)
  · exact State.raiseDie_stays ((State.dieFloor_of_one hone d).trans (if_neg hother)) (hrest d hd hne)
  · rw [hraise]
    refine State.raiseDie_stays ((State.dieFloor_of_one hone' d).trans (if_neg hother)) ?_
    rw [s.dieState_startDie, if_neg hne]
    exact hrest d hd hne

end

end Sys2Proof.Machine

open Sys2Proof Sys2Proof.Machine

/-- Settles O40: each component's transition by its own condition, a trigger whose maximum is in force, and the dies that a contract raises. -/
theorem diesSleepAndWake : Obligations.DiesSleepAndWake := by
  unfold Obligations.DiesSleepAndWake
  constructor
  · intro die s hdie tr since enter
    refine ⟨exec_k1Entry_enters hdie, fun _ => exec_k1Entry_stays, fun hk1 hfree => ?exit, exec_k2IdleEntry_enters hdie, exec_k3Entry_enters hdie,
      fun hgated hstays hup => ?wake, exec_dieReady_reaches⟩
    case exit => exact congrArg Host.Outcome.next (State.leaveK1_eq hk1 hfree)
    case wake => exact (exec_dieWake hdie).trans (congrArg Host.Outcome.next (State.beginWake_gated hgated hstays hup))
  · intro s
    refine ⟨exec_cellarC1Entry_dozes, fun h => congrArg Host.Outcome.next (if_pos h), fun h => congrArg Host.Outcome.next (if_pos h),
      fun hrest htime => congrArg Host.Outcome.next (if_pos (by simp [hrest, htime])),
      fun hrest hup => congrArg Host.Outcome.next (State.dramExit_resting hrest hup), fun h => congrArg Host.Outcome.next (if_pos h),
      exec_appCoreSleepRequest_granted, fun p v => exec_appCoreSleepRequest_busy, exec_appCoreWake_runs, exec_appCoreWake_waits,
      fun t => exec_pitchTrigger_arrives, fun hnone hstate _ => exec_contractInForce_none hnone hstate, fun q v => ?contract⟩
    case contract =>
      intro hone hdram hcellar happ hq hnames hshallow hk1 hfree hrest
      exact exec_contractInForce_one hone hdram hcellar happ hq hnames hshallow hk1 hfree fun d hd hne => (hrest d hd hne).1
end

section
/-! Thermal trips, throttling and the power market (R62 to R68). -/
namespace Sys2Proof.Machine

/-! ### What memory, logs, messages and clocks leave of the market -/

/-- What of the state the market settles, with the contexts, which it leaves. -/
structure MarketView where
  clusters : SMap Cluster
  marketAt : Nat
  marketLate : Bool
  ctxs : SMap Ctx

def State.marketView (s : State) : MarketView :=
  { clusters := s.power.clusters, marketAt := s.power.marketAt, marketLate := s.power.marketLate, ctxs := s.ctxs }

/-- What every step of a fold leaves, the fold leaves. -/
theorem State.foldl_marketView {α : Type} {f : State → α → State} (hf : ∀ u a, (f u a).marketView = u.marketView) (l : List α) (s : State) :
    (l.foldl f s).marketView = s.marketView :=
  List.foldlRecOn (motive := fun t : State => t.marketView = s.marketView) l f rfl fun u hu a _ => (hf u a).trans hu

theorem State.pickVictim_marketView (s : State) (ways : Nat) (l : List Nat) : (s.pickVictim ways l).2.marketView = s.marketView := by
  unfold State.pickVictim
  split_ifs <;> rfl

theorem State.writeBackLine_marketView (s : State) (line : Nat) : (s.writeBackLine line).marketView = s.marketView := by
  unfold State.writeBackLine
  split
  · rfl
  · simp only [State.marketView]

theorem State.makeRoom_marketView (s : State) (line : Nat) : (s.makeRoom line).marketView = s.marketView := by
  have hpick := s.pickVictim_marketView 16 (s.setMates line)
  unfold State.makeRoom
  split
  case h_1 t heq => rwa [heq] at hpick
  case h_2 w t heq =>
    rw [heq] at hpick
    exact (t.writeBackLine_marketView w).trans hpick

theorem State.roomFor_marketView (s : State) (line : Nat) :
    (if s.cached line then s else s.makeRoom line).marketView = s.marketView := by
  split_ifs
  · rfl
  · exact s.makeRoom_marketView line

theorem State.snoop_marketView (s : State) (line : Nat) : (s.snoop line).marketView = s.marketView := by
  unfold State.snoop
  split
  · rfl
  · exact s.roomFor_marketView line

theorem State.noteFix_marketView (s : State) (row : Nat) : (s.noteFix row).marketView = s.marketView := by
  unfold State.noteFix
  dsimp only
  split_ifs <;> rfl

theorem State.readDram_marketView (s : State) (line : Nat) : (s.readDram line).marketView = s.marketView := by
  unfold State.readDram
  dsimp only
  split_ifs
  · rfl
  · exact State.noteFix_marketView _ _
  · rfl
  · rfl

theorem State.homeWrite_marketView (s : State) (line t : Nat) : (s.homeWrite line t).marketView = s.marketView :=
  ((s.snoop line).readDram_marketView line).trans (s.snoop_marketView line)

theorem State.lineWrite_marketView (s : State) (p line off n w : Nat) (cached : Bool) :
    (s.lineWrite p line off n w cached).marketView = s.marketView := by
  unfold State.lineWrite
  split_ifs
  · rfl
  · rfl
  · exact s.makeRoom_marketView line
  · simp only [State.marketView]

theorem State.raisePts_marketView (s : State) (a : Option Nat) (w : Nat) : (s.raisePts a w).marketView = s.marketView := by
  cases a <;> rfl

theorem State.physWrite_marketView (s : State) (p pa n w : Nat) (cached : Bool) : (s.physWrite p pa n w cached).marketView = s.marketView :=
  (State.raisePts_marketView _ none _).trans ((State.lineWrite_marketView _ p _ _ n w cached).trans (s.homeWrite_marketView _ _))

theorem State.logEvent_marketView (s : State) (c kind k v : Nat) : (s.logEvent c kind k v).marketView = s.marketView := by
  simp only [State.logEvent, State.logPut]
  split_ifs
  · rfl
  · rfl
  · exact State.physWrite_marketView s ..

theorem State.islandClocks_marketView (s : State) (die : Nat) (on : Bool) : (s.islandClocks die on).marketView = s.marketView :=
  State.foldl_marketView (f := fun t c => t.setPeriod c (if on then t.runPeriod c else 0)) (fun _ _ => rfl) _ s

theorem State.postReady_marketView (s : State) (t : Trigger) : (s.postReady t).marketView = s.marketView := by
  unfold State.postReady
  dsimp only
  split_ifs <;> rfl

theorem State.answerTriggers_marketView (s : State) : s.answerTriggers.marketView = s.marketView := by
  unfold State.answerTriggers
  dsimp only
  split_ifs
  · rfl
  · exact State.foldl_marketView State.postReady_marketView _ _

theorem State.noteS1_marketView (s : State) (was : Nat) : (s.noteS1 was).marketView = s.marketView := by
  unfold State.noteS1
  dsimp only
  split_ifs <;> rfl

theorem State.dramExit_marketView (s : State) : s.dramExit.marketView = s.marketView := by
  unfold State.dramExit
  split_ifs
  · exact State.noteS1_marketView _ _
  · rfl

theorem State.pageBack_marketView (s : State) (c p : Nat) : (s.pageBack c p).marketView = s.marketView := by
  unfold State.pageBack
  split <;> rfl

theorem State.writeBackAll_marketView (s : State) (keep : Nat → Dirty → Bool) : (s.writeBackAll keep).marketView = s.marketView := by
  refine State.foldl_marketView (fun u e => ?_) _ s
  split_ifs
  · rfl
  · exact u.writeBackLine_marketView e.1

theorem State.reachK0_marketView (s : State) (die : Nat) : (s.reachK0 die).marketView = s.marketView := by
  unfold State.reachK0
  dsimp only
  refine (State.answerTriggers_marketView _).trans ((State.islandClocks_marketView _ die true).trans ?_)
  refine (State.writeBackAll_marketView _ _).trans ?_
  exact State.foldl_marketView (fun u (e : Nat × CorePart) => u.pageBack_marketView (e.1 / 16) (e.1 % 16)) _ s

theorem State.tripDie_marketView (s : State) (die : Nat) : (s.tripDie die).marketView = s.marketView := by
  refine (State.islandClocks_marketView _ die false).trans ?_
  show (if _ then s else (s.reachK0 die).dramExit).marketView = s.marketView
  split_ifs
  · rfl
  · exact (State.dramExit_marketView _).trans (s.reachK0_marketView die)

theorem State.leaveK1_marketView (s : State) (die : Nat) : (s.leaveK1 die).marketView = s.marketView := by
  unfold State.leaveK1
  split_ifs
  · exact State.islandClocks_marketView _ die true
  · rfl

/-! ### Clusters (R62 to R65) -/

theorem State.cluster_congr {s t : State} (h : t.marketView = s.marketView) (c : Nat) : t.cluster c = s.cluster c :=
  congrArg (fun v : MarketView => (SMap.get {} v.clusters c : Cluster)) h

theorem State.logSteps_marketView (s : State) (l : List Nat) (e : Nat) :
    (l.foldl (fun (t : State) x => if (t.core x).log.en then t.logEvent x 3 0 e else t) s).marketView = s.marketView := by
  refine State.foldl_marketView (fun u x => ?_) l s
  split_ifs
  · exact u.logEvent_marketView x 3 0 e
  · rfl

theorem State.clocksFollow_marketView (s : State) (l : SMap Core) (c : Nat) :
    (l.foldl (fun (t : State) e =>
      if clusterOf e.1 / 16 = c / 16 && (t.core e.1).period != 0 then t.setPeriod e.1 (t.runPeriod e.1) else t) s).marketView = s.marketView := by
  refine State.foldl_marketView (fun u e => ?_) l s
  split_ifs <;> rfl

/-- The state with a cluster replaced, before its cores' clocks follow: their logs note a change of its step (R153). -/
def State.clusterLogged (s : State) (c : Nat) (k : Cluster) : State :=
  let t := s.modPower fun p => { p with clusters := SMap.put p.clusters c k }
  if (s.cluster c).eff = k.eff then t
  else (clusterCores c).foldl (fun (t : State) x => if (t.core x).log.en then t.logEvent x 3 0 k.eff else t) t

theorem State.clusterLogged_marketView (s : State) (c : Nat) (k : Cluster) :
    (s.clusterLogged c k).marketView = { s.marketView with clusters := SMap.put s.power.clusters c k } := by
  unfold State.clusterLogged
  dsimp only
  split_ifs
  · rfl
  · exact State.logSteps_marketView _ _ _

theorem State.putCluster_eq (s : State) (c : Nat) (k : Cluster) :
    s.putCluster c k = if (s.cluster c).high = k.high then s.clusterLogged c k
      else (s.clusterLogged c k).cores.foldl (fun (t : State) e =>
        if clusterOf e.1 / 16 = c / 16 && (t.core e.1).period != 0 then t.setPeriod e.1 (t.runPeriod e.1) else t) (s.clusterLogged c k) := rfl

/-- Replacing a cluster leaves the rest of what the market settles. -/
theorem State.putCluster_marketView (s : State) (c : Nat) (k : Cluster) :
    (s.putCluster c k).marketView = { s.marketView with clusters := SMap.put s.power.clusters c k } := by
  rw [s.putCluster_eq]
  split_ifs
  · exact s.clusterLogged_marketView c k
  · exact (State.clocksFollow_marketView _ _ c).trans (s.clusterLogged_marketView c k)

/-- Settling a cluster replaces it; its refund goes to the next interval's supply (R65). -/
theorem State.settleCluster_marketView (s : State) (c : Nat) (k : Cluster) :
    (s.settleCluster c k).marketView = { s.marketView with clusters := SMap.put s.power.clusters c (k.settle c) } := by
  unfold State.settleCluster
  dsimp only
  split_ifs
  · exact State.putCluster_marketView _ c _
  · exact s.putCluster_marketView c _

/-- The clusters of a state in which one has been replaced. -/
theorem State.cluster_of_put {s t : State} {c : Nat} {k : Cluster}
    (h : t.marketView = { s.marketView with clusters := SMap.put s.power.clusters c k }) :
    t.cluster c = k ∧ ∀ d, d ≠ c → t.cluster d = s.cluster d := by
  have hmap (d : Nat) : t.cluster d = SMap.get {} (SMap.put s.power.clusters c k) d :=
    congrArg (fun v : MarketView => (SMap.get {} v.clusters d : Cluster)) h
  exact ⟨(hmap c).trans (SMap.get_put_self _ _ _ _), fun d hd => (hmap d).trans (SMap.get_put_ne _ _ _ hd)⟩

theorem State.cluster_putCluster (s : State) (c : Nat) (k : Cluster) : (s.putCluster c k).cluster c = k :=
  (State.cluster_of_put (s.putCluster_marketView c k)).1

theorem State.cluster_settleCluster (s : State) (c : Nat) (k : Cluster) : (s.settleCluster c k).cluster c = k.settle c :=
  (State.cluster_of_put (s.settleCluster_marketView c k)).1

theorem State.cluster_settleCluster_ne (s : State) {c d : Nat} (k : Cluster) (hd : d ≠ c) :
    (s.settleCluster c k).cluster d = s.cluster d :=
  (State.cluster_of_put (s.settleCluster_marketView c k)).2 d hd

/-! ### Trips, limits and samples (R64 to R68) -/

/-- The state in which the trigger maxima that count for a die are broken, as a critical trip finds them (R53). -/
def State.voidDie (s : State) (die : Nat) : State :=
  let waits := (s.power.triggers.any fun t => t.arrived && !t.voided && t.dies.contains die) || (s.rackQueue.any fun m => m.target == die)
    || SMap.get 0 s.power.trans die == 3
  let u := s.modPower fun p => { p with triggers := p.triggers.map fun t => if t.arrived && t.dies.contains die then { t with voided := true } else t }
  if waits || u.dieFloor die = 0 then u.reportVoid 1 die else u

theorem State.voidDie_marketView (s : State) (die : Nat) : (s.voidDie die).marketView = s.marketView := by
  unfold State.voidDie
  dsimp only
  split_ifs <;> rfl

section
variable {cl : Nat} {s : State}

/-- A cluster at 105 degrees trips: it is reported, the maxima that count for its die are broken, and the die stops. -/
theorem exec_criticalTrip_trips (hcl : cl < 64) (hhot : (s.cluster cl).hot 1680 = true) (hnew : (s.cluster cl).trip = false) :
    exec (.criticalTrip cl) s = .next (((((s.putCluster cl { s.cluster cl with trip := true, evCrit := true }).report (epAgent 9) 1
      (s.sampleArg cl) 0).voidDie (cl / 16)).tripDie (cl / 16))) :=
  congrArg Host.Outcome.next (if_pos (by simp [hcl, hhot, hnew]))

/-- Through the trip's report, and through what it does to its die, the cluster stands as it was put. -/
theorem State.cluster_trips (s : State) (cl die a : Nat) (k : Cluster) :
    ((((s.putCluster cl k).report (epAgent 9) 1 a 0).voidDie die).tripDie die).cluster cl = k := by
  have hview := (State.tripDie_marketView _ die).trans (State.voidDie_marketView ((s.putCluster cl k).report (epAgent 9) 1 a 0) die)
  exact (State.cluster_congr hview cl).trans (s.cluster_putCluster cl k)

theorem exec_criticalTrip_stays (h : (s.cluster cl).hot 1680 = false ∨ (s.cluster cl).trip = true ∨ 64 ≤ cl) :
    exec (.criticalTrip cl) s = .next s := by
  refine congrArg Host.Outcome.next (if_neg ?_)
  rcases h with h | h | h
  · simp [h]
  · simp [h]
  · simp [Nat.not_lt.mpr h]

/-- A die that a critical trip stops is in K1. -/
theorem State.dieState_tripDie (s : State) (die : Nat) : (s.tripDie die).dieState die = 1 := by
  unfold State.tripDie State.dieState
  rw [(State.islandClocks_frame _ die false).2.1]
  exact SMap.get_put_self ..

theorem exec_criticalTripEnd_releases (htrip : (s.cluster cl).trip = true) (hcool : (s.cluster cl).hot 1600 = false) :
    exec (.criticalTripEnd cl) s = .next (let t := s.putCluster cl { s.cluster cl with trip := false }
      if t.dieIdle (cl / 16) then t else t.leaveK1 (cl / 16)) :=
  congrArg Host.Outcome.next (if_pos (by simp [htrip, hcool]))

theorem exec_thermalSample_goesOn (hcl : cl ≤ 65) (htime : s.time % 100000 = 0) (hon : (s.cluster cl).sampling = true)
    (hstep : (s.cluster cl).step ≠ 0) :
    exec (.thermalSample cl) s
      = .next ((s.putCluster cl { s.cluster cl with sampling := true }).report (epAgent 9) 2 (s.sampleArg cl) 0) := by
  have hin : ¬ 65 < cl := Nat.not_lt.mpr hcl
  exact congrArg Host.Outcome.next ((if_neg (by simp [hin, htime])).trans ((if_neg (by simp [hstep])).trans (if_pos (by simp [hon]))))

theorem sval_mod (w n : Nat) : sval w (n % 2 ^ w) = sval w n := by simp [sval]

/-- The sensors' value stands in TEMP, and the cluster is settled with what the thermal threshold says of it. -/
theorem exec_thermalWatch_senses (v : Nat) (hcl : cl ≤ 65) (htime : s.time % 1000 = 0) :
    ∃ t, exec (.thermalWatch cl v) s = .next t
      ∧ t.cluster cl = Cluster.settle { s.cluster cl with temp := v % 2 ^ 16, therm := decide ((1600 : Int) ≤ sval 16 v) } cl := by
  have hin : ¬ 65 < cl := Nat.not_lt.mpr hcl
  refine ⟨_, congrArg Host.Outcome.next (if_neg (by simp [hin, htime])), ?_⟩
  rw [← sval_mod 16 v]
  dsimp only
  split_ifs
  all_goals exact s.cluster_settleCluster cl _

end

/-! ### Current limits and the market (R63 to R65) -/

/-- The state with a current limit on a cluster (R64). -/
def State.limitCluster (s : State) (c : Nat) : State := s.settleCluster c { s.cluster c with clim := true }

/-- A cluster under a current limit runs at step 4 or more (R64, R65). -/
def Cluster.Limited (k : Cluster) : Prop := k.clim = true ∧ 4 ≤ k.eff

theorem State.limitCluster_limited (s : State) {c d : Nat} (h : d = c ∨ (s.cluster d).Limited) : ((s.limitCluster c).cluster d).Limited := by
  by_cases hd : d = c
  · subst hd
    rw [State.limitCluster, s.cluster_settleCluster]
    exact ⟨rfl, by simp [Cluster.settle]⟩
  · rw [State.limitCluster, s.cluster_settleCluster_ne _ hd]
    exact h.resolve_left hd

/-- Limiting clusters one after another limits each of them. -/
theorem State.limitClusters_limited (s : State) (die : Nat) (l : List Nat) :
    ∀ i ∈ l, ((l.foldl (fun t i => t.limitCluster (16 * die + i)) s).cluster (16 * die + i)).Limited := by
  induction l using List.reverseRecOn with
  | nil => simp
  | append_singleton l j ih =>
    intro i hi
    rw [List.foldl_append]
    refine State.limitCluster_limited _ ?_
    rcases List.mem_append.mp hi with hl | hj
    · exact .inr (ih i hl)
    · exact .inl (by rw [List.mem_singleton.mp hj])

theorem exec_currentLimit_limits {die : Nat} (hdie : die < 4) (s : State) :
    exec (.currentLimit die) s = .next ((List.range 16).foldl (fun t i => t.limitCluster (16 * die + i)) s) :=
  congrArg Host.Outcome.next (if_pos hdie)

/-- Settling clusters one after another leaves the market's times and the contexts. -/
theorem State.settleClusters_frame {α : Type} (l : List α) (c : α → Nat) (k : State → α → Cluster) (s : State) :
    let t := l.foldl (fun (t : State) x => t.settleCluster (c x) (k t x)) s
    t.power.marketAt = s.power.marketAt ∧ t.power.marketLate = s.power.marketLate ∧ t.ctxs = s.ctxs := by
  refine List.foldlRecOn
    (motive := fun t : State => t.power.marketAt = s.power.marketAt ∧ t.power.marketLate = s.power.marketLate ∧ t.ctxs = s.ctxs)
    l _ ⟨rfl, rfl, rfl⟩ fun t ⟨hat, hlate, hctxs⟩ x _ => ?_
  have h := t.settleCluster_marketView (c x) (k t x)
  exact ⟨(congrArg MarketView.marketAt h).trans hat, (congrArg MarketView.marketLate h).trans hlate, (congrArg MarketView.ctxs h).trans hctxs⟩

/-- The state with a cluster's next interval begun at the grant that it has (R63). -/
def State.keepGrant (s : State) (c : Nat) : State := s.settleCluster c { s.cluster c with clim := false, refund := false }

theorem State.keepGrant_grant (s : State) (c d : Nat) :
    ((s.keepGrant c).cluster d).cap = (s.cluster d).cap ∧ ((s.keepGrant c).cluster d).grant = (s.cluster d).grant := by
  by_cases hd : d = c
  · subst hd
    rw [State.keepGrant, s.cluster_settleCluster]
    exact ⟨rfl, rfl⟩
  · rw [State.keepGrant, s.cluster_settleCluster_ne _ hd]
    exact ⟨rfl, rfl⟩

section
variable {s : State} (hdue : s.power.marketAt + 10000 ≤ s.time)
include hdue

/-- A clearing that is complete settles every cluster for the interval that begins now, and leaves the contexts. -/
theorem exec_marketClear_clears (hready : s.power.marketLate = false) :
    ∃ t, exec .marketClear s = .next t ∧ t.power.marketAt = s.time ∧ t.ctxs = s.ctxs := by
  refine ⟨_, congrArg Host.Outcome.next ((if_neg (Nat.not_lt.mpr hdue)).trans (if_neg (ne_true_of_eq_false hready))), ?_⟩
  dsimp only
  generalize clearMarket _ _ = grants
  exact ⟨(State.settleClusters_frame grants _ _ _).1, (State.settleClusters_frame grants _ _ _).2.2⟩

/-- Where the clearing is not complete every cluster keeps its grant. -/
theorem exec_marketClear_keeps (hlate : s.power.marketLate = true) :
    ∃ t, exec .marketClear s = .next t ∧ t.power.marketLate = false ∧ t.power.marketAt = s.time
      ∧ ∀ c, (t.cluster c).cap = (s.cluster c).cap ∧ (t.cluster c).grant = (s.cluster c).grant := by
  refine ⟨_, congrArg Host.Outcome.next ((if_neg (Nat.not_lt.mpr hdue)).trans (if_pos hlate)), ?_⟩
  obtain ⟨hat, hlate, -⟩ := State.settleClusters_frame _ _ _ _
  refine ⟨hlate, hat, fun c => ?_⟩
  exact List.foldlRecOn (motive := fun t : State => (t.cluster c).cap = (s.cluster c).cap ∧ (t.cluster c).grant = (s.cluster c).grant) _ _
    ⟨rfl, rfl⟩ fun t ⟨hcap, hgrant⟩ d _ => ⟨(t.keepGrant_grant d c).1.trans hcap, (t.keepGrant_grant d c).2.trans hgrant⟩

end

/-- The low-rail grants and what is left are the supply (R63). -/
theorem lowGrants_sum (l : List (Nat × Nat × Nat × Nat)) (rem : Nat) :
    ((lowGrants l rem).1.map fun x => x.2.1).sum + (lowGrants l rem).2 = rem := by
  induction l generalizing rem with
  | nil => simp [lowGrants]
  | cons b l ih =>
    have hrest := ih (rem - min b.2.2.1 rem)
    simp only [lowGrants, List.map_cons, List.sum_cons]
    omega

/-- A cluster is granted its bid at most, and one that is granted all of it is not slowed (R63). -/
theorem lowGrants_within (l : List (Nat × Nat × Nat × Nat)) (rem : Nat) :
    ∀ x ∈ (lowGrants l rem).1, x.2.1 ≤ x.1.2.2.1 ∧ (x.2.1 = x.1.2.2.1 → x.2.2 = 0) := by
  induction l generalizing rem with
  | nil => simp [lowGrants]
  | cons b l ih =>
    simp only [lowGrants, List.mem_cons]
    rintro x (rfl | hx)
    · refine ⟨min_le_left _ _, fun hall => ?_⟩
      dsimp only at hall ⊢
      rw [hall]
      split_ifs with hzero
      · rfl
      · have hstep : (16 * (b.2.2.1 - b.2.2.1) + b.2.2.1 - 1) / b.2.2.1 = 0 := Nat.div_eq_of_lt (by omega)
        rw [hstep, Nat.min_zero]
    · exact ih _ x hx

end Sys2Proof.Machine

open Sys2Proof Sys2Proof.Machine

/-- Settles O41: a trip, a limit and a sample by the cluster that they replace, the market by the settling of every cluster, and the low-rail grants by
induction on the bids. -/
theorem throttlesAndMarket : Obligations.ThrottlesAndMarket := by
  unfold Obligations.ThrottlesAndMarket
  refine ⟨fun cl v s => ⟨fun hcl hhot hnew => ?trip, exec_criticalTrip_stays, fun htrip hcool => ?release, fun hcl htime => ?watch,
    exec_thermalSample_goesOn, fun hcl => congrArg Host.Outcome.next (if_neg (Nat.not_lt.mpr hcl))⟩,
    fun die s hdie => ⟨_, exec_currentLimit_limits hdie s, fun i hi => s.limitClusters_limited die _ i (List.mem_range.mpr hi)⟩,
    fun s hdue => ⟨exec_marketClear_clears hdue, exec_marketClear_keeps hdue⟩, fun l rem => ⟨lowGrants_sum l rem, lowGrants_within l rem⟩⟩
  case trip =>
    refine ⟨_, exec_criticalTrip_trips hcl hhot hnew, ?_⟩
    rw [State.cluster_trips]
    exact ⟨rfl, rfl, State.dieState_tripDie _ _⟩
  case release =>
    refine ⟨_, exec_criticalTripEnd_releases htrip hcool, ?_⟩
    dsimp only
    split_ifs
    · rw [s.cluster_putCluster]
    · rw [State.cluster_congr (State.leaveK1_marketView _ _), s.cluster_putCluster]
  case watch =>
    obtain ⟨t, ht, hk⟩ := exec_thermalWatch_senses v hcl htime
    exact ⟨t, ht, congrArg Cluster.temp hk, (Bool.eq_iff_iff.mp (congrArg Cluster.therm hk)).trans decide_eq_true_iff⟩
end

section
/-! SIGNAL, WAIT, CONTRACT and RACK commands, and the taking over of commands (R55, R73, R77, R84, R86, R158). -/
namespace Sys2Proof.Machine

/-! ### SIGNAL and WAIT (R84) -/

section
variable {s : State} {n : Nat} {x : Cmd}

theorem exec_signal (hf : s.focusCmd 2 = some (n, x)) : exec .signal s = .next ((s.signalRun n x).getD s) := by
  show nextState _ = _
  rw [hf]
  rfl

theorem State.signalRun_none (h : x.fld 8 31 0 = 0) : s.signalRun n x = some (s.finishCmd n 2 0) := if_pos h

/-- A SIGNAL whose barrier takes its arrivals returns the barrier's generation. -/
theorem State.signalRun_arrives {b : BarLoc} {t : State} {g : Nat} (hn : x.fld 8 31 0 ≠ 0) (hb : s.svcBar x.svc x.part (x.fld 0 55 0) = .at_ b)
    (hok : (s.barMark x.part (x.fld 0 55 0) b).svcBarDo x.svc x.part b (.arrive (x.fld 8 31 0)) = .ok t g) :
    s.signalRun n x = some (t.finishCmd n 0 (bGen (t.barRead b))) := by
  simp only [State.signalRun, hn, hb, hok, if_false]

theorem State.signalRun_fault (hn : x.fld 8 31 0 ≠ 0) (hb : s.svcBar x.svc x.part (x.fld 0 55 0) = .fault) :
    s.signalRun n x = some (s.finishCmd n 3 (x.fld 0 55 0)) := by
  simp only [State.signalRun, hn, hb, if_false]

theorem exec_wait (hf : s.focusCmd 3 = some (n, x)) : exec .wait s = .next ((s.waitRun n x).getD s) := by
  show nextState _ = _
  rw [hf]
  rfl

section
variable {c p off : Nat} (hb : s.svcBar x.svc x.part (x.fld 0 55 0) = .at_ (.spad c p off))
include hb

/-- A WAIT whose barrier in a scratchpad has reached its generation ends with the barrier's word. -/
theorem State.waitRun_reached (h : genReached (bGen (s.barRead (.spad c p off))) (x.fld 8 31 0) = true) :
    s.waitRun n x = some (s.finishCmd n 0 (s.waitWord (.spad c p off))) := by
  simp only [State.waitRun, hb, h, Bool.false_eq_true, if_false, if_true]
  rfl

/-- Another that is new is accepted, and waits to its limit. -/
theorem State.waitRun_waits (h : genReached (bGen (s.barRead (.spad c p off))) (x.fld 8 31 0) = false) (hnew : x.st < 2) :
    s.waitRun n x = some (s.setCmd n { x with st := 2, limit := if x.fld 8 63 32 = 0 then 0 else s.time + x.fld 8 63 32 * 1000 }) := by
  simp only [State.waitRun, hb, h, hnew, Bool.false_eq_true, if_false, if_true]
  rfl

theorem exec_waitTimeout_ends (hf : s.focusCmd 3 = some (n, x)) (hst : x.st = 2) (hlimit : x.limit ≠ 0) (htime : x.limit ≤ s.time) :
    exec .waitTimeout s = .next (s.finishCmd n 0x0C (s.waitWord (.spad c p off))) := by
  have hdue : (decide (x.st = 2) && x.limit != 0 && decide (x.limit ≤ s.time)) = true := by simp [hst, hlimit, htime]
  show nextState _ = _
  simp only [hf, hdue, hb, if_true]
  rfl

end

/-! ### CONTRACT and RACK (R55, R84, R158) -/

theorem exec_contract_bad (hf : s.focusCmd 9 = some (n, x)) (hbad : contractBad (x.fld 0 15 0) = true) :
    exec .contract s = .next (s.finishCmd n 2 0) := by
  show nextState _ = _
  simp only [hf, hbad, if_true]
  rfl

/-- The state with a queue's contract replaced, and in force in place of its former one (R55). -/
def State.bindContract (s : State) (q p v : Nat) : State :=
  (s.modQueue q fun y => { y with contract := v }).modPower fun w =>
    { w with contracts := w.contracts.filter (fun y => y.1 != 1 || y.2.1 != q) ++ [(1, q, p, v)] }

theorem exec_contract_binds (hf : s.focusCmd 9 = some (n, x)) (hgood : contractBad (x.fld 0 15 0) = false) :
    exec .contract s
      = .next (((s.bindContract x.q x.part (x.fld 0 15 0)).nextAct .contractInForce).finishCmd n 0 (s.queue x.q).contract) := by
  show nextState _ = _
  simp only [hf, hgood, Bool.false_eq_true, if_false]
  rfl

theorem exec_rackCommand (hf : s.focusCmd 8 = some (n, x)) : exec .rackCommand s = .next ((s.rackCmdRun n x).getD s) := by
  show nextState _ = _
  rw [hf]
  rfl

section
variable (hnew : x.st < 2)
include hnew

/-- A handle of another partition is denied, whatever it names, which is the model's choice (log 85). -/
theorem State.rackCmdRun_denied (hpart : handlePart (x.fld 0 63 0) ≠ x.part) : s.rackCmdRun n x = some (s.finishCmd n 4 0) :=
  (if_neg (Nat.not_le.mpr hnew)).trans (if_pos hpart)

/-- The target of an actor that has none pending is recorded, and the command accepted. -/
theorem State.rackCmdRun_records {e : DirEnt} (hpart : handlePart (x.fld 0 63 0) = x.part) (hdir : s.dirOf (x.fld 0 63 0) = some e)
    (hlive : e.loc ≠ 3) (hfree : (s.keep (x.fld 0 63 0)).target = none) :
    s.rackCmdRun n x
      = some ((s.modKept (x.fld 0 63 0) fun k => { k with target := some (x.fld 8 2 0, n) }).setCmd n { x with st := 2 }) := by
  have hold : ¬ 2 ≤ x.st := Nat.not_le.mpr hnew
  simp only [State.rackCmdRun, ge_iff_le, hold, hpart, hdir, hlive, hfree, ne_eq, not_true_eq_false, if_false]

end

end

/-! ### Commands taken over, and records that had to wait (R73, R77, R86) -/

/-- The owning core begins a command that a message hands to it (R86). -/
theorem exec_commandStep_begins {s : State} {m : Msg} {x : Cmd} (hf : s.focusMsg = some m) (hop : m.op = 0x35) (hsound : m.poison = false)
    (hx : SMap.find? (s.take m).cmds m.taddr = some x) (hst : x.st = 3) :
    exec .serviceCoreCommandStep s = .next (((s.take m).setCmd m.taddr { x with st := 1 }).nextAct (cmdEvent x) m.taddr) := by
  show nextState _ = _
  simp only [hf, hop, hsound, hx, hst, Bool.false_eq_true, if_false, if_true]
  rfl

/-- Address of the record that a queue's completion ring takes next (R73). -/
def Queue.recordVa (q : Queue) : Nat := q.cbase + 16 * (q.ctail % q.entries)

/-- A finished command's record is put where its ring has room and can be written. -/
theorem State.writeRecord_puts {s : State} {n : Nat} {x : Cmd} (hroom : (s.queue x.q).full = false) (hdram : s.power.dram = 0)
    (hpage : s.svcWait x.svc x.part [(s.queue x.q).recordVa] = none) : s.writeRecord n x = some (s.putRecord n x (s.queue x.q).recordVa) := by
  rw [Queue.recordVa] at hpage ⊢
  simp only [State.writeRecord, hroom, hdram, hpage, bne_self_eq_false, Bool.false_and, Bool.false_eq_true, if_false]

theorem exec_commandStep_writes {s t : State} {x : Cmd} (hf : s.focusMsg = none) (hx : SMap.find? s.cmds s.focus = some x) (hst : x.st = 4)
    (ht : s.writeRecord s.focus x = some t) : exec .serviceCoreCommandStep s = .next t := by
  show nextState _ = _
  simp only [hf, hx, hst, ht, if_true]
  rfl

end Sys2Proof.Machine

open Sys2Proof Sys2Proof.Machine

/-- Settles O43: each command by its own run, at a barrier that its service core finds. That RACK is denied for another partition's handle before
anything else is looked at is the model's choice (log 85). -/
theorem barrierContractAndRackCommands : Obligations.BarrierContractAndRackCommands := by
  unfold Obligations.BarrierContractAndRackCommands
  refine ⟨fun n x s => ⟨fun hf hnone => ?none, fun b t g hf hn hb hok => ?arrives, fun hf hn hb => ?fault, fun c p off hf hb => ?wait,
    exec_contract_bad, exec_contract_binds, fun hf hnew hpart => ?denied, fun e hf hnew hpart hdir hlive hfree => ?records⟩,
    fun m x s => exec_commandStep_begins, fun x s hf hx hst hroom hdram hpage => ?writes⟩
  case none => rw [exec_signal hf, State.signalRun_none hnone, Option.getD_some]
  case arrives => rw [exec_signal hf, State.signalRun_arrives hn hb hok, Option.getD_some]
  case fault => rw [exec_signal hf, State.signalRun_fault hn hb, Option.getD_some]
  case wait =>
    refine ⟨fun h => ?_, fun h hnew => ?_, exec_waitTimeout_ends hb hf⟩
    · rw [exec_wait hf, State.waitRun_reached hb h, Option.getD_some, State.waitWord]
    · rw [exec_wait hf, State.waitRun_waits hb h hnew, Option.getD_some]
  case denied => rw [exec_rackCommand hf, State.rackCmdRun_denied hnew hpart, Option.getD_some]
  case records => rw [exec_rackCommand hf, State.rackCmdRun_records hnew hpart hdir hlive hfree, Option.getD_some]
  case writes => exact exec_commandStep_writes hf hx hst (State.writeRecord_puts hroom hdram hpage)
end

section
/-! CASK RETAIN where the cask's lists lie in flash (R200, R203). -/
namespace Sys2Proof.Machine

/-- A service core that waits asks for a page or for the DRAM, and leaves the pinned pages. -/
theorem State.svcWait_pins {s : State} {svc p : Nat} {vas : List Nat} {t : Option State} (h : s.svcWait svc p vas = some t) :
    (t.getD s).pins = s.pins := by
  unfold State.svcWait at h
  split at h
  · cases h
    unfold State.svcAskPage
    split_ifs <;> rfl
  · split_ifs at h
    cases h
    unfold State.wantDram
    split_ifs <;> rfl

/-- Whatever its operation, CASK waits for its lists. -/
theorem State.caskRun_waits {s : State} {n d : Nat} {x : Cmd} {t : Option State} (hup : 5 ≤ s.fw.step) (hst : x.st ≠ 0)
    (hfree : ∀ y ∈ s.pageIns, y.cmd ≠ some n) (halign : x.fld 8 55 0 % 64 = 0) (hpage : s.svcWait x.svc x.part [x.fld 8 55 0] = none)
    (hread : s.partRead x.part (x.fld 8 55 0) 64 = some d) (hgood : caskBad d = false) (hpart : bits (kWord d 4) 3 0 = x.part)
    (hlists : bits (kWord d 2) 55 0 ≠ 0)
    (hwait : s.svcWait x.svc x.part (pagesOf (bits (kWord d 2) 55 0) (16 * bits (kWord d 1) 31 0)) = some t) : s.caskRun n x = t := by
  have hnone : (s.pageIns.any fun y => y.cmd == some n) = false := List.any_eq_false.mpr fun y hy => by simpa using hfree y hy
  have hgo : (decide (s.fw.step < 5) && !s.caskSram x) = false := by simp [hup]
  simp only [State.caskRun, hgo, hst, hnone, halign, hpage, hread, hgood, hpart, hlists, hwait, ne_eq, not_true_eq_false, Bool.false_eq_true,
    if_false]

/-- First byte of partition 1's page tables, one page of cellar SRAM for each level, and of the two pages that they map after them. -/
def caskTables : Nat := 0x10000000000

/-- A cask of one page at 0x2000 of partition 1, whose lists stand at 0x3000. -/
def caskWithLists : Nat := 0x2000 + 2 ^ 64 + 0x3000 * 2 ^ 128 + 0x11 * 2 ^ 256

/-- CASK RETAIN of the cask at 0x1000, accepted. -/
def retainCmd : Cmd :=
  { q := 0, svc := 0, part := 1, seq := 0, code := 7, irq := false, ser := false, block := toBytes 16 (0x1000 * 2 ^ 64), st := 2 }

/-- Page-table entries by their addresses: a table for each of the first four levels, then leaves for 0x1000 and 0x2000 in memory and for 0x3000 in
flash. -/
def caskEntries : List (Nat × Nat) :=
  [(caskTables, caskTables + 0x1001), (caskTables + 0x1000, caskTables + 0x2001), (caskTables + 0x2000, caskTables + 0x3001),
   (caskTables + 0x3000, caskTables + 0x4001), (caskTables + 0x4008, caskTables + 0x5105), (caskTables + 0x4010, caskTables + 0x6105),
   (caskTables + 0x4018, 0x106)]

/-- The package runs, the command in focus, before the cask's page is pinned. -/
def stateBeforeRetain : State :=
  { mem := Memory.writeN (caskEntries.foldl (fun m e => Memory.writeN m e.1 8 e.2) []) (caskTables + 0x5000) 64 caskWithLists
    partitions := [(1, { root := caskTables, kettle := 1, cellar := 0 })]
    cmds := [(1, retainCmd)], focus := 1, power := { dram := 0 }, fw := { step := 7 } }

/-- The descriptor stands in memory, and reads as it was written. -/
theorem stateBeforeRetain_reads :
    stateBeforeRetain.svcWait retainCmd.svc retainCmd.part [retainCmd.fld 8 55 0] = none
      ∧ stateBeforeRetain.partRead retainCmd.part (retainCmd.fld 8 55 0) 64 = some caskWithLists := by
  have hpage : (stateBeforeRetain.svcWait retainCmd.svc retainCmd.part [retainCmd.fld 8 55 0]).isNone = true := by decide +kernel
  have hread := stateBeforeRetain.partRead_line retainCmd.part (retainCmd.fld 8 55 0) 64 (caskTables + 0x5000) 0x105 1 0 (by decide) (by decide)
    (by decide) (by decide +kernel) (by decide +kernel)
  have hbytes : stateBeforeRetain.physRead retainCmd.part (caskTables + 0x5000) 64 % 256 ^ 64 = caskWithLists := by decide +kernel
  exact ⟨Option.isNone_iff_eq_none.mp hpage, hread.trans (congrArg some hbytes)⟩

/-- The descriptor is one of partition 1 for a single page. -/
theorem caskWithLists_fields :
    caskBad caskWithLists = false ∧ bits (kWord caskWithLists 4) 3 0 = retainCmd.part ∧ bits (kWord caskWithLists 1) 31 0 = retainCmd.step + 1 := by
  decide +kernel

/-- The command waits for its lists, and pins nothing. -/
theorem exec_caskRetain_stateBeforeRetain : ∃ t, exec .caskRetain stateBeforeRetain = .next t ∧ t.pins = [] := by
  obtain ⟨hpage, hread⟩ := stateBeforeRetain_reads
  obtain ⟨hgood, hpart, -⟩ := caskWithLists_fields
  have hasks : (stateBeforeRetain.svcWait retainCmd.svc retainCmd.part
      (pagesOf (bits (kWord caskWithLists 2) 55 0) (16 * bits (kWord caskWithLists 1) 31 0))).isSome = true := by decide +kernel
  obtain ⟨t, ht⟩ := Option.isSome_iff_exists.mp hasks
  have hrun : stateBeforeRetain.caskRun 1 retainCmd = t :=
    State.caskRun_waits (by decide) (by decide) (by decide) (by decide) hpage hread hgood hpart (by decide) ht
  have hexec : exec .caskRetain stateBeforeRetain = .next ((stateBeforeRetain.caskRun 1 retainCmd).getD stateBeforeRetain) := rfl
  exact ⟨_, hexec.trans (by rw [hrun]), State.svcWait_pins ht⟩

end Sys2Proof.Machine

open Sys2Proof Sys2Proof.Machine

/-- Refutes O45: CASK waits for its lists whatever its operation, and the clause on RETAIN, alone of the three, does not say that they can be read. Here
they lie in flash: the command asks for their page and pins nothing. -/
theorem not_powerAttestQueryLoadAndCask : ¬ Obligations.PowerAttestQueryLoadAndCask := by
  unfold Obligations.PowerAttestQueryLoadAndCask
  intro hall
  obtain ⟨-, -, -, -, -, -, -, -, -, -, -, hcask⟩ := hall 1 retainCmd stateBeforeRetain
  obtain ⟨-, hpages⟩ := hcask caskWithLists (caskTables + 0x4010) (caskTables + 0x6105) (by decide) (by decide) rfl
  obtain ⟨hpage, hread⟩ := stateBeforeRetain_reads
  obtain ⟨hgood, hpart, hnum⟩ := caskWithLists_fields
  have hwalk : let va := bits (kWord caskWithLists 0) 55 0 + retainCmd.step * 4096
      let u := stateBeforeRetain.walkReads none retainCmd.part va
      u.walkFrom retainCmd.part va 5 0 (u.rootOf retainCmd.part) = some (caskTables + 0x4010, caskTables + 0x6105, 4) := by decide +kernel
  obtain ⟨hretain, -⟩ := hpages rfl (by decide) (by decide) hpage hread hgood hpart hnum hwalk
  obtain ⟨t, ht, hpins⟩ := exec_caskRetain_stateBeforeRetain
  have hclaim := Host.Outcome.next.inj (ht.symm.trans (hretain (by decide) (by decide)))
  exact absurd (hpins.symm.trans (congrArg State.pins hclaim)) (by decide +kernel)
end

end

section
/-! The proofs of the statements on the host and its commands: launches, firings, page tables and partitions. -/

-- As above: the proofs are elaborated one after another. Every section variable below is named by the statements that use it, or included.
set_option deprecated.oldSectionVars true

section
/-! Deferred refusals, deadlines, dispatch, run lists, fenced cores and the park block (R94, R112 to R118, R128, R137, R140). -/
namespace Sys2Proof.Machine

/-! ### Contexts (R115, R118, R137) -/

section
variable {core ctx : Nat} {s : State}

theorem exec_deferredTrapDelivery_delivers (h : s.nackDue core ctx = true) :
    exec (.deferredTrapDelivery core ctx) s = .next (s.deliverNack core ctx 9) := congrArg Host.Outcome.next (if_pos h)

/-- The state with a context pre-empted at its deadline, and the miss counted at its core (R118). -/
def State.missDeadline (s : State) (core ctx : Nat) : State :=
  (s.preemptCtx core ctx).modCore core fun k => { k with dlmiss := min (k.dlmiss + 1) 0xFFFFFFFF }

theorem exec_yieldDeadline_misses {l : Launch} (hdue : s.deadlineDue core ctx = true)
    (hl : SMap.find? (s.missDeadline core ctx).launches (s.lidOf core ctx) = some l) :
    exec (.yieldDeadline core ctx) s = .next
      { s.missDeadline core ctx with
        launches := SMap.put (s.missDeadline core ctx).launches (s.lidOf core ctx) { l with misses := l.misses + 1 } } := by
  refine congrArg Host.Outcome.next ((if_pos hdue).trans ?_)
  rw [State.missDeadline] at hl
  simp only [hl]
  rfl

/-- A firing that is ready at its source starts, once it is fetched and has its workspace. -/
theorem State.takeFiring_starts {x : Source} {t u : State} (hcount : s.hasCounters core (s.keep x.handle).lid = true) (hkind : x ≠ .early x.handle)
    (hfirst : s.handlerFirst x.handle = false) (hopen : s.entryShut x.handle = false) (hfetch : s.fetchFiring core x = some t)
    (hown : (t.keep x.handle).handlerOf = 0) (hspace : t.giveWorkspace x.handle = some u) (hfree : (u.ctx core ctx).firing = none) :
    s.takeFiring core ctx x = some (u.startFiring core ctx x.handle) := by
  cases x with
  | early h => exact absurd rfl hkind
  | _ =>
    simp only [State.takeFiring, hcount, hfirst, hopen, hfetch, hown, hspace, hfree, Bool.not_true, Bool.false_eq_true, Option.isSome_none,
      if_false, if_true]

/-- A free context of a core that takes firings takes what the core's source offers. -/
theorem State.dispatch_of_source {x : Source} {t : State} (htakes : s.takes core = true) (hfree : (s.ctx core ctx).firing = none)
    (hctx : ctx < nctx core) (hx : s.source core = some x) (ht : s.takeFiring core ctx x = some t) : s.dispatch core ctx = some t := by
  have hready : (!s.takes core || (s.ctx core ctx).firing.isSome || decide (nctx core ≤ ctx)) = false := by simp [htakes, hfree, hctx]
  unfold State.source at hx
  split at hx
  · next y l hown =>
    cases hx
    simp only [State.dispatch, State.dispatchOwn, hready, hown, List.findSome?_cons, ht, Bool.false_eq_true, if_false]
  · next hown =>
    simp only [State.dispatch, State.dispatchOwn, hready, hown, List.findSome?_nil, hx, ht, Bool.false_eq_true, if_false]

theorem exec_firingDispatch {t : State} (h : s.dispatch core ctx = some t) : exec (.firingDispatch core ctx) s = .next t := by
  show nextState _ = _
  rw [h]
  rfl

end

/-! ### Run lists (R113, R114, R128) -/

section
variable {core : Nat} {s : State}

theorem exec_runListSpill_fenced (h : (s.core core).fenced = true) : exec (.runListSpill core) s = .next (s.poolAll core) :=
  congrArg Host.Outcome.next (if_pos h)

theorem exec_runListSpill_spills {e : RunEnt} (hserves : (s.core core).fenced = false) (hover : 256 < (s.core core).runList.length)
    (he : spillEntry ((s.core core).runList.take 256) = some e) :
    exec (.runListSpill core) s
      = .next ((s.modCore core fun k => { k with runList := k.runList.filter fun x => x.handle != e.handle }).poolActor e.handle (coreDie core) core
        (dClass (s.keep e.handle).desc) true) := by
  show nextState _ = _
  simp only [hserves, Nat.not_le.mpr hover, he, Bool.false_eq_true, if_false]
  rfl

/-- A home with room takes back its one homed record. -/
theorem exec_homedRecall_one {r : PoolRec} (hroom : (s.core core).runList.length < 192) (hserves : (s.core core).fenced = false)
    (hone : (s.pool.filter fun x => x.homed && x.home == core) = [r]) :
    exec (.homedRecall core) s
      = .next (({ s with pool := s.pool.filter fun x => x.handle != r.handle } : State).enqueue core r.handle (s.actorLevel r.handle)) := by
  have hfits : [r].take (256 - (s.core core).runList.length) = [r] := List.take_of_length_le (by simp; omega)
  refine congrArg Host.Outcome.next ((if_neg (by simp [hroom, hserves])).trans ?_)
  simp only [hone, hfits, List.foldl_cons, List.foldl_nil]

theorem exec_runListAging_one {e : RunEnt} (hone : (s.core core).runList.filter (aged (s.cycle core)) = [e]) :
    exec (.runListAging core) s
      = .next ((s.setActorLevel e.handle (e.level + 1)).modCore core fun k =>
        { k with runList := k.runList.filter (fun x => x.handle != e.handle) ++ [{ e with level := e.level + 1, since := e.since + 65536 }] }) := by
  show nextState _ = _
  simp only [hone, List.foldl_cons, List.foldl_nil]
  rfl

/-! ### Fenced cores (R94, R128) -/

/-- A core without a spare stays fenced, which is the model's choice (log 74). -/
theorem exec_fenced_out (v : Nat) (hout : s.fw.coresOut.contains core = true) : exec (.fenced core v) s = .next s :=
  congrArg Host.Outcome.next (if_neg (by rw [hout, Bool.not_true, Bool.and_false]; exact Bool.false_ne_true))

@[simp] theorem State.wipePart_ctxs (s : State) (c p : Nat) : (s.wipePart c p).ctxs = s.ctxs := rfl

/-- A core returned to service is not fenced, and of the contexts only its own are gone. -/
theorem exec_fenced_returns {v : Nat} (hv : v % 2 = 1) (hfenced : (s.core core).fenced = true) (hspare : s.fw.coresOut.contains core = false) :
    ∃ t, exec (.fenced core v) s = .next t ∧ (t.core core).fenced = false ∧ t.ctxs = s.ctxs.filter fun e => e.1 / 16 != core := by
  refine ⟨_, congrArg Host.Outcome.next (if_pos (by simp only [hv, hfenced, hspare]; rfl)), by simp, ?_⟩
  dsimp only
  split <;> simp

end

/-! ### The park control block (R140) -/

section
variable {die : Nat} {s : State}

theorem exec_pcmdResume_idle (h : SMap.get 0 s.fw.pcmd die ≠ 1) : exec (.pcmdResume die) s = .next s := congrArg Host.Outcome.next (if_pos h)

theorem exec_pcmdEnd_idle (h : SMap.get 0 s.fw.pcmd die ≠ 2) : exec (.pcmdEnd die) s = .next s := congrArg Host.Outcome.next (if_pos h)

theorem exec_pcmdResume_none (hcmd : SMap.get 0 s.fw.pcmd die = 1) (hdir : s.dirOf (SMap.get 0 s.fw.phandle die) = none) :
    exec (.pcmdResume die) s = .next (s.pstat die 2) := by
  refine congrArg Host.Outcome.next ((if_neg (not_not.mpr hcmd)).trans ?_)
  simp only [hdir]

theorem exec_pcmdEnd_none (hcmd : SMap.get 0 s.fw.pcmd die = 2) (hdir : s.dirOf (SMap.get 0 s.fw.phandle die) = none) :
    exec (.pcmdEnd die) s = .next (s.pstat die 2) := by
  refine congrArg Host.Outcome.next ((if_neg (not_not.mpr hcmd)).trans ?_)
  simp only [hdir]

section
variable {e : DirEnt} (hdir : s.dirOf (SMap.get 0 s.fw.phandle die) = some e)
include hdir

theorem exec_pcmdResume_unparked (hcmd : SMap.get 0 s.fw.pcmd die = 1) (hstate : s.actorState (SMap.get 0 s.fw.phandle die) ≠ 4) :
    exec (.pcmdResume die) s = .next (s.pstat die 1) := by
  refine congrArg Host.Outcome.next ((if_neg (not_not.mpr hcmd)).trans ?_)
  simp only [hdir]
  exact if_pos hstate

theorem exec_pcmdEnd_unparked (hcmd : SMap.get 0 s.fw.pcmd die = 2) (hstate : s.actorState (SMap.get 0 s.fw.phandle die) ≠ 4) :
    exec (.pcmdEnd die) s = .next (s.pstat die 1) := by
  refine congrArg Host.Outcome.next ((if_neg (not_not.mpr hcmd)).trans ?_)
  simp only [hdir]
  exact if_pos hstate

/-- The state in which a parked actor goes on, once it is dispatched, at a TPC; its trap record is no longer live, which is the model's choice (log 22). -/
def State.unparked (s : State) (h part pc : Nat) : State :=
  s.modKept h fun k => { k with saved := some (pc, (k.saved.getD (0, part)).2), live := false, entry := none }

theorem exec_pcmdResume_parked (hcmd : SMap.get 0 s.fw.pcmd die = 1) (hstate : s.actorState (SMap.get 0 s.fw.phandle die) = 4) :
    let h := SMap.get 0 s.fw.phandle die
    let t := s.unparked h e.part (Memory.readN s.mem (spadKey e.home e.part (e.ws + 0x208)) 8 % 2 ^ 56)
    exec (.pcmdResume die) s = .next ((t.enqueue e.home h (t.actorLevel h)).pstat die 0) := by
  refine congrArg Host.Outcome.next ((if_neg (not_not.mpr hcmd)).trans ?_)
  simp only [hdir]
  exact if_neg (not_not.mpr hstate)

theorem exec_pcmdEnd_parked (hcmd : SMap.get 0 s.fw.pcmd die = 2) (hstate : s.actorState (SMap.get 0 s.fw.phandle die) = 4) :
    let h := SMap.get 0 s.fw.phandle die
    exec (.pcmdEnd die) s = .next (((s.dropStreams e.home e.part h).exitActor h).pstat die 0) := by
  refine congrArg Host.Outcome.next ((if_neg (not_not.mpr hcmd)).trans ?_)
  simp only [hdir]
  exact if_neg (not_not.mpr hstate)

end

end

end Sys2Proof.Machine

open Sys2Proof Sys2Proof.Machine

/-- Settles O38: what becomes of a context, of a core's lists and of a die's park block, each by its own operation. That a core without a spare stays
fenced (log 74), and that a resumed actor's trap record is no longer live (log 22), are the model's choices. -/
theorem firingsComeAndGo : Obligations.FiringsComeAndGo := by
  unfold Obligations.FiringsComeAndGo
  refine ⟨fun core ctx s => ⟨exec_deferredTrapDelivery_delivers, fun l hdue => exec_yieldDeadline_misses hdue, ?dispatch⟩,
    fun core s => ⟨exec_runListSpill_fenced, fun e => exec_runListSpill_spills, fun r => exec_homedRecall_one, fun e => exec_runListAging_one,
      fun v _ hout => exec_fenced_out v hout, fun v hv hfenced hspare => ?returns⟩,
    fun die e s => ⟨exec_pcmdResume_idle, exec_pcmdEnd_idle,
      fun hdir => ⟨fun hcmd => exec_pcmdResume_none hcmd hdir, fun hcmd => exec_pcmdEnd_none hcmd hdir⟩,
      fun hdir hstate => ⟨fun hcmd => exec_pcmdResume_unparked hdir hcmd hstate, fun hcmd => exec_pcmdEnd_unparked hdir hcmd hstate⟩,
      fun hdir hstate => ⟨fun hcmd => exec_pcmdResume_parked hdir hcmd hstate, fun hcmd => exec_pcmdEnd_parked hdir hcmd hstate⟩⟩⟩
  case dispatch =>
    intro x t u htakes hfree hctx hx hcount hkind hfirst hopen hfetch hown hspace hstill
    exact exec_firingDispatch (State.dispatch_of_source htakes hfree hctx hx
      (State.takeFiring_starts hcount hkind hfirst hopen hfetch hown hspace hstill))
  case returns =>
    obtain ⟨t, ht, hserves, hctxs⟩ := exec_fenced_returns hv hfenced hspare
    have hkept (e : Nat × Ctx) (he : e ∈ t.ctxs) : e ∈ s.ctxs ∧ (e.1 / 16 != core) = true := List.mem_filter.mp (hctxs ▸ he)
    exact ⟨t, ht, hserves, fun e he => bne_iff_ne.mp (hkept e he).2, fun e he => (hkept e he).1⟩
end

section
/-! MAP, UNMAP and PARTITION (R72, R80, R83, R84, R472). -/
namespace Sys2Proof.Machine

section
variable {s : State} {n : Nat} {x : Cmd}

/-- The tables of a partition can be read once DRAM is trained and awake. -/
theorem State.tablesWait_none (hup : 5 ≤ s.fw.step) (hdram : s.power.dram = 0) (b : Bool) : s.tablesWait b = none := by
  simp [State.tablesWait, hup, hdram]

/-! ### MAP and UNMAP (R80, R84, R472) -/

theorem exec_map (hf : s.focusCmd 4 = some (n, x)) : exec .map s = .next ((s.mapRun n x).getD s) := by
  show nextState _ = _
  rw [hf]
  rfl

/-- A size code beyond the last is no size of a page. -/
theorem State.mapRun_badCode (h : 5 < x.fld 0x18 11 0 % 8) : s.mapRun n x = some (s.finishCmd n 2 0) := by
  simp only [State.mapRun, h, decide_true, Bool.true_or, if_true]

theorem exec_unmap (hf : s.focusCmd 5 = some (n, x)) : exec .unmap s = .next ((s.unmapRun n x).getD s) := by
  show nextState _ = _
  rw [hf]
  rfl

theorem State.unmapRun_misaligned (h : x.fld 0 55 0 % 4096 ≠ 0) : s.unmapRun n x = some (s.finishCmd n 2 0) :=
  if_pos (by simp [h])

section
variable (hup : 5 ≤ s.fw.step) (hdram : s.power.dram = 0)
include hup hdram

/-- MAP of 4 KiB pages in DRAM by a partition for itself writes a leaf for each. -/
theorem State.mapRun_pages {t : State} (hpart : x.part ≠ 0) (hlives : (s.partition x.part).isSome = true) (hcode : x.fld 0x18 11 0 % 8 = 0)
    (hkind : bit (x.fld 0x18 11 0) 7 = 0) (hva : x.fld 0 55 0 % 4096 = 0) (hpa : x.fld 8 51 0 % 4096 = 0) (hsize : x.fld 0x10 47 0 % 4096 = 0)
    (hspace : x.fld 0 55 0 + x.fld 0x10 47 0 ≤ spaceEnd) (hmaxima : meetsMaxima (x.fld 0 55 0) (x.fld 0x10 47 0) = false)
    (hfirst : isDram (x.fld 8 51 0) = true) (hlast : isDram (x.fld 8 51 0 + x.fld 0x10 47 0 - 1) = true)
    (hleaves : s.mapLeaves x.part 4 (mapBits (x.fld 0x18 11 0) + x.fld 8 51 0) 4096 (x.fld 0x10 47 0 / 4096) (x.fld 0 55 0) = .ok t) :
    s.mapRun n x = some (t.finishCmd n 0 (x.fld 0x10 47 0 / 4096)) := by
  have hsome : s.partition x.part ≠ none := Option.isSome_iff_ne_none.mp hlives
  refine (if_neg ?block).trans ((if_neg ?maxima).trans ((if_neg ?frames).trans ?_))
  case block => simp [hpart, hsome, hcode, hkind, hva, hpa, hsize, Nat.not_lt.mpr hspace, codeSize]
  case maxima => simp [hmaxima]
  case frames => simp [hfirst, hlast]
  simp [State.tablesWait_none hup hdram, hpart, hkind, hcode, codeSize, codeLevel, levelSize, hleaves]

theorem State.unmapRun_removes (hva : x.fld 0 55 0 % 4096 = 0) (hsize : x.fld 8 47 0 % 4096 = 0) (hspace : x.fld 0 55 0 + x.fld 8 47 0 ≤ spaceEnd)
    (hmaxima : meetsMaxima (x.fld 0 55 0) (x.fld 8 47 0) = false)
    (hwhole : s.splitsLeaf x.part (x.fld 0 55 0) (x.fld 0 55 0 + x.fld 8 47 0) 5 0 (s.rootOf x.part) 0 = false) :
    let r := s.unmapIn x.part (x.fld 0 55 0) (x.fld 0 55 0 + x.fld 8 47 0) 5 0 (s.rootOf x.part) 0
    s.unmapRun n x = some ((r.1.dropRange x.part (x.fld 0 55 0) (x.fld 8 47 0)).finishCmd n 0 r.2) := by
  simp [State.unmapRun, hva, hsize, Nat.not_lt.mpr hspace, hmaxima, State.tablesWait_none hup hdram, hwhole]

end

end

/-! ### PARTITION (R72, R83, R84) -/

section
variable {s : State} {n : Nat} {x : Cmd}

section
variable (hf : s.focusCmd 6 = some (n, x))
include hf

theorem State.partitionOp_runs {op : Nat} (hop : x.fld 0 1 0 = op) (f : State → Nat → Cmd → Option State) : s.partitionOp op f = (f s n x).getD s := by
  simp only [State.partitionOp, hf, hop, if_true]

theorem exec_partitionCreate {t : State} (hop : x.fld 0 1 0 = 0) (ht : s.createRun n x = some t) : exec .partitionCreate s = .next t := by
  show nextState _ = _
  rw [State.partitionOp_runs hf hop, ht]
  rfl

theorem exec_partitionChange {t : State} (hop : x.fld 0 1 0 = 1) (ht : s.changeRun n x = some t) : exec .partitionChange s = .next t := by
  show nextState _ = _
  rw [State.partitionOp_runs hf hop, ht]
  rfl

theorem exec_partitionDestroy (hop : x.fld 0 1 0 = 2) : exec .partitionDestroy s = .next ((s.destroyRun n x).getD s) := by
  show nextState _ = _
  rw [State.partitionOp_runs hf hop]
  rfl

end

/-- The policy core owns PARTITION. -/
theorem State.createRun_handsOff (h : x.st = 0) : s.createRun n x = some (s.handOff n x 6) := by
  simp [State.createRun, State.partitionWait, h]

/-- Once it is begun, with the dies trained and DRAM awake, PARTITION waits for nothing. -/
theorem State.partitionWait_none (hready : x.st ≠ 0 ∧ 6 ≤ s.fw.step ∧ s.power.dram = 0) : s.partitionWait x = none := by
  obtain ⟨hst, hup, hdram⟩ := hready
  have hnew : ¬(decide (s.fw.step < 5) || x.share.1 != 0 && decide (s.fw.step < 6)) = true := by simp; omega
  exact (if_neg hst).trans ((if_neg hnew).trans (if_neg (not_not.mpr hdram)))

section
variable (hready : x.st ≠ 0 ∧ 6 ≤ s.fw.step ∧ s.power.dram = 0)
include hready

theorem State.createRun_zero (hp : x.fld 0 11 8 = 0) : s.createRun n x = some (s.finishCmd n 2 0) := by
  simp [State.createRun, State.partitionWait_none hready, hp]

/-- The partition that a create makes: the fields of its block, the areas reserved for it and a key that is drawn. -/
def Cmd.newPartition (x : Cmd) (key : Word) : Partition :=
  Partition.reserve { root := x.fld 8 51 0, kettle := x.share.1, cellar := x.share.2.1, slice := x.share.2.2, inlineKey := key.toNat } (x.fld 0 11 8)

theorem State.createRun_creates (hp : x.fld 0 11 8 ≠ 0) (hpairs : x.share.2.1 % 2 = 0) (halign : x.fld 8 51 0 % 4096 = 0)
    (hframe : frameOk (x.fld 8 51 0) = true) (hnew : s.partition (x.fld 0 11 8) = none) :
    let p := x.fld 0 11 8
    let t : State := { s.takeWord.2 with partitions := SMap.put s.takeWord.2.partitions p (x.newPartition s.takeWord.1) }
    s.createRun n x = some ((((((t.fillPool p).fixShares.fixCores).openWindows p).mapMaxima p).newOverlaps s).finishCmd n 0 p) := by
  simp [State.createRun, State.partitionWait_none hready, hp, hpairs, halign, hframe, hnew, Cmd.newPartition]

theorem State.changeRun_changes (hp : x.fld 0 11 8 ≠ 0) (hpairs : x.share.2.1 % 2 = 0) (hlives : (s.partition (x.fld 0 11 8)).isSome = true) :
    let p := x.fld 0 11 8
    s.changeRun n x
      = some (((((s.modPartition p fun y => { y with kettle := x.share.1, cellar := x.share.2.1, slice := x.share.2.2 }).fixShares).fixCores).newOverlaps
        s).finishCmd n 0 p) := by
  have hsome : s.partition (x.fld 0 11 8) ≠ none := Option.isSome_iff_ne_none.mp hlives
  simp [State.changeRun, State.partitionWait_none hready, hp, hpairs, hsome]

end

section
variable (hp : x.fld 0 11 8 ≠ 0) (hlives : s.partition (x.fld 0 11 8) ≠ none)
include hp hlives

theorem State.destroyRun_closes (hst : x.st = 1) : s.destroyRun n x = some ((s.closeQueues (x.fld 0 11 8)).setCmd n { x with st := 2 }) := by
  simp [State.destroyRun, hst, hp, hlives]

section
variable (hst : x.st = 2)
include hst

theorem State.destroyRun_kills {e : Nat × Launch}
    (he : List.find? (fun (e : Nat × Launch) => e.2.part == x.fld 0 11 8 && !e.2.killed) s.launches = some e) :
    s.destroyRun n x = s.beginKill e.1 e.2 := by
  simp [State.destroyRun, hst, hp, hlives, he]

section
variable (hdone : s.launches = [])
include hdone

/-- A begun command that still waits ends with FAULT and its address, which is the model's choice (log 54). -/
theorem State.destroyRun_ends {e : Nat × Cmd} (hrest : ∀ y ∈ s.cmds, y.2.part = x.fld 0 11 8 → y.2.st = 4 ∨ y.2.idles = true)
    (he : List.find? (fun (y : Nat × Cmd) => y.2.part == x.fld 0 11 8 && y.2.idles) s.cmds = some e) :
    s.destroyRun n x = some (s.finishCmd e.1 3 (e.2.fld 0 55 0)) := by
  have hquiet : (List.any s.cmds fun (y : Nat × Cmd) => y.2.part == x.fld 0 11 8 && y.2.st != 4 && !y.2.idles) = false := by
    refine List.any_eq_false.mpr fun y hy => ?_
    by_cases hpart : y.2.part = x.fld 0 11 8
    · rcases hrest y hy hpart with h | h <;> simp [h]
    · simp [hpart]
  simp [State.destroyRun, hst, hp, hlives, hdone, hquiet, he]

/-- With no command of the partition left it is gone. -/
theorem State.destroyRun_drops (hdram : s.power.dram = 0) (hnone : ∀ y ∈ s.cmds, y.2.part ≠ x.fld 0 11 8) :
    s.destroyRun n x = some ((s.dropPartition (x.fld 0 11 8)).finishCmd n 0 (x.fld 0 11 8)) := by
  have hquiet : (List.any s.cmds fun (y : Nat × Cmd) => y.2.part == x.fld 0 11 8 && y.2.st != 4 && !y.2.idles) = false :=
    List.any_eq_false.mpr fun y hy => by simp [hnone y hy]
  have hidle : List.find? (fun (y : Nat × Cmd) => y.2.part == x.fld 0 11 8 && y.2.idles) s.cmds = none :=
    List.find?_eq_none.mpr fun y hy => by simp [hnone y hy]
  have hleft : (List.any s.cmds fun (y : Nat × Cmd) => y.2.part == x.fld 0 11 8) = false :=
    List.any_eq_false.mpr fun y hy => by simp [hnone y hy]
  simp [State.destroyRun, hst, hp, hlives, hdone, hquiet, hidle, hleft, hdram]

end

end

end

end

end Sys2Proof.Machine

open Sys2Proof Sys2Proof.Machine

/-- Settles O44: each command by its own run. The status of a misaligned UNMAP, the checks of a root and the record of a
waiting command at a destroy (log 54), and the inline key that is drawn (log 3), are the model's choices. -/
theorem mapAndPartitionCommands : Obligations.MapAndPartitionCommands := by
  unfold Obligations.MapAndPartitionCommands
  intro n x s
  refine ⟨fun hf hcode => ?badCode, fun t hf hup hdram hpart hlives hcode hkind hva hpa hsize hspace hmaxima hfirst hlast hleaves => ?map,
    fun hf hva => ?misaligned, fun hf hup hdram hva hsize hspace hmaxima hwhole => ?unmap, fun hf => ?partition⟩
  case badCode => rw [exec_map hf, State.mapRun_badCode hcode, Option.getD_some]
  case map =>
    rw [exec_map hf, State.mapRun_pages hup hdram hpart hlives hcode hkind hva hpa hsize hspace hmaxima hfirst hlast hleaves, Option.getD_some]
  case misaligned => rw [exec_unmap hf, State.unmapRun_misaligned hva, Option.getD_some]
  case unmap => rw [exec_unmap hf, State.unmapRun_removes hup hdram hva hsize hspace hmaxima hwhole, Option.getD_some]
  case partition =>
    refine ⟨fun hop hst => exec_partitionCreate hf hop (State.createRun_handsOff hst),
      fun hop hready hp => exec_partitionCreate hf hop (State.createRun_zero hready hp),
      fun hop hready hp hpairs halign hframe hnew => exec_partitionCreate hf hop (State.createRun_creates hready hp hpairs halign hframe hnew),
      fun hop hready hp hpairs hlives => exec_partitionChange hf hop (State.changeRun_changes hready hp hpairs hlives),
      fun hop hst hp hlives => ?closes, fun e hop hst hp hlives he => ?kills, fun e hop hst hp hlives hdone hrest he => ?ends,
      fun hop hst hdram hp hlives hdone hnone => ?drops⟩
    all_goals rw [Option.isSome_iff_ne_none] at hlives
    case closes => rw [exec_partitionDestroy hf hop, State.destroyRun_closes hp hlives hst, Option.getD_some]
    case kills => rw [exec_partitionDestroy hf hop, State.destroyRun_kills hp hlives hst he]
    case ends => rw [exec_partitionDestroy hf hop, State.destroyRun_ends hp hlives hst hdone hrest he, Option.getD_some]
    case drops => rw [exec_partitionDestroy hf hop, State.destroyRun_drops hp hlives hst hdone hdram hnone, Option.getD_some]
end

section
/-! Launches, their waves, watchdogs and kills (R82, R90, R110, R125 to R127). -/
namespace Sys2Proof.Machine

/-! ### Bring-up's step as firmware reads a partition's memory (R89, R209) -/

theorem State.pickVictim_fw (s : State) (ways : Nat) (l : List Nat) : (s.pickVictim ways l).2.fw = s.fw := by
  unfold State.pickVictim
  split_ifs <;> rfl

theorem State.writeBackLine_fw (s : State) (line : Nat) : (s.writeBackLine line).fw = s.fw := by
  unfold State.writeBackLine
  split <;> rfl

theorem State.makeRoom_fw (s : State) (line : Nat) : (s.makeRoom line).fw = s.fw := by
  have hpick := s.pickVictim_fw 16 (s.setMates line)
  unfold State.makeRoom
  split
  case h_1 t heq => rwa [heq] at hpick
  case h_2 w t heq =>
    rw [heq] at hpick
    exact (t.writeBackLine_fw w).trans hpick

theorem State.roomFor_fw (s : State) (line : Nat) : (if s.cached line then s else s.makeRoom line).fw = s.fw := by
  split_ifs
  · rfl
  · exact s.makeRoom_fw line

theorem State.snoop_fw (s : State) (line : Nat) : (s.snoop line).fw = s.fw := by
  unfold State.snoop
  split
  · rfl
  · exact s.roomFor_fw line

theorem State.holdLine_fw (s : State) (line : Nat) : (s.holdLine line).fw = s.fw := by
  unfold State.holdLine
  split_ifs
  · rfl
  · exact s.makeRoom_fw line

theorem State.lineWrite_step (s : State) (p line off n v : Nat) (cached : Bool) : (s.lineWrite p line off n v cached).fw.step = s.fw.step := by
  unfold State.lineWrite
  split_ifs
  · rfl
  · rfl
  · exact congrArg Firmware.step (s.makeRoom_fw line)
  · rfl

theorem State.noteFix_step (s : State) (row : Nat) : (s.noteFix row).fw.step = s.fw.step := by
  unfold State.noteFix
  dsimp only
  split_ifs <;> rfl

theorem State.readDram_step (s : State) (line : Nat) : (s.readDram line).fw.step = s.fw.step := by
  unfold State.readDram
  dsimp only
  split_ifs
  · rfl
  · exact State.noteFix_step _ _
  · rfl
  · rfl

/-- A read or a write at a line's home begins alike. -/
theorem State.atHome_step (s : State) (line : Nat) : ((s.snoop line).readDram line).fw.step = s.fw.step :=
  ((s.snoop line).readDram_step line).trans (congrArg Firmware.step (s.snoop_fw line))

theorem State.raisePts_step (s : State) (a : Option Nat) (w : Nat) : (s.raisePts a w).fw.step = s.fw.step := by
  cases a <;> rfl

theorem State.countMismatch_step (s : State) (p line : Nat) : (s.countMismatch p line).fw.step = s.fw.step := by
  simp only [State.countMismatch]
  split_ifs <;> rfl

theorem State.homeLook_step (s : State) (a : Option Nat) (p line : Nat) : (s.homeLook a p line).fw.step = s.fw.step :=
  (State.raisePts_step _ a _).trans (((s.countMismatch p line).atHome_step line).trans (s.countMismatch_step p line))

theorem State.homeStore_step (s : State) (a : Option Nat) (p pa n v : Nat) (cached : Bool) :
    (s.homeStore a p pa n v cached).fw.step = s.fw.step :=
  (State.raisePts_step _ a _).trans ((State.lineWrite_step _ p _ _ n v cached).trans (s.atHome_step _))

/-- What every step of a fold leaves of bring-up's step, the fold leaves. -/
theorem State.foldl_step {α : Type} {f : State → α → State} (hf : ∀ u a, (f u a).fw.step = u.fw.step) (l : List α) (s : State) :
    (l.foldl f s).fw.step = s.fw.step :=
  List.foldlRecOn (motive := fun t : State => t.fw.step = s.fw.step) l f rfl fun u hu a _ => (hf u a).trans hu

theorem State.walkReads_step (s : State) (a : Option Nat) (p va : Nat) : (s.walkReads a p va).fw.step = s.fw.step :=
  State.foldl_step (fun u ea => (congrArg Firmware.step (State.holdLine_fw _ _)).trans (u.homeLook_step a p (ea / 64))) _ s

theorem State.markUsed_step (s : State) (who : Option Nat) (p ea e : Nat) (a : Access) : (s.markUsed who p ea e a).fw.step = s.fw.step := by
  unfold State.markUsed
  split_ifs
  · rfl
  · exact s.homeStore_step who p ea 8 _ true

theorem State.translated_step (s : State) (p va : Nat) (a : Access) : (s.translated p va a).fw.step = s.fw.step := by
  unfold State.translated
  split
  · exact s.walkReads_step none p va
  · exact (State.markUsed_step _ none p _ _ a).trans (s.walkReads_step none p va)

theorem State.readsMarked_step (s : State) (p : Nat) (vas : List Nat) : (s.readsMarked p vas).fw.step = s.fw.step := by
  refine State.foldl_step (fun u va => ?_) vas s
  split
  · exact (State.homeLook_step _ none p _).trans (u.translated_step p va .read)
  · exact u.walkReads_step none p va

/-! ### LAUNCH (R82, R90, R110) -/

section
variable {n : Nat} {x : Cmd} {s : State}

theorem exec_launch (hf : s.focusCmd 1 = some (n, x)) : exec .launch s = .next ((s.launchRun n x).getD s) := by
  show nextState _ = _
  rw [hf]
  rfl

/-- A block against its rules is refused before anything else is looked at, which is the model's choice (log 52). -/
theorem State.launchRun_bad (hst : x.st = 1) (hbad : launchBad x = true) : s.launchRun n x = some (s.finishCmd n 2 0) := by
  simp only [State.launchRun, hst, hbad, if_true]
  rfl

/-- A launch without TBAR and PBAR starts at once. -/
theorem State.launchRun_starts (hst : x.st = 1) (hgood : launchBad x = false) (htbar : x.fld 0x30 55 0 = 0) (hpbar : x.fld 0x48 55 0 = 0) :
    s.launchRun n x = s.launchStart n x := by
  simp [State.launchRun, State.barCheck, State.predecessor, State.predecessorSeen, hst, hgood, htbar, hpbar]

theorem State.launchStart_waits (h : s.storesOpen x.part = true) : s.launchStart n x = none := if_pos h

theorem State.launchStart_wakesDram (hstores : s.storesOpen x.part = false) (hshut : s.fenceShut = true) : s.launchStart n x = s.wantDram := by
  simp only [State.launchStart, hstores, hshut, Bool.false_eq_true, if_false, if_true]

/-- The launch that a LAUNCH without TBAR forms. -/
def State.launchOf (s : State) (n : Nat) (x : Cmd) : Launch :=
  { root := 0, part := x.part, svc := x.svc, cmd := n, prio := x.fld 8 8 6, tbar := 0, wd1 := x.fld 0x38 31 0, wd2 := x.fld 0x38 63 32
    wd3 := x.fld 0x40 31 0, ydl := x.fld 0x40 63 32, wdFrom := s.time, waveAt := s.time
    wdHold := if s.activeSomewhere x.part then none else some s.time }

/-- The state with a launch formed. -/
def State.withLaunch (s : State) (n : Nat) (x : Cmd) : State := { s with launches := SMap.put s.launches s.newLid (s.launchOf n x) }

/-- What a LAUNCH without TBAR and groups finds in full service once its pages can be read: its partition's stores ordered, and a descriptor. -/
structure State.LaunchDue (s : State) (x : Cmd) (d : Nat) : Prop where
  tbar : x.fld 0x30 55 0 = 0
  groups : x.fld 0x10 55 0 = 0
  up : 6 ≤ s.fw.step
  stores : s.storesOpen x.part = false
  awake : s.fenceShut = false
  align : x.fld 0 55 0 % 64 = 0
  page : s.svcWait x.svc x.part (pagesOf (x.fld 0 55 0) 64 ++ []) = none
  desc : s.partRead x.part (x.fld 0 55 0) 64 = some d
  tables : s.svcWait x.svc x.part ([dEntry d] ++ pagesOf (dPorts d) (16 * (dNin d + dNout d)) ++ [dShapes d, dPitch d].filter fun a => a != 0) = none

/-- The state with a root actor of a launch on its way to a core of its die, or UNPLACED in the die's pool, which is that of LAUNCH's class: the model's
choice (log 52). -/
def State.rootPlaced (s : State) (x : Cmd) (d die h : Nat) : State :=
  match s.rootCore x.part die (x.fld 8 5 4) d with
  | some c => s.sendPlacement (epAgent x.svc) h c
  | none => s.poolActor h die 0 (x.fld 8 5 4) false

/-- The state in which a launch names its root. -/
def State.withRoot (s : State) (lid : Nat) (l : Launch) (h : Nat) : State := { s with launches := SMap.put s.launches lid { l with root := h } }

theorem State.placeRoot_places {lid d die h : Nat} {t : State} {l : Launch} (hup : 6 ≤ s.fw.step)
    (hnew : s.createActor x.part lid (x.fld 0 55 0) d die 0 (x.fld 0x20 55 0) = some (h, t)) (hl : SMap.find? t.launches lid = some l) :
    s.placeRoot x lid d die = some ((t.withRoot lid l h).rootPlaced x d die h) := by
  have hlate : (x.fld 8 5 4 == 0 && decide (s.fw.step < 6)) = false := by rw [decide_eq_false (Nat.not_lt.mpr hup), Bool.and_false]
  simp only [State.placeRoot, hlate, hnew, hl, Bool.false_eq_true, if_false, State.rootPlaced, State.withRoot]
  generalize State.rootCore _ _ _ _ _ = o
  cases o <;> rfl

namespace State.LaunchDue
variable {d : Nat} (hdue : s.LaunchDue x d)
include hdue

/-- DRAM and dies are trained, so that a launch reads all of memory and takes any die (R90). -/
theorem trained : decide (s.fw.step < 5) = false ∧ decide (s.fw.step < 6) = false := by
  have hup := hdue.up
  exact ⟨decide_eq_false (by omega), decide_eq_false (by omega)⟩

theorem launchStart_noDie (hdie : s.rootDie x.part x.svc (x.fld 8 5 4) = none) : s.launchStart n x = some (s.finishCmd n 0x0A 0) := by
  obtain ⟨hdram, -⟩ := hdue.trained
  obtain ⟨htbar, hgroups, hup, hstores, hawake, halign, hpage, hdesc, htables⟩ := hdue
  have hgs : s.launchGroups x s.newLid = .inr s.groups := if_pos hgroups
  simp only [State.launchStart, hstores, hawake, hgroups, hpage, hgs, halign, hdesc, hdram, htables, hdie, Bool.false_eq_true, Bool.false_and, if_false,
    if_true]

theorem launchStart_starts {die : Nat} {t : State} (hdie : s.rootDie x.part x.svc (x.fld 8 5 4) = some die)
    (hgood : (s.withLaunch n x).descBad x.part d = false) (hfits : descFits d (die == 4) = true)
    (hroot : ((s.withLaunch n x).readsMarked x.part (descReads (x.fld 0 55 0) d)).placeRoot x s.newLid d die = some t) :
    s.launchStart n x
      = some ((({ t with fw := { t.fw with nextLid := (s.newLid + 1) % 65536 } } : State).launchFence x.part).setCmd n { x with st := 2 }) := by
  obtain ⟨hdram, hdies⟩ := hdue.trained
  obtain ⟨htbar, hgroups, hup, hstores, hawake, halign, hpage, hdesc, htables⟩ := hdue
  have hgs : s.launchGroups x s.newLid = .inr s.groups := if_pos hgroups
  have hreads : groupReads x = [] := if_pos hgroups
  rw [State.withLaunch, State.launchOf] at hgood hroot
  simp only [State.launchStart, hstores, hawake, hgroups, hpage, hgs, halign, hdesc, hdram, hdies, htables, hdie, htbar, hgood, hfits, hroot, hreads,
    Bool.false_eq_true, Bool.false_and, Bool.and_false, Bool.not_false, Bool.not_true, Bool.or_false, Bool.and_true, List.nil_append, if_false, if_true]

end State.LaunchDue

end

/-! ### Completion, waves and watchdogs (R82, R126, R127) -/

section
variable {l : Launch} {s : State}

section
variable {lid : Nat} (hl : SMap.find? s.launches lid = some l) (status : Nat)
include hl

theorem State.completeLaunch_waits (h : s.storesOpen l.part = true) : s.completeLaunch lid status = none := by
  simp only [State.completeLaunch, hl, h, if_true]

section
variable (hstores : s.storesOpen l.part = false)
include hstores

theorem State.completeLaunch_wakesDram (hshut : s.fenceShut = true) : s.completeLaunch lid status = s.wantDram := by
  simp only [State.completeLaunch, hl, hstores, hshut, Bool.false_eq_true, if_false, if_true]

/-- A launch without TBAR completes once its partition's stores are ordered and its release can write back. -/
theorem State.completeLaunch_isSome (htbar : l.tbar = 0) (hawake : s.fenceShut = false) : ∃ t, s.completeLaunch lid status = some t := by
  have hbar : s.svcTbar lid l (.arrive 1) = .inr s := if_pos htbar
  simp only [State.completeLaunch, hl, hstores, hawake, hbar, Bool.false_eq_true, if_false]
  exact ⟨_, rfl⟩

end

end

/-- The state with a launch killed, and its watchdog past its second step. -/
def State.launchKilled (s : State) (lid : Nat) (k : Launch) : State :=
  { s.killLaunch lid with launches := SMap.put (s.killLaunch lid).launches lid { k with wd := 2, killed := true } }

theorem State.beginKill_kills {lid : Nat} {k : Launch} (htbar : l.tbar = 0) (hk : SMap.find? (s.killLaunch lid).launches lid = some k) :
    s.beginKill lid l = some (s.launchKilled lid k) := by
  have hbar : s.svcTbar lid l (killStatus l.svc lid) = .inr s := if_pos htbar
  simp only [State.beginKill, hbar, hk]
  rfl

/-- The state with the launch in focus replaced. -/
def State.putFocus (s : State) (l : Launch) : State := { s with launches := SMap.put s.launches s.focus l }

section
variable (hl : SMap.find? s.launches s.focus = some l)
include hl

section
variable (hlive : l.wd ≠ 4) (hdue : s.waveDue l = true)
include hlive hdue

/-- A wave that finds a core busy starts anew. -/
theorem exec_terminationWave_busy (hbusy : s.launchIdle s.focus = false) :
    exec .terminationWave s = .next (s.putFocus { l with waveAt := s.time, wave := none }) := by
  show nextState _ = _
  simp only [hl, hlive, hdue, hbusy, Bool.false_and, Bool.not_true, Bool.false_eq_true, if_false]
  rfl

section
variable (hidle : s.launchIdle s.focus = true) (hsums : (s.launchSums s.focus).1 = (s.launchSums s.focus).2)
include hidle hsums

/-- One that finds it idle with another sum than the last one's keeps the sum. -/
theorem exec_terminationWave_first (hwave : l.wave ≠ some (s.launchSums s.focus).1) :
    exec .terminationWave s = .next (s.putFocus { l with waveAt := s.time, wave := some (s.launchSums s.focus).1 }) := by
  show nextState _ = _
  simp [hl, hlive, hdue, hidle, ← hsums, hwave]
  rfl

/-- The second in a row with the same sum completes it. -/
theorem exec_terminationWave_second {t : State} (hwave : l.wave = some (s.launchSums s.focus).1)
    (ht : ((s.putFocus { l with waveAt := s.time, wave := some (s.launchSums s.focus).1 }).quiesce s.focus).completeLaunch s.focus 0 = some t) :
    exec .terminationWave s = .next t := by
  rw [State.putFocus] at ht
  show nextState _ = _
  simp [hl, hlive, hdue, hidle, ← hsums, hwave, ht]
  rfl

end

end

theorem exec_watchdogStep1_preempts (hwd : l.wd = 0) (hlimit : s.wdReached l l.wd1 = true) :
    exec .watchdogStep1 s = .next (((s.putFocus { l with wd := 1 }).wdPreempt s.focus).wdReport l s.focus 1 0) := by
  show nextState _ = _
  simp only [hl, hwd, hlimit, decide_true, Bool.and_true, if_true]
  rfl

theorem exec_watchdogKill_kills {t : State} (hwd : l.wd = 1) (hlimit : s.wdReached l l.wd2 = true) (ht : s.beginKill s.focus l = some t)
    (hkilled : (SMap.find? t.launches s.focus).any (fun x => x.killed) = true) : exec .watchdogKill s = .next (t.wdReport l s.focus 2 0) := by
  show nextState _ = _
  simp only [hl, hwd, hlimit, ht, hkilled, decide_true, Bool.and_true, if_true]
  rfl

theorem exec_watchdogFence_one {c : Nat} (hwd : l.wd = 2) (hlimit : s.wdReached l l.wd3 = true) (hone : s.coresWith s.focus = [c]) :
    exec .watchdogFence s = .next (((s.putFocus { l with wd := 3 }).fence c).wdReport l s.focus 3 c) := by
  show nextState _ = _
  simp only [hl, hwd, hlimit, hone, decide_true, Bool.and_true, List.isEmpty_cons, Bool.not_false, if_true, List.foldl_cons, List.foldl_nil]
  rfl

theorem exec_killFinished_completes {t : State} (hkilled : l.killed = true) (hdone : s.killDone s.focus = true)
    (ht : s.completeLaunch s.focus 0x0B = some t) : exec .killFinished s = .next t := by
  show nextState _ = _
  simp only [hl, hkilled, hdone, ht, Bool.and_true, if_true]
  rfl

theorem exec_killFinished_waits (hbusy : s.killDone s.focus = false) : exec .killFinished s = .next s := by
  show nextState _ = _
  simp only [hl, hbusy, Bool.and_false, Bool.false_eq_true, if_false]
  rfl

end

end

end Sys2Proof.Machine

open Sys2Proof Sys2Proof.Machine

/-- Settles O47: LAUNCH by its own run, a launch in focus by its waves and its watchdog's steps. The order of LAUNCH's checks, the class of the
pool that takes a root without a core and the wait for step 6 are the model's choices (log 52). -/
theorem launchesStartAndEnd : Obligations.LaunchesStartAndEnd := by
  unfold Obligations.LaunchesStartAndEnd
  refine ⟨fun n x s hf hst => ⟨fun hbad => ?bad, fun hgood htbar hpbar hstores => ?stores, fun hgood htbar hpbar hstores hshut => ?shut,
      fun d h t hgood htbar hpbar hgroups hup hstores hawake halign hpage hdesc htables => ?starts⟩,
    fun l s hl => ⟨exec_watchdogStep1_preempts hl,
      fun hwd htbar hlimit k hk => exec_watchdogKill_kills hl hwd hlimit (State.beginKill_kills htbar hk),
      fun c => exec_watchdogFence_one hl, fun hkilled hdone t => exec_killFinished_completes hl hkilled hdone, fun _ => exec_killFinished_waits hl,
      fun htbar hstores => State.completeLaunch_isSome hl 0x0B hstores htbar, State.completeLaunch_wakesDram hl 0x0B,
      State.completeLaunch_waits hl 0x0B, exec_terminationWave_first hl, exec_terminationWave_busy hl,
      fun t hlive hdue hidle hsums => exec_terminationWave_second hl hlive hdue hidle hsums⟩⟩
  case bad => rw [exec_launch hf, State.launchRun_bad hst hbad, Option.getD_some]
  case stores => rw [exec_launch hf, State.launchRun_starts hst hgood htbar hpbar, State.launchStart_waits hstores, Option.getD_none]
  case shut => rw [exec_launch hf, State.launchRun_starts hst hgood htbar hpbar, State.launchStart_wakesDram hstores hshut]
  case starts =>
    have hdue : s.LaunchDue x d := ⟨htbar, hgroups, hup, hstores, hawake, halign, hpage, hdesc, htables⟩
    rw [exec_launch hf, State.launchRun_starts hst hgood htbar hpbar]
    refine ⟨fun die hdie hsound hfits hnew hl => ?_, fun hdie => ?_⟩
    · have hlate : 6 ≤ ((s.withLaunch n x).readsMarked x.part (descReads (x.fld 0 55 0) d)).fw.step :=
        hup.trans_eq (State.readsMarked_step (s.withLaunch n x) x.part _).symm
      rw [hdue.launchStart_starts hdie hsound hfits (State.placeRoot_places hlate hnew hl)]
      rfl
    · rw [hdue.launchStart_noDie hdie, Option.getD_some]
end

end

section
/-! The proofs of the statements on scheduling, as instructions bring it about: messages, the creation of actors, and the ends of firings. -/

section
/-! MSG.H, MSG.D and the group messages (R130, R217, R339 to R341). -/
namespace Sys2Proof.Machine

/-- An address in the local or mesh window is none of the control window (R325). -/
theorem ctlCheck_window {s : State} {va : Nat} {ea : State → Nat ⊕ Nat} (he : ea s = .inl va) (hwin : va / 2 ^ 48 = 0xFD ∨ va / 2 ^ 48 = 0xFE) :
    ctlCheck ea s = none := by
  have hff : va / 2 ^ 48 ≠ 0xFF := by omega
  simp [-Nat.reducePow, ctlCheck, he, hff]

section
variable {s : State} (hheld : s.signalHeld = false)
include hheld

/-- A choice between waiting for a signal and going on goes on. -/
theorem State.signal_goes {α : Sort _} (wait go : α) : (if s.signalHeld = true then wait else go) = go := if_neg (ne_true_of_eq_false hheld)

theorem exec_msgH_sends {c : Ctl} {a b r : SReg} (hc : s.clear c.pred [.scal a, .scal b, .scal r] [] = true) :
    exec (.msgH c a b r) s = .next (s.completes (s.sendActor s.ic s.ik 0x26 (s.rs a) 0
      (toBytes 8 (s.rs b) ++ toBytes 8 (s.rs r) ++ toBytes 8 s.ic)) c.stall [.scal a, .scal b, .scal r]) :=
  next_ok _ _ _ _ hc rfl (State.signal_goes hheld _ _)

/-- MSG.D to a word that lies in a scratchpad (R339). -/
theorem exec_msgD_deposits {c : Ctl} {a b : SReg} {va d off : Nat} (hc : s.clear c.pred [.scal a, .scal b] [] = true) (hea : s.ea a 0 0 = .inl va)
    (hwin : va / 2 ^ 48 = 0xFD ∨ va / 2 ^ 48 = 0xFE) (hplace : windowPlace s.ic va 8 = some (if d = s.ic then .own off else .core d off)) :
    exec (.msgD c a b) s = .next (s.completes (s.sendDeposit s.ic s.ik d off (s.rs b)) c.stall [.scal a, .scal b]) := by
  have hin : ¬(va / 2 ^ 48 ≠ 0xFD ∧ va / 2 ^ 48 ≠ 0xFE) := by omega
  refine next_ok _ _ _ _ hc (ctlCheck_window hea hwin) ?_
  simp only [hea, if_neg hin, hplace]
  by_cases hown : d = s.ic
  · subst hown
    simp only [if_true, State.signal_goes hheld]
  · simp only [if_neg hown, State.signal_goes hheld]

/-! ### Messages to a group (R341) -/

/-- The members of a group to which MSGG sends: all of them with SELF, all but the issuing core without. -/
def State.groupTargets (s : State) (self : Bool) (p g : Nat) : List Nat :=
  if self then s.groupMembers p g else (s.groupMembers p g).filter fun m => m ≠ s.ic

/-- MSGG sends one message after another to its members. -/
theorem State.groupSend_sends {self : Bool} {gid off : Nat} (hoff : off < 2 ^ 20)
    (hvalid : s.groupValid (s.partOf s.ic s.ik) gid (s.lidOf s.ic s.ik) = true) (one : State → Nat → State) :
    s.groupSend self gid off one = .ok ((s.groupTargets self (s.partOf s.ic s.ik) gid).foldl one s) := by
  have hhigh : ¬ off / 2 ^ 20 ≠ 0 := by omega
  simp only [State.groupSend, if_neg hhigh, hvalid, hheld, Bool.not_true, Bool.false_eq_true, if_false, State.groupTargets]
  cases self
  · simp [List.foldl_filter]
  · simp

end

end Sys2Proof.Machine

open Sys2Proof Sys2Proof.Machine

/-- Settles O16: each message by the body of its slot, which goes on as no signal is held back. -/
theorem messagesAreSent : Obligations.MessagesAreSent := by
  unfold Obligations.MessagesAreSent
  intro c self gid a b r s hheld
  refine ⟨exec_msgH_sends hheld, fun hc => ⟨fun va d off hea hwin hplace => exec_msgD_deposits hheld hc hea hwin hplace, fun hoff hvalid => ?_⟩⟩
  exact ⟨next_ok _ _ _ _ hc rfl (State.groupSend_sends hheld hoff hvalid _), next_ok _ _ _ _ hc rfl (State.groupSend_sends hheld hoff hvalid _)⟩
end

section
/-! SPAWN, and the actor that it creates (R100, R103, R105, R111, R422). -/
namespace Sys2Proof.Machine

/-! ### Handles and their directory entries (R102, R103) -/

section
variable {p die gen idx : Nat} (hgen : gen < 2 ^ 24) (hidx : idx < 2 ^ 20) (hdie : die < 8)
include hgen hidx hdie

theorem handleDie_mkHandle : bits (mkHandle p die gen idx) 59 57 = die := by
  simp only [bits, mkHandle]; omega

theorem handleKey_mkHandle : handleKey (mkHandle p die gen idx) = die * 2 ^ 20 + idx := by
  have hlow : bits (mkHandle p die gen idx) 19 0 = idx := by simp only [bits, mkHandle]; omega
  rw [handleKey, handleDie_mkHandle hgen hidx hdie, hlow]

theorem handlePart_mkHandle (hp : p < 16) : bits (mkHandle p die gen idx) 63 60 = p := by
  simp only [bits, mkHandle]; omega

/-- A handle that is made has no reserved bit set. -/
theorem canonHandle_mkHandle (hp : p < 16) : canonHandle (mkHandle p die gen idx) = mkHandle p die gen idx := by
  have hgenBits : bits (mkHandle p die gen idx) 47 24 = gen := by simp only [bits, mkHandle]; omega
  have hlow : bits (mkHandle p die gen idx) 19 0 = idx := by simp only [bits, mkHandle]; omega
  have hhigh : bits (mkHandle p die gen idx) 63 57 = p * 8 + die := by simp only [bits, mkHandle]; omega
  rw [canonHandle, hgenBits, hlow, hhigh, mkHandle]; omega

end

/-- What is found in a table is in it. -/
theorem SMap.mem_of_find? {α : Type} {m : SMap α} {i : Nat} {v : α} (h : SMap.find? m i = some v) : (i, v) ∈ m := by
  induction m with
  | nil => cases h
  | cons e m ih =>
    obtain ⟨k, w⟩ := e
    simp only [SMap.find?] at h
    split_ifs at h with heq
    · cases h; subst heq; exact List.mem_cons_self
    · exact List.mem_cons_of_mem _ (ih h)

/-- What a table gives has what its entries and its default have. -/
theorem SMap.get_of_forall {α : Type} {P : α → Prop} {d : α} {m : SMap α} (hd : P d) (hm : ∀ e ∈ m, P e.2) (i : Nat) : P (SMap.get d m i) := by
  unfold SMap.get
  cases h : SMap.find? m i with
  | none => exact hd
  | some v => exact hm _ (SMap.mem_of_find? h)

theorem nextGen_lt {g : Nat} (h : g < 2 ^ 24) : nextGen g < 2 ^ 24 := by
  unfold nextGen; split_ifs <;> omega

/-! ### Creation (R103, R105) -/

section
variable {s u : State} {p lid da desc die counter arg h : Nat}

/-- What is kept of a new task of a launch that is no longer known. -/
def taskKept (lid desc counter arg : Nat) : Kept :=
  { word0 := counter % 2 ^ 32 * 2 ^ 32 + dPrio desc * 16, word1 := 0, desc := desc, arg := arg, lid := lid }

theorem taskKept_word0 (hcounter : counter < 2 ^ 32) : (taskKept lid desc counter arg).word0 = counter * 2 ^ 32 + dPrio desc * 16 := by
  rw [taskKept, Nat.mod_eq_of_lt hcounter]

/-- The directory entry of a new actor. -/
def newEntry (p gen da lid : Nat) : DirEnt := { part := p, gen := gen, loc := 1, desc := da, lid := lid }

/-- A task is created in a free entry of its die's directory, in which it takes the next generation. -/
theorem State.createActor_task (htask : dStream desc = false) (hlid : SMap.find? s.launches lid = none)
    (hnew : s.createActor p lid da desc die counter arg = some (h, u)) :
    ∃ i < 2 ^ 20, let gen := nextGen (SMap.get {} s.dirs (die * 2 ^ 20 + i)).gen
      h = mkHandle p die gen i ∧ u.dirs = SMap.put s.dirs (die * 2 ^ 20 + i) (newEntry p gen da lid)
        ∧ u.kept = SMap.put s.kept h (taskKept lid desc counter arg) := by
  simp only [State.createActor, hlid, htask, Bool.false_eq_true, if_false] at hnew
  obtain ⟨hroom, hmade⟩ := Option.ite_none_left_eq_some.mp hnew
  obtain ⟨rfl, rfl⟩ := Prod.mk.inj (Option.some.inj hmade)
  refine ⟨_, ?_, rfl, rfl, rfl⟩
  split_ifs at hroom <;> omega

theorem State.keep_of_put {k : Kept} (hcanon : canonHandle h = h) (hkept : u.kept = SMap.put s.kept h k) : u.keep h = k := by
  rw [State.keep, hcanon, hkept, SMap.get_put_self]

end

/-! ### The checks of SPAWN (R100, R422) -/

/-- The core on which SPAWN places a stream actor that has inputs, where there is one (R111). -/
def State.spawnTarget (s : State) (desc : Nat) : Option Nat :=
  if dStream desc && dNin desc != 0 then s.childCore s.ic (s.partOf s.ic s.ik) desc else none

/-- SPAWN checks the fit of a descriptor's span and workspace to a cellar core (R100). -/
def State.spawnCellar (s : State) (desc : Nat) : Bool :=
  match s.spawnTarget desc with
  | some x => isCellar x
  | none => if dClass desc = 2 then isCellar s.ic else dClass desc == 1

/-- SPAWN reads an aligned descriptor, none of whose pages is in flash or behind a DRAM that sleeps. -/
structure State.SpawnReads (s : State) (da desc : Nat) : Prop where
  aligned : da % 64 = 0
  inside : da < 2 ^ 56
  present : s.flashPage (s.partOf s.ic s.ik) [da] = none
  awake : s.anyShut (s.partOf s.ic s.ik) [da] = false
  read : s.partRead (s.partOf s.ic s.ik) da 64 = some desc
  tablesPresent : s.flashPage (s.partOf s.ic s.ik) ([dEntry desc, dPorts desc, dShapes desc, dPitch desc].filter fun x => x != 0) = none
  tablesAwake : s.anyShut (s.partOf s.ic s.ik) [dEntry desc, dPorts desc, dShapes desc, dPitch desc] = false

section
variable {s : State} {d : SReg} {da counter arg : Nat}

/-- The answer of a SPAWN that fails: an error, and 0. -/
def State.spawnFailed (s : State) (d : SReg) : State := (s.addError (s.lidOf s.ic s.ik)).putVar s.ic s.ik d 0 1

theorem State.spawnRes_misaligned (h : da % 64 ≠ 0 ∨ 2 ^ 56 ≤ da) : s.spawnRes d da counter arg = .ok (s.spawnFailed d) :=
  if_pos (by simpa using h)

section
variable {desc : Nat} (hreads : s.SpawnReads da desc)
include hreads

/-- SPAWN of a descriptor that it reads is decided by the checks. -/
theorem State.spawnRes_reads : s.spawnRes d da counter arg =
    if s.descBad (s.partOf s.ic s.ik) desc || !descFits desc (s.spawnCellar desc) || (dStream desc && counter != 0) then .ok (s.spawnFailed d)
    else
      match (s.readsMarked (s.partOf s.ic s.ik) (descReads da desc)).createActor (s.partOf s.ic s.ik) (s.lidOf s.ic s.ik) da desc (coreDie s.ic)
        counter arg with
      | none => .ok (s.spawnFailed d)
      | some (h, u) => .ok ((u.placeChild s.ic h desc counter (s.spawnTarget desc)).putVar s.ic s.ik d h 1) := by
  obtain ⟨haligned, hinside, hpresent, hawake, hread, htables, htablesAwake⟩ := hreads
  have hgood : ¬ (decide (da % 64 ≠ 0) || decide (2 ^ 56 ≤ da)) = true := by simp; omega
  simp only [State.spawnRes, if_neg hgood, hpresent, hawake, hread, htables, htablesAwake, Bool.false_eq_true, if_false]
  rfl

theorem State.spawnRes_refused
    (h : s.descBad (s.partOf s.ic s.ik) desc = true ∨ descFits desc (s.spawnCellar desc) = false ∨ (dStream desc = true ∧ counter ≠ 0)) :
    s.spawnRes d da counter arg = .ok (s.spawnFailed d) :=
  (State.spawnRes_reads hreads).trans (if_pos (by simpa [or_assoc] using h))

theorem State.spawnRes_creates {h : Nat} {u : State} (hsound : s.descBad (s.partOf s.ic s.ik) desc = false)
    (hfits : descFits desc (s.spawnCellar desc) = true) (hcounter : dStream desc = true → counter = 0)
    (hnew : (s.readsMarked (s.partOf s.ic s.ik) (descReads da desc)).createActor (s.partOf s.ic s.ik) (s.lidOf s.ic s.ik) da desc (coreDie s.ic)
      counter arg = some (h, u)) :
    s.spawnRes d da counter arg = .ok ((u.placeChild s.ic h desc counter (s.spawnTarget desc)).putVar s.ic s.ik d h 1) := by
  refine (State.spawnRes_reads hreads).trans ((if_neg (by simpa [hsound, hfits] using hcounter)).trans ?_)
  rw [hnew]

end

/-- SPAWN, whose signals nothing holds back, completes with its answer. -/
theorem exec_spawn {c : Ctl} {a b r : SReg} {u : State} (hc : s.clear c.pred [.scal a, .scal b, .scal r] [.scal d] = true)
    (hheld : s.signalHeld = false) (hres : s.spawnRes d (s.rs a) (s.rs b % 2 ^ 32) (s.rs r) = .ok u) :
    exec (.spawn c d a b r) s = .next (s.completes u c.stall [.scal a, .scal b, .scal r]) :=
  next_ok _ _ _ _ hc rfl ((State.signal_goes hheld _ _).trans hres)

end

end Sys2Proof.Machine

open Sys2Proof Sys2Proof.Machine

/-- Settles O29: SPAWN by what its checks make of the descriptor, and a new task by the directory entry that it takes. -/
theorem spawnCreatesAnActor : Obligations.SpawnCreatesAnActor := by
  unfold Obligations.SpawnCreatesAnActor
  refine ⟨fun c d a b r s hc hheld => ⟨fun hbad => exec_spawn hc hheld (State.spawnRes_misaligned hbad), ?reads⟩,
    fun p lid da desc die counter arg h s u hdie hp hgens htask hcounter hlid hnew => ?new⟩
  case reads =>
    intro desc h u haligned hinside hpresent hawake hread htables htablesAwake
    have hreads : s.SpawnReads (s.rs a) desc := ⟨haligned, hinside, hpresent, hawake, hread, htables, htablesAwake⟩
    exact ⟨fun hbad => exec_spawn hc hheld (State.spawnRes_refused hreads hbad),
      fun hsound hfits hcounter hnew => exec_spawn hc hheld (State.spawnRes_creates hreads hsound hfits hcounter hnew)⟩
  case new =>
    obtain ⟨i, hi, rfl, hdirs, hkept⟩ := State.createActor_task htask hlid hnew
    have hgen := nextGen_lt (SMap.get_of_forall (P := fun e : DirEnt => e.gen < 2 ^ 24) (d := {}) (by decide) hgens (die * 2 ^ 20 + i))
    have hcode : die < 8 := by omega
    rw [State.keep_of_put (canonHandle_mkHandle hgen hi hcode hp) hkept, handleKey_mkHandle hgen hi hcode, hdirs]
    exact ⟨rfl, rfl, rfl, taskKept_word0 hcounter, handleDie_mkHandle hgen hi hcode, handlePart_mkHandle hgen hi hcode hp, _,
      SMap.find?_put_self .., rfl, rfl, rfl⟩
end

section
/-! DECR, RETIRE, YIELD, PITCH and PORT (R57, R98, R101, R107, R108, R117, R423 to R425, R427, R429). -/
namespace Sys2Proof.Machine

/-! ### DECR, RETIRE and YIELD (R423 to R425) -/

section
variable {c : Ctl} {s : State}

section
variable {wait : Bool} {a : SReg} {b : SrcB} (hc : s.clear c.pred (.scal a :: SrcBReads b) [] = true)
include hc

theorem exec_decr_zero (hn : s.srcU b % 2 ^ 32 = 0) : exec (.decr c wait a b) s = .next (s.completes s c.stall (.scal a :: SrcBReads b)) :=
  next_ok _ _ _ _ hc rfl (if_pos hn)

section
variable (hn : s.srcU b % 2 ^ 32 ≠ 0) (hheld : s.signalHeld = false)
include hn hheld

theorem exec_decr_posts : exec (.decr c false a b) s
    = .next (s.completes (s.sendActor s.ic s.ik 0x28 (s.rs a) (s.srcU b % 2 ^ 32)) c.stall (.scal a :: SrcBReads b)) :=
  next_ok _ _ _ _ hc rfl ((if_neg hn).trans (State.signal_goes hheld _ _))

theorem exec_decr_waits : exec (.decr c true a b) s
    = .next (s.waits (s.sendActor s.ic s.ik 0x28 (s.rs a) (s.srcU b % 2 ^ 32)) c.stall (.scal a :: SrcBReads b)
      (.reply [{ id := s.nextMsg, off := 0, len := 0, nib := 0 }] 0 .none false [])) :=
  next_hold _ _ _ _ _ hc rfl ((if_neg hn).trans (State.signal_goes hheld _ _))

end

end

/-- RETIRE with its streams drained, no credit held back, and the port table within reach where its credits need it. -/
theorem exec_retire_ends {a : SReg} (hc : s.clear c.pred [.scal a] [] = true) (hdrained : ([0, 1, 2, 3].all fun i => s.slotDrained s.ic s.ik i) = true)
    {exit : Bool} (hexit : exit = (s.rs a != 0 || s.periodEnd (s.handleOf s.ic s.ik))) (hcredits : s.creditsHeld exit = false)
    (htable : exit = false → s.tableShut = false) :
    exec (.retire c a) s = .next (s.noted (([0, 1, 2, 3].foldl (fun t i => t.freeSlot s.ic s.ik i)
      ((s.leaving c.stall.toNat).drain s.ic s.ik)).retireCtx s.ic s.ik exit) [.scal a]) := by
  have hopen : ¬ (!exit && s.tableShut) = true := by simpa using htable
  refine next_gone _ _ _ _ hc rfl ?_
  simp only [← hexit, hdrained, hcredits, if_neg hopen, Bool.not_true, Bool.or_false, Bool.false_eq_true, if_false]

theorem exec_yield (hc : s.clear c.pred [] [] = true) : exec (.yield c) s = .next ((s.leaving c.stall.toNat).preemptCtx s.ic s.ik) :=
  next_gone _ _ _ _ hc rfl rfl

end

/-! ### PITCH (R57, R427) -/

/-- A level and a die that PITCH cannot name. -/
def pitchUnnamed (level : BitVec 2) (die : BitVec 3) : Bool :=
  level == 0 || (level == 2 && decide (3 < die.toNat)) || (level != 2 && die != 0)

theorem pitchUnnamed_iff {level : BitVec 2} {die : BitVec 3} :
    pitchUnnamed level die = true ↔ level = 0 ∨ (level = 2 ∧ 3 < die.toNat) ∨ (level ≠ 2 ∧ die ≠ 0) := by
  simp [pitchUnnamed, or_assoc]

section
variable {c : Ctl} {level : BitVec 2} {die : BitVec 3} {a : SReg} {s : State} (hc : s.clear c.pred [.scal a] [] = true)
include hc

theorem exec_pitch_unnamed (hbad : pitchUnnamed level die = true) :
    exec (.pitch c level die a) s = .next (s.traps [.scal a] .reservedCode s.issue.slot) :=
  next_check _ _ _ _ _ hc (if_pos hbad)

section
variable (hgood : ¬ pitchUnnamed level die = true)
include hgood

theorem exec_pitch_elsewhere (hout : s.rs a / 2 ^ 48 ≠ 0xFD ∧ s.rs a / 2 ^ 48 ≠ 0xFE) :
    exec (.pitch c level die a) s = .next (s.traps [.scal a] .prot (s.rs a)) :=
  next_trap _ _ _ _ _ hc (if_neg hgood) (if_pos hout)

theorem exec_pitch_raises (hin : s.rs a / 2 ^ 48 = 0xFD ∨ s.rs a / 2 ^ 48 = 0xFE) :
    exec (.pitch c level die a) s = .next (s.completes
      (s.addTrigger level.toNat die.toNat (toMesh s.ic (s.rs a)) (s.partOf s.ic s.ik)) c.stall [.scal a]) :=
  next_ok _ _ _ _ hc (if_neg hgood) (if_neg (by omega))

end

end

/-! ### Messages that a core sends at once (R125, R130) -/

section
variable {s : State}

theorem State.countFull_congr {t : State} (h : t.cores = s.cores) (c p : Nat) : t.countFull c p = s.countFull c p := by
  rw [State.countFull, State.countFull, State.core, State.core, h]

theorem State.replaying_congr {t : State} (h : t.cores = s.cores) (c : Nat) : t.replaying c = s.replaying c := by
  rw [State.replaying, State.replaying, State.core, State.core, h]

/-- A change of a core that leaves its fence and its log leaves what it replays. -/
theorem State.replaying_modCore {f : Core → Core} (hfenced : ∀ k, (f k).fenced = k.fenced) (hlog : ∀ k, (f k).log = k.log) (c d : Nat) :
    (s.modCore c f).replaying d = s.replaying d := by
  by_cases h : d = c
  · subst h; simp [State.replaying, hfenced, hlog]
  · simp [State.replaying, State.core_modCore_ne s f h]

/-- A message that its core does not replay joins those on their way. -/
theorem State.inject_net {m : Msg} (h : s.replaying (coreOfEp m.src) = false) :
    ∃ x ∈ (s.inject m).net, x.op = m.op ∧ x.taddr = m.taddr ∧ x.arg = m.arg ∧ x.src = m.src := by
  simp only [State.inject, h, Bool.and_false, Bool.false_and, Bool.false_eq_true, if_false]
  exact ⟨_, List.mem_append_right _ (List.mem_singleton_self _), rfl, rfl, rfl, rfl⟩

/-- A counted message for which the interface has room is on its way at once. -/
theorem State.sendCounted_net {c : Nat} {m : Msg} {o : Out} (hroom : s.countFull c m.part = false) (h : s.replaying (coreOfEp m.src) = false) :
    ∃ x ∈ (s.sendCounted c m o).net, x.op = m.op ∧ x.taddr = m.taddr ∧ x.arg = m.arg ∧ x.src = m.src := by
  simp only [State.sendCounted, hroom, Bool.and_false, Bool.false_eq_true, if_false]
  refine State.inject_net (m := { m with ack := true, id := s.nextMsg }) ?_
  refine (State.replaying_modCore ?_ ?_ _ _).trans h
  all_goals exact fun _ => rfl

theorem State.setRecWord_cores (h i v : Nat) : (s.setRecWord h i v).cores = s.cores := by
  unfold State.setRecWord
  split
  · rfl
  · split_ifs <;> rfl

theorem State.pitchCompare_net (c k port consumer off : Nat) : (s.pitchCompare c k port consumer off).net = s.net := by
  simp only [State.pitchCompare]
  split_ifs <;> rfl

end

/-! ### PORT (R101, R107, R429) -/

/-- The count that PORT is given. -/
def State.portCount (s : State) (cnt : PortArg) : Nat :=
  match cnt with
  | .reg r => s.rs r
  | .imm v => v.toNat

/-- Descriptor of the actor whose firing issues. -/
def State.ownDesc (s : State) : Nat := (s.keep (s.handleOf s.ic s.ik)).desc

/-- The port-table entry of an output port of the firing that issues. -/
def State.outEntry (s : State) (j : Nat) : Nat := s.portEntry (handlePart (s.handleOf s.ic s.ik)) s.ownDesc (dNin s.ownDesc + j)

/-- OUTSPC of an output port of the firing that issues (R105). -/
def State.outSpace (s : State) (j : Nat) : Nat := bits (s.recWord (s.handleOf s.ic s.ik) 1) (14 + 7 * j) (8 + 7 * j)

/-- The slot of the consumer's FIFO at which the next tokens of an output port begin, after `n` more. -/
def State.nextSlot (s : State) (j n : Nat) : Nat :=
  (SMap.get 0 (s.keep (s.handleOf s.ic s.ik)).pos (8 + j) + n) % max (peCap (s.outEntry j)) 1

/-- The state with the space of committed tokens taken. -/
def State.spaceTaken (s : State) (j n : Nat) : State :=
  s.setRecWord (s.handleOf s.ic s.ik) 1 (setBits (s.recWord (s.handleOf s.ic s.ik) 1) (14 + 7 * j) (8 + 7 * j) (s.outSpace j - n))

/-- The core that a mesh-window pointer names. -/
def ptrCore (v : Nat) : Nat := mkCore (bits v 42 40) (bits v 35 32) (bits v 39 36)

/-- The port-count advance for the consumer of committed tokens, in the state in which it is sent. -/
def State.advanceMsg (s u : State) (j n x : Nat) : Msg :=
  { u.accMsg s.ic s.ik 2 0x27 (epCore x) (pePeer (s.outEntry j)) with arg := pePort (s.outEntry j) * 2 ^ 56 + n, part := s.partOf s.ic s.ik }

/-- The state with the consumer told of committed tokens. -/
def State.consumerTold (s : State) (j n x : Nat) : State :=
  (s.spaceTaken j n).sendCounted s.ic (s.advanceMsg (s.spaceTaken j n) j n x)
    (Out.blank true (s.ctx s.ic s.ik).pc.toNat (pePeer (s.outEntry j)) 0)

/-- The state with tokens committed on an output port, on the core of its consumer. -/
def State.committed (s : State) (j n x : Nat) : State :=
  ((s.consumerTold j n x).pitchCompare s.ic s.ik j x
      (peFifo (s.outEntry j) + SMap.get 0 (s.keep (s.handleOf s.ic s.ik)).pos (8 + j) * peTsz (s.outEntry j))).modKept
    (s.handleOf s.ic s.ik) fun y => { y with pos := SMap.put y.pos (8 + j) (s.nextSlot j n) }

/-- The pointer to the slot of the consumer's FIFO after `n` more tokens. -/
def State.nextPtr (s : State) (j n v : Nat) : Nat :=
  v / 2 ^ 32 * 2 ^ 32 + (peFifo (s.outEntry j) + s.nextSlot j n * peTsz (s.outEntry j)) % 2 ^ 32

/-- The answer of PORT from a pointer, an output port and a count. -/
def State.portRes (s : State) (r : SReg) (j full : Nat) : Res :=
  if dNout s.ownDesc ≤ j then .trap .prot j
  else if s.tableShut then .retry s.askDram
  else if full % 2 ^ 7 = 0 then .ok s
  else if peCap (s.outEntry j) < full % 2 ^ 7 || 2 ^ 7 ≤ full then .trap .prot (full % 2 ^ 7)
  else if s.outSpace j < full % 2 ^ 7 || s.signalHeld then .retry s
  else .ok ((s.committed j (full % 2 ^ 7) (ptrCore (s.rs r))).putVar s.ic s.ik r (s.nextPtr j (full % 2 ^ 7) (s.rs r)) 1)

theorem exec_port (c : Ctl) (d : PReg) (port : BitVec 3) (cnt : PortArg) (s : State) :
    exec (.port c d port cnt) s = nextState (s.issueSlot c.stall.toNat c.pred (.scal (ptrSpec d) :: portReads cnt) [.scal (ptrSpec d)] noCheck
      fun t => t.portRes (ptrSpec d) port.toNat (t.portCount cnt)) := by
  cases cnt <;> rfl

section
variable {r : SReg} {j full : Nat} {s : State}

theorem State.portRes_none (hport : dNout s.ownDesc ≤ j) : s.portRes r j full = .trap .prot j := if_pos hport

section
variable (hport : j < dNout s.ownDesc) (htable : s.tableShut = false)
include hport htable

theorem State.portRes_zero (hzero : full % 2 ^ 7 = 0) : s.portRes r j full = .ok s := by
  simp only [State.portRes, Nat.not_le.mpr hport, htable, hzero, Bool.false_eq_true, if_false, if_true]

theorem State.portRes_tooMany (hcount : full % 2 ^ 7 ≠ 0) (hmany : peCap (s.outEntry j) < full % 2 ^ 7 ∨ 2 ^ 7 ≤ full) :
    s.portRes r j full = .trap .prot (full % 2 ^ 7) := by
  have hrefused : (decide (peCap (s.outEntry j) < full % 2 ^ 7) || decide (2 ^ 7 ≤ full)) = true := by simpa using hmany
  simp only [State.portRes, Nat.not_le.mpr hport, htable, hcount, hrefused, Bool.false_eq_true, if_false, if_true]

/-- PORT of a count that its FIFO can hold and has room for. -/
theorem State.portRes_commits (hcount : full ≠ 0) (hfew : full < 2 ^ 7) (hcap : full ≤ peCap (s.outEntry j)) (hspace : full ≤ s.outSpace j)
    (hheld : s.signalHeld = false) :
    s.portRes r j full = .ok ((s.committed j full (ptrCore (s.rs r))).putVar s.ic s.ik r (s.nextPtr j full (s.rs r)) 1) := by
  simp only [State.portRes, Nat.mod_eq_of_lt hfew, Nat.not_le.mpr hport, Nat.not_le.mpr hfew, Nat.not_lt.mpr hcap, Nat.not_lt.mpr hspace, htable,
    hcount, hheld, decide_false, Bool.or_false, Bool.false_eq_true, if_false]

end

/-! ### What a commitment leaves -/

theorem State.committed_pos (s : State) (j n x : Nat) :
    SMap.get 0 ((s.committed j n x).keep (s.handleOf s.ic s.ik)).pos (8 + j) = s.nextSlot j n := by
  rw [State.committed, State.keep_modKept, SMap.get_put_self]

/-- The advance for the consumer is on its way once the tokens are committed. -/
theorem State.committed_net (hroom : s.countFull s.ic (s.partOf s.ic s.ik) = false) (hlive : s.replaying (coreOfEp (epCore s.ic)) = false)
    (j n x : Nat) :
    ∃ m ∈ (s.committed j n x).net, m.op = 0x27 ∧ m.taddr = pePeer (s.outEntry j) ∧ m.arg = pePort (s.outEntry j) * 2 ^ 56 + n
      ∧ m.src = epCore s.ic := by
  have hcores : (s.spaceTaken j n).cores = s.cores := State.setRecWord_cores ..
  rw [State.committed, State.modKept_net, State.pitchCompare_net]
  exact State.sendCounted_net (m := s.advanceMsg (s.spaceTaken j n) j n x) ((State.countFull_congr hcores _ _).trans hroom)
    ((State.replaying_congr hcores _).trans hlive)

end

end Sys2Proof.Machine

open Sys2Proof Sys2Proof.Machine

/-- Settles O30: each instruction by the cases of its body, and PORT's advance by the network that a commitment leaves. -/
theorem firingsEndOrGoOn : Obligations.FiringsEndOrGoOn := by
  unfold Obligations.FiringsEndOrGoOn
  refine ⟨fun c wait a b s => ⟨fun hc => ⟨exec_decr_zero hc, fun hn hheld hpost => ?_, fun hn hheld hwait => ?_⟩,
      fun hc hdrained hcredits htable => exec_retire_ends hc hdrained rfl hcredits htable, exec_yield⟩,
    fun c level die a s hc => ?pitch, fun c d port cnt s => ?port⟩
  · subst hpost; exact exec_decr_posts hc hn hheld
  · subst hwait; exact exec_decr_waits hc hn hheld
  case pitch =>
    exact ⟨fun hbad => exec_pitch_unnamed hc (pitchUnnamed_iff.mpr hbad),
      fun hgood hlocal hmesh => exec_pitch_elsewhere hc (mt pitchUnnamed_iff.mp hgood) ⟨hlocal, hmesh⟩,
      fun hgood => exec_pitch_raises hc (mt pitchUnnamed_iff.mp hgood)⟩
  case port =>
    intro reg reads h desc j e full w space pos next v hc
    have hfull : full = s.portCount cnt := by cases cnt <;> rfl
    rw [hfull, exec_port]
    refine ⟨fun hport => next_trap _ _ _ _ _ hc rfl (State.portRes_none hport),
      fun hport htable hzero => next_ok _ _ _ _ hc rfl (State.portRes_zero hport htable hzero),
      fun hport htable hcount hmany => next_trap _ _ _ _ _ hc rfl (State.portRes_tooMany hport htable hcount hmany),
      fun hport htable hcount hfew hcap hspace hheld hroom hlive => ?_⟩
    have hres := State.portRes_commits (r := ptrSpec d) hport htable hcount hfew hcap hspace hheld
    exact ⟨_, next_ok _ _ _ _ hc rfl hres, State.committed_pos .., State.committed_net hroom hlive ..⟩
end

end

section
/-! The proofs of the statements on racking: COMPOSE, DECOMP and RACK, and the racking engine. -/

-- As above: the proofs are elaborated one after another. Every section variable below is named by the statements that use it, or included.
set_option deprecated.oldSectionVars true

section
/-! COMPOSE, DECOMP and RACK (R157, R158, R171, R243, R247, R426, R428). -/
namespace Sys2Proof.Machine

/-! ### COMPOSE and DECOMP (R243, R247, R426) -/

section
variable {c : Ctl} {d b : SReg} {code : BitVec 3} {s : State} (hc : s.clear c.pred [.scal b] [.scal d] = true)
include hc

theorem exec_compose_refused {st : Nat} (hst : s.composeStatus s.ic s.ik code.toNat = some st) :
    exec (.compose c d code b) s = .next (s.completes (s.later d st 1) c.stall [.scal b]) :=
  next_ok _ _ _ _ hc rfl (by simp only [hst]; rfl)

section
variable (hst : s.composeStatus s.ic s.ik code.toNat = none)
include hst

theorem exec_compose_forms (hready : (s.freeze s.ic s.ik code.toNat).composeReady s.ic s.ik code.toNat = true) :
    exec (.compose c d code b) s = .next (s.completes
      (((s.freeze s.ic s.ik code.toNat).composed s.ic s.ik code.toNat).putVar s.ic s.ik d 0 1) c.stall [.scal b]) :=
  next_ok _ _ _ _ hc rfl (by simp only [hst, hready, if_true])

section
variable (hbusy : (s.freeze s.ic s.ik code.toNat).composeReady s.ic s.ik code.toNat = false)
include hbusy

theorem exec_compose_gives_up (htimeout : s.rs b = 0) : exec (.compose c d code b) s
    = .next (s.completes (((s.freeze s.ic s.ik code.toNat).unfreeze s.ic s.ik).putVar s.ic s.ik d 1 1) c.stall [.scal b]) :=
  next_ok _ _ _ _ hc rfl (by simp only [hst, hbusy, htimeout, Bool.false_eq_true, if_false, if_true])

theorem exec_compose_waits (htimeout : s.rs b ≠ 0) : exec (.compose c d code b) s
    = .next (s.waits (s.freeze s.ic s.ik code.toNat) c.stall [.scal b] (.compose code.toNat (s.rs b) (s.cycle s.ic) d)) :=
  next_hold _ _ _ _ _ hc rfl (by simp only [hst, hbusy, htimeout, Bool.false_eq_true, if_false])

end

end

end

section
variable {c : Ctl} {s : State} (hc : s.clear c.pred [] [] = true)
include hc

theorem exec_decomp_alone (h : bit (s.csw s.ic s.ik) 3 = 0) : exec (.decomp c) s = .next (s.completes s c.stall []) :=
  next_ok _ _ _ _ hc rfl (if_pos h)

theorem exec_decomp_composed (h : bit (s.csw s.ic s.ik) 3 ≠ 0) : exec (.decomp c) s = .next (s.completes
    ((s.decompose s.ic s.ik).forceCsw s.ic s.ik (setBits ((s.decompose s.ic s.ik).csw s.ic s.ik) 6 4 0)) c.stall []) :=
  next_ok _ _ _ _ hc rfl (if_neg h)

end

/-! ### RACK (R157, R158, R171, R428) -/

/-- The die that RACK's operand names. -/
def State.rackTarget (s : State) (t : RackArg) : Nat := match t with | .imm v => v.toNat | .reg r => s.rs r % 8

/-- What RACK's body answers, without a host's command for the actor, once it has checked its request for a target, a cask and live registers. -/
def State.rackAnswer (s : State) (d : SReg) (tgt cask live : Nat) : Res :=
  let r := s.rackReason s.ic s.ik tgt cask live
  let u := s.readsMarked (s.partOf s.ic s.ik) (s.rackLines s.ic s.ik cask r)
  match r with
  | some reason => .ok ((u.putVar u.ic u.ik d (rackWord u.ic reason 7 false) 1).modCtx u.ic u.ik fun x => { x with start := none })
  | none => .hold { u with rackQueue := u.rackQueue ++ [{ handle := s.handleOf s.ic s.ik, part := u.partOf u.ic u.ik, core := u.ic, ctx := u.ik
                                                          target := tgt, cask := cask, live := live, d := d, cmd := none }] } (.rack d)

/-- RACK answers its checks where no host command names the actor, the DRAM serves what they read, and none of that is a page in flash. -/
theorem exec_rack {c : Ctl} {d a b : SReg} {t : RackArg} {s : State} (hc : s.clear c.pred ([.scal a, .scal b] ++ rackReads t) [.scal d] = true)
    (hown : (s.keep (s.handleOf s.ic s.ik)).target = none)
    (hdram : s.power.dram = 0 ∨ (s.rs a = 0 ∧ dNin (s.keep (s.handleOf s.ic s.ik)).desc = 0))
    (hpages : ∀ va ∈ s.rackLines s.ic s.ik (s.rs a) (s.rackReason s.ic s.ik (s.rackTarget t) (s.rs a) (s.rs b % 2 ^ 12)),
      ∀ leaf blk size base, s.leafFor (s.partOf s.ic s.ik) va .read true ≠ .flash leaf blk size base) :
    exec (.rack c d t a b) s = nextState (s.issueSlot c.stall.toNat c.pred ([.scal a, .scal b] ++ rackReads t) [.scal d] noCheck
      fun _ => s.rackAnswer d (s.rackTarget t) (s.rs a) (s.rs b % 2 ^ 12)) := by
  have hawake : ¬ (s.power.dram ≠ 0 && (s.rs a != 0 || dNin (s.keep (s.handleOf s.ic s.ik)).desc != 0)) = true := by
    obtain h | ⟨hcask, hports⟩ := hdram
    · simp [h]
    · simp [hcask, hports]
  refine congrArg nextState ((issueSlot_clear _ _ _ hc rfl).trans (Eq.trans (congrArg _ ?_) (issueSlot_clear _ _ _ hc rfl).symm))
  simp only [hown, if_neg hawake, Option.map_none, Option.isSome_none, Bool.false_eq_true, if_false]
  split
  · next hfound =>
    obtain ⟨va, hva, hleaf⟩ := List.exists_of_findSome?_eq_some hfound
    split at hleaf
    · next hflash => exact absurd hflash (hpages va hva _ _ _ _)
    · cases hleaf
  · rfl

section
variable {s : State} {tgt cask live : Nat} (d : SReg)

theorem State.rackAnswer_refused {reason : Nat} (hr : s.rackReason s.ic s.ik tgt cask live = some reason) :
    let u := s.readsMarked (s.partOf s.ic s.ik) (s.rackLines s.ic s.ik cask (s.rackReason s.ic s.ik tgt cask live))
    s.rackAnswer d tgt cask live
      = .ok ((u.putVar u.ic u.ik d (rackWord u.ic reason 7 false) 1).modCtx u.ic u.ik fun x => { x with start := none }) := by
  simp only [State.rackAnswer, hr]

theorem State.rackAnswer_queued (hr : s.rackReason s.ic s.ik tgt cask live = none) :
    let u := s.readsMarked (s.partOf s.ic s.ik) (s.rackLines s.ic s.ik cask (s.rackReason s.ic s.ik tgt cask live))
    s.rackAnswer d tgt cask live
      = .hold { u with rackQueue := u.rackQueue ++ [{ handle := s.handleOf s.ic s.ik, part := u.partOf u.ic u.ik, core := u.ic, ctx := u.ik
                                                      target := tgt, cask := cask, live := live, d := d, cmd := none }] } (.rack d) := by
  simp only [State.rackAnswer, hr]

end

end Sys2Proof.Machine
open Sys2Proof Sys2Proof.Machine

/-- Settles O31: COMPOSE and DECOMP by the cases of their bodies, RACK by what its checks answer. -/
theorem compositionAndRacking : Obligations.CompositionAndRacking := by
  unfold Obligations.CompositionAndRacking
  refine ⟨fun c d b code s hc => ⟨fun st => exec_compose_refused hc, exec_compose_forms hc, exec_compose_gives_up hc, exec_compose_waits hc⟩,
    fun c s hc => ⟨exec_decomp_alone hc, exec_decomp_composed hc⟩, ?rack⟩
  case rack =>
    intro c d a b t s hown hc tgt live reads hdram r lines u hpages
    have hexec := exec_rack hc hown hdram hpages
    exact ⟨fun reason hr => hexec.trans (next_ok _ _ _ _ hc rfl (State.rackAnswer_refused d hr)),
      fun hr => hexec.trans (next_hold _ _ _ _ _ hc rfl (State.rackAnswer_queued d hr))⟩
end

section
/-! The racking engine (R157 to R170). -/
namespace Sys2Proof.Machine

section
variable {m : Move} {rest : List Move} {s : State} (hq : s.rackQueue = m :: rest)
include hq

/-! ### The engine's present move (R166) -/

theorem State.moveIn_head {n : Nat} (hst : m.st = n) : s.moveIn n = some m := by
  simp only [State.moveIn, hq, hst, if_true]

theorem State.setMove_head (x : Move) : s.setMove x = { s with rackQueue := x :: rest } := by
  simp only [State.setMove, hq, List.drop_one, List.tail_cons]

/-! ### DRAIN and CAPTURE (R166) -/

section
variable (hst : m.st = 1)
include hst

/-- A saved firing stays in the queue until it is dispatched again, which is the model's choice (log 85). -/
theorem exec_rackDrain_saved {h : Nat} (hparty : s.rackParty m.handle = some (.saved h)) : exec .rackDrain s = .next s := by
  have hnone : s.drainMove = none := by simp only [State.drainMove, State.moveIn_head hq hst, hparty]
  show execRackDrain s = _
  simp only [execRackDrain, hnone, nextState]

section
variable {c k : Nat} (hparty : s.rackParty m.handle = some (.ctx c k))
include hparty

theorem State.drainMove_ctx : s.drainMove = some { m with core := c, ctx := k } := by
  simp only [State.drainMove, State.moveIn_head hq hst, hparty]

theorem exec_rackDrain_abandons (hnacks : (s.ctx c k).nacks ≠ []) :
    exec .rackDrain s = .next { s with rackQueue := { m with core := c, ctx := k, st := 6, reason := 14 } :: rest } := by
  show execRackDrain s = _
  simp only [execRackDrain, State.drainMove_ctx hq hst hparty, List.isEmpty_eq_false_iff.mpr hnacks, Bool.not_false, if_true,
    State.setMove_head hq, nextState]

section
variable (hnacks : (s.ctx c k).nacks = [])
include hnacks

theorem exec_rackDrain_waits (hbusy : s.rackDrained { m with core := c, ctx := k } = false) : exec .rackDrain s = .next s := by
  show execRackDrain s = _
  simp only [execRackDrain, State.drainMove_ctx hq hst hparty, hnacks, hbusy, List.isEmpty_nil, Bool.not_true, Bool.not_false,
    Bool.false_eq_true, if_false, if_true, nextState]

theorem exec_rackDrain_captures {line : Nat} (hdone : s.rackDrained { m with core := c, ctx := k } = true) (harea : s.rackArea m.part = some line) :
    exec .rackDrain s = .next (if s.dramShut (line * 64) then s.askDram else s.capture { m with core := c, ctx := k } line) := by
  show execRackDrain s = _
  simp only [execRackDrain, State.drainMove_ctx hq hst hparty, hnacks, hdone, harea, List.isEmpty_nil, Bool.not_true,
    Bool.false_eq_true, if_false, nextState]

end

end

end

/-! ### CASK and WAKE (R166, R170) -/

section
variable (hst : m.st = 2)
include hst

theorem exec_rackCask_none (hcask : m.cask = 0) : exec .rackCask s = .next { s with rackQueue := { m with st := 3 } :: rest } := by
  show execRackCask s = _
  simp only [execRackCask, State.moveIn_head hq hst, hcask, if_true, State.setMove_head hq, nextState]

theorem exec_rackCask_moves {d : Nat} {t : State} {l : List (Nat × Nat × Nat)} (hcask : m.cask ≠ 0) (hread : s.partRead m.part m.cask 64 = some d)
    (hdram : s.power.dram = 0) (hpresent : s.svcWait 7 m.part (s.caskLines m) = none)
    (hmoved : (s.readsMarked m.part [m.cask]).caskPages m.part d m.target (bits (kWord d 1) 31 0) 0 [] = (t, l, false)) :
    exec .rackCask s = .next ((t.tlbDrop m.part fun e => decide (e.va < bits (kWord d 0) 55 0 + bits (kWord d 1) 31 0 * 4096)
      && decide (bits (kWord d 0) 55 0 < e.va + e.size)).setMove { m with st := 3, rewrites := l }) := by
  show execRackCask s = _
  simp only [execRackCask, State.moveIn_head hq hst, hcask, hread, hdram, hpresent, hmoved, ne_eq, not_true_eq_false,
    Bool.false_eq_true, if_false, nextState]

end

section
variable (hst : m.st = 3)
include hst

theorem exec_rackWake_awake (hawake : s.dieAwake m.target = true) : exec .rackWake s = .next { s with rackQueue := { m with st := 4 } :: rest } := by
  show execRackWake s = _
  simp only [execRackWake, State.moveIn_head hq hst, hawake, if_true, State.setMove_head hq, nextState]

theorem exec_rackWake_asleep (hasleep : s.dieAwake m.target = false) : exec .rackWake s = .next ((s.wakeFor m.target).getD s) := by
  show execRackWake s = _
  simp only [execRackWake, State.moveIn_head hq hst, hasleep, Bool.false_eq_true, if_false, nextState]

end

/-! ### INSTALL (R167 to R169) -/

section
variable (hst : m.st = 4)
include hst

theorem exec_rackInstall_noCore (hchoice : s.rackChoice m = []) : exec .rackInstall s = .next s := by
  show execRackInstall s = _
  simp -zeta only [execRackInstall, State.moveIn_head hq hst, hchoice, List.findSome?_nil]
  cases s.rackArea m.part <;> rfl

section
variable {line c : Nat} {t : State} (harea : s.rackArea m.part = some line)
  (hchoice : (s.rackChoice m).findSome? (fun c => (s.rehome m.handle c).map fun t => (c, t)) = some (c, t)) (hawake : s.dramShut (line * 64) = false)
include harea hchoice hawake

theorem exec_rackInstall_unreadable (hreason : m.reason = 0)
    (hbad : s.linesBad line (imageOffs (dWsize (s.keep m.handle).desc) (dSpan (s.keep m.handle).desc)).2.2 = true) :
    exec .rackInstall s = .next (s.rackFault m) := by
  show execRackInstall s = _
  simp -zeta only [execRackInstall, nextState, State.moveIn_head hq hst, harea, hchoice, hawake, hreason, hbad, decide_true,
    Bool.and_true, Bool.false_eq_true, if_false, if_true]

end

end

end

/-- An abandoned or finished move of a waiting firing, for which no host command waits, writes its result and lets the firing go on (R158, R159). -/
theorem State.rackResult_waiting {s : State} {m : Move} {p : Party} {w : WaitRec} (hcmd : m.cmd = none) (hparty : s.rackParty m.handle = some p)
    (hwait : s.waitOf p = some w) (status word : Nat) :
    s.rackResult m status word = s.finishParty p w (some { dst := .scal m.d, mask := ones64, val := word, due := 0, fixed := false }) := by
  simp only [State.rackResult, State.endRackCmd, hcmd, hparty, hwait]

theorem exec_rackDone_resumes {s : State} {m : Move} {rest : List Move} {c k : Nat} {w : WaitRec} (hq : s.rackQueue = m :: rest) (hst : m.st = 6)
    (hcmd : m.cmd = none) (hparty : s.rackParty m.handle = some (.ctx c k)) (hwait : s.waitOf (.ctx c k) = some w) :
    exec .rackDone s = .next (((s.finishParty (.ctx c k) w (some { dst := .scal m.d, mask := ones64, val := rackWord m.core m.reason 7 false
                                                                   due := 0, fixed := false })).endMove).modCtx c k fun x =>
      { x with preempt := if m.preempt then 2 else x.preempt, start := none }) := by
  show execRackDone s = _
  simp only [execRackDone, State.moveIn_head hq hst, hparty, State.rackResult_waiting hcmd hparty hwait, nextState]

end Sys2Proof.Machine
open Sys2Proof Sys2Proof.Machine

/-- Settles O49, by the cases of each of the engine's events for its present move. The installed state is the statement's own, so that once the guards of
INSTALL are decided and the image's offsets are written out, the two are the same. -/
theorem rackingMovesAFiring : Obligations.RackingMovesAFiring := by
  unfold Obligations.RackingMovesAFiring
  intro m rest s hq put
  refine ⟨fun h hst => exec_rackDrain_saved hq hst,
    fun c k hst hparty => ⟨exec_rackDrain_abandons hq hst hparty, exec_rackDrain_waits hq hst hparty,
      fun line hnacks => exec_rackDrain_captures hq hst hparty hnacks⟩,
    exec_rackCask_none hq, fun d t l hst => exec_rackCask_moves hq hst, exec_rackWake_awake hq, exec_rackWake_asleep hq, exec_rackInstall_noCore hq,
    fun line c t hst harea hchoice hawake => ⟨exec_rackInstall_unreadable hq hst harea hchoice hawake, fun hsound => ?install⟩,
    fun c k w hst hparty hwait hcmd => exec_rackDone_resumes hq hst hcmd hparty hwait⟩
  case install =>
    have hgo : ¬ (m.reason = 0 && s.linesBad line (imageOffs (dWsize (s.keep m.handle).desc) (dSpan (s.keep m.handle).desc)).2.2) = true := by
      simpa using hsound
    intros
    show execRackInstall s = _
    simp -zeta only [execRackInstall, State.moveIn_head hq hst, harea, hchoice, hawake, if_neg hgo, Bool.false_eq_true, if_false]
    simp -zeta only [imageOffs]
    rfl
end

end

section
/-! The proofs of the statements on consistency: prefetches, fences, barriers, and the ends of waits. -/

-- As above: the proofs are elaborated one after another. Every section variable below is named by the statements that use it, or included.
set_option deprecated.oldSectionVars true

section
/-! PREF and FENCE (R217, R222, R334, R337). -/
namespace Sys2Proof.Machine

/-! ### Addresses before their accesses (R325) -/

section
variable {s : State} {ea : State → Nat ⊕ Nat}

/-- A sum beyond the address space passes the check of the control window. -/
theorem ctlCheck_beyond {v : Nat} (he : ea s = .inr v) : ctlCheck ea s = none := by simp only [ctlCheck, he]

theorem ctlCheck_outside {va : Nat} (he : ea s = .inl va) (hout : va / 2 ^ 48 ≠ 0xFF) : ctlCheck ea s = none := by
  simp [-Nat.reducePow, ctlCheck, he, hout]

theorem ctlCheck_priv {va : Nat} (he : ea s = .inl va) (hin : va / 2 ^ 48 = 0xFF) (huser : s.priv s.ic s.ik = false) :
    ctlCheck ea s = some (.priv, va) := by
  rw [State.ic, State.ik] at huser
  simp [-Nat.reducePow, ctlCheck, he, hin, huser]

end

/-! ### PREF (R334) -/

/-- A message sent from a core leaves memory. -/
theorem State.sendCounted_mem (s : State) (c : Nat) (m : Msg) (o : Out) : (s.sendCounted c m o).mem = s.mem := by
  unfold State.sendCounted
  extract_lets
  split <;> rfl

/-- A message sent from a core leaves its contexts. -/
theorem State.sendCounted_ctxs (s : State) (c : Nat) (m : Msg) (o : Out) : (s.sendCounted c m o).ctxs = s.ctxs := by
  unfold State.sendCounted
  extract_lets
  split <;> rfl

/-- A prefetch asks for a line by one message, or is dropped. -/
theorem State.prefetch_cases (s : State) (c k va : Nat) (die : Bool) :
    s.prefetch c k va die = s ∨ ∃ m o, s.prefetch c k va die = s.sendCounted c m o := by
  unfold State.prefetch
  split
  · exact .inl rfl
  · split
    · split
      · exact .inr ⟨_, _, rfl⟩
      · exact .inl rfl
    all_goals exact .inl rfl

/-- A prefetch has no architectural effect. -/
theorem State.prefetch_keeps (s : State) (c k va : Nat) (die : Bool) :
    (s.prefetch c k va die).mem = s.mem ∧ (s.prefetch c k va die).ctxs = s.ctxs := by
  obtain h | ⟨m, o, h⟩ := s.prefetch_cases c k va die
  · simp only [h, and_self]
  · simp only [h, State.sendCounted_mem, State.sendCounted_ctxs, and_self]

/-- A prefetch in one of the windows is dropped. -/
theorem State.prefetch_window {s : State} {c k va : Nat} {die : Bool} (hwin : 0xFD ≤ va / 2 ^ 48) : s.prefetch c k va die = s := if_pos hwin

section
variable {c : Ctl} {die : Bool} {a b : SReg} {disp : BitVec 48} {s : State} (hc : s.clear c.pred [.scal a, .scal b] [] = true)
include hc

theorem exec_pref_beyond {v : Nat} (hea : s.ea a b disp = .inr v) :
    exec (.pref c die a b disp) s = .next (s.completes s c.stall [.scal a, .scal b]) :=
  next_ok _ _ _ _ hc (ctlCheck_beyond hea) (by simp only [hea])

theorem exec_pref_asks {va : Nat} (hea : s.ea a b disp = .inl va) (hout : va / 2 ^ 48 ≠ 0xFF) :
    exec (.pref c die a b disp) s = .next (s.completes (s.prefetch s.ic s.ik va die) c.stall [.scal a, .scal b]) :=
  next_ok _ _ _ _ hc (ctlCheck_outside hea hout) (by simp only [hea])

theorem exec_pref_window {va : Nat} (hea : s.ea a b disp = .inl va) (hwin : va / 2 ^ 48 = 0xFD ∨ va / 2 ^ 48 = 0xFE) :
    exec (.pref c die a b disp) s = .next (s.completes s c.stall [.scal a, .scal b]) := by
  rw [exec_pref_asks hc hea (by omega), State.prefetch_window (by omega)]

theorem exec_pref_priv {va : Nat} (hea : s.ea a b disp = .inl va) (hin : va / 2 ^ 48 = 0xFF) (huser : s.priv s.ic s.ik = false) :
    exec (.pref c die a b disp) s = .next (s.traps [.scal a, .scal b] .priv va) :=
  next_check _ _ _ _ _ hc (ctlCheck_priv hea hin huser)

end

/-! ### FENCE (R222, R337) -/

/-- What FENCE's body answers at a scope. -/
def State.fenceRes (s : State) (n : Nat) : Res :=
  if s.fenceDone s.ic s.ik n then .ok (s.fenceEnd s.ic n) else .hold (s.fenceAsk n) (.fence n)

theorem exec_fence (c : Ctl) (scope : Scope) (s : State) :
    exec (.fence c scope) s = nextState (s.issueSlot c.stall.toNat c.pred [] [] noCheck fun t => t.fenceRes scope.code.toNat) := by
  cases scope <;> rfl

/-- Only the SYS scope has the code 3 (R222). -/
theorem scopeCode_eq_three_iff {scope : Scope} : scope.code.toNat = 3 ↔ scope = .sys := by cases scope <;> decide

theorem State.fenceEnd_inside {s : State} {c n : Nat} (hn : n ≠ 3) : s.fenceEnd c n = s.acquire c := by rw [State.fenceEnd, if_neg hn]

section
variable {c : Ctl} (scope : Scope) {s : State} (hc : s.clear c.pred [] [] = true)
include hc

theorem exec_fence_done (hdone : s.fenceDone s.ic s.ik scope.code.toNat = true) :
    exec (.fence c scope) s = .next (s.completes (s.fenceEnd s.ic scope.code.toNat) c.stall []) :=
  (exec_fence c scope s).trans (next_ok _ _ _ _ hc rfl (if_pos hdone))

theorem exec_fence_done_inside (hdone : s.fenceDone s.ic s.ik scope.code.toNat = true) (hscope : scope ≠ .sys) :
    exec (.fence c scope) s = .next (s.completes (s.acquire s.ic) c.stall []) := by
  rw [exec_fence_done scope hc hdone, State.fenceEnd_inside (mt scopeCode_eq_three_iff.mp hscope)]

theorem exec_fence_done_sys (hdone : s.fenceDone s.ic s.ik scope.code.toNat = true) (hscope : scope = .sys) :
    exec (.fence c scope) s = .next (s.completes (s.sysRelease.acquire s.ic) c.stall []) := by
  rw [exec_fence_done scope hc hdone, hscope]
  rfl

theorem exec_fence_waits (hbusy : s.fenceDone s.ic s.ik scope.code.toNat = false) :
    exec (.fence c scope) s = .next (s.waits (s.fenceAsk scope.code.toNat) c.stall [] (.fence scope.code.toNat)) :=
  (exec_fence c scope s).trans (next_hold _ _ _ _ _ hc rfl (if_neg (ne_true_of_eq_false hbusy)))

end

end Sys2Proof.Machine

open Sys2Proof Sys2Proof.Machine

/-- Settles O15: PREF by where its address lies, FENCE by whether its conditions hold, at each scope by its code. -/
theorem prefetchAndFence : Obligations.PrefetchAndFence := by
  unfold Obligations.PrefetchAndFence
  refine ⟨fun c die a b disp s hc => ⟨fun v => exec_pref_beyond hc, fun va => exec_pref_window hc, fun va => exec_pref_priv hc, fun va hea hlow =>
    ⟨exec_pref_asks hc hea (by omega), s.prefetch_keeps s.ic s.ik va die⟩⟩, fun c scope s hc => ?fence⟩
  case fence =>
    have hcases := And.intro (exec_fence_done_inside scope hc) (And.intro (exec_fence_done_sys scope hc) (exec_fence_waits scope hc))
    cases scope <;> exact hcases
end

section
/-! WAITD, WAITW, and the instructions and messages on barriers (R122, R217, R342 to R347). -/
namespace Sys2Proof.Machine

/-! ### WAITD and WAITW (R342, R343) -/

section
variable {c : Ctl} {d r : SReg} {b : SrcB} {s : State} (hc : s.clear c.pred (.scal r :: SrcBReads b) [.scal d] = true)
include hc

theorem exec_waitd_empty (hmask : s.srcU b = 0) :
    exec (.waitd c d b r) s = .next (s.completes ((s.acquire s.ic).putVar s.ic s.ik d 0 1) c.stall (.scal r :: SrcBReads b)) :=
  next_ok _ _ _ _ hc rfl (if_pos hmask)

section
variable (hmask : s.srcU b ≠ 0)
include hmask

theorem exec_waitd_takes (hflag : s.depmask s.ic s.ik &&& s.srcU b ≠ 0) :
    exec (.waitd c d b r) s = .next (s.completes
      (((s.takeFlags s.ic s.ik (s.srcU b)).2.acquire s.ic).putVar s.ic s.ik d (s.depmask s.ic s.ik &&& s.srcU b) 1) c.stall
      (.scal r :: SrcBReads b)) :=
  next_ok _ _ _ _ hc rfl ((if_neg hmask).trans (if_pos hflag))

theorem exec_waitd_waits (hnone : s.depmask s.ic s.ik &&& s.srcU b = 0) :
    exec (.waitd c d b r) s
      = .next (s.waits s c.stall (.scal r :: SrcBReads b) (.waitd (s.srcU b) (s.rs r) (s.cycle s.ic) d)) :=
  next_hold _ _ _ _ _ hc rfl ((if_neg hmask).trans (if_neg (not_not.mpr hnone)))

end

end

/-- WAITW at a watermark that is past its operand or no longer active (R343). -/
theorem exec_waitw_reads {c : Ctl} {d b : SReg} {ch : BitVec 4} {s : State} (hc : s.clear c.pred [.scal b] [.scal d] = true)
    (hready : (s.markOf s.ic ch.toNat).act = false ∨ s.rs b % 2 ^ 20 < (s.markOf s.ic ch.toNat).wm) :
    let m := s.markOf s.ic ch.toNat
    exec (.waitw c d b ch) s = .next (s.completes
      (s.later d (m.wm % 2 ^ 20 + if m.act = false ∧ m.wm < m.hi then 2 ^ 63 else 0) 1) c.stall [.scal b]) := by
  intro m
  have hpast : ¬(m.act && decide (m.wm ≤ s.rs b % 2 ^ 20)) = true := by
    simp only [Bool.and_eq_true, decide_eq_true_eq, not_and, Nat.not_le]
    exact fun hact => hready.resolve_left (ne_false_of_eq_true hact)
  refine next_ok _ _ _ _ hc rfl ((if_neg hpast).trans ?_)
  simp only [State.later, Bool.and_eq_true, Bool.not_eq_true', decide_eq_true_eq, m]

/-! ### Barrier instructions (R344 to R347) -/

/-- Registers that the count of BINIT reads. -/
def binitReads (cnt : BinitArg) : List Dest := match cnt with | .reg r => [.scal r] | .imm _ => [] | .group _ => []

section
variable {s : State} {a : SReg} {p : BarPlace} (hp : s.barLocate s.ic s.ik (s.ea a 0 0) = .at_ p s)
include hp

/-- A barrier that is found is at no address for which its context needs privilege (R325, R344). -/
theorem ctlCheck_barrier : ctlCheck (fun t => t.ea a 0 0) s = none := by
  cases hea : s.ea a 0 0 with
  | inr v => exact ctlCheck_beyond hea
  | inl va =>
    simp only [ctlCheck, hea]
    refine if_neg fun hpriv => ?_
    have htrap : s.locate s.ic s.ik (.inl va) 32 32 .atomic = .trap .priv va := if_pos hpriv
    simp only [State.barLocate, hea, htrap, reduceCtorEq] at hp

theorem State.barRes_found (f : State → BarPlace → Res) : s.barRes a f = f s p := by simp only [State.barRes, hp]

/-- BARR goes on with its arrival kept aside while its release waits (R223, R346, log 80). -/
theorem exec_barr_unreleased {c : Ctl} {b : SrcB} (hc : s.clear c.pred (.scal a :: SrcBReads b) [.scal 0] = true)
    (hstores : s.released s.ic s.ik = false) :
    exec (.barr c 0 a b) s
      = .next (s.completes (s.arriveLater s.ic s.ik p (s.srcU b % 2 ^ 32)) c.stall (.scal a :: SrcBReads b)) :=
  next_ok _ _ _ _ hc (ctlCheck_barrier hp) ((State.barRes_found hp _).trans (by simp only [hstores, Bool.not_false, if_true]))

section
variable {c : Ctl} {d : SReg} {b : SrcB} (hc : s.clear c.pred (.scal a :: SrcBReads b) [.scal d] = true) (hstores : s.released s.ic s.ik = true)
include hc hstores

theorem exec_barr_posts (hd : d = 0) :
    exec (.barr c d a b) s
      = .next (s.completes (s.barPost s.ic s.ik p 1 (s.srcU b % 2 ^ 32)) c.stall (.scal a :: SrcBReads b)) :=
  next_ok _ _ _ _ hc (ctlCheck_barrier hp)
    ((State.barRes_found hp _).trans (by simp only [hstores, hd, Bool.not_true, Bool.false_eq_true, if_false, if_true]; rfl))

theorem exec_barr_waits (hd : d ≠ 0) :
    exec (.barr c d a b) s = .next (s.waits (s.barPost s.ic s.ik p 1 (s.srcU b % 2 ^ 32)) c.stall (.scal a :: SrcBReads b)
      (.reply [{ id := s.nextMsg, off := 0, len := 4, nib := 0 }] 0 (.scal d .u32) false [])) :=
  next_hold _ _ _ _ _ hc (ctlCheck_barrier hp)
    ((State.barRes_found hp _).trans (by simp only [hstores, hd, Bool.not_true, Bool.false_eq_true, if_false]; rfl))

end

section
variable (hheld : s.barHeld p = false)
include hheld

theorem exec_binit_posts {c : Ctl} {cnt : BinitArg} {n : Nat} (hcount : s.binitCount cnt = some n)
    (hc : s.clear c.pred (.scal a :: binitReads cnt) [] = true) :
    exec (.binit c a cnt) s = .next (s.completes (s.barPost s.ic s.ik p 3 n) c.stall (.scal a :: binitReads cnt)) :=
  next_ok _ _ _ _ hc (ctlCheck_barrier hp)
    ((State.barRes_found hp _).trans (by simp only [hcount, hheld, Bool.false_eq_true, if_false]))

theorem exec_expect_posts {c : Ctl} {b : SrcB} (hc : s.clear c.pred (.scal a :: SrcBReads b) [] = true) :
    exec (.expect c a b) s
      = .next (s.completes (s.barPost s.ic s.ik p 2 (s.srcU b % 2 ^ 32)) c.stall (.scal a :: SrcBReads b)) :=
  next_ok _ _ _ _ hc (ctlCheck_barrier hp) ((State.barRes_found hp _).trans (if_neg (ne_true_of_eq_false hheld)))

theorem exec_bwait_waits {c : Ctl} {chk : Bool} {d b : SReg} (hc : s.clear c.pred [.scal a, .scal b] [.scal d] = true) :
    exec (.bwait c chk d a b) s = .next (s.waits (s.barPost s.ic s.ik p 4 (s.rs b % 2 ^ 32)) c.stall [.scal a, .scal b]
      (.bwait s.nextMsg chk (s.rs b % 2 ^ 32) d)) :=
  next_hold _ _ _ _ _ hc (ctlCheck_barrier hp) ((State.barRes_found hp _).trans (if_neg (ne_true_of_eq_false hheld)))

end

end

/-! ### Numbers made of 32-bit fields -/

/-- A number with 32 bits put below it. -/
def onTop (a t : Nat) : Nat := a + t * 2 ^ 32

section
variable {a : Nat} (ha : a < 2 ^ 32) (t : Nat)
include ha

theorem bits_onTop_low : bits (onTop a t) 31 0 = a := by
  rw [bits, onTop, pow_zero, Nat.div_one, Nat.add_mul_mod_self_right, Nat.mod_eq_of_lt ha]

theorem bits_onTop (hi lo : Nat) : bits (onTop a t) (hi + 32) (lo + 32) = bits t hi lo := by
  have hdiv : (a + t * 2 ^ 32) / 2 ^ 32 = t := by rw [Nat.add_mul_div_right _ _ (by decide), Nat.div_eq_of_lt ha, Nat.zero_add]
  rw [bits, bits, onTop, Nat.add_comm lo, pow_add, ← Nat.div_div_eq_div_mul, hdiv, Nat.add_right_comm, Nat.add_comm 32, Nat.add_sub_add_right]

theorem setBits_onTop_low {v : Nat} (hv : v < 2 ^ 32) : setBits (onTop a t) 31 0 v = onTop v t := by
  rw [setBits, bits_onTop_low ha, onTop, pow_zero, Nat.mul_one, Nat.mul_one, Nat.add_sub_cancel_left, Nat.mod_eq_of_lt hv, Nat.add_comm, onTop]

theorem setBits_onTop (hi lo v : Nat) : setBits (onTop a t) (hi + 32) (lo + 32) v = onTop a (setBits t hi lo v) := by
  have hle : bits t hi lo * 2 ^ lo ≤ t := (Nat.mul_le_mul_right _ (Nat.mod_le _ _)).trans (Nat.div_mul_le_self _ _)
  have hwidth : hi + 32 + 1 - (lo + 32) = hi + 1 - lo := by rw [Nat.add_right_comm, Nat.add_sub_add_right]
  rw [setBits, bits_onTop ha, hwidth, setBits, onTop, onTop, pow_add, ← Nat.mul_assoc, ← Nat.mul_assoc, Nat.add_sub_assoc (Nat.mul_le_mul_right _ hle),
    ← Nat.sub_mul, Nat.add_assoc, ← Nat.add_mul]

end

/-! ### The message for a barrier of the own scratchpad (R122, R344, log 80) -/

/-- A core's endpoint is its own (R25). -/
theorem epCore_core {c : Nat} (hc : c ∈ allCores) : epIsCore (epCore c) = true ∧ coreOfEp (epCore c) = c := by
  revert c
  decide +kernel

theorem barArg_eq (op k n : Nat) : barArg op k n = onTop (n % 2 ^ 32) (op * 2 ^ 28 + k * 2 ^ 24) := by
  rw [onTop, barArg, Nat.add_mul, Nat.mul_assoc, Nat.mul_assoc, ← pow_add, ← pow_add, Nat.add_comm]

theorem barArg_count {op k n : Nat} (hn : n < 2 ^ 32) : bits (barArg op k n) 31 0 = n := by
  rw [barArg_eq, Nat.mod_eq_of_lt hn, bits_onTop_low hn]

theorem barArg_op {op k n : Nat} (hop : op < 16) (hk : k < 16) : bits (barArg op k n) 63 60 = op := by
  have hlow : k * 2 ^ 24 < 2 ^ 28 := by omega
  rw [barArg_eq, bits_onTop (Nat.mod_lt _ (by decide)) _ 31 28, bits, Nat.add_comm, Nat.add_mul_div_right _ _ (by decide), Nat.div_eq_of_lt hlow,
    Nat.zero_add]
  exact Nat.mod_eq_of_lt hop

theorem meshAddress_offset {c off : Nat} (hoff : off < 2 ^ 20) : (meshBase + meshPtr c off) % 2 ^ 32 = off := by
  unfold meshBase meshPtr; omega

/-- The message of a barrier operation that a thread performs at its own core's interface, as it is sent. -/
def State.ownBarMsg (s : State) (c k off op n : Nat) : Msg := { (s.barOut c k (.own off) (barArg op k n)).1 with ack := true, id := s.nextMsg }

theorem State.barOfMsg_own {s : State} {c k off op n : Nat} (hc : c ∈ allCores) (hoff : off < 2 ^ 20) :
    State.barOfMsg (s.ownBarMsg c k off op n) = .spad c (s.core c).active off := by
  obtain ⟨hep, hcore⟩ := epCore_core hc
  show (if epIsCore (epCore c) then BarLoc.spad (coreOfEp (epCore c)) (s.core c).active ((meshBase + meshPtr c off) % 2 ^ 32) else _) = _
  rw [hep, hcore, meshAddress_offset hoff, if_pos rfl]

section
variable {m : Msg} {n : Nat} (hcount : bits m.arg 31 0 = n)
include hcount

theorem barOpOf_arrive (hcode : bits m.arg 63 60 = 1) : barOpOf m = .arrive n := by simp [barOpOf, hcode, hcount]

theorem barOpOf_expect (hcode : bits m.arg 63 60 = 2) : barOpOf m = .expect n := by simp [barOpOf, hcode, hcount]

theorem barOpOf_init (hcode : bits m.arg 63 60 = 3) : barOpOf m = .init n := by simp [barOpOf, hcode, hcount]

end

section
variable {u : State} {m : Msg} {c p off : Nat} (hbar : State.barOfMsg m = .spad c p off) (hsound : u.wordsBad (spadKey c p off) 32 = false)
include hbar hsound

/-- An operation on a barrier in a scratchpad is performed at once, and answered with the generation before it (R122). -/
theorem State.barMsg_performs {o : BarOp} (ho : barOpOf m = o) (hwait : bits m.arg 63 60 ≠ 4) (hop : m.op ≠ 3) :
    u.barMsg m = ((u.barWrite (.spad c p off) (barApply (u.barRead (.spad c p off)) o) m.pts).releaseWaiters (.spad c p off)).answerMsg
      m 0x24 (bGen (u.barRead (.spad c p off))) [] 0 0 := by
  simp only [State.barMsg, hbar, hsound, Bool.false_eq_true, if_false, if_neg hwait, if_neg hop, ho]
  rfl

/-- A wait at a barrier in a scratchpad (R347). -/
theorem State.barMsg_waits (hwait : bits m.arg 63 60 = 4) :
    u.barMsg m = u.barWait (.spad c p off)
      { addr := off, gen := bits m.arg 31 0, id := m.id, src := m.src, ctx := m.ctx, part := m.part, lid := m.lid } := by
  simp only [State.barMsg, hbar, hsound, Bool.false_eq_true, if_false, if_pos hwait]

end

/-! ### The barrier's word (R121, R122) -/

/-- The 32 bytes of a barrier from its fields: GEN, EXP, ARR, BEATS, and STATUS with ORIGIN. -/
def barWord (gen exp arr beats rest : Nat) : Nat := onTop gen (onTop exp (onTop arr (onTop beats rest)))

theorem barWord_eq (gen exp arr beats rest : Nat) :
    barWord gen exp arr beats rest = gen + exp * 2 ^ 32 + arr * 2 ^ 64 + beats * 2 ^ 96 + rest * 2 ^ 128 := by
  simp only [barWord, onTop, Nat.add_mul, Nat.mul_assoc, ← pow_add, ← Nat.add_assoc, Nat.reduceAdd]

/-- The 32-bit fields of a barrier hold their values (R121). -/
structure BarFields (gen exp arr beats : Nat) : Prop where
  gen_lt : gen < 2 ^ 32
  exp_lt : exp < 2 ^ 32
  arr_lt : arr < 2 ^ 32
  beats_lt : beats < 2 ^ 32

namespace BarFields
variable {gen exp arr beats rest : Nat} (h : BarFields gen exp arr beats)
include h

theorem bGen_barWord : bGen (barWord gen exp arr beats rest) = gen := bits_onTop_low h.gen_lt _

theorem bExp_barWord : bExp (barWord gen exp arr beats rest) = exp := (bits_onTop h.gen_lt _ 31 0).trans (bits_onTop_low h.exp_lt _)

theorem bArr_barWord : bArr (barWord gen exp arr beats rest) = arr :=
  (bits_onTop h.gen_lt _ 63 32).trans ((bits_onTop h.exp_lt _ 31 0).trans (bits_onTop_low h.arr_lt _))

theorem bBeats_barWord : bBeats (barWord gen exp arr beats rest) = beats :=
  (bits_onTop h.gen_lt _ 95 64).trans
    ((bits_onTop h.exp_lt _ 63 32).trans ((bits_onTop h.arr_lt _ 31 0).trans (bits_onTop_low h.beats_lt _)))

theorem setBits_gen {v : Nat} (hv : v < 2 ^ 32) : setBits (barWord gen exp arr beats rest) 31 0 v = barWord v exp arr beats rest :=
  setBits_onTop_low h.gen_lt _ hv

theorem setBits_arr {v : Nat} (hv : v < 2 ^ 32) : setBits (barWord gen exp arr beats rest) 95 64 v = barWord gen exp v beats rest :=
  (setBits_onTop h.gen_lt _ 63 32 v).trans
    (congrArg _ ((setBits_onTop h.exp_lt _ 31 0 v).trans (congrArg _ (setBits_onTop_low h.arr_lt _ hv))))

theorem setBits_beats {v : Nat} (hv : v < 2 ^ 32) : setBits (barWord gen exp arr beats rest) 127 96 v = barWord gen exp arr v rest :=
  (setBits_onTop h.gen_lt _ 95 64 v).trans (congrArg _ ((setBits_onTop h.exp_lt _ 63 32 v).trans
    (congrArg _ ((setBits_onTop h.arr_lt _ 31 0 v).trans (congrArg _ (setBits_onTop_low h.beats_lt _ hv))))))

/-- An arrival is counted before the completion test (R122). -/
theorem barApply_arrive {n : Nat} (hn : arr + n < 2 ^ 32) :
    barApply (barWord gen exp arr beats rest) (.arrive n) = barTest (barWord gen exp (arr + n) beats rest) false := by
  rw [barApply, h.bArr_barWord, h.setBits_arr hn]

theorem barTest_completes (hnext : gen + 1 < 2 ^ 32) (hnonzero : exp ≠ 0) (hdue : beats = 0) (hall : exp ≤ arr) :
    barTest (barWord gen exp arr beats rest) false = barWord (gen + 1) exp (arr - exp) beats rest := by
  have hopened : BarFields (gen + 1) exp arr beats := { h with gen_lt := hnext }
  have hleft : arr - exp < 2 ^ 32 := (Nat.sub_le arr exp).trans_lt h.arr_lt
  rw [barTest, h.bGen_barWord, h.bExp_barWord, h.bArr_barWord, h.bBeats_barWord, h.setBits_gen hnext, hopened.setBits_arr hleft]
  simp [hnonzero, hdue, hall]

theorem barTest_open (hopen : exp = 0 ∨ beats ≠ 0 ∨ arr < exp) :
    barTest (barWord gen exp arr beats rest) false = barWord gen exp arr beats rest := by
  refine if_neg ?_
  simp only [h.bExp_barWord, h.bArr_barWord, h.bBeats_barWord, Bool.or_false, Bool.and_eq_true, decide_eq_true_eq, beq_iff_eq, bne_iff_ne]
  omega

theorem barApply_expect {n : Nat} (hn : beats + n < 2 ^ 32) :
    barApply (barWord gen exp arr beats rest) (.expect n) = barWord gen exp arr beats rest + n * 2 ^ 96 := by
  rw [barApply, h.bBeats_barWord, h.setBits_beats hn, barWord_eq, barWord_eq, Nat.add_mul, ← Nat.add_assoc, Nat.add_right_comm]

end BarFields

end Sys2Proof.Machine

open Sys2Proof Sys2Proof.Machine

/-- Settles O17: each instruction by the cases of its body, the message on a barrier of the own scratchpad by its operation, and the barrier's word by
its fields. That such an operation is a message to the core itself, and that an arrival whose stores are not ordered is kept aside, is the model's choice
(log 80). -/
theorem waitingInstructions : Obligations.WaitingInstructions := by
  unfold Obligations.WaitingInstructions
  refine ⟨⟨fun c d r b s hc => ⟨exec_waitd_empty hc, exec_waitd_takes hc, exec_waitd_waits hc⟩, fun c d b ch s hc => exec_waitw_reads hc⟩,
    fun c chk d a b sb cnt s p n hp hheld => ⟨exec_binit_posts hp hheld, exec_expect_posts hp hheld, fun hstores hc => ?barr,
      fun hstores hc => exec_barr_unreleased hp hc hstores, exec_bwait_waits hp hheld⟩,
    fun c k off op n s u hc hk hoff hop hn => ⟨rfl, rfl, fun hsound => ?own⟩,
    fun gen exp arr beats rest n hgen hexp hn hbeats => ?word⟩
  case barr =>
    split
    · next hd => exact exec_barr_posts hp hc hstores hd
    · next hd => exact exec_barr_waits hp hc hstores hd
  case own =>
    have hbar := State.barOfMsg_own (s := s) (k := k) (op := op) (n := n) hc hoff
    have hcode : bits (s.ownBarMsg c k off op n).arg 63 60 = op := barArg_op hop hk
    have hcount : bits (s.ownBarMsg c k off op n).arg 31 0 = n := barArg_count hn
    have hmesh : (s.ownBarMsg c k off op n).op ≠ 3 := show (0x33 : Nat) ≠ 3 by decide
    refine ⟨fun h => ?arrive, fun h => ?expect, fun h => ⟨?init, ?cleared⟩, fun h => ?wait⟩
    case arrive => exact State.barMsg_performs hbar hsound (barOpOf_arrive hcount (hcode.trans h)) (by omega) hmesh
    case expect => exact State.barMsg_performs hbar hsound (barOpOf_expect hcount (hcode.trans h)) (by omega) hmesh
    case init => exact State.barMsg_performs hbar hsound (barOpOf_init hcount (hcode.trans h)) (by omega) hmesh
    case cleared => rw [barApply, Nat.mod_eq_of_lt hn]
    case wait => exact (State.barMsg_waits hbar hsound (hcode.trans h)).trans (by rw [hcount]; rfl)
  case word =>
    have h : BarFields gen exp arr beats := ⟨by omega, hexp, by omega, hbeats⟩
    have harrived : BarFields gen exp (arr + n) beats := { h with arr_lt := hn }
    intro word
    have hword (g a : Nat) : word g a = barWord g exp a beats rest := (barWord_eq g exp a beats rest).symm
    simp only [hword]
    refine ⟨fun hnonzero hdue hall => ?_, fun hopen => ?_, fun m => h.barApply_expect⟩
    · exact (h.barApply_arrive hn).trans (harrived.barTest_completes (by omega) hnonzero hdue hall)
    · exact (h.barApply_arrive hn).trans (harrived.barTest_open hopen)
end

section
/-! The ends of waits (R217, R222, R243, R280, R281, R342, R347, R435). -/
namespace Sys2Proof.Machine

/-! ### Waits of a context -/

/-- The state after a wait of a context ended with a result in a register, which is there at once. -/
def State.endWith (s : State) (core ctx : Nat) (r : WaitRec) (d : SReg) (v : Nat) : State :=
  (s.writeNow core ctx { dst := .scal d, mask := ones64, val := v, due := 0, fixed := false }).endWait core ctx r

section
variable {core ctx : Nat} {r : WaitRec} {s : State} (hw : (s.ctx core ctx).wait = some r)
include hw

theorem exec_fenceComplete_ends {n : Nat} (hk : r.kind = .fence n) (hdone : s.fenceDone core ctx n = true) :
    exec (.fenceComplete core ctx) s = .next ((s.fenceEnd core n).endWait core ctx r) := by
  show execFenceComplete core ctx s = _
  simp only [execFenceComplete, hw, hk, hdone, if_true, nextState]

/-- WAITD is complete with a flag under its mask, or past its timeout (R342). -/
theorem State.waitdDone_iff {m t since : Nat} {d : SReg} (hk : r.kind = .waitd m t since d) :
    s.waitdDone core ctx = true ↔ s.depmask core ctx &&& m ≠ 0 ∨ (t ≠ 0 ∧ since + t ≤ s.cycle core) := by
  simp only [State.waitdDone, hw, hk, Bool.or_eq_true, Bool.and_eq_true, bne_iff_ne, decide_eq_true_eq]

theorem exec_waitdComplete_ends {m t since : Nat} {d : SReg} (hk : r.kind = .waitd m t since d)
    (hdone : s.depmask core ctx &&& m ≠ 0 ∨ (t ≠ 0 ∧ since + t ≤ s.cycle core)) :
    exec (.waitdComplete core ctx) s
      = .next (((s.takeFlags core ctx m).2.acquire core).endWith core ctx r d (s.depmask core ctx &&& m)) := by
  show execWaitdComplete core ctx s = _
  simp only [execWaitdComplete, (State.waitdDone_iff hw hk).mpr hdone, hw, hk, Bool.not_true, Bool.false_eq_true, if_false]
  rfl

section
variable {n t since : Nat} {d : SReg} (hk : r.kind = .compose n t since d)
include hk

theorem exec_composeComplete_forms (hready : (s.freeze core ctx n).composeReady core ctx n = true) :
    exec (.composeComplete core ctx) s = .next (((s.freeze core ctx n).composed core ctx n).endWith core ctx r d 0) := by
  show execComposeComplete core ctx s = _
  simp only [execComposeComplete, hw, hk, hready, if_true]
  rfl

theorem exec_composeComplete_gives_up (hbusy : (s.freeze core ctx n).composeReady core ctx n = false) (hlate : since + t ≤ s.cycle core) :
    exec (.composeComplete core ctx) s = .next (((s.freeze core ctx n).unfreeze core ctx).endWith core ctx r d 1) := by
  show execComposeComplete core ctx s = _
  simp only [execComposeComplete, hw, hk, hbusy, hlate, Bool.false_eq_true, if_false, if_true]
  rfl

end

section
variable {key cmp t since last ask : Nat} {d : SReg} (hk : r.kind = .wfm key cmp t since last d ask) (hruns : (s.core core).period ≠ 0)
include hk

/-- WFM ends with the value read where it differs, or past its timeout (R435). -/
theorem State.wfmRead_ends {v : Nat} (hdone : v ≠ cmp ∨ (t ≠ 0 ∧ since + t ≤ s.cycle core)) :
    s.wfmRead core ctx v = (s.acquire core).endWith core ctx r d v := by
  have hcond : (v ≠ cmp || (t != 0 && decide (since + t ≤ s.cycle core))) = true := by simpa using hdone
  simp only [State.wfmRead, hw, hk]
  exact if_pos hcond

include hruns

theorem exec_wfmReread_ends (hspad : isSram key = false)
    (hdone : Memory.readN s.mem key 8 ≠ cmp ∨ (t ≠ 0 ∧ since + t ≤ s.cycle core)) :
    exec (.wfmReread core ctx) s = .next ((s.acquire core).endWith core ctx r d (Memory.readN s.mem key 8)) := by
  show execWfmReread core ctx s = _
  simp only [execWfmReread, hw, hk, if_neg hruns, hspad, Bool.false_eq_true, if_false, State.wfmRead_ends hw hk hdone, nextState]

/-- WFM on a word of cellar SRAM with no read on its way asks its home again (R190, R435). -/
theorem exec_wfmReread_asks (hsram : isSram key = true) (hask : ask = 0) :
    exec (.wfmReread core ctx) s = .next ((s.wfmAsk core ctx key 0).modCtx core ctx fun x =>
      { x with wait := some { r with kind := .wfm key cmp t since last d s.nextMsg } }) := by
  show execWfmReread core ctx s = _
  simp only [execWfmReread, hw, hk, if_neg hruns, hsram, hask, if_true, ne_eq, not_true, if_false, nextState]

end

end

/-! ### Results of variable latency (R280, R281) -/

theorem exec_variableLatencyResult_lands {core ctx n : Nat} {p : Pend} {s : State} (hp : (s.ctx core ctx).pend[n]? = some p) (hvar : p.fixed = false) :
    exec (.variableLatencyResult core ctx n) s = .next (s.landSel core ctx fun q => q == p) := by
  show execVariableLatencyResult core ctx n s = _
  simp only [execVariableLatencyResult, hp, hvar, Bool.false_eq_true, if_false, nextState]

/-! ### Barrier waits sent again (R347) -/

/-- The request of a barrier wait that found no entry, as it is sent again under its number to where it went before. -/
def State.resendMsg (s : State) (c k id g : Nat) (o : Out) : Msg :=
  { s.accMsg c k (if o.op = 0x03 then 0 else 3) o.op o.dst o.addr with
    id := id, arg := barArg 4 k g, size := 0x1000, ack := true, aux := if o.dst % 8 == 5 && s.dieRuns (quadrant o.addr) then 1 else 0 }

/-- The state with one barrier wait of a core sent again, if its context still waits. -/
def State.resendWait (s : State) (c : Nat) (w : Waiter) : State :=
  match (s.core c).out.find? (fun o => o.id == w.id), s.waiterOf w.id with
  | some o, some (.ctx d k) =>
    match (s.ctx d k).wait with
    | some r =>
      match r.kind with
      | .bwait _ _ g _ => s.inject (s.resendMsg c k w.id g o)
      | _ => (s.takeOut c w.id).2
    | none => (s.takeOut c w.id).2
  | _, _ => (s.takeOut c w.id).2

/-- The state in which a core keeps only the waits whose time has not come. -/
def State.keepLater (s : State) (c : Nat) : State := s.modCore c fun k => { k with resend := k.resend.filter fun w => !decide (w.due ≤ s.now) }

theorem State.keepLater_out (s : State) (c : Nat) : ((s.keepLater c).core c).out = (s.core c).out := by simp only [State.keepLater, State.core_modCore]

theorem State.keepLater_replaying (s : State) (c d : Nat) : (s.keepLater c).replaying d = s.replaying d := by
  refine State.replaying_modCore ?_ ?_ _ _
  all_goals exact fun _ => rfl

/-- The waits of the core in focus whose time has come are sent again one after another. -/
theorem exec_bwaitResend (s : State) :
    exec .bwaitResend s = .next (((s.core s.focus).resend.filter fun w => decide (w.due ≤ s.now)).foldl
      (fun u w => u.resendWait s.focus w) (s.keepLater s.focus)) := rfl

theorem exec_bwaitResend_early {s : State} (hlater : ∀ w ∈ (s.core s.focus).resend, s.now < w.due) :
    exec .bwaitResend s = .next (s.modCore s.focus fun k => k) := by
  have hdue : (s.core s.focus).resend.filter (fun w => decide (w.due ≤ s.now)) = [] :=
    List.filter_eq_nil_iff.mpr fun w hw => by simpa using hlater w hw
  have hkept : (s.core s.focus).resend.filter (fun w => !decide (w.due ≤ s.now)) = (s.core s.focus).resend :=
    List.filter_eq_self.mpr fun w hw => by simpa using hlater w hw
  rw [exec_bwaitResend, hdue, List.foldl_nil, State.keepLater, State.modCore, State.modCore, hkept]

theorem State.resendWait_sends {s : State} {c d k g : Nat} {w : Waiter} {o : Out} {r : WaitRec}
    (hout : (s.core c).out.find? (fun x => x.id == w.id) = some o) (hwaiter : s.waiterOf w.id = some (.ctx d k))
    (hwait : (s.ctx d k).wait = some r) (hkind : ∃ i chk dst, r.kind = .bwait i chk g dst) :
    s.resendWait c w = s.inject (s.resendMsg c k w.id g o) := by
  obtain ⟨i, chk, dst, hkind⟩ := hkind
  simp only [State.resendWait, hout, hwaiter, hwait, hkind]

section
variable {s : State} {w : Waiter} (hone : (s.core s.focus).resend = [w]) (hdue : w.due ≤ s.now)
include hone hdue

theorem exec_bwaitResend_one : exec .bwaitResend s = .next ((s.keepLater s.focus).resendWait s.focus w) := by
  have hall : [w].filter (fun w => decide (w.due ≤ s.now)) = [w] := by simp [hdue]
  rw [exec_bwaitResend, hone, hall, List.foldl_cons, List.foldl_nil]

theorem State.keepLater_resend : ((s.keepLater s.focus).core s.focus).resend = [] := by
  simp [State.keepLater, hone, hdue]

end

/-- A message that its core does not replay is on its way, to its destination under its number. -/
theorem State.inject_sends {s : State} {m : Msg} (hlive : s.replaying (coreOfEp m.src) = false) :
    ∃ x ∈ (s.inject m).net, x.id = m.id ∧ x.dst = m.dst := by
  simp only [State.inject, hlive, Bool.and_false, Bool.false_and, Bool.false_eq_true, if_false]
  exact ⟨_, List.mem_append_right _ (List.mem_singleton_self _), rfl, rfl⟩

end Sys2Proof.Machine

open Sys2Proof Sys2Proof.Machine

/-- Settles O37: each wait by its kind, a result of variable latency by its place among those on their way, and the waits to send again by their times. -/
theorem waitsEnd : Obligations.WaitsEnd := by
  unfold Obligations.WaitsEnd
  intro core ctx r s put
  refine ⟨fun hw => ⟨fun n => exec_fenceComplete_ends hw, fun m t since d => exec_waitdComplete_ends hw,
      fun n t since d hk => ⟨exec_composeComplete_forms hw hk, exec_composeComplete_gives_up hw hk⟩,
      fun key cmp t since last d ask hk hruns => ⟨exec_wfmReread_ends hw hk hruns, exec_wfmReread_asks hw hk hruns⟩⟩,
    fun n p => exec_variableLatencyResult_lands, exec_bwaitResend_early, fun w o d k g hone hdue hout hwaiter hwait hkind hlive => ?resend⟩
  case resend =>
    have hsends : (s.keepLater s.focus).resendWait s.focus w
        = (s.keepLater s.focus).inject ((s.keepLater s.focus).resendMsg s.focus k w.id g o) :=
      State.resendWait_sends ((s.keepLater_out s.focus).symm ▸ hout) hwaiter hwait hkind
    obtain ⟨m, hm, hid, hdst⟩ := State.inject_sends (m := (s.keepLater s.focus).resendMsg s.focus k w.id g o)
      ((s.keepLater_replaying s.focus _).trans hlive)
    exact ⟨_, (exec_bwaitResend_one hone hdue).trans (congrArg _ hsends), rfl, State.keepLater_resend hone hdue, m, hm, hid, hdst⟩
end

end

section
/-! The proofs of the statements on cores and composition: what a watermark's clearing does to the accesses that it held, and what a result in CSW
does to TIME. -/

-- As above: the proofs are elaborated one after another. No section variable stands here.
set_option deprecated.oldSectionVars true

section
/-! A watermark that goes frees the remote accesses that it held (R204, R205, R414). -/
namespace Sys2Proof.Machine

theorem exec_wmarkClr_clears {c : Ctl} {ch : BitVec 4} {s : State} (hc : s.clear c.pred [] [] = true) (hbusy : s.chanBusy s.ic ch.toNat = false) :
    exec (.wmarkClr c ch) s = .next (s.completes (s.clearMark s.ic ch.toNat false) c.stall []) :=
  next_ok _ _ _ _ hc rfl (by rw [hbusy]; rfl)

/-- A firing of partition 1 runs on core 0, whose channel 2 has an active watermark over the offsets 0 to 0x1FF of its scratchpad; it holds back a
store of core 1 to 0x100. -/
def stateBeforeMarkCleared : State :=
  { mem := []
    cores := [(0, { period := 336, active := 1 })]
    ctxs := [(0, { firing := some { handle := 5, lid := 7, part := 1, handler := false, wsize := 74, ydl := 0 }
                   pc := 0x10000C, wptr := 0x1000, asid := 1 })]
    parts := [(1, { marks := [(2, { act := true, lo := 0, hi := 0x200, wm := 0 })] })]
    net := [{ id := 9, src := epCore 1, dst := epCore 0, part := 1, ch := 2, op := 0x23, taddr := 0xFE000000000100, data := toBytes 8 7 }] }

end Sys2Proof.Machine

open Sys2Proof Sys2Proof.Machine

/-- Refutes O27: the state after WMARK.CLR is stated to differ in the mark alone, but a remote access that the mark held back becomes due in the
owner's next cycle (R205). Here WMARK.CLR of channel 2 frees a store, which changes in the network; WMARK.ARM and WMARK.ADV are stated without the
accesses that they free, too. -/
theorem not_copiesAreQueued : ¬ Obligations.CopiesAreQueued := by
  unfold Obligations.CopiesAreQueued
  intro hall
  obtain ⟨⟨-, hmarks⟩, -⟩ := hall
  obtain ⟨-, -, hclr, -⟩ := hmarks ⟨0, 0, false⟩ 0 0 0 2 stateBeforeMarkCleared
  have hclear : stateBeforeMarkCleared.clear (some (0, false)) [] [] = true := by decide
  have hbusy : stateBeforeMarkCleared.chanBusy 0 2 = false := by decide
  have hexec := exec_wmarkClr_clears (c := ⟨0, 0, false⟩) (ch := 2) hclear hbusy
  have hstated := hclr hclear hbusy _ rfl
  have hnet := congrArg State.net (Host.Outcome.next.inj (hexec.symm.trans hstated))
  exact absurd (congrArg (List.map Msg.after) hnet) (by decide)

end

section
/-! A result in CSW, and TIME as a core reads it that counts as composed (R233, R244, R306). -/
namespace Sys2Proof.Machine

theorem exec_add {c : Ctl} {ty : Ty} {d a : SReg} {b : SrcB} {s : State} (hc : s.clear c.pred (.scal a :: SrcBReads b) [.scal d] = true) :
    exec (.add c ty d a b) s = .next (s.completes
      (s.result d (opAdd ty s.mods (s.rs a % 2 ^ ty.width) (s.srcB b % 2 ^ ty.width)) 1) c.stall (.scal a :: SrcBReads b)) :=
  next_ok _ _ _ _ hc rfl rfl

/-- A firing of partition 1 runs on context 0 of core 0 with its workspace at 0x1000. The core is frozen for its context 1, whose workspace pointer
0x1002 is no multiple of 64, so that byte 2 of the CSW at 0x1200 is byte 0 of the one at 0x1202. At time 0 the core's clock has counted 5 cycles. -/
def stateBeforeAddToCsw : State :=
  { mem := []
    cores := [(0, { period := 336, base := 5, active := 1, frozen := some (0, 1) })]
    ctxs := [(0, { firing := some { handle := 5, lid := 7, part := 1, handler := false, wsize := 74, ydl := 0 }
                   pc := 0x10000C, wptr := 0x1000, asid := 1 }), (1, { wptr := 0x1002 })] }

end Sys2Proof.Machine

open Sys2Proof Sys2Proof.Machine

/-- Refutes O58: TIME, specifier 62, is among the registers that are stated to read as before, and a core reads it by COMPOSED of the context for which
it is frozen (R244, log 87). The statement is about every state whose memory has its form, so that context's CSW may overlap the executing one's. Here
ADD sets bit 19 of CSW, which software may write (R233) and which is COMPOSED of context 1, and TIME goes from the time 0 to the 5 cycles. Where every
workspace pointer is a multiple of 64, which no premise asks for, two CSW words are one or apart. -/
theorem not_registerInstructionsLeaveTheRest : ¬ Obligations.RegisterInstructionsLeaveTheRest := by
  unfold Obligations.RegisterInstructionsLeaveTheRest
  intro hall
  have hclear : stateBeforeAddToCsw.clear (some (0, false)) [.scal 0] [.scal 61] = true := by decide
  have hexec := exec_add (c := ⟨0, 0, false⟩) (ty := .i64) (b := .imm 0x80000) hclear
  obtain ⟨-, hregs, -⟩ := hall stateBeforeAddToCsw _ _ _ _ _ rfl hexec hclear (by decide)
    (.inl ⟨⟨0, 0, false⟩, .i64, .eq, 61, 0, .imm 0x80000, rfl, rfl, rfl, .inl ⟨by simp, rfl⟩⟩)
  have hbefore : stateBeforeAddToCsw.readS 0 0 62 = 0 := by decide
  exact absurd ((hregs 62 (by decide) (by decide)).trans hbefore) (by decide)

end

end

section
/-! The proofs of the statements on number formats: an exact result rounded once as its slot issues, and a source read by its low bits alone. -/

-- As above: the proofs are elaborated one after another. Every section variable below is named by the statements that use it, or included.
set_option deprecated.oldSectionVars true

namespace Sys2Proof.Machine

/-! ### The low bits of a source (R316) -/

/-- The format of a floating type is as wide as the type (R252). -/
theorem fmtOf_width {ty : Ty} (hty : ty.isFloat = true) : (fmtOf ty).w = ty.width := by
  revert hty
  cases ty <;> decide

/-- A floating-point source is decoded from the low bits that its type takes. -/
theorem decF_mod_width {ty : Ty} (hty : ty.isFloat = true) (v : Nat) : decF ty (v % 2 ^ ty.width) = decF ty v := by
  simp only [decF, fmtOf_width hty, Nat.mod_mod]

theorem opMinMax_float {ty : Ty} (hty : ty.isFloat = true) (m : Option ModWord) (mx : Bool) (a b : Nat) :
    opMinMax ty m mx (a % 2 ^ ty.width) (b % 2 ^ ty.width)
      = finishF ty .rne m (if mx then (decF ty a).max (decF ty b) else (decF ty a).min (decF ty b)) := by
  simp only [opMinMax, hty, if_true, decF_mod_width hty]

/-! ### Unhindered slots (R316 to R319) -/

section
variable {s : State} {c : Ctl} {ty : Ty} {d : SReg}

/-- The shared operation of FADD, FMUL, FFMA, FDIV and FSQRT: the exact result of the sources as they stand is rounded once under the modifiers and is
on its way to the destination (R255, R256, R316). -/
theorem floatOp_rounds_once {srcs : List SReg} (hc : s.clear c.pred (srcs.map .scal) [.scal d] = true) (lat : Nat) (fixed : Bool) (f : State → XR) :
    nextState (s.floatOp c ty d srcs lat fixed f) = .next (s.completes
      (s.addPend s.ic s.ik (.scal d) (2 ^ 64 - 1) (finishF ty .rne s.mods (f s)) lat fixed) c.stall (srcs.map .scal)) :=
  next_ok _ _ _ _ hc rfl rfl

section
variable {a b : SReg} (hc : s.clear c.pred [.scal a, .scal b] [.scal d] = true)
include hc

/-- The shared operation of MIN and MAX on a floating type: the lesser or greater source is finished as any other exact result (R316). -/
theorem minMax_float_rounds_once (hty : ty.isFloat = true) (mx : Bool) :
    nextState (s.intBin c ty d a (.reg b) 1 fun t x y => opMinMax ty t.mods mx x y) = .next (s.completes
      (s.result d (finishF ty .rne s.mods
        (if mx then (decF ty (s.rs a)).max (decF ty (s.rs b)) else (decF ty (s.rs a)).min (decF ty (s.rs b)))) 1)
      c.stall [.scal a, .scal b]) :=
  next_ok _ _ _ _ hc rfl (congrArg (fun v => Res.ok (s.result d v 1)) (opMinMax_float hty s.mods mx (s.rs a) (s.rs b)))

/-- FCMP writes 1 where its condition holds, else 0 (R304, R317). -/
theorem exec_fcmp (cond : Cond) : exec (.fcmp c ty cond d a b) s = .next (s.completes
    (s.addPend s.ic s.ik (.scal d) (2 ^ 64 - 1) (if condF cond (decF ty (s.rs a)) (decF ty (s.rs b)) then 1 else 0) 4 true)
    c.stall [.scal a, .scal b]) := by
  refine next_ok _ _ _ _ hc rfl ?_
  have hbit : (if condF cond (s.rf ty a) (s.rf ty b) then 1 else 0) % 2 ^ 64 = if condF cond (s.rf ty a) (s.rf ty b) then 1 else 0 :=
    Nat.mod_eq_of_lt (by split <;> decide)
  rw [State.putS, hbit]; rfl

end

/-- FCVT converts the low bits of its source in its rounding mode (R257, R318). -/
theorem exec_fcvt {a : SReg} (hc : s.clear c.pred [.scal a] [.scal d] = true) (src : Ty) (rm : Rm) :
    exec (.fcvt c ty d a src rm) s = .next (s.completes (s.result d
      (widenScalar ty (finishAny ty rm s.mods (!intSource src) (decElem src (s.rs a % 2 ^ src.width)))) 4) c.stall [.scal a]) :=
  next_ok _ _ _ _ hc rfl rfl

end

end Sys2Proof.Machine

open Sys2Proof Sys2Proof.Machine

/-- Settles O10: the rounded results by their shared operation, MIN and MAX by the low bits that a floating type takes, FCMP and FCVT by their own
answers. -/
theorem floatingPointRoundsOnce : Obligations.FloatingPointRoundsOnce := by
  unfold Obligations.FloatingPointRoundsOnce
  refine ⟨fun c ty cond d a b r s hty => ?arithmetic, fun c ty src rm d a s hc => exec_fcvt hc src rm⟩
  case arithmetic =>
    refine ⟨fun hab => ⟨?fadd, ?fmul, ?fdiv, minMax_float_rounds_once hab hty false, minMax_float_rounds_once hab hty true, exec_fcmp hab cond⟩,
      fun habr => ?ffma, fun ha => ?fsqrt⟩
    case fadd => exact floatOp_rounds_once (srcs := [a, b]) hab 4 true fun t => (t.rf ty a).add (t.rf ty b)
    case fmul => exact floatOp_rounds_once (srcs := [a, b]) hab 4 true fun t => (t.rf ty a).mul (t.rf ty b)
    case fdiv => exact floatOp_rounds_once (srcs := [a, b]) hab 16 false fun t => (t.rf ty a).div (t.rf ty b)
    case ffma => exact floatOp_rounds_once (srcs := [a, b, r]) habr 4 true fun t => ((t.rf ty a).mul (t.rf ty b)).add (t.rf ty r)
    case fsqrt => exact floatOp_rounds_once (srcs := [a]) ha 20 false fun t => (t.rf ty a).sqrt

end

section
/-! The proofs of the statements on encoding, control and scalar instructions, memory, vectors and masks. -/

-- As above: the proofs are elaborated one after another. Every section variable below is named by the statements that use it, or included.
set_option deprecated.oldSectionVars true

section
-- Decoding and encoding agree (R273, R274), and what words out of the encoding tables decode to (R286, R287).
namespace Sys2Proof

-- The slot of every well-formed instruction reads back as the instruction, by the lemmas of the constructors in their order.
theorem Laws.RoundTrip.statement (i : Instr) : Statement i :=
  Instr.casesOn (motive := Statement) i
    lifeCycleTransition wakeTail enable chead registerWrite packetRead hostDramAccess writeBack deferredTrapDelivery flashReadDone
    flashWriteDone marketClear flitReplay meshClockSample peerLinkDown peerLaneShed k1Entry k1Exit k2IdleEntry k3Entry dieWake dieReady
    criticalTrip criticalTripEnd currentLimit thermalWatch thermalSample thrtStep firingDispatch runListSpill homedRecall runListAging
    yieldDeadline fenced pcmdResume pcmdEnd switchTimeNotice gangSwitch partitionPaging cellarEmulation logicalTimeTick matrixCommandRun
    factorisationRun matrixPageInWait copyBeat copyComplete streamChannelBeat lauterCommandRun watermarkRelease fenceComplete waitdComplete
    composeComplete wfmReread variableLatencyResult loggedInputReplay nop mod lpad j jal jr jalr ret brc brz loop trap eret add sub mul mulh div
    rem and or xor andn shl shr sra rol clz ctz popc min max sel cmp movi ext bfx bfi fadd fmul ffma fdiv fsqrt fcmp fcvt padd pset pget pwalk
    lea ld st ldp stp ldv stv ldvg stvs pref amo cas fence msgH msgD msggS msggD waitd binit barr expect bwait waitw sbind sfree shape shget
    vadd vsub vmul vfma vmin vmax vand vor vxor vshl vshr vsra vcmp vsel vcvt vqnt vdq vreds vredm vscan vperm vslide vbcast viota vexp2 vlog2
    vrcp vrsq vmovs kand kor kxor knot kpopc kfirst kset kmov tld tst tzero tmov ttr cld cst czero mma mmas mmam mpbl ccvt bfmt bfmtRd bcpy mlu
    mchol mqr mqapp mtrs mperm mfstPerm mfstGrow mfstStat cpy cpyf csrg wmarkArm wmarkAdv wmarkClr wmarkRd lautLoad lautReset lautMask lautAdv
    spawn decr retire yield compose decomp pitch rack port mfs mts cacheIinv cacheIall cacheDwb cacheDinv cacheDwbinv tlbiPage tlbiAll park wfm
    coldReset reducedService lpddr6Trained computeDiesTrained fullService launch signal wait waitTimeout map unmap partitionCreate
    partitionChange partitionDestroy caskRetain caskPageOut caskPageIn rackCommand contract power load attest query readWithLease
    writeThroughToHome farAtomic dataWithWriteTime writeAcknowledgement farAtomicResult coherentNack remoteScratchpadLoad remoteLoadData
    remoteScratchpadStore remoteStoreAcknowledgement registerDeposit activeMessage portCountAdvance dependenceDecrement windowNack placement
    trapOrFaultMessage engineReply kettleReadyMessage serviceCoreCommandStep pageInRequest pageInDone badFlitDiscard cellarC1Entry cellarWake
    selfRefreshEntry selfRefreshExit appCoreSleepRequest appCoreWake pitchTrigger contractInForce watchdogStep1 watchdogKill watchdogFence
    killFinished terminationWave timeRenumbering rackDrain rackCask rackWake rackInstall rackDone messageForward barrierInitialise barrierArrive
    barrierLanded barrierExpect barrierStatusWrite barrierWaitRegister bwaitResend bwaitReply dramAcceptsAccesses cellarC0Reached

-- A slot with its major written out.
theorem Slot.maj_eq {s : Slot} {k : BitVec 8} (h : s.maj = k) : s = { s with maj := k } := congrArg (fun m => { s with maj := m }) h

-- No instruction reads from a slot of the growth space (R287).
theorem readSlot_growth {s : Slot} (h : 0xC0 ≤ s.maj.toNat) : readSlot s = none :=
  (congrArg readSlot (Slot.maj_eq (BitVec.eq_of_toNat_eq (Nat.sub_add_cancel h).symm :
    s.maj = ⟨⟨s.maj.toNat - 0xC0 + 0xC0, (Nat.sub_add_cancel h).trans_lt s.maj.isLt⟩⟩))).trans rfl

theorem decodeSlot_growth {s : Slot} (h : 0xC0 ≤ s.maj.toNat ∧ s.maj.toNat ≤ 0xEF) : decodeSlot s = .error .futureOpcode := if_pos h

-- Outside the growth space a slot decodes to the instruction that reads from it, if that encodes to it (R274).
theorem decodeSlot_of_readSlot {s : Slot} {o : Option Instr} (hlow : ¬(0xC0 ≤ s.maj.toNat ∧ s.maj.toNat ≤ 0xEF)) : readSlot s = o →
    decodeSlot s = match o with
      | none => .error .reservedCode
      | some i => if i.wf && encodeSlot i == some s then .ok i else .error .reservedCode :=
  fun hread => hread ▸ if_neg hlow

theorem decodeSlot_of_encodeSlot {i : Instr} {s : Slot} (hwf : i.wf = true) (henc : encodeSlot i = some s) : decodeSlot s = .ok i := by
  have hread := Laws.RoundTrip.statement i s henc hwf
  exact (decodeSlot_of_readSlot (fun h => Option.some_ne_none i (hread.symm.trans (readSlot_growth h.1))) hread).trans
    (if_pos (congrArg₂ and hwf (beq_of_eq henc)))

theorem encodeSlot_of_decodeSlot {i : Instr} {s : Slot} : decodeSlot s = .ok i → i.wf = true ∧ encodeSlot i = some s :=
  iteInduction (motive := fun x => x = Decoded.ok i → i.wf = true ∧ encodeSlot i = some s) (fun _hg h => Decoded.noConfusion h) fun _hg =>
    (readSlot s).casesOn (fun h => Decoded.noConfusion h) fun _j =>
      iteInduction (motive := fun x => x = Decoded.ok i → i.wf = true ∧ encodeSlot i = some s)
        (fun hj h => Decoded.ok.inj h ▸ (Bool.and_eq_true_iff.mp hj).imp_right eq_of_beq) fun _hj h => Decoded.noConfusion h

theorem encode_eq_some_iff {i : Instr} {w : BitVec 96} : encode i = some w ↔ encodeSlot i = some (Slot.ofBits w) := by
  refine Option.map_eq_some_iff.trans ⟨?_, fun h => ⟨_, h, Slot.toBits_ofBits w⟩⟩
  rintro ⟨s, hs, rfl⟩
  exact hs.trans (congrArg some (Slot.ofBits_toBits s).symm)

end Sys2Proof

open Sys2Proof Sys2Proof.Machine

/-- Settles O51: a word decodes to the well-formed instruction that encodes to it, and to no other. -/
theorem decodeEncodeRoundTrip : Obligations.DecodeEncodeRoundTrip := by
  have hencodes {i : Instr} {w : BitVec 96} (h : decode w = .ok i) : i.wf = true ∧ encode i = some w :=
    (encodeSlot_of_decodeSlot h).imp_right encode_eq_some_iff.mpr
  exact ⟨fun i w hwf henc => decodeSlot_of_encodeSlot hwf (encode_eq_some_iff.mp henc), fun i w => hencodes,
    fun i v w hv hw => Option.some.inj ((hencodes hv).2.symm.trans (hencodes hw).2)⟩

end

section
-- Words out of the encoding tables (R273, R274, R286, R287).
namespace Sys2Proof

-- The major of a word is its lowest byte (R273).
theorem Slot.ofBits_maj (m : BitVec 88) (k : BitVec 8) : (Slot.ofBits (m ++ k)).maj = k :=
  (extract_low m k 0 8 (by decide)).trans (extract_all k)

-- The majors between and behind the families are reserved (R286).
theorem decodeSlot_unassigned {s : Slot} (h : s.maj ∈ [(0x0D : BitVec 8), 0x0F, 0x35, 0x44, 0x52, 0x77, 0x8F, 0xB6, 0xF0, 0xFF]) :
    decodeSlot s = .error .reservedCode := by
  refine List.forall_iff_forall_mem.mp (?_ : List.Forall (fun k => decodeSlot { s with maj := k } = .error .reservedCode) _) s.maj h
  exact ⟨@rfl _ (Decoded.error .reservedCode), @rfl _ (Decoded.error .reservedCode),
    @rfl _ (Decoded.error .reservedCode), @rfl _ (Decoded.error .reservedCode),
    @rfl _ (Decoded.error .reservedCode), @rfl _ (Decoded.error .reservedCode),
    @rfl _ (Decoded.error .reservedCode), @rfl _ (Decoded.error .reservedCode),
    @rfl _ (Decoded.error .reservedCode), @rfl _ (Decoded.error .reservedCode)⟩

-- A slot of NOP's major decodes to NOP if NOP encodes to it (R274).
theorem decodeSlot_nop {s : Slot} (h : s.maj = 0) :
    decodeSlot s = if (Instr.nop s.stall).wf && encodeSlot (.nop s.stall) == some s then .ok (.nop s.stall) else .error .reservedCode :=
  decodeSlot_of_readSlot (fun hg => absurd (h ▸ hg.1) (by decide)) (congrArg readSlot (Slot.maj_eq h))

-- Above STALL the encoding of NOP is zero (R274).
theorem nop_rest : ∀ st : BitVec 4, (encode (.nop st)).map (BitVec.extractLsb' 12 84 ·) = some 0 := by decide

end Sys2Proof

open Sys2Proof Sys2Proof.Machine

/-- Settles O50: a word decodes by its lowest byte, one of NOP's major by what NOP encodes to. -/
theorem decodedWords : Obligations.DecodedWords := by
  refine ⟨rfl, rfl, fun m k hlo hhi => decodeSlot_growth ?growth, fun m k hk => decodeSlot_unassigned ((Slot.ofBits_maj m k).symm ▸ hk),
    fun m hm => (decodeSlot_nop (Slot.ofBits_maj (m ++ (0 : BitVec 4)) 0)).trans (if_neg fun hsame => hm ?nop)⟩
  case growth => exact (Slot.ofBits_maj m k).symm ▸ ⟨hlo, hhi⟩
  case nop =>
    have henc := encode_eq_some_iff.mpr (eq_of_beq (Bool.and_elim_right hsame))
    exact ((extract_high (m ++ (0 : BitVec 4)) 0 12 84 (by decide)).trans ((extract_high m 0 4 84 (by decide)).trans (extract_all m))).symm.trans
      (Option.some.inj ((congrArg (Option.map (BitVec.extractLsb' 12 84 ·)) henc).symm.trans (nop_rest _)))
end

section
open Sys2Proof Sys2Proof.Machine

/-- Settles O55: after reset no byte of memory is listed, and one that is not listed reads as zero. -/
theorem resetKeepsTheForm : Obligations.ResetKeepsTheForm := ⟨rfl, fun _ => rfl⟩

end

section
-- Transfers of control, and slots whose predicate is false (R271, R272, R276, R278, R308).
namespace Sys2Proof.Machine

-- What holds of every member of a list, one by one.
theorem forall_mem_cons_of {α : Type} {p : α → Prop} {a : α} {l : List α} (h : p a) (t : ∀ x ∈ l, p x) : ∀ x ∈ a :: l, p x :=
  List.forall_mem_cons.mpr ⟨h, t⟩

-- Two tests that both give one answer.
theorem ite_ite_eq {α : Type} {p q : Prop} [Decidable p] [Decidable q] {a b : α} (h : p ∨ q ∨ b = a) : (if p then a else if q then a else b) = a :=
  ite_eq_left_iff.mpr fun hp => ite_eq_left_iff.mpr (h.resolve_left hp).resolve_left

-- A slot whose predicate is false goes on (R276).
theorem next_skips {s : State} {c : Ctl} (hbusy : s.varBusy s.ic s.ik (predReads c.pred) = false)
    (hsound : s.regBad s.ic s.ik (predReads c.pred) = none) (hwait : s.composedWait s.ic s.ik (predReads c.pred) = false)
    (hfalse : s.executes s.ic s.ik c.pred = false) {reads writes : List Dest} {pre : State → Option (Cause × Nat)} {body : State → Res} :
    nextState (s.issueSlot c.stall.toNat c.pred reads writes pre body) = .next (s.finishIssue s.ic s.ik (s.afterPc s.ic s.ik) c.stall.toNat) :=
  congrArg nextState (issueSlot_false _ _ _ hbusy hsound hwait hfalse)

-- ### What the target of a transfer answers (R271, R272)

section
variable {s : State} {c k t : Nat} {kind : PadKind}

-- An indirect transfer beyond 56 bits, to no slot of a line, or to an unmarked slot traps (R271).
theorem goIndirect_off (h : 2 ^ 56 ≤ t ∨ slotOk t = false ∨ ∃ v, s.peekLine c k t = .line v ∧ marked v (slotIdx t) = false) :
    s.goIndirect c k t kind = .trap .cfTarget t :=
  ite_ite_eq (h.imp (fun hhigh => (Nat.div_pos hhigh (Nat.two_pow_pos 56)).ne')
    (Or.imp (congrArg not) fun hv => hv.elim fun _v hv => hv.1 ▸ if_pos (congrArg not hv.2)))

-- An indirect transfer to a marked slot with its landing pad jumps, with another landing pad it traps (R272).
theorem goIndirect_lands
    (h : t < 2 ^ 56 ∧ slotOk t = true ∧ ∃ v, s.peekLine c k t = .line v ∧ marked v (slotIdx t) = true ∧ padOf v (slotIdx t) = some kind) :
    s.goIndirect c k t kind = .jump s t :=
  h.2.2.elim fun _v hv => goIndirect_jump h.1 h.2.1 hv.1 hv.2.1 hv.2.2

theorem goIndirect_other
    (h : t < 2 ^ 56 ∧ slotOk t = true ∧ ∃ v, s.peekLine c k t = .line v ∧ marked v (slotIdx t) = true ∧ padOf v (slotIdx t) ≠ some kind) :
    s.goIndirect c k t kind = .trap .cfLpad t :=
  (if_neg (not_not_intro (Nat.div_eq_of_lt h.1))).trans ((if_neg (ne_true_of_eq_false (congrArg not h.2.1))).trans
    (h.2.2.elim fun _v hv => hv.1 ▸ (if_neg (ne_true_of_eq_false (congrArg not hv.2.1))).trans (if_neg hv.2.2)))

end

-- ### Direct transfers (R271, R278, R308)

section
variable {s : State} {w imm : Nat}

-- A direct transfer to a marked slot jumps.
theorem goDirect_marked {v : Nat} (hslot : imm % 8 < 5)
    (hline : s.peekLine s.ic s.ik (wrap 56 (((s.ipc / 64 * 64 : Nat) : Int) + 64 * sval w (imm / 8))) = .line v) (hmark : marked v (imm % 8) = true) :
    s.goDirect s.ic s.ik (branchTarget s.ipc imm w)
      = .jump s ((wrap 56 (((s.ipc / 64 * 64 : Nat) : Int) + 64 * sval w (imm / 8)) + 12 * (imm % 8)) % 2 ^ 56) :=
  (congrArg (fun p => s.goDirect s.ic s.ik p) (branchTarget_eq _ _ _)).trans (goDirect_jump hslot hline hmark)

-- A direct transfer to no slot of a line, or to an unmarked slot traps.
theorem goDirect_unmarked (h : 5 ≤ imm % 8
      ∨ ∃ v, s.peekLine s.ic s.ik (wrap 56 (((s.ipc / 64 * 64 : Nat) : Int) + 64 * sval w (imm / 8))) = .line v ∧ marked v (imm % 8) = false) :
    s.goDirect s.ic s.ik (branchTarget s.ipc imm w)
      = .trap .cfTarget ((wrap 56 (((s.ipc / 64 * 64 : Nat) : Int) + 64 * sval w (imm / 8)) + 12 * (imm % 8)) % 2 ^ 56) :=
  (congrArg (fun p => s.goDirect s.ic s.ik p) (branchTarget_eq _ _ _)).trans (goDirect_trap h)

end

-- What BRZ compares: the register is zero, or it is not.
theorem brz_taken {x : Nat} {ne : Bool} (h : x = 0 ↔ ne = false) : ((x == 0) == !ne) = true :=
  beq_iff_eq.mpr (Bool.eq_iff_iff.mpr (beq_iff_eq.trans (h.trans (iff_of_eq (Bool.not_eq_true' ne)).symm)))

end Sys2Proof.Machine

open Sys2Proof Sys2Proof.Machine

/-- Settles O2: each transfer goes on or traps as its target answers. -/
theorem directTransfersNeedMarkedSlots : Obligations.DirectTransfersNeedMarkedSlots := by
  refine ⟨⟨fun st d imm s v => ?long, fun c ty cond ne a b d imm s v => ?short⟩, fun st d imm s => ?longTrap,
    fun c ty cond ne a b d imm s => ?shortTrap⟩
  case long =>
    intro line slot hslot hline hmark
    exact ⟨fun hc => next_jump _ _ _ _ _ hc rfl (goDirect_marked hslot hline hmark),
      fun hc => next_jump _ _ _ _ _ hc rfl (congrArg (fun r => Res.map r _) (goDirect_marked hslot hline hmark))⟩
  case short =>
    intro line slot pc hslot hline hmark
    exact ⟨fun hc htaken => next_jump _ _ _ _ _ hc rfl ((if_pos htaken).trans (goDirect_marked hslot hline hmark)),
      fun hc htaken => next_jump _ _ _ _ _ hc rfl ((if_pos (brz_taken htaken)).trans (goDirect_marked hslot hline hmark)),
      fun hc htaken => next_jump _ _ _ _ _ hc rfl (congrArg (fun r => Res.map r _) ((if_pos htaken).trans (goDirect_marked hslot hline hmark)))⟩
  case longTrap =>
    intro line slot hbad
    exact ⟨fun hc => next_trap _ _ _ _ _ hc rfl (goDirect_unmarked hbad),
      fun hc => next_trap _ _ _ _ _ hc rfl (congrArg (fun r => Res.map r _) (goDirect_unmarked hbad))⟩
  case shortTrap =>
    intro line slot pc hbad
    exact ⟨fun hc htaken => next_trap _ _ _ _ _ hc rfl ((if_pos htaken).trans (goDirect_unmarked hbad)),
      fun hc htaken => next_trap _ _ _ _ _ hc rfl ((if_pos (brz_taken htaken)).trans (goDirect_unmarked hbad)),
      fun hc htaken => next_trap _ _ _ _ _ hc rfl (congrArg (fun r => Res.map r _) ((if_pos htaken).trans (goDirect_unmarked hbad)))⟩

/-- Settles O3: each transfer goes on or traps as its target answers. -/
theorem indirectTransfersNeedTheirPad : Obligations.IndirectTransfersNeedTheirPad := by
  intro c d a imm s t lands off other
  exact ⟨fun hc =>
    ⟨fun h => next_jump _ _ _ _ _ hc rfl (goIndirect_lands h), fun h => next_trap _ _ _ _ _ hc rfl (goIndirect_off h),
      fun h => next_trap _ _ _ _ _ hc rfl (goIndirect_other h), fun h => next_jump _ _ _ _ _ hc rfl (goIndirect_lands h),
      fun h => next_trap _ _ _ _ _ hc rfl (goIndirect_off h), fun h => next_trap _ _ _ _ _ hc rfl (goIndirect_other h)⟩,
    fun hc =>
    ⟨fun h => next_jump _ _ _ _ _ hc rfl (congrArg (fun r => Res.map r _) (goIndirect_lands h)),
      fun h => next_trap _ _ _ _ _ hc rfl (congrArg (fun r => Res.map r _) (goIndirect_off h)),
      fun h => next_trap _ _ _ _ _ hc rfl (congrArg (fun r => Res.map r _) (goIndirect_other h))⟩⟩

/-- Settles O5: every one of these instructions issues as one slot under the predicate of its control fields. -/
theorem falsePredicateSkips : Obligations.FalsePredicateSkips := by
  intro c ty cond d a b r sb imm sh v x e s hbusy hsound hwait hfalse
  refine fun i => (?_ : ∀ i ∈ _, exec i s = _) i
  repeat refine forall_mem_cons_of (next_skips hbusy hsound hwait hfalse) ?_
  exact List.forall_mem_nil _

end

section
-- System registers and TLBI without privilege (R291, R433).
namespace Sys2Proof.Machine

theorem sysCheck_none {num : BitVec 12} {s : State} (h : sysReg num.toNat = none) : sysCheck num s = some (.reservedCode, s.issue.slot) := by
  delta sysCheck
  exact h ▸ @rfl _ (some (Cause.reservedCode, s.issue.slot))

-- The numbers of the supervisor registers (R289) are looked at before the privilege.
theorem sysCheck_super {num : BitVec 12} {s : State}
    (h : num.toNat ∈ [0x010, 0x011, 0x012, 0x013, 0x014, 0x015, 0x016, 0x017, 0x020, 0x021]) (huser : s.priv s.ic s.ik = false) :
    sysCheck num s = some (.priv, num.toNat) := by
  have hlisted : ∀ n ∈ [0x010, 0x011, 0x012, 0x013, 0x014, 0x015, 0x016, 0x017, 0x020, 0x021], (sysReg n).any SysReg.super = true := by decide
  delta sysCheck
  exact ((Option.any_eq_true _ _).mp (hlisted _ h)).elim fun r hr => hr.1 ▸ if_pos (congrArg₂ and hr.2 (congrArg not huser))

end Sys2Proof.Machine

open Sys2Proof Sys2Proof.Machine

/-- Settles O33: the check of MFS and MTS looks at the number before the privilege, and TLBI's at the privilege alone. -/
theorem privilegedRegistersTrap : Obligations.PrivilegedRegistersTrap := by
  refine fun c d a num s => ⟨fun hnone => ⟨fun hc => ?_, fun hc => ?_⟩,
    fun hsuper huser => ⟨fun hc => ?_, fun hc => ?_⟩, fun huser => ⟨fun hc => ?_, fun hc => ?_⟩⟩
  · exact next_check _ _ _ _ _ hc (sysCheck_none hnone)
  · exact next_check _ _ _ _ _ hc (sysCheck_none hnone)
  · exact next_check _ _ _ _ _ hc (sysCheck_super hsuper huser)
  · exact next_check _ _ _ _ _ hc (sysCheck_super hsuper huser)
  · exact next_check _ _ _ _ _ hc (if_neg (ne_true_of_eq_false huser))
  · exact next_check _ _ _ _ _ hc (if_neg (ne_true_of_eq_false huser))

end

section
-- Shapes as a slot reads them (R239, R357).
namespace Sys2Proof.Machine

-- SHGET reads its shape as its slot reads registers: in the second slot of a pair as the shape stood before the first.
theorem exec_shget {c : Ctl} {field : BitVec 4} {d : SReg} {a : ShReg} {s : State} (hc : s.clear c.pred [.shape a] [.scal d] = true) :
    exec (.shget c field d a) s = .next (s.completes
      (s.result d (shapeField field.toNat ((s.asRead s.ic s.ik).readShape s.ic s.ik a)) 1) c.stall [.shape a]) :=
  next_ok _ _ _ _ hc rfl rfl

-- A shape register can change between the two slots of a pair. Here shape register 0 of the context, at 0x11C0, held 0 before the first slot and
-- holds 1 as the second issues.
theorem exists_paired_shget : ∃ s : State, s.clear (some (0, false)) [.shape 0] [.scal 3] = true
    ∧ s.completes (s.result 3 (shapeField 0 ((s.asRead s.ic s.ik).readShape s.ic s.ik 0)) 1) 0 [.shape 0]
      ≠ s.completes (s.result 3 (bits (s.readShape s.ic s.ik 0) 15 0) 1) 0 [.shape 0] :=
  ⟨{ stateBeforeAddToCsw with
      mem := [(spadKey 0 1 0x11C0, 1)], cores := [(0, { period := 336, active := 1, pair := some (0, 0), snap := [] })] },
    by decide, mt (congrArg fun u : State => (u.ctx 0 0).pend.map Pend.val) (by decide)⟩

end Sys2Proof.Machine

open Sys2Proof Sys2Proof.Machine

/-- Refutes O19: what SHGET gives is stated by the shape register as it now stands, but the second slot of a pair reads the registers as they stood
before the first slot (R239). Here the shape changed from 0 to 1 between the two, and SHGET of its first field gives 0. -/
theorem not_shapeRequestsAreGranted : ¬ Obligations.ShapeRequestsAreGranted := fun hall =>
  exists_paired_shget.elim fun s hs =>
    hs.2 (Host.Outcome.next.inj ((exec_shget (c := ⟨0, 0, false⟩) (field := 0) hs.1).symm.trans (hall.1.2.1 ⟨0, 0, false⟩ 0 3 0 s hs.1 (by decide))))

end

section
-- Loads and stores (R329 to R333).
namespace Sys2Proof.Machine

section
variable {s : State} {p : Pred} {stall : BitVec 4} {reads writes : List Dest} {pre : State → Option (Cause × Nat)} {body : State → Res} {n : Nat}
  (hc : s.clear p reads writes = true) (hp : pre s = none)
include hc hp

-- An unhindered load completes with its value, or waits for the bytes that others hold (R329).
theorem next_load {l : List Chunk} {fin : Finish} {f : State → Nat → State} {r : LoadAcc} (hb : body s = s.loadRes s.ic s.ik n l fin f)
    (hr : s.loadChunks s.ic s.ik n l { s := s, acc := 0, pieces := [], remote := false } = .done r) :
    (r.pieces = [] → nextState (s.issueSlot stall.toNat p reads writes pre body) = .next (s.completes (f r.s r.acc) stall reads))
    ∧ (r.pieces ≠ [] → nextState (s.issueSlot stall.toNat p reads writes pre body)
      = .next (s.waits r.s stall reads (.reply r.pieces r.acc fin r.remote r.todo))) :=
  ⟨fun h => next_ok _ _ _ _ hc hp (hb.trans (loadRes_done _ _ hr h)), fun h => next_hold _ _ _ _ _ hc hp (hb.trans (loadRes_wait _ _ hr h))⟩

-- An unhindered store whose parts pass their checks performs them (R329).
theorem next_store {l : List (Chunk × Nat)} {f : State → State} {t : State} {ws : List Write} (hb : body s = s.storeRes s.ic s.ik n l f)
    (h : s.storeCheck s.ic s.ik n l s [] = .done t ws) :
    nextState (s.issueSlot stall.toNat p reads writes pre body)
      = .next (s.completes (f (ws.foldl (fun u w => u.storeWrite s.ic s.ik w) t)) stall reads) :=
  next_ok _ _ _ _ hc hp (hb.trans (storeRes_done f h))

end

-- A load of which the destination and what is done with the value depend on a condition (R330).
theorem ite_loadRes {s : State} {c k n : Nat} {l : List Chunk} {x y : Finish} {f g : State → Nat → State} {p : Prop} [inst : Decidable p] :
    (if p then s.loadRes c k n l x f else s.loadRes c k n l y g) = s.loadRes c k n l (if p then x else y) fun t v => if p then f t v else g t v :=
  Decidable.casesOn inst (fun _ => rfl) fun _ => rfl

end Sys2Proof.Machine

open Sys2Proof Sys2Proof.Machine

/-- Settles O12: every load reads by the same operation, which is done or waits. -/
theorem loadsCompleteOrWait : Obligations.LoadsCompleteOrWait := by
  refine ⟨fun c ty d a b disp s r hc hctl hr => next_load hc hctl (f := fun t v => t.putVar t.ic t.ik d (ty.widen v) 1) rfl hr,
    fun c ty d p inc q s r => ?ldp,
    fun c ty d a sh x disp s r va => ?ldv, fun c ty d b a sh disp s r va => ?ldvg⟩
  case ldp =>
    intro a n hc hq hr walk
    refine next_load hc rfl (f := fun t v => walk (t.putVar t.ic t.ik d (ty.widen v) 1)) (.trans ?_ ite_loadRes) hr
    exact congrArg (fun o : Option Nat => match o with
      | none => walkTrap ty (s.rs a)
      | some q => if d = a then s.loadScalar ty d (ptrAddr (s.rs a)) (.scal d ty) id
        else s.loadScalar ty d (ptrAddr (s.rs a)) (.ptr d ty a q) fun u => u.putS u.ic u.ik a q 1) hq
  case ldv =>
    intro e m reads hc hea hcheck hr
    exact next_load hc hcheck (f := fun t v => t.putV t.ic t.ik d m v 1 false)
      (congrArg (fun ea => noElems ea e (s.loadVec ty d sh e (runChunks ty (eaVal ea) e))) hea) hr
  case ldvg =>
    intro e m reads hc hea hcheck hr
    refine next_load hc hcheck (f := fun t v => t.putV t.ic t.ik d m v 1 false) ?_ hr
    exact congrArg (fun ea => match badGather ty ea (gatherChunks ty (eaVal ea) (s.rv b) e) with
      | some r => r
      | none => s.loadVec ty d sh e (gatherChunks ty (eaVal ea) (s.rv b) e)) hea

/-- Settles O13: every store checks its parts by the same operation, then performs them. -/
theorem storesComplete : Obligations.StoresComplete := by
  refine ⟨fun c ty a b r disp s t l hc hctl h => next_store hc hctl (f := id) rfl h, fun c ty p inc r q s t l => ?stp,
    fun c ty d b a sh x disp s t l va hea => ⟨fun hc hcheck h => next_store hc hcheck (f := id)
        (congrArg (fun ea => noElems ea (s.memExtent sh ty 2048 x)
          (s.storeRes s.ic s.ik (elemAlign ty) ((runChunks ty (eaVal ea) (s.memExtent sh ty 2048 x)).map (chunkVal (s.rv d))) id)) hea) h,
      fun hc hcheck h => next_store hc hcheck (f := id) ?stvs h⟩⟩
  case stp =>
    intro a n u hc hq h
    refine next_store hc rfl (f := fun u => u.putS u.ic u.ik a q 1) ?_ h
    exact congrArg (fun o : Option Nat => match o with
      | none => walkTrap ty (s.rs a)
      | some q => s.storeScalar ty (ptrAddr (s.rs a)) (s.rs r) fun u => u.putS u.ic u.ik a q 1) hq
  case stvs =>
    exact congrArg (fun ea => match badGather ty ea (gatherChunks ty (eaVal ea) (s.rv b) (s.memExtent sh ty 64 none)) with
      | some r => r
      | none => s.storeRes s.ic s.ik (elemAlign ty)
        ((gatherChunks ty (eaVal ea) (s.rv b) (s.memExtent sh ty 64 none)).map (chunkVal (s.rv d))) id) hea

end

section
-- Vector instructions by their common form; reductions, scans, movement and transcendentals (R359, R366 to R368).
namespace Sys2Proof.Machine

section
variable {s : State} {c : Ctl} {ty : Ty} {sh : ShReg} {x : SReg} {r w : List Dest}

-- An unhindered vector instruction whose shape is accepted (R359, R360).
theorem vec_ok {body : State → Res} {u : State} (hshape : shapeUse s.ic (s.grant sh) [0] = true)
    (hc : s.clear none (predReads c.pred ++ r ++ [.shape sh] ++ extReads x) w = true) (hb : .ok u = body s) :
    nextState (s.issueVec c sh x r w body) = .next (s.completes u c.stall (predReads c.pred ++ r ++ [.shape sh] ++ extReads x)) :=
  next_ok _ _ _ _ hc (shapeCheck_ok hshape) hb.symm

-- An unhindered element-wise instruction gives each active element its result (R359, R360).
theorem vecOp_completes {d : VReg} {lat : Nat} {f : State → Nat → Nat} (hshape : shapeUse s.ic (s.grant sh) [0] = true)
    (hc : s.clear none (predReads c.pred ++ r ++ [.shape sh] ++ extReads x) [.vec d] = true) :
    nextState (s.vecOp c ty d sh x r lat f)
      = .next (s.completes (s.putElems sh d ty.width (s.extent sh ty.width x) lat (activeElems (s.maskOf c) ty.width (s.extent sh ty.width x) (f s)))
          c.stall (predReads c.pred ++ r ++ [.shape sh] ++ extReads x)) :=
  vec_ok hshape hc rfl

-- VMOVS puts a value where its element lies within the register and is active (R367).
theorem movs_within {i n : Nat} {b : Bool} (hi : i < n) (hb : b = true) : ¬(decide (n ≤ i) || !b) = true :=
  ne_true_of_eq_false (congrArg₂ (fun x y => x || !y) (decide_eq_false (Nat.not_le_of_lt hi)) hb)

end

end Sys2Proof.Machine

open Sys2Proof Sys2Proof.Machine

/-- Settles O22: every instruction by its own answer, VMOVS by whether its index lies within the register. -/
theorem vectorReductionAndMovement : Obligations.VectorReductionAndMovement := by
  refine ⟨fun c ty index mx dn ds as bs x d a b src sh s hshape => ?shaped, fun c ty d a b s => ?movs⟩
  case shaped =>
    intro e reads vals out
    refine ⟨fun hc => vec_ok hshape hc rfl, fun hc i v hbest => vec_ok hshape hc ?best,
      fun hc => ⟨vec_ok hshape hc rfl, vecOp_completes hshape hc, vecOp_completes hshape hc, vecOp_completes hshape hc, vecOp_completes hshape hc⟩,
      fun hc => vecOp_completes hshape hc, fun hc => vecOp_completes hshape hc, fun hc => vecOp_completes hshape hc, fun hc => vecOp_completes hshape hc⟩
    exact congrArg (fun v => Res.ok (s.putS s.ic s.ik ds v 4)) (congrArg (fun o : Option (Nat × XR) => match o with
        | some y => if index then y.1 else widenElem ty (elemResult ty none y.2)
        | none => if index then ones64 else if ty.isFloat then infPattern (fmtOf ty) false mx
          else widenElem ty (wrap ty.width (if mx then ty.lo else ty.hi))) hbest).symm
  case movs =>
    intro i w
    refine ⟨fun hc => ⟨fun hi hactive => next_ok _ _ _ _ hc rfl ((if_neg (Nat.not_le_of_lt hi)).trans (if_pos hactive)),
        fun hi => next_ok _ _ _ _ hc rfl (if_pos hi)⟩,
      fun hc => ⟨fun hi hactive => next_ok _ _ _ _ hc rfl ((if_neg (movs_within hi hactive)).trans
          (congrArg₂ (fun x y => Res.ok (s.putV s.ic s.ik a x y 4 true)) (Nat.shiftLeft_eq _ _) (Nat.shiftLeft_eq _ _))),
        fun hi => next_ok _ _ _ _ hc rfl (if_pos (Bool.or_inl (decide_eq_true hi)))⟩⟩

end

section
-- Vector comparison, selection and conversion (R364, R365).
namespace Sys2Proof.Machine

-- What VQNT writes where its scale is invalid (R365).
theorem invalid_scale {y : XR} (z : XR) : z.isZero = true ∨ z.isNan = true ∨ (∃ g, z = .inf g) →
    (match z with
      | .fin g r n k => if n = 0 then none else some (y.div (.fin g r n k))
      | .nan => none
      | .inf _ => none) = none :=
  XR.casesOn z (fun _h => rfl) (fun _g _h => rfl) fun _g _r _n _k h =>
    if_pos (h.elim eq_of_beq fun h => h.elim (fun h => Bool.noConfusion h) fun h => h.elim fun _g h => XR.noConfusion h)

-- An unhindered conversion writes pairs of elements or single ones (R365). The variables and abbreviations are those of the statement it serves.
theorem vecConv_completes (c : Ctl) (ty src : Ty) (_cond : Cond) (rm : Rm) (_dk _bs x : SReg) (d a _b : VReg) (_vb : VB) (sh : ShReg) (s : State)
    (hshape : shapeUse s.ic (s.grant sh) [0] = true) :
    let _e := s.extent sh ty.width x
    let e2 := s.extent sh (max ty.width src.width) x
    let reads (l : List Dest) : List Dest := predReads c.pred ++ l ++ [.shape sh] ++ extReads x
    let conv (real : Bool) (f : XR → Option XR) : State :=
      let y (i : Nat) : Option XR := f (elemAt src (s.rv a) i)
      if ty.isPacked then
        let pairs := (List.range (ceilDiv e2 2)).filterMap fun j => if activeAt (s.maskOf c) 4 (2 * j) then
          some (j, match y (2 * j) with | none => 0 | some z => pairByte ty rm s.mods real z (if 2 * j + 1 < e2 then y (2 * j + 1) else none)) else none
        let r := vecResult 0 8 0 true pairs
        s.putV s.ic s.ik d (r.1 ||| (if s.tailTu sh then 0 else tailMask (s.grant sh % 2 ^ 16) 4 (ceilDiv e2 2 * 8))) r.2 4 true
      else s.putElems sh d ty.width e2 4 ((List.range e2).filterMap fun i => if activeAt (s.maskOf c) ty.width i then
        some (i, match y i with | none => 0 | some z => finishAny ty rm s.mods real z) else none)
    ∀ {real : Bool} {more : List Dest} {f : State → XR → Option XR} {g : XR → Option XR}, (∀ y, f s y = g y) →
      s.clear none (reads (.vec a :: more)) [.vec d] = true →
      nextState (s.vecConv c ty src rm d a sh x more real f) = .next (s.completes (conv real g) c.stall (reads (.vec a :: more))) := by
  intro _e e2 reads conv real more f g hf hc
  exact (vec_ok (u := conv real (f s)) hshape hc (apply_ite Res.ok _ _ _)).trans
    (congrArg (fun g => Host.Outcome.next (s.completes (conv real g) c.stall (reads (.vec a :: more)))) (funext hf))

end Sys2Proof.Machine

open Sys2Proof Sys2Proof.Machine

/-- Settles O21: VCMP and VSEL by their own answers, the conversions by their common form, VQNT by what its scale is. -/
theorem vectorComparisonAndConversion : Obligations.VectorComparisonAndConversion := by
  intro c ty src cond rm dk bs x d a b vb sh s hshape e e2 reads conv
  refine ⟨fun hc => vec_ok hshape hc rfl, fun hc => vec_ok hshape hc rfl,
    fun hc => vecConv_completes c ty src cond rm dk bs x d a b vb sh s hshape (real := !intSource src) (g := some) (fun y => rfl) hc,
    fun hc => ⟨fun g r n k hscale hn =>
        vecConv_completes c ty src cond rm dk bs x d a b vb sh s hshape (real := true) (g := fun y => some (y.div (.fin g r n k))) (fun y => ?scaled) hc,
      fun hbad =>
        vecConv_completes c ty src cond rm dk bs x d a b vb sh s hshape (real := true) (g := fun y => none) (fun y => invalid_scale _ hbad) hc,
      fun hrm => (congrArg (fun r => nextState (s.vecConv c ty src r d a sh x [.scal bs] true
          fun t y => some (y.mul (decF .f32 (t.rs bs))))) hrm.symm).trans
        (vecConv_completes c ty src cond rm dk bs x d a b vb sh s hshape (g := fun y => some (y.mul (decF .f32 (s.rs bs)))) (fun y => rfl) hc)⟩⟩
  case scaled =>
    exact (congrArg (fun z : XR => match z with
      | .fin g r n k => if n = 0 then none else some (y.div (.fin g r n k))
      | .nan => none
      | .inf _ => none) hscale).trans (if_neg hn)

end

section
-- Selection and bit fields (R313, R315).
namespace Sys2Proof.Machine

-- An integer is decoded from the low bits that its type takes.
theorem decI_mod_width (ty : Ty) (n : Nat) : decI ty (n % 2 ^ ty.width) = decI ty n :=
  congrArg₂ (fun x (y : Nat) => if ty.signed then x else (y : Int)) (sval_mod ty.width n) (Nat.mod_mod n _)

-- The shared operation of the binary integer instructions, by the value that theirs has on the low bits of their sources (R312).
theorem intBin_completes {s : State} {c : Ctl} {ty : Ty} {d a : SReg} {b : SrcB} {lat v : Nat} {f : State → Nat → Nat → Nat}
    (hv : f s (s.rs a % 2 ^ ty.width) (s.srcB b % 2 ^ ty.width) = v) (hc : s.clear c.pred (.scal a :: SrcBReads b) [.scal d] = true) :
    nextState (s.intBin c ty d a b lat f) = .next (s.completes (s.result d v lat) c.stall (.scal a :: SrcBReads b)) :=
  next_ok _ _ _ _ hc rfl (congrArg (fun v => Res.ok (s.result d v lat)) hv)

-- No type is an integer and a float.
theorem int_and_float (ty : Ty) : (ty.isInt && ty.isFloat) = false :=
  Ty.casesOn (motive := fun ty => (ty.isInt && ty.isFloat) = false) ty
    (@rfl _ false) (@rfl _ false) (@rfl _ false) (@rfl _ false) (@rfl _ false) (@rfl _ false) (@rfl _ false)
    (@rfl _ false) (@rfl _ false) (@rfl _ false) (@rfl _ false) (@rfl _ false) (@rfl _ false) (@rfl _ false)

theorem opMinMax_int {ty : Ty} (h : ty.isInt = true) (m : Option ModWord) (mx : Bool) (a b : Nat) :
    opMinMax ty m mx (a % 2 ^ ty.width) (b % 2 ^ ty.width)
      = ty.widen (finishI ty .rne m (XR.ofInt (if mx then max (decI ty a) (decI ty b) else min (decI ty a) (decI ty b)))) :=
  (if_neg fun hf => Bool.false_ne_true ((int_and_float ty).symm.trans (congrArg₂ and h hf))).trans
    (congrArg₂ (fun x y => arithI ty m (if mx then max x y else min x y)) (decI_mod_width ty a) (decI_mod_width ty b))

-- The length of a field from a place on, as it stands in the bounds of the field.
theorem field_width {pos : BitVec 6} {len : BitVec 7} (h : fieldOk pos len = true) : pos.toNat + len.toNat - 1 + 1 - pos.toNat = len.toNat :=
  (congrArg (fun k => k - pos.toNat) (Nat.sub_add_cancel (Nat.le_add_left_of_le (of_decide_eq_true h).1))).trans (Nat.add_sub_cancel_left _ _)

end Sys2Proof.Machine

open Sys2Proof Sys2Proof.Machine

/-- Settles O9: MIN and MAX by their shared operation, the fields by their places, which no field of length 0 has. -/
theorem selectionAndFields : Obligations.SelectionAndFields := by
  refine ⟨fun c ty cond d a b s hint hc => ?ints, fun c d a b r s hc => next_ok _ _ _ _ hc rfl rfl,
    fun st d imm s hc => next_ok _ _ _ _ hc rfl rfl, fun c sx d a b pos len s hfield => ?fields⟩
  case ints =>
    intro x y put
    exact ⟨intBin_completes (opMinMax_int hint s.mods false _ _) hc, intBin_completes (opMinMax_int hint s.mods true _ _) hc,
      intBin_completes (congrArg₂ (fun x y => if condI cond x y then 1 else 0) (decI_mod_width _ _) (decI_mod_width _ _)) hc⟩
  case fields =>
    intro f
    exact ⟨fun hc => next_ok _ _ _ _ hc rfl (congrArg (fun v => Res.ok (s.result d (if sx then wrap 64 (sval len.toNat v) else v) 1))
        (congrArg (fun w => s.rs a / 2 ^ pos.toNat % 2 ^ w) (field_width hfield))),
      fun hc => next_ok _ _ _ _ hc rfl (congrArg
        (fun w => Res.ok (s.result d (s.rs b - s.rs b / 2 ^ pos.toNat % 2 ^ w * 2 ^ pos.toNat + s.rs a % 2 ^ w * 2 ^ pos.toNat) 1))
        (field_width hfield))⟩

end

section
-- Integer arithmetic and how its results are finished (R253, R312, R313).
namespace Sys2Proof.Machine

-- The decoded integer of a number agrees with it up to the width of its type.
theorem decI_emod (ty : Ty) (n : Nat) : decI ty n % ((2 ^ ty.width : Nat) : Int) = (n : Int) % ((2 ^ ty.width : Nat) : Int) :=
  iteInduction (motive := fun x => x % ((2 ^ ty.width : Nat) : Int) = (n : Int) % ((2 ^ ty.width : Nat) : Int))
    (fun _h => iteInduction (motive := fun x => x % ((2 ^ ty.width : Nat) : Int) = (n : Int) % ((2 ^ ty.width : Nat) : Int))
      (fun _h => Int.emod_emod n ((2 ^ ty.width : Nat) : Int))
      fun _h => (Int.sub_emod_right _ _).trans (Int.emod_emod n ((2 ^ ty.width : Nat) : Int)))
    fun _h => Int.emod_emod n ((2 ^ ty.width : Nat) : Int)

-- An integer is rounded to itself.
theorem rndI_ofInt (v : Int) : rndI .rne (XR.ofInt v) = v := by
  have hdouble : v.natAbs * 2 ^ 1 / 1 = v.natAbs * 2 := Nat.div_one _
  have hunits : roundUnits .rne (decide (v < 0)) false v.natAbs 1 0 = v.natAbs :=
    (if_neg fun h => Nat.zero_ne_one (((congrArg (fun k => k % 2) hdouble).trans (Nat.mul_mod_left _ _)).symm.trans
      (eq_of_beq (Bool.and_elim_left h)))).trans ((congrArg (fun k => k / 2) hdouble).trans (Nat.mul_div_cancel _ Nat.two_pos))
  exact (congrArg (fun u : Nat => if decide (v < 0) then -(u : Int) else u) hunits).trans (iteInduction (motive := fun x => x = v)
    (fun h => (congrArg (fun x => -x) (Int.ofNat_natAbs_of_nonpos (Int.le_of_lt (of_decide_eq_true h)))).trans (Int.neg_neg v))
    fun h => Int.natAbs_of_nonneg (Int.not_lt.mp (mt decide_eq_true h)))

-- Without modifiers an integer result wraps (R253).
theorem finishI_wraps (ty : Ty) (v : Int) : finishI ty .rne none (XR.ofInt v) = wrap ty.width v :=
  (congrArg (fun x => wrap ty.width (decI ty (wrap ty.width x))) (rndI_ofInt v)).trans
    (congrArg Int.toNat ((decI_emod ty _).trans ((congrArg (fun x => x % ((2 ^ ty.width : Nat) : Int))
      (Int.toNat_of_nonneg (Int.emod_nonneg v (Int.natCast_ne_zero.mpr (Nat.two_pow_pos _).ne')))).trans (Int.emod_emod v _))))

theorem lo_le_hi (ty : Ty) : ty.lo ≤ ty.hi :=
  of_decide_eq_true (Ty.casesOn (motive := fun ty => decide (ty.lo ≤ ty.hi) = true) ty
      (@rfl Bool true) (@rfl Bool true) (@rfl Bool true) (@rfl Bool true) (@rfl Bool true) (@rfl Bool true) (@rfl Bool true)
      (@rfl Bool true) (@rfl Bool true) (@rfl Bool true) (@rfl Bool true) (@rfl Bool true) (@rfl Bool true) (@rfl Bool true))

-- SAT clamps an integer result to the range of its type (R312).
theorem finishI_saturates (ty : Ty) (v : Int) :
    finishI ty .rne (some { sat := true, neg := false, abs := false, scl := false, clmp := false, e := 0, clo := 0, chi := 0 }) (XR.ofInt v)
      = wrap ty.width (max (min v ty.hi) ty.lo) :=
  (congrArg (fun x => wrap ty.width (clampI x ty.lo ty.hi)) (rndI_ofInt v)).trans (congrArg (wrap ty.width)
    ((max_min_distrib_right v ty.hi ty.lo).trans (congrArg (min (max v ty.lo)) (max_eq_left (lo_le_hi ty)))).symm)

end Sys2Proof.Machine

open Sys2Proof Sys2Proof.Machine

/-- Settles O6: each result is that of the low bits of its sources, which decode to the same integers as the sources. -/
theorem integerArithmetic : Obligations.IntegerArithmetic := by
  refine ⟨fun c ty d a b s hint hc => ?results, fun ty v h => ⟨finishI_wraps ty v, finishI_saturates ty v⟩⟩
  intro x y fin put
  exact ⟨intBin_completes (congrArg₂ (fun x y => fin (x + y)) (decI_mod_width _ _) (decI_mod_width _ _)) hc,
    intBin_completes (congrArg₂ (fun x y => fin (x - y)) (decI_mod_width _ _) (decI_mod_width _ _)) hc,
    intBin_completes (congrArg₂ (fun x y => fin (x * y)) (decI_mod_width _ _) (decI_mod_width _ _)) hc,
    intBin_completes ((congrArg₂ (fun x y => arithI ty none (x * y / ((2 ^ ty.width : Nat) : Int))) (decI_mod_width _ _) (decI_mod_width _ _)).trans
      (congrArg ty.widen (finishI_wraps ty _))) hc⟩

end

end
